-- ==== Sys2Proof/Word.lean ====
section
/-! DEFINITION. The word types of the Tilmund (R3, R145) and the canonical sparse table that memory,
registers and every other large store of the machine are held in. -/

namespace Sys2Proof

/-- One byte of memory (R3: the smallest addressable unit). -/
abbrev Byte := BitVec 8

/-- One 32-bit register lane, scalar register or code word (R123, R276). -/
abbrev Word := BitVec 32

/-- A 64-bit address or counter value (R27, R177, R223). -/
abbrev DWord := BitVec 64

/-- A sparse store: pairs (key, value) with keys strictly rising and no value equal to the default,
which is what an unlisted key reads as. -/
abbrev Table (α : Type) := List (Nat × α)

/-- The value at key `k`; an unlisted key reads as `d`. -/
def Table.get {α : Type} (d : α) : Table α → Nat → α
  | [], _ => d
  | (j, v) :: t, k => if k = j then v else Table.get d t k

/-- A table without any entry of key `k`. -/
def Table.drop {α : Type} (k : Nat) : Table α → Table α
  | [] => []
  | (j, v) :: t => if j = k then Table.drop k t else (j, v) :: Table.drop k t

/-- Write `v` at key `k`, keeping the canonical form: writing the default removes the entry. -/
def Table.set {α : Type} [DecidableEq α] (d : α) : Table α → Nat → α → Table α
  | [], k, v => if v = d then [] else [(k, v)]
  | (j, u) :: t, k, v =>
    if k < j then (if v = d then (j, u) :: Table.drop k t else (k, v) :: (j, u) :: t)
    else if k = j then (if v = d then Table.drop k t else (k, v) :: t)
    else (j, u) :: Table.set d t k v

/-- Change the value at key `k` by `f`. -/
def Table.update {α : Type} [DecidableEq α] (d : α) (t : Table α) (k : Nat) (f : α → α) : Table α :=
  t.set d k (f (t.get d k))

/-- The canonical form: keys strictly rising, no entry equal to the default. `lo` is a lower bound
of the keys still to come. -/
def Table.wfFrom {α : Type} [DecidableEq α] (d : α) : Nat → Table α → Bool
  | _, [] => true
  | lo, (k, v) :: t => decide (lo ≤ k) && decide (v ≠ d) && Table.wfFrom d (k + 1) t

/-- The canonical form of a table. -/
def Table.wf {α : Type} [DecidableEq α] (d : α) (t : Table α) : Bool := Table.wfFrom d 0 t

/-- The element at index `i` of a list, or `d` beyond its end. -/
def nth {α : Type} (d : α) : List α → Nat → α
  | [], _ => d
  | x :: _, 0 => x
  | _ :: t, i + 1 => nth d t i

/-- Replace the element at index `i`; a list too short is left as it is. -/
def setNth {α : Type} : List α → Nat → α → List α
  | [], _, _ => []
  | _ :: t, 0, v => v :: t
  | x :: t, i + 1, v => x :: setNth t i v

/-- The list 0, 1, …, n − 1. -/
def upto (n : Nat) : List Nat := List.range n

/-- Bit `i` of a natural number. -/
def bitOf (x i : Nat) : Bool := (x >>> i) % 2 == 1

/-- Bits [hi:lo] of a natural number (R3). -/
def bitsOf (x hi lo : Nat) : Nat := (x >>> lo) % 2 ^ (hi + 1 - lo)

end Sys2Proof
end

