-- ==== Sys2Proof/Config.lean ====
section
/-! DEFINITION. What an implementation fixes: the constants of the manual, and the free values, which
have no body, so that no proof can see what they are. -/

namespace Sys2Proof.Config

/-- Values the manual leaves undefined, one per draw of the counter `State.fresh` (R108, R113, R226). -/
opaque freeWord : Nat → Word
/-- Undefined bytes (R108, R433), one per draw. -/
opaque freeByte : Nat → Byte
/-- A choice the device makes among alternatives that the manual allows (R12, R36, R385). -/
opaque freeChoice : Nat → Bool
/-- Whether an ML-DSA-65 signature over a message verifies under the key that a hash names (R72, R272). -/
opaque signatureValid : (key : Nat) → (message signature : List Byte) → Bool
/-- The ML-DSA-65 signature of the device over a report (R71, R75): 3,309 bytes. -/
opaque sign : List Byte → List Byte
/-- The identity block's constant contents by offset (R71): serial, public key and certificate chain. -/
opaque identityByte : Nat → Byte
/-- A new 32-byte debug challenge per draw (R272). -/
opaque challenge : Nat → List Byte
/-- The CRC-32C-protected saved-state layout of a checkpoint record (R118): its bytes are the device's own. -/
opaque checkpointBody : (task gang : Nat) → (generation : Nat) → List Byte
/-- How many entries a program laid out in the liveness table at an address (R113): the manual gives the device no way to tell. -/
opaque liveEntries : (table : Nat) → Nat
/-- A choice of the caches among what the manual allows, one per draw of `Caches.picks` (R186, R190). -/
opaque cachePick : Nat → Nat
/-- Where firmware keeps the fault records (R254): the manual names firmware-reserved memory and gives no address. -/
def recordBase : Nat := 0x01FFFFFFFFB00000
/-- The residual that CVTR writes where the source format does not hold the exact one (R172): the manual calls it exact and states
no code; by the source format's widths, the source code and the narrowed code. -/
opaque residual : (ebits fbits source narrowed : Nat) → Nat
/-- What a byte of another endpoint's memory reads as at a device time (R32): the model holds this package
alone. -/
opaque remoteByte : (now pkg off : Nat) → Byte
/-- What a software timeline of another package reads at a device time (R416). -/
opaque remoteCount : (now pkg ctx index : Nat) → Nat
/-- Which of `n` links carries the traffic to a 4 KiB page of a destination (R34): the manual names a hash and does not give
it. -/
opaque linkHash : (dest page n : Nat) → Nat
/-- The 16 bytes of a transaction header, or the payload of a fence notice, that carry some numbers (R25): the manual gives
their place and not their layout. -/
opaque headerOf : (fields : List Nat) → List Byte
/-- The numbers that a received transaction header, or a fence notice's payload, carries (R25). -/
opaque headerFields : List Byte → List Nat
/-- The entry address of the resident handler (R253). -/
def residentEntry : Nat := 0
/-- Management-space offsets that the capability list names (R22): the manual gives the list and leaves
the offsets to it. -/
def startStatusOffset : Nat := 0x1000
/-- See `startStatusOffset`. -/
def startCtrlOffset : Nat := 0x1004
/-- See `startStatusOffset`. -/
def clusterMaskOffset : Nat := 0x1100
/-- See `startStatusOffset`. -/
def sensorBlockOffset : Nat := 0x1200
/-- See `startStatusOffset`. -/
def apertureOffset : Nat := 0x100000
/-- See `startStatusOffset`. -/
def identityOffset : Nat := 0x200000
/-- See `startStatusOffset`. -/
def expertOffset : Nat := 0x300000
/-- See `startStatusOffset`. -/
def recoveryOffset : Nat := 0x1000000
/-- Numbers of the dies, clusters, cores, links and ports of a package (R10). -/
def clusters : Nat := 128

end Sys2Proof.Config
end

