-- ==== Sys2Proof/Syntax.lean ====
section
/-! DEFINITION. The instructions of the Melxo architecture and the steps of the device (spec/opcode_table.json):
one constructor per row. -/

namespace Sys2Proof

/-- A field that names a general register (R287). `rsv` holds the reserved codes 0xF7–0xFD and 0xFF. -/
inductive Opd where
  | v (n : Nat)
  | s (n : Nat)
  | zero
  | lane
  | slice
  | wave
  | group
  | gang
  | pass
  | lit
  | rsv (c : Nat)
deriving DecidableEq, Repr

/-- A predicate field (R291): index, negate bit, and the bits above, which a legal field holds zero. -/
structure PredF where
  idx : Nat
  neg : Bool
  rest : Nat
deriving DecidableEq, Repr

/-- Which instruction stream a path belongs to (R123): wave `w` of a gang (group · waves + wave), the
gang's caster thread, or the handler wave of a core of the package. -/
inductive WaveRef where
  | user (task gang w : Nat)
  | caster (task gang : Nat)
  | handler (core : Nat)
deriving DecidableEq, Repr

/-- A string of bytes, lowest address first. -/
abbrev Bytes := List Byte
/-- A list of numbers. -/
abbrev Nats := List Nat

/-- What a start finds and what the host supplies at step 0x05 (R16, R17, R27, R49): bit d of a die
mask and of the mask of memory-side caches, bit b of the bridge mask (0–1, 0–2, 1–3, 2–3), bit c of the cluster mask, bit n
of the link mask, bit p of a port mask; the width of each port's link in lanes. -/
structure StartInput where
  lifecycle : Nat := 2
  firmware : Bytes := []
  fusedMin : Nat := 0
  dieTrained : Nat := 0xF
  dieRetained : Nat := 0xF
  clusterOk : Nat := 2 ^ 128 - 1
  cacheOk : Nat := 0xF
  bridgeOk : Nat := 0xF
  linkOk : Nat := 0xFFF
  cxlOk : Nat := 0
  cxlRetained : Nat := 0
  cxlWidth : Nats := [16, 16, 16, 16]
  cxlCapacity : Nats := [0, 0, 0, 0]
  ownId : Nat := 0
  hosts : Nats := []
  packages : Nats := []
  privileged : Nats := []
  dram : Nats := []
  junction : Nats := []
deriving DecidableEq, Repr

/-- One access that another endpoint makes at its home on this package (R32). -/
inductive RemoteAccess where
  | load (off n : Nat)
  | store (off : Nat) (data : Bytes)
  | atomic (off : Nat) (op w : Nat) (signed : Bool) (operand : Nat)
  /-- a cell in two pages of the package lies in two parts: the bytes of the first, and the offset of the rest -/
  | axsum (off : Nat) (second : Option (Nat × Nat)) (sum : BitVec 320) (anchor tag : BitVec 16)
  /-- ACQV (0), RELV (1) or VSTAT (2) of a task of a context here, with ACQV's minimum grade or RELV's version (R423) -/
  | version (what ctx task x : Nat)
deriving DecidableEq, Repr

/-- What a fence notice names (R35, R36). -/
inductive FenceTarget where
  | link (pkg n : Nat)
  | die (pkg d : Nat)
  | package (pkg : Nat)
deriving DecidableEq, Repr

/-- What the patrol scrub finds in a line (R206). -/
inductive ScrubOutcome where
  | clean
  | corrected
  | uncorrectable
  /-- the scrub issues no read: the window before had too much demand traffic (R207) -/
  | yielded
deriving DecidableEq, Repr

/-- How an expander completes an access (R39, R41, R42): performed, failed, or with poisoned data. -/
inductive CxlOutcome where
  | done
  | failed
  | poisoned
deriving DecidableEq, Repr

/-- What a CXL port answers to an operation's accesses to it (R39, R41). -/
structure CxlReply where
  port : Nat
  outcome : CxlOutcome
deriving DecidableEq, Repr

/-- What another endpoint answers to a request (R28, R33): a status, 0 where the access is performed, and a load's data. -/
structure RemoteReply where
  status : Nat
  data : Bytes
deriving DecidableEq, Repr

/-- A register class that can come to hold an uncorrectable error (R123, R257). -/
inductive RegClass where
  | vector
  | scalar
  | exactSum
deriving DecidableEq, Repr

/-- One constructor per row of spec/opcode_table.json: 180 instruction words (their fields as the entry
tables of R306, R331, R352, R375, R392, R408 and R422 name them) and 96 steps of the device itself. -/
inductive Instr where
  /-- POWER_ON (R16): Power-on begins a cold start that runs the start steps 0x01 to 0x07 in order. -/
  | powerOn (r : StartInput)
  /-- COLD_START (R20): A privileged START_CTRL write with COLD = 1 requests a cold start, as at power-on. -/
  | coldStart (ep : Nat) (r : StartInput)
  /-- WARM_START (R20): A privileged START_CTRL write with WARM = 1 clears READY, kills every task, destroys the unretained contexts and runs the start steps with WARM = 1. -/
  | warmStart (ep : Nat) (bist : Bool) (r : StartInput)
  /-- FENCED_DIE_COOLED (R20): A pending warm start begins step 0x01 once every sensor of the fenced die reads 95 degrees C or below. -/
  | fencedDieCooled (r : StartInput)
  /-- RECOVERY_WINDOW_WRITE (R73): A privileged host writes 8 to 64 bytes of a firmware image into the recovery window, accepted only while ERR = 0x02. -/
  | recoveryWindowWrite (ep : Nat) (off : Nat) (data : Bytes)
  /-- RECOVER (R73): A FW_CTRL write of RECOVER = 1 starts the check of the image held in the recovery window. -/
  | recover (ep : Nat)
  /-- RECOVERY_CHECK_DONE (R73): The recovery check ends: RESULT is set, and on success the image is stored and a cold start runs. -/
  | recoveryCheckDone (r : StartInput)
  /-- MINUP (R73): A FW_CTRL write of MINUP = 1 raises the fused minimum security version to the running version. -/
  | minup (ep : Nat)
  /-- GO (R74): An ATT_CTRL write of GO = 1 starts an attestation report for CTX, or sets ERRC while BUSY. -/
  | attGo (ep : Nat) (ctx : Nat)
  /-- TOKEN_CHECK (R272): A write of 1 to bit 0 of DBG_CTRL checks the debug token, then opens its features or refuses it. -/
  | tokenCheck (ep : Nat)
  /-- TLBINV (R187): A write of TLBINV starts the invalidation of the named translations in every TLB of the device. -/
  | tlbinv (ep : Nat) (v : DWord)
  /-- ROUTE_TABLE_WRITE (R44): An expert-level write to a route table entry takes effect once the outstanding requests to that destination are acknowledged. -/
  | routeTableWrite (ep : Nat) (id : Nat) (mask : Nat)
  /-- TEST_REQUEST (R102): A privileged write of REQ = 1 begins an in-field test attempt on the cluster now. -/
  | testRequest (ep : Nat) (c : Nat)
  /-- REGISTER_WRITE (R30): A host or privileged write to a management register with no row of its own is checked and performed or refused with its status. -/
  | registerWrite (ep : Nat) (off : Nat) (size : Nat) (v : DWord)
  /-- STAGING_WRITE (R46): A non-posted write stores 8 to 64 bytes of a command packet in the writer's staging area of a window. -/
  | stagingWrite (ep : Nat) (win : Nat) (off : Nat) (data : Bytes)
  /-- HOST_LAUNCH (R56): A committed LAUNCH packet is checked and entered into its queue as a pending task. -/
  | hostLaunch (ep : Nat) (win : Nat) (len : Nat)
  /-- GRAPH (R55): A committed GRAPH packet is checked and entered into its queue to submit a runner graph. -/
  | hostGraph (ep : Nat) (win : Nat) (len : Nat)
  /-- SIGNAL (R53): A committed SIGNAL packet takes the next number of a software timeline, or with RESET clears the timeline and its fence. -/
  | hostSignal (ep : Nat) (win : Nat) (len : Nat)
  /-- WAIT (R54): A committed WAIT packet holds its queue until the timeline reaches the value, then acts as an acquire for the later packets. -/
  | hostWait (ep : Nat) (win : Nat) (len : Nat)
  /-- CREATE (R67): A CONTEXT CREATE brings the context into existence with its owner, tenant, flags and page-table root. -/
  | create (ep : Nat) (win : Nat) (len : Nat)
  /-- DESTROY (R67): A CONTEXT DESTROY abandons the context's packets, kills its tasks, revokes its ingots, scrubs its resources and removes it. -/
  | destroy (ep : Nat) (win : Nat) (len : Nat)
  /-- BIND (R67): A CONTEXT BIND ties a queue to the context with a priority class and a weight. -/
  | bindQueue (ep : Nat) (win : Nat) (len : Nat)
  /-- UNBIND (R67): A CONTEXT UNBIND releases a queue and abandons the packets pending in it. -/
  | unbindQueue (ep : Nat) (win : Nat) (len : Nat)
  /-- QUOTA (R68): A QUOTA command sets the context's per-cluster and per-package ingot plane quotas. -/
  | quota (ep : Nat) (win : Nat) (len : Nat)
  /-- LIMITS (R69): A LIMITS command sets the context's expert flags and its time and energy ceilings. -/
  | limits (ep : Nat) (win : Nat) (len : Nat)
  /-- HALT (R267): A monitor HALT message halts the named target and replies with the count of paths newly halted. -/
  | monHalt (ep : Nat) (win : Nat) (len : Nat)
  /-- RESUME (R267): A monitor RESUME message applies a HOLD disposition and lifts the halt. -/
  | monResume (ep : Nat) (win : Nat) (len : Nat)
  /-- STEP (R267): A monitor STEP message executes one instruction of a halted path and replies with its new PC. -/
  | monStep (ep : Nat) (win : Nat) (len : Nat)
  /-- READREG (R267): A monitor READREG message reads registers of a halted target with their poison bits. -/
  | monReadreg (ep : Nat) (win : Nat) (len : Nat)
  /-- WRITEREG (R267): A monitor WRITEREG message writes registers of a halted target and clears their poison. -/
  | monWritereg (ep : Nat) (win : Nat) (len : Nat)
  /-- READMEM (R267): A monitor READMEM message reads up to 32 bytes through the context's translation and returns any fault in the reply. -/
  | monReadmem (ep : Nat) (win : Nat) (len : Nat)
  /-- SETBP (R267): A monitor SETBP message sets or clears a breakpoint slot on a word address. -/
  | monSetbp (ep : Nat) (win : Nat) (len : Nat)
  /-- DUMP (R462): A monitor DUMP message drains the gang's ladle queues and writes the dump header and sections of a halted path. -/
  | monDump (ep : Nat) (win : Nat) (len : Nat)
  /-- OPEN (R267): A monitor OPEN message opens a session with an event ring for the context. -/
  | monOpen (ep : Nat) (win : Nat) (len : Nat)
  /-- CLOSE (R267): A monitor CLOSE message closes the context's session. -/
  | monClose (ep : Nat) (win : Nat) (len : Nat)
  /-- PACKET_START (R51): A pending packet starts at its turn, when the one before has started and, under ORDERED, completed. -/
  | packetStart (q : Nat)
  /-- PREEMPTION_POINT_SAVE (R111): Once every wave of the gang has stopped at a PP clause and its operations have completed, the gang is saved by its liveness entries. -/
  | preemptionPointSave (t : Nat) (g : Nat)
  /-- FORCED_FULL_SAVE (R112): A gang not saved within 20 microseconds of being chosen is stopped at its next instruction boundaries and saved in full. -/
  | forcedFullSave (t : Nat) (g : Nat)
  /-- GANG_RETIRE (R79): A gang whose waves and caster thread have ended and whose issued operations have completed is retired, and its task completes once all gangs are retired. -/
  | gangRetire (t : Nat) (g : Nat)
  /-- NODE_START (R89): The runner starts a READY node in queue order and marks it RUNNING. -/
  | nodeStart (q : Nat)
  /-- NODE_COMPLETE (R89): A node completes: its successors are decremented and those reaching 0 are made READY, or on failure the graph fails. -/
  | nodeComplete (q : Nat) (node : Nat)
  /-- SLOT_PREDICTION (R94): At the basic level the allocator publishes or withdraws a predicted bubble slot from the observed idle intervals. -/
  | slotPrediction (c : Nat) (start : Nat) (len : Nat)
  /-- SENSOR_SAMPLE (R11): Every 100 microseconds the sensors are sampled and TEMP, the allowance and the refresh band follow. -/
  | sensorSample (dram : Nats) (junction : Nats)
  /-- REFRESH_COMMAND (R12): A die's refresh command is issued at the interval of its band, and a band change takes effect there. -/
  | refreshCommand (d : Nat)
  /-- DIE_FENCE (R13): Within 10 microseconds of a sample above 105 degrees C the die is fenced, its tasks killed, its timelines fenced and its DRAM put in self-refresh. -/
  | dieFence (d : Nat)
  /-- POWER_LIMIT (R15): When package power over a 1 ms window exceeds 4.4 kW, firmware lowers the allowance of the hottest clusters. -/
  | powerLimit (watts : Nat) (n : Nat) (term : Nat)
  /-- TEST_ATTEMPT (R99): At the test interval or after a deferral, an attempt closes the cluster and migrates its gangs away. -/
  | testAttempt (c : Nat)
  /-- TEST_COMPLETE (R99): The 3 ms test ends and the cluster reopens, or is cleared from the cluster mask on failure. -/
  | testComplete (c : Nat) (pass : Bool)
  /-- ENERGY_SAMPLE (R105): Every microsecond the task's energy is sampled, and reaching the limit starts a quench. -/
  | energySample (t : Nat) (uj : Nat)
  /-- QUENCH_COMPLETE (R107): Once the task's writes are performed, the open slot is freed, the gangs retire and the task completes QUENCHED. -/
  | quenchComplete (t : Nat)
  /-- STEP_TOKEN (R233): A crucible step's completion token returns, its sum enters the bank and the next descriptor is taken. -/
  | stepToken (c : Nat) (k : Nat)
  /-- CRUCIBLE_STOP (R237): A stop request removes the queued step descriptors and the sequencer saves the step index at the quiescent point. -/
  | crucibleStop (t : Nat) (g : Nat)
  /-- INGOT_RELOAD (R243): An MMA's check finds its ingot COLD or STALE under reload and reloads it from the recorded source through the ladle. -/
  | ingotReload (t : Nat) (g : Nat)
  /-- INGOT_LOAD_COMPLETE (R241): The last line of an ingot load is written and checked, and the ingot becomes RESIDENT or STALE. -/
  | ingotLoadComplete (ctx : Nat) (idx : Nat)
  /-- LADLE_OP_BEGIN (R246): A queued ladle operation begins in queue order, with at most 4 in progress, reading its shape slot. -/
  | ladleOpBegin (t : Nat) (g : Nat) (grp : Nat)
  /-- LADLE_OP_PERFORMED (R246): A ladle operation is performed at device scope: its mould moves FILLING to FULL and its timeline number is reached. -/
  | ladleOpPerformed (t : Nat) (g : Nat) (grp : Nat) (n : Nat)
  /-- OPERATION_COMPLETE (R282): A flagged operation completes, writes its result, and its flag clears when every operation assigned to it has completed. -/
  | operationComplete (id : Nat)
  /-- PAGE_WALK (R186): A TLB miss is served by a shared page-table walk that caches the translation or raises its fault. -/
  | pageWalk (c : Nat) (ctx : Nat) (va : DWord)
  /-- FETCH_LINE_RETURN (R277): A fetch line returns to the path's fetch buffer and its VER is checked. -/
  | fetchLineReturn (w : WaveRef) (p : Nat)
  /-- REMOTE_REQUEST (R32): A remote load, store or atomic is performed at the home in the memory-side cache of the owning die. -/
  | remoteRequest (src : Nat) (req : RemoteAccess)
  /-- REMOTE_ACKNOWLEDGEMENT (R33): A remote access's acknowledgement returns and the access is performed at fabric scope. -/
  | remoteAcknowledgement (id : Nat) (reply : RemoteReply)
  /-- CXL_COMPLETION (R41): The expander's completion returns and the CXL store is performed at device scope. -/
  | cxlCompletion (id : Nat) (reply : CxlReply)
  /-- TRANSACTION_FLIT (R25): A transaction flit is received, checked by CRC and sequence, and its transactions are delivered. -/
  | transactionFlit (link : Nat) (flit : Bytes)
  /-- IDLE_FLIT (R26): An idle sender emits an idle flit at least every microsecond. -/
  | idleFlit (link : Nat)
  /-- FLIT_RESEND_REQUEST (R26): A receiver's resend request makes the sender resend from the first missing flit in original order. -/
  | flitResendRequest (link : Nat) (seq : Nat)
  /-- FENCE_NOTICE (R36): A received fence notice fences the named link, die or package at the receiver. -/
  | fenceNotice (target : FenceTarget)
  /-- RETRAIN_REQUEST (R26): A received retrain request starts a retrain of the link. -/
  | retrainRequest (link : Nat)
  /-- LINK_IDLE_TIMEOUT (R26): No valid flit for 20 microseconds, or 16 CRC failures of one flit, starts a retrain of the link. -/
  | linkIdleTimeout (link : Nat)
  /-- RETRAIN_COMPLETE (R26): A link retrain completes and the link carries flits again. -/
  | retrainComplete (link : Nat)
  /-- CXL_PORT_FENCE (R42): A CXL port whose link goes down is fenced and its requests and timelines follow the fence rules. -/
  | cxlPortFence (p : Nat)
  /-- PATROL_SCRUB (R206): The background scrub reads a line, corrects single-bit errors and poisons lines with uncorrectable errors. -/
  | patrolScrub (d : Nat) (line : Nat) (outcome : ScrubOutcome)
  /-- FAULT_DELIVERY (R252): A fault record is delivered to the core's handler wave, which starts at the handler entry. -/
  | faultDelivery (core : Nat)
  /-- IMPRECISE_FAULT (R256): An imprecise fault is attributed to its wave, gang or task and delivered at the wave's next instruction boundary. -/
  | impreciseFault (w : WaveRef) (p : Nat)
  /-- MODE (R309): Writes the MODE register in every slice of the path. -/
  | mode (m : Nat)
  /-- BRA (R311): Transfers every slice of the path to the target. -/
  | bra (b : Opd)
  /-- BRP (R312): Branches per slice on a predicate, pushing the split stack where the lanes disagree. -/
  | brp (p : PredF) (b : Opd)
  /-- BRS (R311): Branches each slice on a scalar condition being zero or nonzero. -/
  | brs (z : Nat) (a : Opd) (b : Opd)
  /-- CALL (R314): Writes NextClause into the link pair and transfers each slice to its target. -/
  | call (d : Opd) (b : Opd)
  /-- RET (R314): Transfers each slice to the address in its link pair. -/
  | ret (a : Opd)
  /-- WAITF (R317): Holds the path until the named flags are clear in every slice. -/
  | waitf (mask : Nat)
  /-- WAITT (R319): Waits until a timeline reaches a value, times out or is fenced, and writes the status. -/
  | waitt (d : Opd) (a : Opd) (b : Opd)
  /-- WAITM (R320): Holds the path until a mould has the named state and phase, as an acquire. -/
  | waitm (m : Nat) (any : Bool) (phase : Bool) (st : Nat)
  /-- PREFI (R322): Brings up to 16 fetch lines into the cluster instruction cache. -/
  | prefi (a : Opd) (n : Nat)
  /-- ELECT (R138): Sets one predicate bit, at the lowest active lane, per segment. -/
  | elect (p : PredF)
  /-- GETS (R324): Reads a special state register into a scalar. -/
  | gets (d : Opd) (arg : Nat) (num : Nat)
  /-- SETS (R325): Writes FLAGS, HMASK or FAULT. -/
  | sets (a : Opd) (num : Nat)
  /-- LIVE (R327): Names the liveness entry used at a pre-emption point. -/
  | live (i : Nat)
  /-- TRAP (R328): Raises the software-trap fault with a code. -/
  | trap (c : Nat)
  /-- PARTN (R330): Writes the wave's partition register. -/
  | partn (l : Nat)
  /-- BRX (R311): Branches each slice into a table of fetch lines by index. -/
  | brx (n : Nat) (a : Opd) (b : Opd)
  /-- IADD (R338): Integer add. -/
  | iadd (d : Opd) (a : Opd) (b : Opd)
  /-- ISUB (R338): Integer subtract. -/
  | isub (d : Opd) (a : Opd) (b : Opd)
  /-- IMUL (R338): Integer multiply. -/
  | imul (d : Opd) (a : Opd) (b : Opd)
  /-- IMULH (R338): Upper half of the integer product. -/
  | imulh (d : Opd) (a : Opd) (b : Opd)
  /-- IMAD (R338): Integer multiply-add into D. -/
  | imad (d : Opd) (a : Opd) (b : Opd)
  /-- IADDC (R339): Add with carry through p15. -/
  | iaddc (d : Opd) (a : Opd) (b : Opd)
  /-- ISUBB (R339): Subtract with borrow through p15. -/
  | isubb (d : Opd) (a : Opd) (b : Opd)
  /-- IABS (R338): Integer absolute value. -/
  | iabs (d : Opd) (a : Opd)
  /-- IMIN (R338): Integer minimum. -/
  | imin (d : Opd) (a : Opd) (b : Opd)
  /-- IMAX (R338): Integer maximum. -/
  | imax (d : Opd) (a : Opd) (b : Opd)
  /-- AND (R341): Bitwise AND. -/
  | andOp (d : Opd) (a : Opd) (b : Opd)
  /-- OR (R341): Bitwise OR. -/
  | orOp (d : Opd) (a : Opd) (b : Opd)
  /-- XOR (R341): Bitwise XOR. -/
  | xorOp (d : Opd) (a : Opd) (b : Opd)
  /-- ANDN (R341): Bitwise A AND NOT B. -/
  | andn (d : Opd) (a : Opd) (b : Opd)
  /-- SHL (R341): Shift left per element. -/
  | shl (d : Opd) (a : Opd) (b : Opd)
  /-- SHR (R341): Logical shift right per element. -/
  | shr (d : Opd) (a : Opd) (b : Opd)
  /-- SRA (R341): Arithmetic shift right per element. -/
  | sra (d : Opd) (a : Opd) (b : Opd)
  /-- ROTL (R341): Rotate left per element. -/
  | rotl (d : Opd) (a : Opd) (b : Opd)
  /-- BFE (R342): Bit-field extract. -/
  | bfe (d : Opd) (a : Opd) (b : Opd)
  /-- BFI (R342): Bit-field insert into D. -/
  | bfi (d : Opd) (a : Opd) (b : Opd)
  /-- POPC (R342): Population count per element. -/
  | popc (d : Opd) (a : Opd)
  /-- CLZ (R342): Leading-zero count per element. -/
  | clz (d : Opd) (a : Opd)
  /-- BREV (R342): Bit reversal per element. -/
  | brev (d : Opd) (a : Opd)
  /-- ICMP (R343): Integer compare into predicates. -/
  | icmp (cond : Nat) (p : PredF) (a : Opd) (b : Opd)
  /-- SEL (R344): Selects A or B by a predicate. -/
  | sel (d : Opd) (a : Opd) (b : Opd)
  /-- MOV (R341): Copies A to D. -/
  | mov (d : Opd) (a : Opd)
  /-- IDIV (R340): Integer divide truncating toward zero. -/
  | idiv (d : Opd) (a : Opd) (b : Opd)
  /-- IREM (R340): Integer remainder. -/
  | irem (d : Opd) (a : Opd) (b : Opd)
  /-- PMOV (R344): Copies A into the lanes where a predicate holds. -/
  | pmov (d : Opd) (a : Opd) (p : PredF)
  /-- PLOP (R344): Logical operation on predicates. -/
  | plop (o : Nat) (d : PredF) (a : PredF) (b : PredF)
  /-- FADD (R345): Float add. -/
  | fadd (d : Opd) (a : Opd) (b : Opd)
  /-- FSUB (R345): Float subtract. -/
  | fsub (d : Opd) (a : Opd) (b : Opd)
  /-- FMUL (R345): Float multiply. -/
  | fmul (d : Opd) (a : Opd) (b : Opd)
  /-- FFMA (R345): Fused multiply-add a*b + d. -/
  | ffma (d : Opd) (a : Opd) (b : Opd)
  /-- FFMS (R345): Fused d - a*b. -/
  | ffms (d : Opd) (a : Opd) (b : Opd)
  /-- FMIN (R346): Float minimum. -/
  | fmin (d : Opd) (a : Opd) (b : Opd)
  /-- FMAX (R346): Float maximum. -/
  | fmax (d : Opd) (a : Opd) (b : Opd)
  /-- FABS (R347): Float absolute value. -/
  | fabs (d : Opd) (a : Opd)
  /-- FNEG (R347): Float negate. -/
  | fneg (d : Opd) (a : Opd)
  /-- FCMP (R348): Float compare into predicates. -/
  | fcmp (cond : Nat) (p : PredF) (a : Opd) (b : Opd)
  /-- FCLASS (R347): Writes the class mask of a float. -/
  | fclass (d : Opd) (a : Opd)
  /-- FSCALE (R345): Multiplies by a power of two. -/
  | fscale (d : Opd) (a : Opd) (b : Opd)
  /-- FRND (R345): Rounds to an integral float value. -/
  | frnd (d : Opd) (a : Opd)
  /-- FRCP (R350): Correctly rounded reciprocal. -/
  | frcp (d : Opd) (a : Opd)
  /-- FRSQ (R350): Correctly rounded reciprocal square root. -/
  | frsq (d : Opd) (a : Opd)
  /-- FSQRT (R345): Square root. -/
  | fsqrt (d : Opd) (a : Opd)
  /-- FDIV (R345): Float divide. -/
  | fdiv (d : Opd) (a : Opd) (b : Opd)
  /-- FEXP2 (R350): Base-2 exponential. -/
  | fexp2 (d : Opd) (a : Opd)
  /-- FLOG2 (R350): Base-2 logarithm. -/
  | flog2 (d : Opd) (a : Opd)
  /-- FSIN (R350): Sine of pi*a. -/
  | fsin (d : Opd) (a : Opd)
  /-- FCOS (R350): Cosine of pi*a. -/
  | fcos (d : Opd) (a : Opd)
  /-- FTANH (R350): Hyperbolic tangent. -/
  | ftanh (d : Opd) (a : Opd)
  /-- FDOT2 (R349): Two-element dot product accumulated into f32 D. -/
  | fdot2 (d : Opd) (a : Opd) (b : Opd)
  /-- CVT (R356): Converts elements between types. -/
  | cvt (d : Opd) (a : Opd) (p : Nat) (t : Nat)
  /-- CVTR (R357): Narrows and writes the residual to D+1. -/
  | cvtr (d : Opd) (a : Opd) (p : Nat) (t : Nat)
  /-- QHAD (R361): Signed 32-lane Hadamard transform. -/
  | qhad (d : Opd) (a : Opd) (b : Opd)
  /-- FORM (R359): Builds a formed line image from f32 values. -/
  | form (d : Opd) (a : Opd) (h : Bool) (c : Nat)
  /-- UNFORM (R360): Decodes a line image into lanes. -/
  | unform (d : Opd) (a : Opd) (h : Bool) (k : Nat)
  /-- XCLR (R362): Clears an exact sum and sets its anchor. -/
  | xclr (x : Nat) (a : Opd)
  /-- XADD (R363): Adds values or a sum exactly into an exact sum. -/
  | xadd (x : Nat) (a : Opd) (s : Bool) (y : Nat)
  /-- XMAD (R363): Adds exact products into an exact sum. -/
  | xmad (x : Nat) (a : Opd) (b : Opd)
  /-- XRND (R364): Rounds an exact sum into a register. -/
  | xrnd (d : Opd) (x : Nat) (e : Nat)
  /-- XMOV (R365): Moves exact-sum state without arithmetic. -/
  | xmov (d : Opd) (a : Opd) (r : Nat) (w : Nat)
  /-- KGEN (R367): Draws a keyed generator output and advances the state. -/
  | kgen (d : Opd) (a : Opd)
  /-- SHFL (R369): Reads a lane chosen by index within the segment. -/
  | shfl (d : Opd) (a : Opd) (b : Opd)
  /-- SHFX (R369): Reads a lane chosen by XOR mask. -/
  | shfx (d : Opd) (a : Opd) (b : Opd)
  /-- NBR (R370): Reads a register of a lane along the neighbour chain. -/
  | nbr (d : Opd) (a : Opd) (r : Bool) (n : Nat)
  /-- BALLOT (R371): Packs a predicate into a per-segment mask. -/
  | ballot (d : Opd) (p : PredF)
  /-- VOTE (R371): All, any or uniform vote over a segment. -/
  | vote (p : PredF) (q : PredF) (md : Nat)
  /-- REDI (R372): Integer reduction over a segment. -/
  | redi (d : Opd) (a : Opd) (op : Nat)
  /-- REDF (R372): Float reduction over a segment, rounded once. -/
  | redf (d : Opd) (a : Opd) (op : Nat)
  /-- XRED (R374): Exact-sum reduction over a segment. -/
  | xred (x : Nat) (y : Nat)
  /-- SCAN (R373): Inclusive or exclusive prefix operation over a segment. -/
  | scan (d : Opd) (a : Opd) (e : Bool) (op : Nat)
  /-- BCAST (R369): Broadcasts one lane within the segment. -/
  | bcast (d : Opd) (a : Opd) (n : Nat)
  /-- LDB (R380): Loads a byte zero-extended. -/
  | ldb (d : Opd) (a : Opd) (b : Opd)
  /-- LDSB (R380): Loads a byte sign-extended. -/
  | ldsb (d : Opd) (a : Opd) (b : Opd)
  /-- LDH (R380): Loads a halfword zero-extended. -/
  | ldh (d : Opd) (a : Opd) (b : Opd)
  /-- LDSH (R380): Loads a halfword sign-extended. -/
  | ldsh (d : Opd) (a : Opd) (b : Opd)
  /-- LDW (R380): Loads a word. -/
  | ldw (d : Opd) (a : Opd) (b : Opd)
  /-- LDD (R380): Loads a doubleword into a pair. -/
  | ldd (d : Opd) (a : Opd) (b : Opd)
  /-- LDQ (R380): Loads 16 bytes into a quad. -/
  | ldq (d : Opd) (a : Opd) (b : Opd)
  /-- STB (R380): Stores a byte. -/
  | stb (d : Opd) (a : Opd) (b : Opd)
  /-- STH (R380): Stores a halfword. -/
  | sth (d : Opd) (a : Opd) (b : Opd)
  /-- STW (R380): Stores a word. -/
  | stw (d : Opd) (a : Opd) (b : Opd)
  /-- STD (R380): Stores a doubleword. -/
  | std (d : Opd) (a : Opd) (b : Opd)
  /-- STQ (R380): Stores 16 bytes from a quad. -/
  | stq (d : Opd) (a : Opd) (b : Opd)
  /-- LDAW (R382): Word load that is an acquire. -/
  | ldaw (d : Opd) (a : Opd) (b : Opd)
  /-- LDAD (R382): Doubleword load that is an acquire. -/
  | ldad (d : Opd) (a : Opd) (b : Opd)
  /-- STLW (R382): Word store that is a release. -/
  | stlw (d : Opd) (a : Opd) (b : Opd)
  /-- STLD (R382): Doubleword store that is a release. -/
  | stld (d : Opd) (a : Opd) (b : Opd)
  /-- AADD (R384): Atomic integer add at the home. -/
  | aadd (d : Opd) (a : Opd) (b : Opd)
  /-- AMIN (R384): Atomic minimum. -/
  | amin (d : Opd) (a : Opd) (b : Opd)
  /-- AMAX (R384): Atomic maximum. -/
  | amax (d : Opd) (a : Opd) (b : Opd)
  /-- AAND (R384): Atomic AND. -/
  | aand (d : Opd) (a : Opd) (b : Opd)
  /-- AOR (R384): Atomic OR. -/
  | aor (d : Opd) (a : Opd) (b : Opd)
  /-- AXOR (R384): Atomic XOR. -/
  | axor (d : Opd) (a : Opd) (b : Opd)
  /-- AXCH (R384): Atomic exchange. -/
  | axch (d : Opd) (a : Opd) (b : Opd)
  /-- ACAS (R384): Atomic compare-and-swap. -/
  | acas (d : Opd) (a : Opd) (b : Opd)
  /-- AFADD (R384): Atomic float add, order-dependent. -/
  | afadd (d : Opd) (a : Opd) (b : Opd)
  /-- AXSUM (R386): Adds an exact sum into a tagged 48-byte cell at the home. -/
  | axsum (d : Opd) (a : Opd) (x : Nat)
  /-- AINC (R384): Atomic bounded increment. -/
  | ainc (d : Opd) (a : Opd) (b : Opd)
  /-- TAGL (R388): Looks up a scratch slot by key. -/
  | tagl (d : Opd) (a : Opd)
  /-- TAGS (R388): Writes a scratch tag entry. -/
  | tags (a : Opd) (b : Opd)
  /-- TAGI (R388): Reads and invalidates a scratch tag entry. -/
  | tagi (d : Opd) (a : Opd)
  /-- CFLUSH (R389): Performs overlapping stores and drops the range from the L1. -/
  | cflush (a : Opd) (b : Opd)
  /-- PREF (R390): Prefetch hint into the L1 or the memory-side cache. -/
  | pref (h : Bool) (a : Opd) (b : Opd)
  /-- LDFE (R391): Loads and converts one element of a formed line. -/
  | ldfe (d : Opd) (a : Opd) (b : Opd)
  /-- TCFG (R395): Writes a tile's control register. -/
  | tcfg (t : Nat) (a : Opd)
  /-- TLD (R397): Loads formed rows into a tile and moves its mould to FULL. -/
  | tld (t : Nat) (a : Opd) (b : Opd)
  /-- TST (R398): Stores a tile's rows through the padding view. -/
  | tst (t : Nat) (a : Opd) (b : Opd)
  /-- TWR (R399): Writes a tile row from a line image. -/
  | twr (t : Nat) (a : Opd) (h : Bool) (r : Nat)
  /-- TRD (R399): Reads a tile row into a line image. -/
  | trd (d : Opd) (t : Nat) (h : Bool) (r : Nat)
  /-- TZERO (R396): Writes zero lines into every row of a tile. -/
  | tzero (t : Nat)
  /-- MMA (R400): Multiplies a run of tiles against ingot planes into a bank. -/
  | mma (l : Bool) (k : Nat) (t : Nat) (b : Opd)
  /-- MMAT (R401): Multiplies a tile against a transient plane loaded from two B tiles. -/
  | mmat (l : Bool) (k : Nat) (t : Nat) (u : Nat) (p : Nat)
  /-- ARD (R402): Reads bank elements into lanes and ORs the bank's flags. -/
  | ard (d : Opd) (q : Nat) (k : Nat) (b : Opd)
  /-- ACLR (R403): Clears a bank and its flag record. -/
  | aclr (k : Nat)
  /-- IGALLOC (R405): Allocates an ingot and returns a handle and status. -/
  | igalloc (d : Opd) (a : Opd)
  /-- IGLOAD (R406): Pours a source into an ingot's planes through the ladle. -/
  | igload (d : Opd) (a : Opd) (b : Opd)
  /-- IGPIN (R407): Sets an ingot's PIN. -/
  | igpin (a : Opd)
  /-- IGUNPIN (R407): Clears an ingot's PIN. -/
  | igunpin (a : Opd)
  /-- IGREVOKE (R407): Moves an ingot to REVOKED. -/
  | igrevoke (a : Opd)
  /-- IGSTAT (R407): Reads an ingot's status word. -/
  | igstat (d : Opd) (a : Opd)
  /-- LCOPY (R413): Queues a ladle copy, optionally unpacking compressed packets. -/
  | lcopy (d : Opd) (a : Opd) (v : Bool) (x : Bool) (w : Bool) (s : Nat)
  /-- LGATH (R413): Queues a ladle gather by an index list. -/
  | lgath (d : Opd) (a : Opd) (v : Bool) (w : Bool) (s : Nat)
  /-- LSCAT (R413): Queues a ladle scatter by an index list. -/
  | lscat (d : Opd) (a : Opd) (v : Bool) (w : Bool) (s : Nat)
  /-- LFILL (R413): Queues a ladle fill with a pattern or formed lines. -/
  | lfill (d : Opd) (a : Opd) (v : Bool) (x : Bool) (w : Bool) (s : Nat)
  /-- SHLD (R414): Loads a tensor header record into a shape slot. -/
  | shld (s : Nat) (a : Opd)
  /-- MSET (R415): Compare-and-transition of a mould entry, as a release. -/
  | mset (d : Opd) (m : Nat) (l : Bool) (y : Bool) (h : Bool) (f : Nat) (t : Nat)
  /-- MSTAT (R415): Reads a mould entry's view. -/
  | mstat (d : Opd) (m : Nat)
  /-- TLSIG (R416): Takes the next number of a software timeline as a release. -/
  | tlsig (d : Opd) (a : Opd)
  /-- TLRD (R416): Reads a timeline's reached or issued count. -/
  | tlrd (d : Opd) (a : Opd) (i : Bool)
  /-- BAR (R418): Arrives at a barrier and waits for its round. -/
  | bar (a : Nat) (n : Nat)
  /-- BARA (R418): Arrives at a barrier and returns at once. -/
  | bara (a : Nat) (n : Nat)
  /-- BARW (R418): Waits for the round of the wave's last arrival and writes a status. -/
  | barw (d : Opd) (a : Nat)
  /-- LAUNCH (R419): Offers a launch packet from memory to a queue of the context. -/
  | launch (d : Opd) (a : Opd) (b : Opd)
  /-- GSIG (R420): Completes a WAITSIG signal node of a running graph. -/
  | gsig (d : Opd) (a : Opd)
  /-- GADD (R421): Adds an edge between two nodes of a running graph. -/
  | gadd (d : Opd) (a : Opd) (b : Opd)
  /-- SHEV (R414): Frees a shape slot. -/
  | shev (s : Nat)
  /-- POUR (R424): Joins or opens a pass and returns its slot base. -/
  | pour (d : Opd)
  /-- SEAL (R425): Arrives at the seal of the open pass with a grade. -/
  | seal (a : Opd)
  /-- ACQV (R427): Pins the latest sealed version meeting a grade. -/
  | acqv (d : Opd) (a : Opd) (b : Opd)
  /-- RELV (R428): Releases a pin on a version. -/
  | relv (d : Opd) (a : Opd) (b : Opd)
  /-- VSTAT (R430): Reads a task's version directory. -/
  | vstat (d : Opd) (a : Opd)
  /-- MBOX (R431): Posts a program message or a raw monitor message. -/
  | mbox (d : Opd) (a : Opd) (r : Bool)
  /-- PMARK (R432): Writes a profiling marker record. -/
  | pmark (m : Nat)
  /-- CKPT (R433): Writes a checkpoint image of the context. -/
  | ckpt (d : Opd) (a : Opd) (b : Opd)
  /-- HALTB (R434): Halts every wave and the caster thread of a gang. -/
  | haltb (d : Opd) (a : Opd)
  /-- SCRUB (R435): Scrubs the tiles, banks or scratch of a halted gang. -/
  | scrub (d : Opd) (a : Opd) (x : Bool) (y : Bool) (z : Bool)
  /-- CLAUSE_HEADER (R281): A path reaches a clause header word, which is checked, waits for its WAIT flags and marks a pre-emption point before its clause begins. -/
  | clauseHeader (w : Nat)
  /-- UNASSIGNED_OPCODE (R296): A path or caster thread reaches an instruction word with an unassigned opcode, or a literal word that no instruction consumes, and raises the illegal-instruction fault. -/
  | unassignedOpcode (w : Nat)
  /-- UNCORRECTABLE_ERROR (R257): A register lane or scalar register comes to hold an uncorrectable error and its poison bit is set. -/
  | uncorrectableError (w : WaveRef) (k : RegClass) (r : Nat) (lane : Nat)
  /-- FUSE_WRITE_DONE (R73): The fuse write of MINUP ends, BUSY clears and RESULT becomes 0x06. -/
  | fuseWriteDone
  /-- REPORT_READY (R75): Within 2 ms of GO the signed report is placed in the identity block and VALID is set. -/
  | reportReady
  /-- TLBINV_DONE (R187): TLBINV_DONE becomes 1 once every TLB has dropped the entries and the earlier walks have ended. -/
  | tlbinvDone
  /-- STAGING_AREA_TIMEOUT (R47): A staging area with no commit within 1 ms of its last write is freed and its contents are discarded. -/
  | stagingAreaTimeout
  /-- WAIT_TIMEOUT (R54): A WAIT's timeout elapses: it completes TIMEOUT and the packets pending behind it are abandoned. -/
  | waitTimeout
  /-- GANG_PLACEMENT (R83): The scheduler places a WAITING gang on an eligible cluster, reserving its resources and initialising or restoring its registers. -/
  | gangPlacement
  /-- AGEING (R81): A started task with no gang placed for 10 ms is tried as class 0 until its next gang is placed. -/
  | ageing
  /-- TIME_SLICE_EXPIRY (R110): A gang resident 4 ms while a gang of its class waits with no eligible cluster is chosen for eviction. -/
  | timeSliceExpiry
  /-- NOTIFY_TIMEOUT (R62): A notify write with no completion within 2 ms is dropped and counted in NOTIFY_LOST. -/
  | notifyTimeout
  /-- BUBBLE_SLOT_OPEN (R95): A valid bubble slot opens at START and admits fill-class gangs. -/
  | bubbleSlotOpen
  /-- BUBBLE_SLOT_CLOSE (R95): A bubble slot closes at START + LEN, or at once for a non-fill gang, and its fill gangs are evicted. -/
  | bubbleSlotClose
  /-- TEST_DEFERRAL (R100): An attempt whose cluster is not empty after 100 ms is deferred and the cluster reopens. -/
  | testDeferral
  /-- EVACUATION_WATCHDOG (R101): A gang that runs 1 ms during a pending evacuation without a PP clause header raises the watchdog fault. -/
  | evacuationWatchdog
  /-- TIME_LIMIT_CROSSING (R105): At the first 10 ns tick at which elapsed time reaches the limit, the anytime task starts a quench. -/
  | timeLimitCrossing
  /-- REQUEST_TIMEOUT (R36): A request with no response within 2 ms fences its destination package at the sender. -/
  | requestTimeout
  /-- RETRAIN_TIMEOUT (R26): A retrain not complete within 200 microseconds fences the link. -/
  | retrainTimeout
  /-- HANG_WATCHDOG (R265): A wave waiting longer than HANG_LIMIT raises the watchdog fault. -/
  | hangWatchdog
  /-- HMASK_CLEAR (R264): MASK clears itself 10 microseconds after it was set and a pending halt is taken. -/
  | hmaskClear
  /-- PROFILE_TICK (R271): Every 2^K ticks each cluster running the context latches its counters and writes a 128-byte record, or drops it. -/
  | profileTick
  /-- WAITT_TIMEOUT (R319): A WAITT's timeout elapses first and it writes status 1. -/
  | waittTimeout
  /-- NOP (R310): No effect except the signature step. -/
  | nop
  /-- JOIN (R313): Pops or resumes each slice's split-stack entry. -/
  | join
  /-- EXIT (R315): Ends the lanes active after the guard. -/
  | exitLanes
  /-- REGANG (R127): Waits until every live slice reaches the same REGANG and then joins them into one path. -/
  | regang
  /-- IFENCE (R322): Discards the context's instruction-cache lines and the path's fetch buffer. -/
  | ifence
  /-- YIELD (R310): Lets every other ready path issue before this path issues again. -/
  | yield
  /-- SLEEP (R138): Moves the active lanes into the path's SLEEP mask. -/
  | sleep
  /-- WAKE (R138): Returns the path's sleeping lanes to ACTIVE. -/
  | wake
  /-- SIGCHK (R326): Compares the signature with its literal and resets it. -/
  | sigchk
  /-- RFT (R329): Applies the current record's disposition and ends the handler wave. -/
  | rft
  /-- BRK (R328): Raises the breakpoint fault. -/
  | brk
  /-- FENCE (R387): Release and acquire at MODE.SCOPE. -/
  | fence
  /-- FENCEE (R387): FENCE that also waits for the path's engine operations. -/
  | fencee
  /-- DONE (R426): Ends the anytime task with status DONE. -/
  | doneTask
deriving DecidableEq, Repr

end Sys2Proof
end

