-- ==== Sys2Proof/WellFormed.lean ====
section
/-! DEFINITION. When an instruction's fields lie in the ranges that its encoding can hold. -/

namespace Sys2Proof

/-- A register field is well formed when it is the reading of one 8-bit code (R287). -/
def Opd.wf : Opd → Bool
  | .v n => decide (n < 192)
  | .s n => decide (n < 48)
  | .rsv c => (decide (0xF7 ≤ c) && decide (c ≤ 0xFD)) || c == 0xFF
  | _ => true

/-- A predicate field is well formed when it fits its 8 bits (R291). -/
def PredF.wf (p : PredF) : Bool := decide (p.idx < 16) && decide (p.rest < 8)

/-- Every field of an instruction word within the width its entry gives it (R286, R291). A step of the
device carries no word: it is well formed when its numbers name units the part has (R10, R45). -/
def Instr.wf : Instr → Bool
  | .powerOn _ => true
  | .coldStart ep _ => decide (ep < 1024)
  | .warmStart ep _ _ => decide (ep < 1024)
  | .fencedDieCooled _ => true
  | .recoveryWindowWrite ep _ _ => decide (ep < 1024)
  | .recover ep => decide (ep < 1024)
  | .recoveryCheckDone _ => true
  | .minup ep => decide (ep < 1024)
  | .fuseWriteDone => true
  | .attGo ep ctx => decide (ep < 1024) && decide (ctx < 64)
  | .reportReady => true
  | .tokenCheck ep => decide (ep < 1024)
  | .tlbinv ep _ => decide (ep < 1024)
  | .tlbinvDone => true
  | .routeTableWrite ep _ _ => decide (ep < 1024)
  | .testRequest ep c => decide (ep < 1024) && decide (c < 128)
  | .registerWrite ep _ _ _ => decide (ep < 1024)
  | .stagingWrite ep win _ _ => decide (ep < 1024) && decide (win < 65)
  | .stagingAreaTimeout => true
  | .hostLaunch ep win _ => decide (ep < 1024) && decide (win < 65)
  | .hostGraph ep win _ => decide (ep < 1024) && decide (win < 65)
  | .hostSignal ep win _ => decide (ep < 1024) && decide (win < 65)
  | .hostWait ep win _ => decide (ep < 1024) && decide (win < 65)
  | .waitTimeout => true
  | .create ep win _ => decide (ep < 1024) && decide (win < 65)
  | .destroy ep win _ => decide (ep < 1024) && decide (win < 65)
  | .bindQueue ep win _ => decide (ep < 1024) && decide (win < 65)
  | .unbindQueue ep win _ => decide (ep < 1024) && decide (win < 65)
  | .quota ep win _ => decide (ep < 1024) && decide (win < 65)
  | .limits ep win _ => decide (ep < 1024) && decide (win < 65)
  | .monHalt ep win _ => decide (ep < 1024) && decide (win < 65)
  | .monResume ep win _ => decide (ep < 1024) && decide (win < 65)
  | .monStep ep win _ => decide (ep < 1024) && decide (win < 65)
  | .monReadreg ep win _ => decide (ep < 1024) && decide (win < 65)
  | .monWritereg ep win _ => decide (ep < 1024) && decide (win < 65)
  | .monReadmem ep win _ => decide (ep < 1024) && decide (win < 65)
  | .monSetbp ep win _ => decide (ep < 1024) && decide (win < 65)
  | .monDump ep win _ => decide (ep < 1024) && decide (win < 65)
  | .monOpen ep win _ => decide (ep < 1024) && decide (win < 65)
  | .monClose ep win _ => decide (ep < 1024) && decide (win < 65)
  | .packetStart q => decide (q < 64)
  | .gangPlacement => true
  | .ageing => true
  | .timeSliceExpiry => true
  | .preemptionPointSave _ _ => true
  | .forcedFullSave _ _ => true
  | .gangRetire _ _ => true
  | .notifyTimeout => true
  | .nodeStart q => decide (q < 64)
  | .nodeComplete q _ => decide (q < 64)
  | .bubbleSlotOpen => true
  | .bubbleSlotClose => true
  | .slotPrediction c _ _ => decide (c < 128)
  | .sensorSample _ _ => true
  | .refreshCommand d => decide (d < 4)
  | .dieFence d => decide (d < 4)
  | .powerLimit _ n _ => decide (n ≤ 128)
  | .testAttempt c => decide (c < 128)
  | .testComplete c _ => decide (c < 128)
  | .testDeferral => true
  | .evacuationWatchdog => true
  | .timeLimitCrossing => true
  | .energySample _ _ => true
  | .quenchComplete _ => true
  | .stepToken c _ => decide (c < 128)
  | .crucibleStop _ _ => true
  | .ingotReload _ _ => true
  | .ingotLoadComplete ctx _ => decide (ctx < 64)
  | .ladleOpBegin _ _ grp => decide (grp < 4)
  | .ladleOpPerformed _ _ grp _ => decide (grp < 4)
  | .operationComplete _ => true
  | .pageWalk c ctx _ => decide (c < 128) && decide (ctx < 64)
  | .fetchLineReturn _ _ => true
  | .remoteRequest _ _ => true
  | .remoteAcknowledgement _ _ => true
  | .cxlCompletion _ reply => decide (reply.port < 4)
  | .requestTimeout => true
  | .transactionFlit link _ => decide (link < 12)
  | .idleFlit link => decide (link < 12)
  | .flitResendRequest link _ => decide (link < 16)
  | .fenceNotice _ => true
  | .retrainRequest link => decide (link < 16)
  | .linkIdleTimeout link => decide (link < 12)
  | .retrainComplete link => decide (link < 12)
  | .retrainTimeout => true
  | .cxlPortFence _ => true
  | .patrolScrub d _ _ => decide (d < 4)
  | .faultDelivery core => decide (core < 512)
  | .impreciseFault _ _ => true
  | .hangWatchdog => true
  | .hmaskClear => true
  | .profileTick => true
  | .waittTimeout => true
  | .nop => true
  | .mode m => decide (m < 16777216)
  | .bra b => b.wf
  | .brp p b => p.wf && b.wf
  | .brs z a b => decide (z < 256) && a.wf && b.wf
  | .join => true
  | .call d b => d.wf && b.wf
  | .ret a => a.wf
  | .exitLanes => true
  | .regang => true
  | .waitf mask => decide (mask < 4096)
  | .waitt d a b => d.wf && a.wf && b.wf
  | .waitm m _ _ st => decide (m < 256) && decide (st < 4)
  | .prefi a n => a.wf && decide (n < 256)
  | .ifence => true
  | .yield => true
  | .sleep => true
  | .wake => true
  | .elect p => p.wf
  | .gets d arg num => d.wf && decide (arg < 256) && decide (num < 256)
  | .sets a num => a.wf && decide (num < 256)
  | .sigchk => true
  | .live i => decide (i < 65536)
  | .trap c => decide (c < 256)
  | .rft => true
  | .brk => true
  | .partn l => decide (l < 256)
  | .brx n a b => decide (n < 256) && a.wf && b.wf
  | .iadd d a b => d.wf && a.wf && b.wf
  | .isub d a b => d.wf && a.wf && b.wf
  | .imul d a b => d.wf && a.wf && b.wf
  | .imulh d a b => d.wf && a.wf && b.wf
  | .imad d a b => d.wf && a.wf && b.wf
  | .iaddc d a b => d.wf && a.wf && b.wf
  | .isubb d a b => d.wf && a.wf && b.wf
  | .iabs d a => d.wf && a.wf
  | .imin d a b => d.wf && a.wf && b.wf
  | .imax d a b => d.wf && a.wf && b.wf
  | .andOp d a b => d.wf && a.wf && b.wf
  | .orOp d a b => d.wf && a.wf && b.wf
  | .xorOp d a b => d.wf && a.wf && b.wf
  | .andn d a b => d.wf && a.wf && b.wf
  | .shl d a b => d.wf && a.wf && b.wf
  | .shr d a b => d.wf && a.wf && b.wf
  | .sra d a b => d.wf && a.wf && b.wf
  | .rotl d a b => d.wf && a.wf && b.wf
  | .bfe d a b => d.wf && a.wf && b.wf
  | .bfi d a b => d.wf && a.wf && b.wf
  | .popc d a => d.wf && a.wf
  | .clz d a => d.wf && a.wf
  | .brev d a => d.wf && a.wf
  | .icmp cond p a b => decide (cond < 8) && (p.wf && p.rest == 0) && a.wf && b.wf
  | .sel d a b => d.wf && a.wf && b.wf
  | .mov d a => d.wf && a.wf
  | .idiv d a b => d.wf && a.wf && b.wf
  | .irem d a b => d.wf && a.wf && b.wf
  | .pmov d a p => d.wf && a.wf && p.wf
  | .plop o d a b => decide (o < 8) && (d.wf && d.rest == 0) && a.wf && b.wf
  | .fadd d a b => d.wf && a.wf && b.wf
  | .fsub d a b => d.wf && a.wf && b.wf
  | .fmul d a b => d.wf && a.wf && b.wf
  | .ffma d a b => d.wf && a.wf && b.wf
  | .ffms d a b => d.wf && a.wf && b.wf
  | .fmin d a b => d.wf && a.wf && b.wf
  | .fmax d a b => d.wf && a.wf && b.wf
  | .fabs d a => d.wf && a.wf
  | .fneg d a => d.wf && a.wf
  | .fcmp cond p a b => decide (cond < 8) && (p.wf && p.rest == 0) && a.wf && b.wf
  | .fclass d a => d.wf && a.wf
  | .fscale d a b => d.wf && a.wf && b.wf
  | .frnd d a => d.wf && a.wf
  | .frcp d a => d.wf && a.wf
  | .frsq d a => d.wf && a.wf
  | .fsqrt d a => d.wf && a.wf
  | .fdiv d a b => d.wf && a.wf && b.wf
  | .fexp2 d a => d.wf && a.wf
  | .flog2 d a => d.wf && a.wf
  | .fsin d a => d.wf && a.wf
  | .fcos d a => d.wf && a.wf
  | .ftanh d a => d.wf && a.wf
  | .fdot2 d a b => d.wf && a.wf && b.wf
  | .cvt d a p t => d.wf && a.wf && decide (p < 8) && decide (t < 16)
  | .cvtr d a p t => d.wf && a.wf && decide (p < 8) && decide (t < 16)
  | .qhad d a b => d.wf && a.wf && b.wf
  | .form d a _ c => d.wf && a.wf && decide (c < 16)
  | .unform d a _ k => d.wf && a.wf && decide (k < 4)
  | .xclr x a => decide (x < 256) && a.wf
  | .xadd x a _ y => decide (x < 256) && a.wf && decide (y < 128)
  | .xmad x a b => decide (x < 256) && a.wf && b.wf
  | .xrnd d x e => d.wf && decide (x < 256) && decide (e < 256)
  | .xmov d a r w => d.wf && a.wf && decide (r < 4) && decide (w < 16)
  | .kgen d a => d.wf && a.wf
  | .shfl d a b => d.wf && a.wf && b.wf
  | .shfx d a b => d.wf && a.wf && b.wf
  | .nbr d a _ n => d.wf && a.wf && decide (n < 64)
  | .ballot d p => d.wf && p.wf
  | .vote p q md => p.wf && q.wf && decide (md < 256)
  | .redi d a op => d.wf && a.wf && decide (op < 256)
  | .redf d a op => d.wf && a.wf && decide (op < 256)
  | .xred x y => decide (x < 256) && decide (y < 256)
  | .scan d a _ op => d.wf && a.wf && decide (op < 8)
  | .bcast d a n => d.wf && a.wf && decide (n < 256)
  | .ldb d a b => d.wf && a.wf && b.wf
  | .ldsb d a b => d.wf && a.wf && b.wf
  | .ldh d a b => d.wf && a.wf && b.wf
  | .ldsh d a b => d.wf && a.wf && b.wf
  | .ldw d a b => d.wf && a.wf && b.wf
  | .ldd d a b => d.wf && a.wf && b.wf
  | .ldq d a b => d.wf && a.wf && b.wf
  | .stb d a b => d.wf && a.wf && b.wf
  | .sth d a b => d.wf && a.wf && b.wf
  | .stw d a b => d.wf && a.wf && b.wf
  | .std d a b => d.wf && a.wf && b.wf
  | .stq d a b => d.wf && a.wf && b.wf
  | .ldaw d a b => d.wf && a.wf && b.wf
  | .ldad d a b => d.wf && a.wf && b.wf
  | .stlw d a b => d.wf && a.wf && b.wf
  | .stld d a b => d.wf && a.wf && b.wf
  | .aadd d a b => d.wf && a.wf && b.wf
  | .amin d a b => d.wf && a.wf && b.wf
  | .amax d a b => d.wf && a.wf && b.wf
  | .aand d a b => d.wf && a.wf && b.wf
  | .aor d a b => d.wf && a.wf && b.wf
  | .axor d a b => d.wf && a.wf && b.wf
  | .axch d a b => d.wf && a.wf && b.wf
  | .acas d a b => d.wf && a.wf && b.wf
  | .afadd d a b => d.wf && a.wf && b.wf
  | .axsum d a x => d.wf && a.wf && decide (x < 256)
  | .ainc d a b => d.wf && a.wf && b.wf
  | .fence => true
  | .fencee => true
  | .tagl d a => d.wf && a.wf
  | .tags a b => a.wf && b.wf
  | .tagi d a => d.wf && a.wf
  | .cflush a b => a.wf && b.wf
  | .pref _ a b => a.wf && b.wf
  | .ldfe d a b => d.wf && a.wf && b.wf
  | .tcfg t a => decide (t < 256) && a.wf
  | .tld t a b => decide (t < 256) && a.wf && b.wf
  | .tst t a b => decide (t < 256) && a.wf && b.wf
  | .twr t a _ r => decide (t < 256) && a.wf && decide (r < 64)
  | .trd d t _ r => d.wf && decide (t < 256) && decide (r < 64)
  | .tzero t => decide (t < 256)
  | .mma _ k t b => decide (k < 8) && decide (t < 256) && b.wf
  | .mmat _ k t u p => decide (k < 8) && decide (t < 256) && decide (u < 2) && decide (p < 32)
  | .ard d q k b => d.wf && decide (q < 4) && decide (k < 8) && b.wf
  | .aclr k => decide (k < 256)
  | .igalloc d a => d.wf && a.wf
  | .igload d a b => d.wf && a.wf && b.wf
  | .igpin a => a.wf
  | .igunpin a => a.wf
  | .igrevoke a => a.wf
  | .igstat d a => d.wf && a.wf
  | .lcopy d a _ _ _ s => d.wf && a.wf && decide (s < 32)
  | .lgath d a _ _ s => d.wf && a.wf && decide (s < 32)
  | .lscat d a _ _ s => d.wf && a.wf && decide (s < 32)
  | .lfill d a _ _ _ s => d.wf && a.wf && decide (s < 32)
  | .shld s a => decide (s < 32) && a.wf
  | .mset d m _ _ _ f t => d.wf && decide (m < 256) && decide (f < 4) && decide (t < 4)
  | .mstat d m => d.wf && decide (m < 256)
  | .tlsig d a => d.wf && a.wf
  | .tlrd d a _ => d.wf && a.wf
  | .bar a n => decide (a < 256) && decide (n < 128)
  | .bara a n => decide (a < 256) && decide (n < 128)
  | .barw d a => d.wf && decide (a < 256)
  | .launch d a b => d.wf && a.wf && b.wf
  | .gsig d a => d.wf && a.wf
  | .gadd d a b => d.wf && a.wf && b.wf
  | .shev s => decide (s < 32)
  | .pour d => d.wf
  | .seal a => a.wf
  | .acqv d a b => d.wf && a.wf && b.wf
  | .relv d a b => d.wf && a.wf && b.wf
  | .vstat d a => d.wf && a.wf
  | .doneTask => true
  | .mbox d a _ => d.wf && a.wf
  | .pmark m => decide (m < 65536)
  | .ckpt d a b => d.wf && a.wf && b.wf
  | .haltb d a => d.wf && a.wf
  | .scrub d a _ _ _ => d.wf && a.wf
  | .clauseHeader _ => true
  | .unassignedOpcode _ => true
  | .uncorrectableError _ _ _ _ => true

end Sys2Proof
end

