-- ==== Sys2Proof/Decode.lean ====
section
/-! DEFINITION. The decoder of instruction words, total on any bits, and the encoder beside it. -/

namespace Sys2Proof

/-- Why a word is refused: an opcode outside the map (R296), or a reserved field that is not zero (R286). -/
inductive DecodeError where
  | unassigned
  | reserved
deriving DecidableEq, Repr

/-- The reading of a register code (R287). -/
def Opd.ofCode (c : Nat) : Opd :=
  if c < 0xC0 then .v c
  else if c < 0xF0 then .s (c - 0xC0)
  else if c = 0xF0 then .zero
  else if c = 0xF1 then .lane
  else if c = 0xF2 then .slice
  else if c = 0xF3 then .wave
  else if c = 0xF4 then .group
  else if c = 0xF5 then .gang
  else if c = 0xF6 then .pass
  else if c = 0xFE then .lit
  else .rsv c

/-- The code of a register operand (R287). -/
def Opd.code : Opd → Nat
  | .v n => n
  | .s n => 0xC0 + n
  | .zero => 0xF0
  | .lane => 0xF1
  | .slice => 0xF2
  | .wave => 0xF3
  | .group => 0xF4
  | .gang => 0xF5
  | .pass => 0xF6
  | .lit => 0xFE
  | .rsv c => c

/-- The reading of a predicate field (R291). -/
def PredF.ofCode (c : Nat) : PredF := ⟨bitsOf c 3 0, bitOf c 4, bitsOf c 7 5⟩

/-- The code of a predicate field. -/
def PredF.code (p : PredF) : Nat := p.idx + p.neg.toNat * 16 + p.rest * 32

/-- Accept the reading only when the reserved bits of the word are zero (R286). -/
def reservedZero (w mask : Nat) (i : Instr) : Except DecodeError Instr :=
  if w &&& mask = 0 then .ok i else .error .reserved

/-- The opcodes 0x00 to 0x0F (R295): `lo` is the low digit of OP, `w` the whole word. -/
def decodeBand0 (lo w : Nat) : Except DecodeError Instr :=
  match lo with
  | 0 => reservedZero w 0xFFFFFF (.nop)
  | 1 => .ok (.mode (bitsOf w 23 0))
  | 2 => reservedZero w 0xFFFF00 (.bra (Opd.ofCode (bitsOf w 7 0)))
  | 3 => reservedZero w 0x00FF00 (.brp (PredF.ofCode (bitsOf w 23 16)) (Opd.ofCode (bitsOf w 7 0)))
  | 4 => .ok (.brs (bitsOf w 23 16) (Opd.ofCode (bitsOf w 15 8)) (Opd.ofCode (bitsOf w 7 0)))
  | 5 => reservedZero w 0xFFFFFF (.join)
  | 6 => reservedZero w 0x00FF00 (.call (Opd.ofCode (bitsOf w 23 16)) (Opd.ofCode (bitsOf w 7 0)))
  | 7 => reservedZero w 0xFF00FF (.ret (Opd.ofCode (bitsOf w 15 8)))
  | 8 => reservedZero w 0xFFFFFF (.exitLanes)
  | 9 => reservedZero w 0xFFFFFF (.regang)
  | 10 => reservedZero w 0xFFF000 (.waitf (bitsOf w 11 0))
  | 11 => .ok (.waitt (Opd.ofCode (bitsOf w 23 16)) (Opd.ofCode (bitsOf w 15 8)) (Opd.ofCode (bitsOf w 7 0)))
  | 12 => reservedZero w 0xFF00F0 (.waitm (bitsOf w 15 8) (bitOf w 3) (bitOf w 2) (bitsOf w 1 0))
  | 13 => reservedZero w 0xFF0000 (.prefi (Opd.ofCode (bitsOf w 15 8)) (bitsOf w 7 0))
  | 14 => reservedZero w 0xFFFFFF (.ifence)
  | 15 => reservedZero w 0xFFFFFF (.yield)
  | _ => .error .unassigned

/-- The opcodes 0x10 to 0x1F (R295): `lo` is the low digit of OP, `w` the whole word. -/
def decodeBand1 (lo w : Nat) : Except DecodeError Instr :=
  match lo with
  | 0 => reservedZero w 0xFFFFFF (.sleep)
  | 1 => reservedZero w 0xFFFFFF (.wake)
  | 2 => reservedZero w 0x00FFFF (.elect (PredF.ofCode (bitsOf w 23 16)))
  | 3 => .ok (.gets (Opd.ofCode (bitsOf w 23 16)) (bitsOf w 15 8) (bitsOf w 7 0))
  | 4 => reservedZero w 0xFF0000 (.sets (Opd.ofCode (bitsOf w 15 8)) (bitsOf w 7 0))
  | 5 => reservedZero w 0xFFFFFF (.sigchk)
  | 6 => reservedZero w 0xFF0000 (.live (bitsOf w 15 0))
  | 7 => reservedZero w 0xFFFF00 (.trap (bitsOf w 7 0))
  | 8 => reservedZero w 0xFFFFFF (.rft)
  | 9 => reservedZero w 0xFFFFFF (.brk)
  | 10 => reservedZero w 0xFFFF00 (.partn (bitsOf w 7 0))
  | 11 => .ok (.brx (bitsOf w 23 16) (Opd.ofCode (bitsOf w 15 8)) (Opd.ofCode (bitsOf w 7 0)))
  | _ => .error .unassigned

/-- The opcodes 0x20 to 0x2F (R295): `lo` is the low digit of OP, `w` the whole word. -/
def decodeBand2 (lo w : Nat) : Except DecodeError Instr :=
  match lo with
  | 0 => .ok (.iadd (Opd.ofCode (bitsOf w 23 16)) (Opd.ofCode (bitsOf w 15 8)) (Opd.ofCode (bitsOf w 7 0)))
  | 1 => .ok (.isub (Opd.ofCode (bitsOf w 23 16)) (Opd.ofCode (bitsOf w 15 8)) (Opd.ofCode (bitsOf w 7 0)))
  | 2 => .ok (.imul (Opd.ofCode (bitsOf w 23 16)) (Opd.ofCode (bitsOf w 15 8)) (Opd.ofCode (bitsOf w 7 0)))
  | 3 => .ok (.imulh (Opd.ofCode (bitsOf w 23 16)) (Opd.ofCode (bitsOf w 15 8)) (Opd.ofCode (bitsOf w 7 0)))
  | 4 => .ok (.imad (Opd.ofCode (bitsOf w 23 16)) (Opd.ofCode (bitsOf w 15 8)) (Opd.ofCode (bitsOf w 7 0)))
  | 5 => .ok (.iaddc (Opd.ofCode (bitsOf w 23 16)) (Opd.ofCode (bitsOf w 15 8)) (Opd.ofCode (bitsOf w 7 0)))
  | 6 => .ok (.isubb (Opd.ofCode (bitsOf w 23 16)) (Opd.ofCode (bitsOf w 15 8)) (Opd.ofCode (bitsOf w 7 0)))
  | 7 => reservedZero w 0x0000FF (.iabs (Opd.ofCode (bitsOf w 23 16)) (Opd.ofCode (bitsOf w 15 8)))
  | 8 => .ok (.imin (Opd.ofCode (bitsOf w 23 16)) (Opd.ofCode (bitsOf w 15 8)) (Opd.ofCode (bitsOf w 7 0)))
  | 9 => .ok (.imax (Opd.ofCode (bitsOf w 23 16)) (Opd.ofCode (bitsOf w 15 8)) (Opd.ofCode (bitsOf w 7 0)))
  | 10 => .ok (.andOp (Opd.ofCode (bitsOf w 23 16)) (Opd.ofCode (bitsOf w 15 8)) (Opd.ofCode (bitsOf w 7 0)))
  | 11 => .ok (.orOp (Opd.ofCode (bitsOf w 23 16)) (Opd.ofCode (bitsOf w 15 8)) (Opd.ofCode (bitsOf w 7 0)))
  | 12 => .ok (.xorOp (Opd.ofCode (bitsOf w 23 16)) (Opd.ofCode (bitsOf w 15 8)) (Opd.ofCode (bitsOf w 7 0)))
  | 13 => .ok (.andn (Opd.ofCode (bitsOf w 23 16)) (Opd.ofCode (bitsOf w 15 8)) (Opd.ofCode (bitsOf w 7 0)))
  | 14 => .ok (.shl (Opd.ofCode (bitsOf w 23 16)) (Opd.ofCode (bitsOf w 15 8)) (Opd.ofCode (bitsOf w 7 0)))
  | 15 => .ok (.shr (Opd.ofCode (bitsOf w 23 16)) (Opd.ofCode (bitsOf w 15 8)) (Opd.ofCode (bitsOf w 7 0)))
  | _ => .error .unassigned

/-- The opcodes 0x30 to 0x3F (R295): `lo` is the low digit of OP, `w` the whole word. -/
def decodeBand3 (lo w : Nat) : Except DecodeError Instr :=
  match lo with
  | 0 => .ok (.sra (Opd.ofCode (bitsOf w 23 16)) (Opd.ofCode (bitsOf w 15 8)) (Opd.ofCode (bitsOf w 7 0)))
  | 1 => .ok (.rotl (Opd.ofCode (bitsOf w 23 16)) (Opd.ofCode (bitsOf w 15 8)) (Opd.ofCode (bitsOf w 7 0)))
  | 2 => .ok (.bfe (Opd.ofCode (bitsOf w 23 16)) (Opd.ofCode (bitsOf w 15 8)) (Opd.ofCode (bitsOf w 7 0)))
  | 3 => .ok (.bfi (Opd.ofCode (bitsOf w 23 16)) (Opd.ofCode (bitsOf w 15 8)) (Opd.ofCode (bitsOf w 7 0)))
  | 4 => reservedZero w 0x0000FF (.popc (Opd.ofCode (bitsOf w 23 16)) (Opd.ofCode (bitsOf w 15 8)))
  | 5 => reservedZero w 0x0000FF (.clz (Opd.ofCode (bitsOf w 23 16)) (Opd.ofCode (bitsOf w 15 8)))
  | 6 => reservedZero w 0x0000FF (.brev (Opd.ofCode (bitsOf w 23 16)) (Opd.ofCode (bitsOf w 15 8)))
  | 7 => .ok (.icmp (bitsOf w 23 21) (PredF.ofCode (bitsOf w 20 16)) (Opd.ofCode (bitsOf w 15 8)) (Opd.ofCode (bitsOf w 7 0)))
  | 8 => .ok (.sel (Opd.ofCode (bitsOf w 23 16)) (Opd.ofCode (bitsOf w 15 8)) (Opd.ofCode (bitsOf w 7 0)))
  | 9 => reservedZero w 0x0000FF (.mov (Opd.ofCode (bitsOf w 23 16)) (Opd.ofCode (bitsOf w 15 8)))
  | 10 => .ok (.idiv (Opd.ofCode (bitsOf w 23 16)) (Opd.ofCode (bitsOf w 15 8)) (Opd.ofCode (bitsOf w 7 0)))
  | 11 => .ok (.irem (Opd.ofCode (bitsOf w 23 16)) (Opd.ofCode (bitsOf w 15 8)) (Opd.ofCode (bitsOf w 7 0)))
  | 12 => .ok (.pmov (Opd.ofCode (bitsOf w 23 16)) (Opd.ofCode (bitsOf w 15 8)) (PredF.ofCode (bitsOf w 7 0)))
  | 13 => .ok (.plop (bitsOf w 23 21) (PredF.ofCode (bitsOf w 20 16)) (PredF.ofCode (bitsOf w 15 8)) (PredF.ofCode (bitsOf w 7 0)))
  | _ => .error .unassigned

/-- The opcodes 0x40 to 0x4F (R295): `lo` is the low digit of OP, `w` the whole word. -/
def decodeBand4 (lo w : Nat) : Except DecodeError Instr :=
  match lo with
  | 0 => .ok (.fadd (Opd.ofCode (bitsOf w 23 16)) (Opd.ofCode (bitsOf w 15 8)) (Opd.ofCode (bitsOf w 7 0)))
  | 1 => .ok (.fsub (Opd.ofCode (bitsOf w 23 16)) (Opd.ofCode (bitsOf w 15 8)) (Opd.ofCode (bitsOf w 7 0)))
  | 2 => .ok (.fmul (Opd.ofCode (bitsOf w 23 16)) (Opd.ofCode (bitsOf w 15 8)) (Opd.ofCode (bitsOf w 7 0)))
  | 3 => .ok (.ffma (Opd.ofCode (bitsOf w 23 16)) (Opd.ofCode (bitsOf w 15 8)) (Opd.ofCode (bitsOf w 7 0)))
  | 4 => .ok (.ffms (Opd.ofCode (bitsOf w 23 16)) (Opd.ofCode (bitsOf w 15 8)) (Opd.ofCode (bitsOf w 7 0)))
  | 5 => .ok (.fmin (Opd.ofCode (bitsOf w 23 16)) (Opd.ofCode (bitsOf w 15 8)) (Opd.ofCode (bitsOf w 7 0)))
  | 6 => .ok (.fmax (Opd.ofCode (bitsOf w 23 16)) (Opd.ofCode (bitsOf w 15 8)) (Opd.ofCode (bitsOf w 7 0)))
  | 7 => reservedZero w 0x0000FF (.fabs (Opd.ofCode (bitsOf w 23 16)) (Opd.ofCode (bitsOf w 15 8)))
  | 8 => reservedZero w 0x0000FF (.fneg (Opd.ofCode (bitsOf w 23 16)) (Opd.ofCode (bitsOf w 15 8)))
  | 9 => .ok (.fcmp (bitsOf w 23 21) (PredF.ofCode (bitsOf w 20 16)) (Opd.ofCode (bitsOf w 15 8)) (Opd.ofCode (bitsOf w 7 0)))
  | 10 => reservedZero w 0x0000FF (.fclass (Opd.ofCode (bitsOf w 23 16)) (Opd.ofCode (bitsOf w 15 8)))
  | 11 => .ok (.fscale (Opd.ofCode (bitsOf w 23 16)) (Opd.ofCode (bitsOf w 15 8)) (Opd.ofCode (bitsOf w 7 0)))
  | 12 => reservedZero w 0x0000FF (.frnd (Opd.ofCode (bitsOf w 23 16)) (Opd.ofCode (bitsOf w 15 8)))
  | 13 => reservedZero w 0x0000FF (.frcp (Opd.ofCode (bitsOf w 23 16)) (Opd.ofCode (bitsOf w 15 8)))
  | 14 => reservedZero w 0x0000FF (.frsq (Opd.ofCode (bitsOf w 23 16)) (Opd.ofCode (bitsOf w 15 8)))
  | 15 => reservedZero w 0x0000FF (.fsqrt (Opd.ofCode (bitsOf w 23 16)) (Opd.ofCode (bitsOf w 15 8)))
  | _ => .error .unassigned

/-- The opcodes 0x50 to 0x5F (R295): `lo` is the low digit of OP, `w` the whole word. -/
def decodeBand5 (lo w : Nat) : Except DecodeError Instr :=
  match lo with
  | 0 => .ok (.fdiv (Opd.ofCode (bitsOf w 23 16)) (Opd.ofCode (bitsOf w 15 8)) (Opd.ofCode (bitsOf w 7 0)))
  | 1 => reservedZero w 0x0000FF (.fexp2 (Opd.ofCode (bitsOf w 23 16)) (Opd.ofCode (bitsOf w 15 8)))
  | 2 => reservedZero w 0x0000FF (.flog2 (Opd.ofCode (bitsOf w 23 16)) (Opd.ofCode (bitsOf w 15 8)))
  | 3 => reservedZero w 0x0000FF (.fsin (Opd.ofCode (bitsOf w 23 16)) (Opd.ofCode (bitsOf w 15 8)))
  | 4 => reservedZero w 0x0000FF (.fcos (Opd.ofCode (bitsOf w 23 16)) (Opd.ofCode (bitsOf w 15 8)))
  | 5 => reservedZero w 0x0000FF (.ftanh (Opd.ofCode (bitsOf w 23 16)) (Opd.ofCode (bitsOf w 15 8)))
  | 6 => .ok (.fdot2 (Opd.ofCode (bitsOf w 23 16)) (Opd.ofCode (bitsOf w 15 8)) (Opd.ofCode (bitsOf w 7 0)))
  | _ => .error .unassigned

/-- The opcodes 0x60 to 0x6F (R295): `lo` is the low digit of OP, `w` the whole word. -/
def decodeBand6 (lo w : Nat) : Except DecodeError Instr :=
  match lo with
  | 0 => reservedZero w 0x000080 (.cvt (Opd.ofCode (bitsOf w 23 16)) (Opd.ofCode (bitsOf w 15 8)) (bitsOf w 6 4) (bitsOf w 3 0))
  | 1 => reservedZero w 0x000080 (.cvtr (Opd.ofCode (bitsOf w 23 16)) (Opd.ofCode (bitsOf w 15 8)) (bitsOf w 6 4) (bitsOf w 3 0))
  | 2 => .ok (.qhad (Opd.ofCode (bitsOf w 23 16)) (Opd.ofCode (bitsOf w 15 8)) (Opd.ofCode (bitsOf w 7 0)))
  | 3 => reservedZero w 0x000070 (.form (Opd.ofCode (bitsOf w 23 16)) (Opd.ofCode (bitsOf w 15 8)) (bitOf w 7) (bitsOf w 3 0))
  | 4 => reservedZero w 0x00007C (.unform (Opd.ofCode (bitsOf w 23 16)) (Opd.ofCode (bitsOf w 15 8)) (bitOf w 7) (bitsOf w 1 0))
  | 5 => reservedZero w 0x0000FF (.xclr (bitsOf w 23 16) (Opd.ofCode (bitsOf w 15 8)))
  | 6 => .ok (.xadd (bitsOf w 23 16) (Opd.ofCode (bitsOf w 15 8)) (bitOf w 7) (bitsOf w 6 0))
  | 7 => .ok (.xmad (bitsOf w 23 16) (Opd.ofCode (bitsOf w 15 8)) (Opd.ofCode (bitsOf w 7 0)))
  | 8 => .ok (.xrnd (Opd.ofCode (bitsOf w 23 16)) (bitsOf w 15 8) (bitsOf w 7 0))
  | 9 => reservedZero w 0x000030 (.xmov (Opd.ofCode (bitsOf w 23 16)) (Opd.ofCode (bitsOf w 15 8)) (bitsOf w 7 6) (bitsOf w 3 0))
  | 10 => reservedZero w 0x0000FF (.kgen (Opd.ofCode (bitsOf w 23 16)) (Opd.ofCode (bitsOf w 15 8)))
  | _ => .error .unassigned

/-- The opcodes 0x70 to 0x7F (R295): `lo` is the low digit of OP, `w` the whole word. -/
def decodeBand7 (lo w : Nat) : Except DecodeError Instr :=
  match lo with
  | 0 => .ok (.shfl (Opd.ofCode (bitsOf w 23 16)) (Opd.ofCode (bitsOf w 15 8)) (Opd.ofCode (bitsOf w 7 0)))
  | 1 => .ok (.shfx (Opd.ofCode (bitsOf w 23 16)) (Opd.ofCode (bitsOf w 15 8)) (Opd.ofCode (bitsOf w 7 0)))
  | 2 => reservedZero w 0x000040 (.nbr (Opd.ofCode (bitsOf w 23 16)) (Opd.ofCode (bitsOf w 15 8)) (bitOf w 7) (bitsOf w 5 0))
  | 3 => reservedZero w 0x0000FF (.ballot (Opd.ofCode (bitsOf w 23 16)) (PredF.ofCode (bitsOf w 15 8)))
  | 4 => .ok (.vote (PredF.ofCode (bitsOf w 23 16)) (PredF.ofCode (bitsOf w 15 8)) (bitsOf w 7 0))
  | 5 => .ok (.redi (Opd.ofCode (bitsOf w 23 16)) (Opd.ofCode (bitsOf w 15 8)) (bitsOf w 7 0))
  | 6 => .ok (.redf (Opd.ofCode (bitsOf w 23 16)) (Opd.ofCode (bitsOf w 15 8)) (bitsOf w 7 0))
  | 7 => reservedZero w 0x0000FF (.xred (bitsOf w 23 16) (bitsOf w 15 8))
  | 8 => reservedZero w 0x000078 (.scan (Opd.ofCode (bitsOf w 23 16)) (Opd.ofCode (bitsOf w 15 8)) (bitOf w 7) (bitsOf w 2 0))
  | 9 => .ok (.bcast (Opd.ofCode (bitsOf w 23 16)) (Opd.ofCode (bitsOf w 15 8)) (bitsOf w 7 0))
  | _ => .error .unassigned

/-- The opcodes 0x80 to 0x8F (R295): `lo` is the low digit of OP, `w` the whole word. -/
def decodeBand8 (lo w : Nat) : Except DecodeError Instr :=
  match lo with
  | 0 => .ok (.ldb (Opd.ofCode (bitsOf w 23 16)) (Opd.ofCode (bitsOf w 15 8)) (Opd.ofCode (bitsOf w 7 0)))
  | 1 => .ok (.ldsb (Opd.ofCode (bitsOf w 23 16)) (Opd.ofCode (bitsOf w 15 8)) (Opd.ofCode (bitsOf w 7 0)))
  | 2 => .ok (.ldh (Opd.ofCode (bitsOf w 23 16)) (Opd.ofCode (bitsOf w 15 8)) (Opd.ofCode (bitsOf w 7 0)))
  | 3 => .ok (.ldsh (Opd.ofCode (bitsOf w 23 16)) (Opd.ofCode (bitsOf w 15 8)) (Opd.ofCode (bitsOf w 7 0)))
  | 4 => .ok (.ldw (Opd.ofCode (bitsOf w 23 16)) (Opd.ofCode (bitsOf w 15 8)) (Opd.ofCode (bitsOf w 7 0)))
  | 5 => .ok (.ldd (Opd.ofCode (bitsOf w 23 16)) (Opd.ofCode (bitsOf w 15 8)) (Opd.ofCode (bitsOf w 7 0)))
  | 6 => .ok (.ldq (Opd.ofCode (bitsOf w 23 16)) (Opd.ofCode (bitsOf w 15 8)) (Opd.ofCode (bitsOf w 7 0)))
  | 7 => .ok (.stb (Opd.ofCode (bitsOf w 23 16)) (Opd.ofCode (bitsOf w 15 8)) (Opd.ofCode (bitsOf w 7 0)))
  | 8 => .ok (.sth (Opd.ofCode (bitsOf w 23 16)) (Opd.ofCode (bitsOf w 15 8)) (Opd.ofCode (bitsOf w 7 0)))
  | 9 => .ok (.stw (Opd.ofCode (bitsOf w 23 16)) (Opd.ofCode (bitsOf w 15 8)) (Opd.ofCode (bitsOf w 7 0)))
  | 10 => .ok (.std (Opd.ofCode (bitsOf w 23 16)) (Opd.ofCode (bitsOf w 15 8)) (Opd.ofCode (bitsOf w 7 0)))
  | 11 => .ok (.stq (Opd.ofCode (bitsOf w 23 16)) (Opd.ofCode (bitsOf w 15 8)) (Opd.ofCode (bitsOf w 7 0)))
  | 12 => .ok (.ldaw (Opd.ofCode (bitsOf w 23 16)) (Opd.ofCode (bitsOf w 15 8)) (Opd.ofCode (bitsOf w 7 0)))
  | 13 => .ok (.ldad (Opd.ofCode (bitsOf w 23 16)) (Opd.ofCode (bitsOf w 15 8)) (Opd.ofCode (bitsOf w 7 0)))
  | 14 => .ok (.stlw (Opd.ofCode (bitsOf w 23 16)) (Opd.ofCode (bitsOf w 15 8)) (Opd.ofCode (bitsOf w 7 0)))
  | 15 => .ok (.stld (Opd.ofCode (bitsOf w 23 16)) (Opd.ofCode (bitsOf w 15 8)) (Opd.ofCode (bitsOf w 7 0)))
  | _ => .error .unassigned

/-- The opcodes 0x90 to 0x9F (R295): `lo` is the low digit of OP, `w` the whole word. -/
def decodeBand9 (lo w : Nat) : Except DecodeError Instr :=
  match lo with
  | 0 => .ok (.aadd (Opd.ofCode (bitsOf w 23 16)) (Opd.ofCode (bitsOf w 15 8)) (Opd.ofCode (bitsOf w 7 0)))
  | 1 => .ok (.amin (Opd.ofCode (bitsOf w 23 16)) (Opd.ofCode (bitsOf w 15 8)) (Opd.ofCode (bitsOf w 7 0)))
  | 2 => .ok (.amax (Opd.ofCode (bitsOf w 23 16)) (Opd.ofCode (bitsOf w 15 8)) (Opd.ofCode (bitsOf w 7 0)))
  | 3 => .ok (.aand (Opd.ofCode (bitsOf w 23 16)) (Opd.ofCode (bitsOf w 15 8)) (Opd.ofCode (bitsOf w 7 0)))
  | 4 => .ok (.aor (Opd.ofCode (bitsOf w 23 16)) (Opd.ofCode (bitsOf w 15 8)) (Opd.ofCode (bitsOf w 7 0)))
  | 5 => .ok (.axor (Opd.ofCode (bitsOf w 23 16)) (Opd.ofCode (bitsOf w 15 8)) (Opd.ofCode (bitsOf w 7 0)))
  | 6 => .ok (.axch (Opd.ofCode (bitsOf w 23 16)) (Opd.ofCode (bitsOf w 15 8)) (Opd.ofCode (bitsOf w 7 0)))
  | 7 => .ok (.acas (Opd.ofCode (bitsOf w 23 16)) (Opd.ofCode (bitsOf w 15 8)) (Opd.ofCode (bitsOf w 7 0)))
  | 8 => .ok (.afadd (Opd.ofCode (bitsOf w 23 16)) (Opd.ofCode (bitsOf w 15 8)) (Opd.ofCode (bitsOf w 7 0)))
  | 9 => .ok (.axsum (Opd.ofCode (bitsOf w 23 16)) (Opd.ofCode (bitsOf w 15 8)) (bitsOf w 7 0))
  | 10 => .ok (.ainc (Opd.ofCode (bitsOf w 23 16)) (Opd.ofCode (bitsOf w 15 8)) (Opd.ofCode (bitsOf w 7 0)))
  | 11 => reservedZero w 0xFFFFFF (.fence)
  | 12 => reservedZero w 0xFFFFFF (.fencee)
  | 13 => reservedZero w 0x0000FF (.tagl (Opd.ofCode (bitsOf w 23 16)) (Opd.ofCode (bitsOf w 15 8)))
  | 14 => reservedZero w 0xFF0000 (.tags (Opd.ofCode (bitsOf w 15 8)) (Opd.ofCode (bitsOf w 7 0)))
  | 15 => reservedZero w 0x0000FF (.tagi (Opd.ofCode (bitsOf w 23 16)) (Opd.ofCode (bitsOf w 15 8)))
  | _ => .error .unassigned

/-- The opcodes 0xA0 to 0xAF (R295): `lo` is the low digit of OP, `w` the whole word. -/
def decodeBandA (lo w : Nat) : Except DecodeError Instr :=
  match lo with
  | 0 => reservedZero w 0xFF0000 (.cflush (Opd.ofCode (bitsOf w 15 8)) (Opd.ofCode (bitsOf w 7 0)))
  | 1 => reservedZero w 0xFE0000 (.pref (bitOf w 16) (Opd.ofCode (bitsOf w 15 8)) (Opd.ofCode (bitsOf w 7 0)))
  | 2 => .ok (.ldfe (Opd.ofCode (bitsOf w 23 16)) (Opd.ofCode (bitsOf w 15 8)) (Opd.ofCode (bitsOf w 7 0)))
  | _ => .error .unassigned

/-- The opcodes 0xB0 to 0xBF (R295): `lo` is the low digit of OP, `w` the whole word. -/
def decodeBandB (lo w : Nat) : Except DecodeError Instr :=
  match lo with
  | 0 => reservedZero w 0x0000FF (.tcfg (bitsOf w 23 16) (Opd.ofCode (bitsOf w 15 8)))
  | 1 => .ok (.tld (bitsOf w 23 16) (Opd.ofCode (bitsOf w 15 8)) (Opd.ofCode (bitsOf w 7 0)))
  | 2 => .ok (.tst (bitsOf w 23 16) (Opd.ofCode (bitsOf w 15 8)) (Opd.ofCode (bitsOf w 7 0)))
  | 3 => reservedZero w 0x000040 (.twr (bitsOf w 23 16) (Opd.ofCode (bitsOf w 15 8)) (bitOf w 7) (bitsOf w 5 0))
  | 4 => reservedZero w 0x000040 (.trd (Opd.ofCode (bitsOf w 23 16)) (bitsOf w 15 8) (bitOf w 7) (bitsOf w 5 0))
  | 5 => reservedZero w 0x00FFFF (.tzero (bitsOf w 23 16))
  | 6 => reservedZero w 0x780000 (.mma (bitOf w 23) (bitsOf w 18 16) (bitsOf w 15 8) (Opd.ofCode (bitsOf w 7 0)))
  | 7 => reservedZero w 0x780060 (.mmat (bitOf w 23) (bitsOf w 18 16) (bitsOf w 15 8) (bitsOf w 7 7) (bitsOf w 4 0))
  | 8 => reservedZero w 0x00E000 (.ard (Opd.ofCode (bitsOf w 23 16)) (bitsOf w 12 11) (bitsOf w 10 8) (Opd.ofCode (bitsOf w 7 0)))
  | 9 => reservedZero w 0x00FFFF (.aclr (bitsOf w 23 16))
  | 10 => reservedZero w 0x0000FF (.igalloc (Opd.ofCode (bitsOf w 23 16)) (Opd.ofCode (bitsOf w 15 8)))
  | 11 => .ok (.igload (Opd.ofCode (bitsOf w 23 16)) (Opd.ofCode (bitsOf w 15 8)) (Opd.ofCode (bitsOf w 7 0)))
  | 12 => reservedZero w 0xFF00FF (.igpin (Opd.ofCode (bitsOf w 15 8)))
  | 13 => reservedZero w 0xFF00FF (.igunpin (Opd.ofCode (bitsOf w 15 8)))
  | 14 => reservedZero w 0xFF00FF (.igrevoke (Opd.ofCode (bitsOf w 15 8)))
  | 15 => reservedZero w 0x0000FF (.igstat (Opd.ofCode (bitsOf w 23 16)) (Opd.ofCode (bitsOf w 15 8)))
  | _ => .error .unassigned

/-- The opcodes 0xC0 to 0xCF (R295): `lo` is the low digit of OP, `w` the whole word. -/
def decodeBandC (lo w : Nat) : Except DecodeError Instr :=
  match lo with
  | 0 => .ok (.lcopy (Opd.ofCode (bitsOf w 23 16)) (Opd.ofCode (bitsOf w 15 8)) (bitOf w 7) (bitOf w 6) (bitOf w 5) (bitsOf w 4 0))
  | 1 => reservedZero w 0x000040 (.lgath (Opd.ofCode (bitsOf w 23 16)) (Opd.ofCode (bitsOf w 15 8)) (bitOf w 7) (bitOf w 5) (bitsOf w 4 0))
  | 2 => reservedZero w 0x000040 (.lscat (Opd.ofCode (bitsOf w 23 16)) (Opd.ofCode (bitsOf w 15 8)) (bitOf w 7) (bitOf w 5) (bitsOf w 4 0))
  | 3 => .ok (.lfill (Opd.ofCode (bitsOf w 23 16)) (Opd.ofCode (bitsOf w 15 8)) (bitOf w 7) (bitOf w 6) (bitOf w 5) (bitsOf w 4 0))
  | 4 => reservedZero w 0xE000FF (.shld (bitsOf w 20 16) (Opd.ofCode (bitsOf w 15 8)))
  | 5 => reservedZero w 0x000010 (.mset (Opd.ofCode (bitsOf w 23 16)) (bitsOf w 15 8) (bitOf w 7) (bitOf w 6) (bitOf w 5) (bitsOf w 3 2) (bitsOf w 1 0))
  | 6 => reservedZero w 0x0000FF (.mstat (Opd.ofCode (bitsOf w 23 16)) (bitsOf w 15 8))
  | 7 => reservedZero w 0x0000FF (.tlsig (Opd.ofCode (bitsOf w 23 16)) (Opd.ofCode (bitsOf w 15 8)))
  | 8 => reservedZero w 0x0000FE (.tlrd (Opd.ofCode (bitsOf w 23 16)) (Opd.ofCode (bitsOf w 15 8)) (bitOf w 0))
  | 9 => reservedZero w 0xFF0080 (.bar (bitsOf w 15 8) (bitsOf w 6 0))
  | 10 => reservedZero w 0xFF0080 (.bara (bitsOf w 15 8) (bitsOf w 6 0))
  | 11 => reservedZero w 0x0000FF (.barw (Opd.ofCode (bitsOf w 23 16)) (bitsOf w 15 8))
  | 12 => .ok (.launch (Opd.ofCode (bitsOf w 23 16)) (Opd.ofCode (bitsOf w 15 8)) (Opd.ofCode (bitsOf w 7 0)))
  | 13 => reservedZero w 0x0000FF (.gsig (Opd.ofCode (bitsOf w 23 16)) (Opd.ofCode (bitsOf w 15 8)))
  | 14 => .ok (.gadd (Opd.ofCode (bitsOf w 23 16)) (Opd.ofCode (bitsOf w 15 8)) (Opd.ofCode (bitsOf w 7 0)))
  | 15 => reservedZero w 0xE0FFFF (.shev (bitsOf w 20 16))
  | _ => .error .unassigned

/-- The opcodes 0xD0 to 0xDF (R295): `lo` is the low digit of OP, `w` the whole word. -/
def decodeBandD (lo w : Nat) : Except DecodeError Instr :=
  match lo with
  | 0 => reservedZero w 0x00FFFF (.pour (Opd.ofCode (bitsOf w 23 16)))
  | 1 => reservedZero w 0xFF00FF (.seal (Opd.ofCode (bitsOf w 15 8)))
  | 2 => .ok (.acqv (Opd.ofCode (bitsOf w 23 16)) (Opd.ofCode (bitsOf w 15 8)) (Opd.ofCode (bitsOf w 7 0)))
  | 3 => .ok (.relv (Opd.ofCode (bitsOf w 23 16)) (Opd.ofCode (bitsOf w 15 8)) (Opd.ofCode (bitsOf w 7 0)))
  | 4 => reservedZero w 0x0000FF (.vstat (Opd.ofCode (bitsOf w 23 16)) (Opd.ofCode (bitsOf w 15 8)))
  | 5 => reservedZero w 0xFFFFFF (.doneTask)
  | 6 => reservedZero w 0x0000FE (.mbox (Opd.ofCode (bitsOf w 23 16)) (Opd.ofCode (bitsOf w 15 8)) (bitOf w 0))
  | 7 => reservedZero w 0xFF0000 (.pmark (bitsOf w 15 0))
  | 8 => .ok (.ckpt (Opd.ofCode (bitsOf w 23 16)) (Opd.ofCode (bitsOf w 15 8)) (Opd.ofCode (bitsOf w 7 0)))
  | 9 => reservedZero w 0x0000FF (.haltb (Opd.ofCode (bitsOf w 23 16)) (Opd.ofCode (bitsOf w 15 8)))
  | 10 => reservedZero w 0x0000F8 (.scrub (Opd.ofCode (bitsOf w 23 16)) (Opd.ofCode (bitsOf w 15 8)) (bitOf w 2) (bitOf w 1) (bitOf w 0))
  | _ => .error .unassigned

/-- The decoder (R286, R295, R296): total on any 32-bit word; a word it refuses is named by its cause. -/
def decodeWord (w : Nat) : Except DecodeError Instr :=
  match bitsOf w 31 28 with
  | 0 => decodeBand0 (bitsOf w 27 24) w
  | 1 => decodeBand1 (bitsOf w 27 24) w
  | 2 => decodeBand2 (bitsOf w 27 24) w
  | 3 => decodeBand3 (bitsOf w 27 24) w
  | 4 => decodeBand4 (bitsOf w 27 24) w
  | 5 => decodeBand5 (bitsOf w 27 24) w
  | 6 => decodeBand6 (bitsOf w 27 24) w
  | 7 => decodeBand7 (bitsOf w 27 24) w
  | 8 => decodeBand8 (bitsOf w 27 24) w
  | 9 => decodeBand9 (bitsOf w 27 24) w
  | 10 => decodeBandA (bitsOf w 27 24) w
  | 11 => decodeBandB (bitsOf w 27 24) w
  | 12 => decodeBandC (bitsOf w 27 24) w
  | 13 => decodeBandD (bitsOf w 27 24) w
  | _ => .error .unassigned

/-- The encoder, from the same entry tables: the word of an instruction. A step of the device has none. -/
def encode : Instr → Option Nat
  | .powerOn _ => none
  | .coldStart _ _ => none
  | .warmStart _ _ _ => none
  | .fencedDieCooled _ => none
  | .recoveryWindowWrite _ _ _ => none
  | .recover _ => none
  | .recoveryCheckDone _ => none
  | .minup _ => none
  | .fuseWriteDone => none
  | .attGo _ _ => none
  | .reportReady => none
  | .tokenCheck _ => none
  | .tlbinv _ _ => none
  | .tlbinvDone => none
  | .routeTableWrite _ _ _ => none
  | .testRequest _ _ => none
  | .registerWrite _ _ _ _ => none
  | .stagingWrite _ _ _ _ => none
  | .stagingAreaTimeout => none
  | .hostLaunch _ _ _ => none
  | .hostGraph _ _ _ => none
  | .hostSignal _ _ _ => none
  | .hostWait _ _ _ => none
  | .waitTimeout => none
  | .create _ _ _ => none
  | .destroy _ _ _ => none
  | .bindQueue _ _ _ => none
  | .unbindQueue _ _ _ => none
  | .quota _ _ _ => none
  | .limits _ _ _ => none
  | .monHalt _ _ _ => none
  | .monResume _ _ _ => none
  | .monStep _ _ _ => none
  | .monReadreg _ _ _ => none
  | .monWritereg _ _ _ => none
  | .monReadmem _ _ _ => none
  | .monSetbp _ _ _ => none
  | .monDump _ _ _ => none
  | .monOpen _ _ _ => none
  | .monClose _ _ _ => none
  | .packetStart _ => none
  | .gangPlacement => none
  | .ageing => none
  | .timeSliceExpiry => none
  | .preemptionPointSave _ _ => none
  | .forcedFullSave _ _ => none
  | .gangRetire _ _ => none
  | .notifyTimeout => none
  | .nodeStart _ => none
  | .nodeComplete _ _ => none
  | .bubbleSlotOpen => none
  | .bubbleSlotClose => none
  | .slotPrediction _ _ _ => none
  | .sensorSample _ _ => none
  | .refreshCommand _ => none
  | .dieFence _ => none
  | .powerLimit _ _ _ => none
  | .testAttempt _ => none
  | .testComplete _ _ => none
  | .testDeferral => none
  | .evacuationWatchdog => none
  | .timeLimitCrossing => none
  | .energySample _ _ => none
  | .quenchComplete _ => none
  | .stepToken _ _ => none
  | .crucibleStop _ _ => none
  | .ingotReload _ _ => none
  | .ingotLoadComplete _ _ => none
  | .ladleOpBegin _ _ _ => none
  | .ladleOpPerformed _ _ _ _ => none
  | .operationComplete _ => none
  | .pageWalk _ _ _ => none
  | .fetchLineReturn _ _ => none
  | .remoteRequest _ _ => none
  | .remoteAcknowledgement _ _ => none
  | .cxlCompletion _ _ => none
  | .requestTimeout => none
  | .transactionFlit _ _ => none
  | .idleFlit _ => none
  | .flitResendRequest _ _ => none
  | .fenceNotice _ => none
  | .retrainRequest _ => none
  | .linkIdleTimeout _ => none
  | .retrainComplete _ => none
  | .retrainTimeout => none
  | .cxlPortFence _ => none
  | .patrolScrub _ _ _ => none
  | .faultDelivery _ => none
  | .impreciseFault _ _ => none
  | .hangWatchdog => none
  | .hmaskClear => none
  | .profileTick => none
  | .waittTimeout => none
  | .nop => some (0x00000000)
  | .mode m => some (0x01000000 + m)
  | .bra b => some (0x02000000 + b.code)
  | .brp p b => some (0x03000000 + p.code * 65536 + b.code)
  | .brs z a b => some (0x04000000 + z * 65536 + a.code * 256 + b.code)
  | .join => some (0x05000000)
  | .call d b => some (0x06000000 + d.code * 65536 + b.code)
  | .ret a => some (0x07000000 + a.code * 256)
  | .exitLanes => some (0x08000000)
  | .regang => some (0x09000000)
  | .waitf mask => some (0x0A000000 + mask)
  | .waitt d a b => some (0x0B000000 + d.code * 65536 + a.code * 256 + b.code)
  | .waitm m any phase st => some (0x0C000000 + m * 256 + any.toNat * 8 + phase.toNat * 4 + st)
  | .prefi a n => some (0x0D000000 + a.code * 256 + n)
  | .ifence => some (0x0E000000)
  | .yield => some (0x0F000000)
  | .sleep => some (0x10000000)
  | .wake => some (0x11000000)
  | .elect p => some (0x12000000 + p.code * 65536)
  | .gets d arg num => some (0x13000000 + d.code * 65536 + arg * 256 + num)
  | .sets a num => some (0x14000000 + a.code * 256 + num)
  | .sigchk => some (0x15000000)
  | .live i => some (0x16000000 + i)
  | .trap c => some (0x17000000 + c)
  | .rft => some (0x18000000)
  | .brk => some (0x19000000)
  | .partn l => some (0x1A000000 + l)
  | .brx n a b => some (0x1B000000 + n * 65536 + a.code * 256 + b.code)
  | .iadd d a b => some (0x20000000 + d.code * 65536 + a.code * 256 + b.code)
  | .isub d a b => some (0x21000000 + d.code * 65536 + a.code * 256 + b.code)
  | .imul d a b => some (0x22000000 + d.code * 65536 + a.code * 256 + b.code)
  | .imulh d a b => some (0x23000000 + d.code * 65536 + a.code * 256 + b.code)
  | .imad d a b => some (0x24000000 + d.code * 65536 + a.code * 256 + b.code)
  | .iaddc d a b => some (0x25000000 + d.code * 65536 + a.code * 256 + b.code)
  | .isubb d a b => some (0x26000000 + d.code * 65536 + a.code * 256 + b.code)
  | .iabs d a => some (0x27000000 + d.code * 65536 + a.code * 256)
  | .imin d a b => some (0x28000000 + d.code * 65536 + a.code * 256 + b.code)
  | .imax d a b => some (0x29000000 + d.code * 65536 + a.code * 256 + b.code)
  | .andOp d a b => some (0x2A000000 + d.code * 65536 + a.code * 256 + b.code)
  | .orOp d a b => some (0x2B000000 + d.code * 65536 + a.code * 256 + b.code)
  | .xorOp d a b => some (0x2C000000 + d.code * 65536 + a.code * 256 + b.code)
  | .andn d a b => some (0x2D000000 + d.code * 65536 + a.code * 256 + b.code)
  | .shl d a b => some (0x2E000000 + d.code * 65536 + a.code * 256 + b.code)
  | .shr d a b => some (0x2F000000 + d.code * 65536 + a.code * 256 + b.code)
  | .sra d a b => some (0x30000000 + d.code * 65536 + a.code * 256 + b.code)
  | .rotl d a b => some (0x31000000 + d.code * 65536 + a.code * 256 + b.code)
  | .bfe d a b => some (0x32000000 + d.code * 65536 + a.code * 256 + b.code)
  | .bfi d a b => some (0x33000000 + d.code * 65536 + a.code * 256 + b.code)
  | .popc d a => some (0x34000000 + d.code * 65536 + a.code * 256)
  | .clz d a => some (0x35000000 + d.code * 65536 + a.code * 256)
  | .brev d a => some (0x36000000 + d.code * 65536 + a.code * 256)
  | .icmp cond p a b => some (0x37000000 + cond * 2097152 + p.code * 65536 + a.code * 256 + b.code)
  | .sel d a b => some (0x38000000 + d.code * 65536 + a.code * 256 + b.code)
  | .mov d a => some (0x39000000 + d.code * 65536 + a.code * 256)
  | .idiv d a b => some (0x3A000000 + d.code * 65536 + a.code * 256 + b.code)
  | .irem d a b => some (0x3B000000 + d.code * 65536 + a.code * 256 + b.code)
  | .pmov d a p => some (0x3C000000 + d.code * 65536 + a.code * 256 + p.code)
  | .plop o d a b => some (0x3D000000 + o * 2097152 + d.code * 65536 + a.code * 256 + b.code)
  | .fadd d a b => some (0x40000000 + d.code * 65536 + a.code * 256 + b.code)
  | .fsub d a b => some (0x41000000 + d.code * 65536 + a.code * 256 + b.code)
  | .fmul d a b => some (0x42000000 + d.code * 65536 + a.code * 256 + b.code)
  | .ffma d a b => some (0x43000000 + d.code * 65536 + a.code * 256 + b.code)
  | .ffms d a b => some (0x44000000 + d.code * 65536 + a.code * 256 + b.code)
  | .fmin d a b => some (0x45000000 + d.code * 65536 + a.code * 256 + b.code)
  | .fmax d a b => some (0x46000000 + d.code * 65536 + a.code * 256 + b.code)
  | .fabs d a => some (0x47000000 + d.code * 65536 + a.code * 256)
  | .fneg d a => some (0x48000000 + d.code * 65536 + a.code * 256)
  | .fcmp cond p a b => some (0x49000000 + cond * 2097152 + p.code * 65536 + a.code * 256 + b.code)
  | .fclass d a => some (0x4A000000 + d.code * 65536 + a.code * 256)
  | .fscale d a b => some (0x4B000000 + d.code * 65536 + a.code * 256 + b.code)
  | .frnd d a => some (0x4C000000 + d.code * 65536 + a.code * 256)
  | .frcp d a => some (0x4D000000 + d.code * 65536 + a.code * 256)
  | .frsq d a => some (0x4E000000 + d.code * 65536 + a.code * 256)
  | .fsqrt d a => some (0x4F000000 + d.code * 65536 + a.code * 256)
  | .fdiv d a b => some (0x50000000 + d.code * 65536 + a.code * 256 + b.code)
  | .fexp2 d a => some (0x51000000 + d.code * 65536 + a.code * 256)
  | .flog2 d a => some (0x52000000 + d.code * 65536 + a.code * 256)
  | .fsin d a => some (0x53000000 + d.code * 65536 + a.code * 256)
  | .fcos d a => some (0x54000000 + d.code * 65536 + a.code * 256)
  | .ftanh d a => some (0x55000000 + d.code * 65536 + a.code * 256)
  | .fdot2 d a b => some (0x56000000 + d.code * 65536 + a.code * 256 + b.code)
  | .cvt d a p t => some (0x60000000 + d.code * 65536 + a.code * 256 + p * 16 + t)
  | .cvtr d a p t => some (0x61000000 + d.code * 65536 + a.code * 256 + p * 16 + t)
  | .qhad d a b => some (0x62000000 + d.code * 65536 + a.code * 256 + b.code)
  | .form d a h c => some (0x63000000 + d.code * 65536 + a.code * 256 + h.toNat * 128 + c)
  | .unform d a h k => some (0x64000000 + d.code * 65536 + a.code * 256 + h.toNat * 128 + k)
  | .xclr x a => some (0x65000000 + x * 65536 + a.code * 256)
  | .xadd x a s y => some (0x66000000 + x * 65536 + a.code * 256 + s.toNat * 128 + y)
  | .xmad x a b => some (0x67000000 + x * 65536 + a.code * 256 + b.code)
  | .xrnd d x e => some (0x68000000 + d.code * 65536 + x * 256 + e)
  | .xmov d a r w => some (0x69000000 + d.code * 65536 + a.code * 256 + r * 64 + w)
  | .kgen d a => some (0x6A000000 + d.code * 65536 + a.code * 256)
  | .shfl d a b => some (0x70000000 + d.code * 65536 + a.code * 256 + b.code)
  | .shfx d a b => some (0x71000000 + d.code * 65536 + a.code * 256 + b.code)
  | .nbr d a r n => some (0x72000000 + d.code * 65536 + a.code * 256 + r.toNat * 128 + n)
  | .ballot d p => some (0x73000000 + d.code * 65536 + p.code * 256)
  | .vote p q md => some (0x74000000 + p.code * 65536 + q.code * 256 + md)
  | .redi d a op => some (0x75000000 + d.code * 65536 + a.code * 256 + op)
  | .redf d a op => some (0x76000000 + d.code * 65536 + a.code * 256 + op)
  | .xred x y => some (0x77000000 + x * 65536 + y * 256)
  | .scan d a e op => some (0x78000000 + d.code * 65536 + a.code * 256 + e.toNat * 128 + op)
  | .bcast d a n => some (0x79000000 + d.code * 65536 + a.code * 256 + n)
  | .ldb d a b => some (0x80000000 + d.code * 65536 + a.code * 256 + b.code)
  | .ldsb d a b => some (0x81000000 + d.code * 65536 + a.code * 256 + b.code)
  | .ldh d a b => some (0x82000000 + d.code * 65536 + a.code * 256 + b.code)
  | .ldsh d a b => some (0x83000000 + d.code * 65536 + a.code * 256 + b.code)
  | .ldw d a b => some (0x84000000 + d.code * 65536 + a.code * 256 + b.code)
  | .ldd d a b => some (0x85000000 + d.code * 65536 + a.code * 256 + b.code)
  | .ldq d a b => some (0x86000000 + d.code * 65536 + a.code * 256 + b.code)
  | .stb d a b => some (0x87000000 + d.code * 65536 + a.code * 256 + b.code)
  | .sth d a b => some (0x88000000 + d.code * 65536 + a.code * 256 + b.code)
  | .stw d a b => some (0x89000000 + d.code * 65536 + a.code * 256 + b.code)
  | .std d a b => some (0x8A000000 + d.code * 65536 + a.code * 256 + b.code)
  | .stq d a b => some (0x8B000000 + d.code * 65536 + a.code * 256 + b.code)
  | .ldaw d a b => some (0x8C000000 + d.code * 65536 + a.code * 256 + b.code)
  | .ldad d a b => some (0x8D000000 + d.code * 65536 + a.code * 256 + b.code)
  | .stlw d a b => some (0x8E000000 + d.code * 65536 + a.code * 256 + b.code)
  | .stld d a b => some (0x8F000000 + d.code * 65536 + a.code * 256 + b.code)
  | .aadd d a b => some (0x90000000 + d.code * 65536 + a.code * 256 + b.code)
  | .amin d a b => some (0x91000000 + d.code * 65536 + a.code * 256 + b.code)
  | .amax d a b => some (0x92000000 + d.code * 65536 + a.code * 256 + b.code)
  | .aand d a b => some (0x93000000 + d.code * 65536 + a.code * 256 + b.code)
  | .aor d a b => some (0x94000000 + d.code * 65536 + a.code * 256 + b.code)
  | .axor d a b => some (0x95000000 + d.code * 65536 + a.code * 256 + b.code)
  | .axch d a b => some (0x96000000 + d.code * 65536 + a.code * 256 + b.code)
  | .acas d a b => some (0x97000000 + d.code * 65536 + a.code * 256 + b.code)
  | .afadd d a b => some (0x98000000 + d.code * 65536 + a.code * 256 + b.code)
  | .axsum d a x => some (0x99000000 + d.code * 65536 + a.code * 256 + x)
  | .ainc d a b => some (0x9A000000 + d.code * 65536 + a.code * 256 + b.code)
  | .fence => some (0x9B000000)
  | .fencee => some (0x9C000000)
  | .tagl d a => some (0x9D000000 + d.code * 65536 + a.code * 256)
  | .tags a b => some (0x9E000000 + a.code * 256 + b.code)
  | .tagi d a => some (0x9F000000 + d.code * 65536 + a.code * 256)
  | .cflush a b => some (0xA0000000 + a.code * 256 + b.code)
  | .pref h a b => some (0xA1000000 + h.toNat * 65536 + a.code * 256 + b.code)
  | .ldfe d a b => some (0xA2000000 + d.code * 65536 + a.code * 256 + b.code)
  | .tcfg t a => some (0xB0000000 + t * 65536 + a.code * 256)
  | .tld t a b => some (0xB1000000 + t * 65536 + a.code * 256 + b.code)
  | .tst t a b => some (0xB2000000 + t * 65536 + a.code * 256 + b.code)
  | .twr t a h r => some (0xB3000000 + t * 65536 + a.code * 256 + h.toNat * 128 + r)
  | .trd d t h r => some (0xB4000000 + d.code * 65536 + t * 256 + h.toNat * 128 + r)
  | .tzero t => some (0xB5000000 + t * 65536)
  | .mma l k t b => some (0xB6000000 + l.toNat * 8388608 + k * 65536 + t * 256 + b.code)
  | .mmat l k t u p => some (0xB7000000 + l.toNat * 8388608 + k * 65536 + t * 256 + u * 128 + p)
  | .ard d q k b => some (0xB8000000 + d.code * 65536 + q * 2048 + k * 256 + b.code)
  | .aclr k => some (0xB9000000 + k * 65536)
  | .igalloc d a => some (0xBA000000 + d.code * 65536 + a.code * 256)
  | .igload d a b => some (0xBB000000 + d.code * 65536 + a.code * 256 + b.code)
  | .igpin a => some (0xBC000000 + a.code * 256)
  | .igunpin a => some (0xBD000000 + a.code * 256)
  | .igrevoke a => some (0xBE000000 + a.code * 256)
  | .igstat d a => some (0xBF000000 + d.code * 65536 + a.code * 256)
  | .lcopy d a v x w s => some (0xC0000000 + d.code * 65536 + a.code * 256 + v.toNat * 128 + x.toNat * 64 + w.toNat * 32 + s)
  | .lgath d a v w s => some (0xC1000000 + d.code * 65536 + a.code * 256 + v.toNat * 128 + w.toNat * 32 + s)
  | .lscat d a v w s => some (0xC2000000 + d.code * 65536 + a.code * 256 + v.toNat * 128 + w.toNat * 32 + s)
  | .lfill d a v x w s => some (0xC3000000 + d.code * 65536 + a.code * 256 + v.toNat * 128 + x.toNat * 64 + w.toNat * 32 + s)
  | .shld s a => some (0xC4000000 + s * 65536 + a.code * 256)
  | .mset d m l y h f t => some (0xC5000000 + d.code * 65536 + m * 256 + l.toNat * 128 + y.toNat * 64 + h.toNat * 32 + f * 4 + t)
  | .mstat d m => some (0xC6000000 + d.code * 65536 + m * 256)
  | .tlsig d a => some (0xC7000000 + d.code * 65536 + a.code * 256)
  | .tlrd d a i => some (0xC8000000 + d.code * 65536 + a.code * 256 + i.toNat)
  | .bar a n => some (0xC9000000 + a * 256 + n)
  | .bara a n => some (0xCA000000 + a * 256 + n)
  | .barw d a => some (0xCB000000 + d.code * 65536 + a * 256)
  | .launch d a b => some (0xCC000000 + d.code * 65536 + a.code * 256 + b.code)
  | .gsig d a => some (0xCD000000 + d.code * 65536 + a.code * 256)
  | .gadd d a b => some (0xCE000000 + d.code * 65536 + a.code * 256 + b.code)
  | .shev s => some (0xCF000000 + s * 65536)
  | .pour d => some (0xD0000000 + d.code * 65536)
  | .seal a => some (0xD1000000 + a.code * 256)
  | .acqv d a b => some (0xD2000000 + d.code * 65536 + a.code * 256 + b.code)
  | .relv d a b => some (0xD3000000 + d.code * 65536 + a.code * 256 + b.code)
  | .vstat d a => some (0xD4000000 + d.code * 65536 + a.code * 256)
  | .doneTask => some (0xD5000000)
  | .mbox d a r => some (0xD6000000 + d.code * 65536 + a.code * 256 + r.toNat)
  | .pmark m => some (0xD7000000 + m)
  | .ckpt d a b => some (0xD8000000 + d.code * 65536 + a.code * 256 + b.code)
  | .haltb d a => some (0xD9000000 + d.code * 65536 + a.code * 256)
  | .scrub d a x y z => some (0xDA000000 + d.code * 65536 + a.code * 256 + x.toNat * 4 + y.toNat * 2 + z.toNat)
  | .clauseHeader _ => none
  | .unassignedOpcode _ => none
  | .uncorrectableError _ _ _ _ => none

/-- A clause header's fields (R280). -/
structure ClauseHeader where
  reserved : Nat
  yh : Bool
  pp : Bool
  len : Nat
  bv : Bool
  fb : Nat
  av : Bool
  fa : Nat
  wait : Nat
deriving DecidableEq, Repr

/-- The reading of a clause header word (R280). -/
def decodeHeader (w : Nat) : ClauseHeader :=
  { reserved := bitsOf w 31 29, yh := bitOf w 28, pp := bitOf w 27, len := bitsOf w 26 22,
    bv := bitOf w 21, fb := bitsOf w 20 17, av := bitOf w 16, fa := bitsOf w 15 12, wait := bitsOf w 11 0 }

/-- The word of a clause header (R280). -/
def encodeHeader (h : ClauseHeader) : Nat :=
  h.reserved * 2 ^ 29 + h.yh.toNat * 2 ^ 28 + h.pp.toNat * 2 ^ 27 + h.len * 2 ^ 22 + h.bv.toNat * 2 ^ 21
    + h.fb * 2 ^ 17 + h.av.toNat * 2 ^ 16 + h.fa * 2 ^ 12 + h.wait

/-- The kind of word `k` of a line, from the line's two header words (R276): 0 instruction, 1 clause
header, 2 literal, 3 fill. Words 0 and 1 are the line header and have none: they read as fill. -/
def lineKind (w0 w1 k : Nat) : Nat :=
  if k < 2 then 3 else if k < 18 then bitsOf w0 (2 * (k - 2) + 1) (2 * (k - 2))
  else bitsOf w1 (2 * (k - 18) + 1) (2 * (k - 18))

/-- The line format version (R276). -/
def lineVer (w1 : Nat) : Nat := bitsOf w1 31 28

/-- Four bytes of a little-endian word (R3). -/
def wordBytes (w : Nat) : Bytes := [BitVec.ofNat 8 w, BitVec.ofNat 8 (w >>> 8), BitVec.ofNat 8 (w >>> 16), BitVec.ofNat 8 (w >>> 24)]

/-- The number that little-endian bytes hold (R3). -/
def leNat : Bytes → Nat
  | [] => 0
  | b :: t => b.toNat + 256 * leNat t

/-- Decode the first four bytes of a code line's word, little-endian (R276). -/
def decodeBytes (bs : Bytes) : Except DecodeError Instr := decodeWord (leNat (bs.take 4))

/-- What the decoder reads from an instruction whose bits are `w`, laid out as the hardware stores a
code word: four little-endian bytes at the lowest address (R3, R276). Literal words are consumed when
the instruction issues (R290) and are no part of the decoder's word. -/
def decodeTableWord (nbits w : Nat) : Option Instr :=
  if nbits ≤ 32 then
    match decodeBytes (wordBytes w) with
    | .ok i => some i
    | .error _ => none
  else none

end Sys2Proof
end

