-- ==== Sys2Proof/Machine/State.lean ====
section
/-! DEFINITION. The state of a Tilmund as the manual gives it: plain data, every field at its reset value
as the structures' default values. -/

namespace Sys2Proof.Machine

/-- A 32-bit register lane or scalar register with its poison bit (R123, R257). -/
structure RegVal where
  bits : Word := 0
  poison : Bool := false
deriving DecidableEq, Repr

/-- One lane of an exact-sum register: value S, anchor E, poison (R123, R166, R354). -/
structure XSum where
  S : BitVec 320 := 0
  E : BitVec 16 := 0
  poison : Bool := false
deriving DecidableEq, Repr

/-- An entry of a slice's split stack: lane mask M and resume PC P (R128, R313). -/
structure StackEntry where
  mask : BitVec 4
  resume : DWord
deriving DecidableEq, Repr

/-- What a slice owns (R123): scalar registers, MODE, flags, split stack, and the lanes its stack enables
and those that have ended (R312, R315). -/
structure Slice where
  regs : Table RegVal := []
  mode : BitVec 24 := 0x004000
  flags : BitVec 12 := 0
  stack : List StackEntry := []
  enabled : BitVec 4 := 0xF
  ended : BitVec 4 := 0
deriving DecidableEq, Repr

/-- STATE of a path record (R125). -/
inductive PathState where
  | free
  | run
  | blocked
  | regang
  | halted
deriving DecidableEq, Repr

/-- Why a path that has issued its instruction does not go on (R103, R317–R321, R387, R418, R424–R427). -/
inductive Wait where
  | none
  /-- an unflagged operation that has not completed (R282) -/
  | op (id : Nat)
  | header
  | waitf
  /-- WAITT, with the device time of its issue, the timeline's resets then (R53) and its timeout in ns, 0 for none (R319) -/
  | waitt (at_ resets limit : Nat)
  | waitm
  | regang
  /-- BAR: waiting at barrier `b` (R418) -/
  | bar (b : Nat)
  | barw (b : Nat)
  | fence
  | fencee
  | pour
  | seal
  | acqv
  | relv
  /-- a matrix operation that cannot begin yet (R235, R241, R243) -/
  | engine
  /-- a full ladle queue (R246) or an SHLD, SHEV that waits (R414) -/
  | ladle
  /-- held at a precise fault whose record is in a core's place (R252, R254) -/
  | fault
  /-- CKPT, HALTB or SCRUB waiting to complete (R433–R435) -/
  | privileged
deriving DecidableEq, Repr

/-- The clause a path is inside (R280): the last word of it in its line, and its flag assignments. -/
structure Clause where
  last : Nat
  fa : Option Nat
  fb : Option Nat
deriving DecidableEq, Repr

/-- A fetched line: its virtual base address and its 32 words (R276, R277). -/
structure LineBuf where
  base : DWord
  words : List Word
deriving DecidableEq, Repr

/-- A path-table entry (R125) with what the path keeps beside its record: its signature and reference
mask (R260), clause, fetch buffer (R140), wait, and place in a pass (R378). -/
structure Path where
  state : PathState := .free
  pc : DWord := 0
  sleep : Word := 0
  active : Word := 0
  slices : BitVec 8 := 0
  sticky : BitVec 9 := 0
  sig : Word := 0
  ref : Word := 0
  clause : Option Clause := none
  buf : Option LineBuf := none
  wait : Wait := .none
  waitSince : Nat := 0
  /-- the state before a halt, restored when the halt is lifted (R263) -/
  haltedFrom : PathState := .run
  /-- a halt has ended a wait that the hang watchdog counts, which goes on counting where it stood (R265) -/
  paused : Bool := false
  inPass : Bool := false
  /-- the lanes of its instruction that an earlier issue of it has performed (R188, R189, R215) -/
  done : Word := 0
  /-- the last ladle number this path issued, for FENCEE (R387) -/
  ladleLast : Nat := 0
  lastLive : Option Nat := none
  /-- stopped at a PP clause header (R111) -/
  atPp : Bool := false
  yielded : Bool := false
  /-- after a YIELD: the other ready paths that have not been offered an issue yet (R310) -/
  awaits : List (WaveRef × Nat) := []
  /-- the barrier at which this path's BAR has arrived and still waits (R418); 16 and 17 stand for POUR and
  SEAL (R424, R425) -/
  barrier : Option Nat := none
  /-- a monitor STEP in progress (R267) -/
  stepping : Bool := false
deriving DecidableEq, Repr

/-- What a wave owns (R123). A caster thread is held in the same shape (R135): one path of slice 0 whose
lane 0 alone is live, so that its predicates are bit 0 of `preds`. -/
structure Wave where
  vregs : Table RegVal := []
  xsums : Table XSum := []
  preds : Table Word := []
  slices : List Slice := List.replicate 8 {}
  paths : List Path := List.replicate 8 {}
  partn : Nat := 5
  /-- replay checkpoint: PC and done mask (R188) -/
  replayPc : DWord := 0
  doneMask : Word := 0
  slip : Nat := 0
  /-- the slices that have arrived at the pending POUR and SEAL, and the wave's grade (R424, R425) -/
  pourMask : BitVec 8 := 0
  sealMask : BitVec 8 := 0
  sealGrade : Option Nat := none
  killed : Bool := false
  /-- breakpoints already reported at this PC, so that a SKIP or RESUME goes on (R267) -/
  bpSeen : Option DWord := none
  /-- the first instruction has issued (R79) -/
  issued : Bool := false
deriving DecidableEq, Repr

/-- A tile register (R193, R194): row bytes by 64·row + byte, control, zero-block bitmap. -/
structure Tile where
  rows : Table Byte := []
  ctl : Word := 0x00400060
  bitmap : BitVec 96 := BitVec.allOnes 96
deriving DecidableEq, Repr

/-- An accumulator bank (R121, R402): f32 elements by 128·row + column, and the flag record. -/
structure Bank where
  elems : Table Word := []
  flags : BitVec 9 := 0
deriving DecidableEq, Repr

/-- STATE of a mould (R196) and of a version slot (R204). -/
inductive MouldState where
  | free
  | filling
  | full
  | draining
deriving DecidableEq, Repr

/-- A mould entry (R196). -/
structure Mould where
  owned : Bool := false
  owner : Nat := 0
  phase : Bool := false
  state : MouldState := .free
deriving DecidableEq, Repr

/-- A timeline (R223): the last number taken, the count reached, numbers performed ahead of it, the fence. -/
structure Timeline where
  taken : Nat := 0
  reached : Nat := 0
  performed : List Nat := []
  fenced : Bool := false
  /-- RESETs so far (R53): a wait begun before one returns fenced -/
  resets : Nat := 0
deriving DecidableEq, Repr

/-- A ladle operation (R246, R247). -/
inductive LadleKind where
  | copy
  | gather
  | scatter
  | fill
deriving DecidableEq, Repr

/-- A queued ladle operation: its descriptor and options (R411), number, issuing path and progress. -/
structure LadleOp where
  n : Nat
  kind : LadleKind
  desc : Nats
  /-- `unpack` for LCOPY, `formed` for LFILL -/
  x : Bool
  slot : Option Nat
  mould : Option Nat
  pc : DWord
  wave : WaveRef
  path : Nat
  inPass : Bool
  opId : Nat
  begun : Bool := false
  record : Bytes := []
  /-- elements, lines or packets' source bytes already performed -/
  pos : Nat := 0
  /-- destination bytes already produced by an unpacking copy -/
  outPos : Nat := 0
  /-- the index of the item in progress, and its elements or lines already performed (R413) -/
  item : Option Nat := none
  sub : Nat := 0
  /-- a source byte of the destination line in progress was poisoned (R206) -/
  poisoned : Bool := false
  /-- a copy of the runner has stopped at a fault: code and address (R92) -/
  stop : Option (Nat × Nat) := none
deriving DecidableEq, Repr

/-- The ladle queue of one producer wave (R137, R246); `stopped` is the fault it waits on (R248). -/
structure LadleQueue where
  tl : Timeline := {}
  ops : List LadleOp := []
  stopped : Option Nat := none
deriving DecidableEq, Repr

/-- A shape slot: owner gang and the loaded record (R200, R201). -/
structure ShapeSlot where
  owner : Option (Nat × Nat) := none
  record : Bytes := []
deriving DecidableEq, Repr

/-- A barrier of a gang (R259, R269, R417). -/
structure Barrier where
  count : Nat := 0
  party : Option Nat := none
  round : Nat := 0
  abandoned : Bool := false
  /-- slices of each wave that have counted toward an arrival not yet completed, by wave index -/
  arrivals : Table (BitVec 8) := []
  /-- of those, the slices whose arrival's release is not performed yet (R418) -/
  held : Table (BitVec 8) := []
  /-- waves that have arrived in the current round -/
  arrived : List Nat := []
  /-- waves that are parties -/
  parties : Nats := []
deriving DecidableEq, Repr

/-- A matrix operation in a caster thread's sequencer (R233, R237, R400, R401). -/
structure SeqOp where
  /-- 0 MMA, 1 MMAT -/
  kind : Nat
  last : Bool
  bank : Nat
  tile : Nat
  count : Nat
  off : Nat
  handle : Word
  /-- MMAT: transient plane and B tile -/
  u : Nat
  btile : Nat
  pc : DWord
  number : Nat
  opId : Nat
  /-- the ingot check of R242 has passed since the last resume -/
  checked : Bool := false
  /-- index of the first step not yet completed, and of the first whose descriptor is not in a step queue (R233) -/
  step : Nat := 0
  queued : Nat := 0
  /-- row blocks of the run at issue (R400) -/
  blocks : Nat := 0
  /-- its check has raised a fault that is not handled yet (R242) -/
  faulted : Bool := false
  /-- MMA: the ingot's record -/
  ingot : Nat := 0
  /-- MMAT: the loaded transient plane, 128 lines of 64 bytes -/
  plane : Table Byte := []
deriving DecidableEq, Repr

/-- A fault record (R254). -/
structure FaultRec where
  code : Nat
  imprecise : Bool := false
  exited : Bool := false
  caster : Bool := false
  nested : Bool := false
  haltPending : Bool := false
  ladle : Bool := false
  disposition : Nat := 0
  lane : Nat := 0xFF
  task : Nat := 0
  gang : Nat := 0
  group : Nat := 0
  slot : Nat := 0
  core : Nat := 0
  pc : DWord := 0
  addr : DWord := 0
  path : Path := {}
  done : Word := 0
  cause : Nat := 0
  outer : Nat := 0xFF
  lost : Nat := 0
  /-- the stream and path the record is about -/
  wave : WaveRef := .handler 0
  pathIx : Nat := 0
  /-- device time at which it was recorded (R109) -/
  since : Nat := 0
  /-- the gang that it names has started again since (R117, R119) -/
  stale : Bool := false
deriving DecidableEq, Repr

/-- Gang states (R79). -/
inductive GangState where
  | waiting
  | placing
  | running
  | retired
deriving DecidableEq, Repr

/-- Why a gang was chosen for eviction (R110) or migration (R99), and when. -/
inductive EvictCause where
  | priority
  | bubble
  | test
  | slice
  | ckpt
deriving DecidableEq, Repr

/-- A gang: placement, waves, caster thread and every gang-relative resource (R79, R83, R121, R178). -/
structure Gang where
  task : Nat
  index : Nat
  state : GangState := .waiting
  cluster : Nat := 0
  core0 : Nat := 0
  thread : Nat := 0
  waves : List Wave := []
  caster : Wave := {}
  tiles : List Tile := []
  banks : List Bank := []
  bankPhys : List Nat := []
  scratch : Table Byte := []
  scratchPoison : Table Bool := []
  tags : Table DWord := []
  moulds : Table Mould := []
  barriers : List Barrier := List.replicate 16 {}
  ladle : List LadleQueue := []
  seq : List SeqOp := []
  casterTl : Timeline := {}
  /-- POUR and SEAL of the open pass (R424, R425) -/
  sealedBit : Bool := false
  grade : Nat := 0
  joined : Bool := false
  passNo : Nat := 0
  slotBase : DWord := 0
  /-- completion status of R63 once RETIRED, with its fault code -/
  status : Nat := 0
  code : Nat := 0
  /-- a kill in progress: status and code (R251) -/
  kill : Option (Nat × Nat) := none
  relaunches : Nat := 0
  /-- a saved image is held: `some full` while WAITING (R114, R115) -/
  saved : Option Bool := none
  savedShapes : List (Nat × ShapeSlot) := []
  savedMoulds : List (Nat × Mould) := []
  halted : Bool := false
  placedAt : Nat := 0
  everPlaced : Bool := false
  /-- the choices that stand for it, oldest first (R99, R110, R118) -/
  chosen : List (EvictCause × Nat) := []
  /-- device time without a PP header while an evacuation is pending (R101) -/
  lastPp : Nat := 0
  /-- records of the HOLDs that a RESUME applies (R251, R267) -/
  held : List FaultRec := []
  /-- the wave slot of each wave on its core (R83) -/
  slots : Nats := []
  /-- the ingots that the caster's MMAs need reloaded, and whether that has been done (R242, R243) -/
  reload : List (Nat × Bool) := []
deriving DecidableEq, Repr

/-- Expert levels and ceilings of a context (R69). -/
structure Limits where
  side : Bool := false
  lower : Bool := false
  carry : Bool := false
  timeNs : Nat := 0
  energyUj : Nat := 0
deriving DecidableEq, Repr

/-- A task record (R78). -/
structure Task where
  id : Nat
  ctx : Nat
  queue : Nat
  tag : Nat
  notify : Option DWord
  packet : Bytes
  limits : Limits
  cls : Nat
  /-- the runner node whose launch this is: queue of the graph and node index (R88) -/
  node : Option (Nat × Nat) := none
  /-- the context's per-package quota when its launch was accepted (R68) -/
  quota : Nat := 0
  /-- a persistent task became the first tried in its class at this time and is not admitted yet (R82) -/
  heldSince : Option Nat := none
  startedAt : Nat := 0
  firstIssue : Option Nat := none
  nextGang : Nat := 0
  tlNumber : Nat := 0
  /-- the resets of its completion timeline when it took the number (R53) -/
  tlResets : Nat := 0
  lastPlaced : Nat := 0
  aged : Bool := false
  energy : Nat := 0
  /-- a quench in progress: status (QUENCHED, DONE or FAULTED) and code (R107, R109, R426) -/
  quench : Option (Nat × Nat) := none
  /-- a task-wide kill: status and code (R60) -/
  kill : Option (Nat × Nat) := none
  /-- the code of the first fault that has ended one of its gangs or waves (R109) -/
  firstFault : Option Nat := none
  /-- completion status, 0 while running -/
  status : Nat := 0
  code : Nat := 0
  /-- it has completed, and its completion timeline waits for its writes to be performed (R60) -/
  numberDue : Bool := false
  /-- the notify record has been written or dropped (R78) -/
  notified : Bool := false
  faultedAfter : Bool := false
  /-- its context has been destroyed, or a warm start has ended it: no fault is attributed to it any more (R64, R67) -/
  gone : Bool := false
deriving DecidableEq, Repr

/-- A slot of a version directory (R204). -/
structure VSlot where
  state : MouldState := .free
  pins : Nat := 0
  /-- the version it holds (R428) -/
  version : Nat := 0
deriving DecidableEq, Repr

/-- A version directory (R204, R429). -/
structure Directory where
  task : Nat
  ctx : Nat
  slots : List VSlot
  base : DWord
  slotBytes : Nat
  /-- latest sealed version: slot, version number, grade -/
  latest : Option (Nat × Nat × Nat) := none
  pass : Nat := 0
  openSlot : Option Nat := none
  status : Nat := 0
  completedAt : Nat := 0
deriving DecidableEq, Repr

/-- A pending packet of a queue (R51): tag, notify address and body, with the node that entered it. -/
structure Packet where
  kind : Nat
  ctx : Nat
  tag : Nat
  notify : Option DWord
  ordered : Bool
  body : Bytes
  taskId : Nat := 0
  limits : Limits := {}
  cls : Nat := 0
  quota : Nat := 0
  node : Option (Nat × Nat) := none
deriving DecidableEq, Repr

/-- A graph run by the runner (R87–R92), one per queue. -/
structure Graph where
  packet : Packet
  ctx : Nat
  nodes : DWord
  count : Nat
  ready : Nats := []
  running : Nats := []
  signalHeld : Nats := []
  /-- the nodes that have completed -/
  done : Nats := []
  /-- nodes that have ended with a status and are not yet settled -/
  finished : List (Nat × Nat) := []
  /-- copy nodes in progress: node, the ladle's cluster, and the operation (R88) -/
  copies : List (Nat × Nat × LadleOp) := []
  /-- the status of the first node that failed, with its fault code (R61, R92) -/
  failed : Option (Nat × Nat) := none
deriving DecidableEq, Repr

/-- A command queue (R51, R52, R80). -/
structure Queue where
  bound : Option Nat := none
  cls : Nat := 0
  weight : Nat := 0
  charge : Nat := 0
  /-- device time of the BIND that its charge counts from (R80) -/
  boundAt : Nat := 0
  pending : List Packet := []
  /-- the WAIT at the head that has started, with its start time (R54) -/
  waiting : Option (Packet × Nat) := none
  graph : Option Graph := none
  /-- task ids started from this queue that have not completed (R51) -/
  live : Nats := []
deriving DecidableEq, Repr

/-- A staging area of a window (R46, R47). -/
structure Staging where
  ep : Nat
  bytes : Table Byte := []
  last : Nat := 0
deriving DecidableEq, Repr

/-- A monitor session and its event ring (R266, R267). -/
structure Session where
  ring : DWord
  entries : Nat
  seq : Nat := 1
deriving DecidableEq, Repr

/-- A MAILBOX packet not yet answered (R70, R431). -/
structure MailReq where
  notify : DWord
  message : Bytes
  /-- its service has begun: the numbers that a DUMP waits for, by group (R462) -/
  marks : Option Nats := none
  /-- the id that a DUMP's writes carry while they are not performed -/
  opId : Nat := 0
  /-- the core and place of the record of a DUMP's nested fault (R464) -/
  nested : Option (Nat × Nat) := none
  /-- a DUMP's EVENT of kind 4, and its reply's status and payload, which wait until its writes are performed (R70, R267) -/
  answer : Option (Option (Bytes × Bytes) × Nat × Bytes) := none
deriving DecidableEq, Repr

/-- An ingot's state (R240). -/
inductive IngotState where
  | free
  | loading
  | resident
  | stale
  | cold
  | revoked
deriving DecidableEq, Repr

/-- A record of a context's ingot table (R239) with the lines its planes hold (R231). -/
structure Ingot where
  state : IngotState := .free
  pin : Bool := false
  policy : Nat := 0
  wc : Nat := 0
  planes : Nat := 0
  /-- source range of the last IGLOAD: address, bytes, compressed -/
  src : Option (DWord × Nat × Bool) := none
  /-- cluster, crucible and first plane where held -/
  place : Option (Nat × Nat × Nat) := none
  /-- the crucible that its IGALLOC asked for; `none` for ANY (R244, R405) -/
  cruc : Option Nat := none
  /-- planes taken for a load that moves it, until no MMA uses those it leaves (R241, R243) -/
  next : Option (Nat × Nat × Nat) := none
  gen : Nat := 1
  /-- line bytes by 64·(128·plane + column) + byte -/
  data : Table Byte := []
  /-- the load in progress: task and gang, PC, operation id (0 for a reload) and timeline number -/
  load : Option (Nat × Nat × DWord × Nat × Nat) := none
  loadStale : Bool := false
  lastUse : Nat := 0
  /-- the task whose reservation holds the planes -/
  holder : Option Nat := none
deriving DecidableEq, Repr

/-- Counters of a cluster since the start (R271). -/
structure Counters where
  issue : Nats := [0, 0, 0, 0]
  stepsTaken : Nats := [0, 0]
  stepsSkipped : Nats := [0, 0]
  ladleBytes : Nat := 0
  slip : Nat := 0
deriving DecidableEq, Repr

/-- A profiling entry (R270, R271). -/
structure Prof where
  en : Bool := false
  k : Nat := 0x0A
  drop : Nat := 0
  size : Nat := 0
  buffer : DWord := 0
  consumed : Nat := 0
  /-- the records of the buffer that the host has not consumed -/
  full : Nats := []
  /-- the clusters' counters at the context's last tick -/
  base : Table Counters := []
  /-- records written since sampling began -/
  written : Nat := 0
  /-- the number of the last tick taken or passed -/
  lastTick : Nat := 0
deriving DecidableEq, Repr

/-- A cached translation (R186): context, page base, page size exponent, leaf entry. -/
structure TlbEntry where
  ctx : Nat
  base : Nat
  size : Nat
  leaf : Nat
deriving DecidableEq, Repr

/-- A line of a core's L1 data cache (R190): its number in the package's memory, its bytes and poison as they were read. -/
structure L1Line where
  line : Nat
  bytes : Bytes
  poison : Bool := false
deriving DecidableEq, Repr

/-- The L1 TLB and L1 data cache of a core (R121, R186, R190). -/
structure CoreCache where
  tlb : List TlbEntry := []
  lines : List L1Line := []
deriving DecidableEq, Repr

/-- The TLBs and data caches of the package: each core's, by package core, and each cluster's L2 TLB (R186, R190). `picks`
is the model's own field: free choices of the caches so far. -/
structure Caches where
  cores : Table CoreCache := []
  l2 : Table (List TlbEntry) := []
  picks : Nat := 0
deriving DecidableEq, Repr

/-- A line of a cluster's instruction cache (R121, R140). -/
structure ICLine where
  ctx : Nat
  line : LineBuf
deriving DecidableEq, Repr

/-- A bubble slot entry (R93, R94). -/
structure Bubble where
  start : Nat := 0
  len : Nat := 0
  valid : Bool := false
  host : Bool := false
  isOpen : Bool := false
  /-- the last idle intervals observed: start and length -/
  idles : List (Nat × Nat) := []
  /-- since when no non-fill gang has been resident, and an idle interval that has ended and is not observed yet -/
  idleFrom : Option Nat := some 0
  seen : Option (Nat × Nat) := none
deriving DecidableEq, Repr

/-- A test status register and the attempt in progress (R99–R102). -/
structure ClusterTest where
  untested : Bool := false
  failed : Bool := false
  defer : Nat := 0
  lastPass : Nat := 0
  /-- an attempt pending since -/
  attempt : Option Nat := none
  /-- the 3 ms test running since -/
  running : Option Nat := none
  nextAt : Nat := 0
deriving DecidableEq, Repr

/-- A step descriptor (R230, R233, R400): the gang, its operation and step, the zero-block bits of its row block as they stood
when it was queued, and whether the step is skipped. -/
structure StepDesc where
  task : Nat
  gang : Nat
  opId : Nat
  step : Nat
  gates : Nat := 0
  skip : Bool := false
deriving DecidableEq, Repr

/-- A crucible: its step queue, oldest first, and the thread that queued a step last (R233, R235). -/
structure Crucible where
  lastThread : Nat := 3
  queue : List StepDesc := []
deriving DecidableEq, Repr

/-- A cluster (R96, R121). -/
structure Cluster where
  moulds : Table Mould := []
  shapes : Table ShapeSlot := []
  allow : Nat := 0xFF
  floor : Nat := 0
  powerTerm : Nat := 255
  dramBand : Nat := 0
  junction : Nat := 0
  test : ClusterTest := {}
  bubble : Bubble := {}
  icache : List ICLine := []
  crucibles : List Crucible := [{}, {}]
  counters : Counters := {}
  /-- the ladle's round: the queue served last, 4 · thread + group or 16 + q for the runner's queue q, and the bytes of its
  unit already moved (R246) -/
  ladleLast : Nat := 15
  ladleUnit : Nat := 0
  /-- the round-robin of R104: 8 · wave slot + path index of the last path issued on each core, then the last caster
  thread issued -/
  lastIssued : Nats := [127, 127, 127, 127, 3]
deriving DecidableEq, Repr

/-- The handler side of a core (R252–R255, R264). -/
structure Core where
  records : Table (Option FaultRec) := []
  queue : Nats := []
  current : Option Nat := none
  /-- the outer record of a nested fault -/
  outer : Option Nat := none
  outerWave : Option Wave := none
  /-- the record of a nested fault whose handler begins once the accesses in flight have completed (R188, R255) -/
  nesting : Option Nat := none
  lost : Nat := 0
  wave : Option Wave := none
  hmask : Bool := false
  hmaskAt : Nat := 0
  haltPending : Bool := false
  /-- a halt of one path that pends with the handler that serves its fault (R263) -/
  haltPath : Option (WaveRef × Nat) := none
deriving DecidableEq, Repr

/-- An imprecise fault found and not yet delivered (R256). -/
structure Imprecise where
  wave : WaveRef
  path : Nat
  code : Nat
  pc : DWord
  addr : DWord := 0
  ladle : Bool := false
deriving DecidableEq, Repr

/-- A die (R10–R13, R185, R206–R208). -/
structure Die where
  sensors : Nats := List.replicate 16 0
  band : Nat := 0
  pendingBand : Nat := 0
  /-- the end of one refresh interval of the band being left, by which the pending band is in force (R12) -/
  bandDue : Option Nat := none
  fenced : Bool := false
  /-- the end of the 10 µs in which the fence that a sample above 105 °C asks for happens (R13) -/
  fenceDue : Option Nat := none
  /-- the memory-side cache failed its self-test and is fenced (R10, R16) -/
  cacheFenced : Bool := false
  /-- watched 4 KiB granules: granule index to watching ingots (context, index) -/
  watches : Table (List (Nat × Nat)) := []
  yield : Bool := false
  /-- the end of the window in which the scrub issues no read (R207) -/
  yieldUntil : Nat := 0
  /-- the runner's own timeline for the die (R88) -/
  runner : Timeline := {}
  rate : Nat := 0
  poisonCount : Nat := 0
  /-- device times of the errors corrected in the last hour (R206) -/
  corrected : Nats := []
  /-- those that CORR counts: a write of 1 to its bit 0 clears the count and not the history that mE looks at (R206, R208) -/
  counted : Nats := []
  /-- SCRUB and refresh are background work: the line the patrol has reached -/
  scrubLine : Nat := 0
deriving DecidableEq, Repr

/-- What a flit carries (R25, R35): its kind, its payload, the destination and 4 KiB page of its transaction, and
whether it is the resend of what a fenced link had not had acknowledged. -/
structure Parcel where
  kind : Nat
  payload : Bytes
  page : Option (Nat × Nat) := none
  again : Bool := false
deriving DecidableEq, Repr

/-- A flit in a link's retry buffer: sequence number and contents (R25, R26). -/
structure Sent where
  seq : Nat
  parcel : Parcel
deriving DecidableEq, Repr

/-- A Beykin link (R24–R26, R34, R35, R43). -/
structure Link where
  up : Bool := false
  fenced : Bool := false
  retrains : Nat := 0
  retries : Nat := 0
  sendSeq : Nat := 0
  recvSeq : Nat := 0
  crcFails : Nat := 0
  lastValid : Nat := 0
  lastSent : Nat := 0
  retraining : Option Nat := none
  /-- the unacknowledged flits, oldest first, at most 512 -/
  retry : List Sent := []
  /-- what waits for a place in the retry buffer, or for the link to carry flits again, oldest first -/
  waiting : List Parcel := []
  /-- the first flit that the receiver lacks and has asked its partner to send again (R26) -/
  resend : Option Nat := none
  /-- the last flit put on the lanes -/
  out : Bytes := []
deriving DecidableEq, Repr

/-- A CXL port (R39–R42): its link's width in lanes. -/
structure CxlPort where
  up : Bool := false
  fenced : Bool := false
  width : Nat := 0
  capacity : Nat := 0
  retrains : Nat := 0
  retries : Nat := 0
deriving DecidableEq, Repr

/-- Where the value of an outstanding reply goes (R189, R284): a register write held until completion. -/
inductive RegWrite where
  | vec (reg lane : Nat) (v : RegVal)
  | sca (reg slice : Nat) (v : RegVal)
  | sticky (flags : BitVec 9)
deriving DecidableEq, Repr

/-- The registers that a load or a value-returning atomic fills once all its bytes are there (R189, R380, R384):
first register, bytes per lane or slice, sign extension, the lanes or slices, the bytes by
64·unit + byte, and the units whose bytes came from a poisoned line. -/
structure Fill where
  vector : Bool
  reg : Nat
  bytes : Nat
  signed : Bool := false
  units : Nats
  data : Table Byte := []
  poison : Nats := []
deriving DecidableEq, Repr

/-- What an outstanding request to another endpoint is for (R32, R61, R70). -/
inductive RemoteKind where
  | load
  | store
  /-- opcode, width and signedness (R384) -/
  | atomic (op w : Nat) (signed : Bool)
  /-- the bytes of its cell in the first page and the offset of the rest, for a cell in two pages (R222) -/
  | axsum (second : Option (Nat × Nat))
  /-- TLSIG on another package's timeline (R416) -/
  | signal
  /-- ACQV (0), RELV (1) or VSTAT (2) of a task of a context on another package, with its minimum or version (R423); the
  request's data are what a fenced package gives -/
  | version (what ctx task x : Nat)
  | notify (ctx task : Nat) (reply : Bool)
deriving DecidableEq, Repr

/-- A request that has left the package and has no acknowledgement yet (R33, R36). -/
structure RemoteReq where
  id : Nat
  pkg : Nat
  off : Nat
  kind : RemoteKind
  data : Bytes
  since : Nat
  opId : Nat
  /-- the unit and first byte of its `Fill` that the reply gives -/
  dest : Option (Nat × Nat) := none
  /-- virtual address and lowest lane, for a fault -/
  va : DWord := 0
  lane : Nat := 0xFF
  /-- it has left the package: a request to a destination whose route write is pending, or to a page whose resend is
  not acknowledged, waits (R35, R44) -/
  sent : Bool := true
deriving DecidableEq, Repr

/-- Where a byte of an access lies. -/
inductive Place where
  /-- the package's own memory -/
  | mem (off : Nat)
  /-- the gang's scratch -/
  | scratch (off : Nat)
  /-- another endpoint -/
  | remote (pkg off : Nat)
  /-- the management space -/
  | mgmt (off : Nat)
  /-- the fault records that firmware keeps (R254) -/
  | record (off : Nat)
deriving DecidableEq, Repr

/-- The bytes of one access: parts in address order with their lengths; SO when a page is SO (R184);
whether every page is formed, task-scratch or scratch. -/
structure Span where
  va : Nat
  parts : List (Place × Nat)
  so : Bool := false
  formed : Bool := false
  ts : Bool := false
  inScratch : Bool := false
deriving DecidableEq, Repr

/-- A release's store that waits until the accesses before it are performed at its scope (R216, R382): lane, scope, place and
bytes. -/
structure HeldStore where
  lane : Nat
  scope : Nat
  span : Span
  bytes : Bytes
deriving DecidableEq, Repr

/-- An access to a CXL window whose completion is awaited (R41): port, lane, virtual address, offset and bytes. -/
structure CxlPart where
  port : Nat
  lane : Nat
  va : DWord
  off : Nat
  bytes : Nat
deriving DecidableEq, Repr

/-- A class-A or class-B operation that has issued and not completed (R282, R284). -/
structure PendingOp where
  id : Nat
  wave : WaveRef
  path : Nat
  pc : DWord
  /-- the slices of its path at its issue: what follows it in the program order of one of them comes after it (R210, R216) -/
  slices : BitVec 8 := 0xFF
  /-- flag and the slices that hold it; `none` when the operation is synchronous -/
  flag : Option (Nat × BitVec 8)
  writes : List RegWrite := []
  fill : Option Fill := none
  /-- outstanding remote request ids -/
  remote : Nats := []
  /-- its accesses to CXL windows that have no completion yet (R41) -/
  cxl : List CxlPart := []
  /-- the lanes whose accesses ended in an error at their home, with the virtual address (R189) -/
  failed : List (Nat × DWord) := []
  /-- the dies of this package whose memory it loads from (R189) -/
  homes : Nats := []
  /-- ladle, matrix and ingot operations complete by their own step -/
  engine : Bool := false
  isLoad : Bool := false
  atomic : Bool := false
  /-- some of its accesses are to SO pages (R215) -/
  so : Bool := false
  /-- its instruction goes on behind it: with the lanes that follow, once its accesses to SO pages are performed (R215), or with the
  elements of its lines (R391); the lanes begun so far -/
  part : Bool := false
  units : Nats := []
  /-- the scope of an acquire whose read is in flight (R217) -/
  acquire : Option Nat := none
  /-- a release, before whose own write the path's later writes are not performed (R216, R382), and what it is to store -/
  orders : Bool := false
  held : List HeldStore := []
  /-- address and bytes of its accesses -/
  ranges : List (Nat × Nat) := []
  /-- a CFLUSH: the earlier stores to its range (R389) -/
  after : Nats := []
  /-- the context, timeline and number that a TLSIG's completion waits for (R416) -/
  signal : Option (Nat × Nat × Nat) := none
  /-- a TLSIG, or a release with no active lane, whose release, at this scope, is not performed yet (R219, R416) -/
  release : Option Nat := none
  /-- virtual address of its first access, for a fault -/
  va : DWord := 0
  /-- the barrier at which its slices' arrival waits for its release (R418) -/
  barrier : Option Nat := none
  /-- the lines that a TLD writes into a tile when it completes: task, gang and tile (R397) -/
  tile : Option (Nat × Nat × Nat × List Bytes) := none
  /-- the question of an ACQV about a task of another package, for which its path waits (R423, R427) -/
  ask : Bool := false
  /-- the queue and index of the copy node whose copy this is (R88) -/
  node : Option (Nat × Nat) := none
  /-- the operation ended in a fault or a cancellation -/
  ended : Bool := false
deriving DecidableEq, Repr

/-- A notify record to be written once the packet's completion timeline has reached its number and every write of its task is
performed (R61): context, task, address, bytes, and the timeline with its number and resets. -/
structure Notice where
  ctx : Nat
  task : Nat
  addr : DWord
  bytes : Bytes
  timeline : Option (Nat × Nat × Nat) := none
  /-- a FAULTED_AFTER record (R64) -/
  after : Bool := false
deriving DecidableEq, Repr

/-- An access of another endpoint that waits at its home: for a port's expander (R41), or, an ACQV, for a version (R427). Its
number, the requester, its request's id when a flit brought it, and the port. -/
structure HomeOp where
  id : Nat
  src : Nat
  request : Option Nat
  port : Option Nat
  access : RemoteAccess
deriving DecidableEq, Repr

/-- START_STATUS (R19) and what the start sequence keeps (R16–R20). -/
structure Start where
  step : Nat := 0
  err : Nat := 0
  rl : Bool := false
  warm : Bool := false
  ready : Bool := false
  bist : Bool := false
  /-- a warm start that has not begun its steps: it waits for fenced dies to cool (R20) -/
  pendingWarm : Bool := false
  /-- a cold start that has been requested and has not begun its steps (R20) -/
  pendingCold : Bool := false
  lifecycle : Nat := 2
deriving DecidableEq, Repr

/-- The security block's registers (R71–R75, R272). -/
structure Security where
  firmware : Bytes := []
  measurement : Bytes := []
  version : Nat := 0
  fusedMin : Nat := 0
  fwBusy : Nat := 0
  fwResult : Nat := 0
  window : Table Byte := []
  windowLen : Nat := 0
  attBusy : Bool := false
  attValid : Bool := false
  attErr : Nat := 0
  attCtx : Nat := 0
  attAt : Nat := 0
  /-- the context and the nonce of the report in progress, or of the report that is there (R74) -/
  attFor : Nat := 0
  attNonce : Table Byte := []
  nonce : Table Byte := []
  report : Bytes := []
  signature : Bytes := []
  token : Table Byte := []
  tokenMask : Nat := 0
  tokenActive : Bool := false
  tokenRefused : Bool := false
  draws : Nat := 0
deriving DecidableEq, Repr

/-- One move of the environment's plan: a step of the device or host, an issue of a path, or time. -/
inductive Move where
  | event (i : Instr)
  | issue (w : WaveRef) (p : Nat)
  | pass (ns : Nat)
deriving DecidableEq, Repr

/-- A gang in a checkpoint, with the operations of its matrix sequencer (R114, R118). -/
structure GangImage where
  gang : Gang
  ops : List PendingOp
deriving DecidableEq, Repr

/-- A context (R66, R67). -/
structure Context where
  owner : Nat
  tenant : Nat
  debuggable : Bool
  retain : Bool
  root : DWord
  quotaCluster : Nat := 0
  quotaPackage : Nat := 0
  limits : Limits := {}
  timelines : List Timeline := List.replicate 16 {}
  ingots : Table Ingot := []
  session : Option Session := none
  mailbox : List MailReq := []
  /-- breakpoint slots 0–7 (R267) -/
  breaks : Table DWord := []
  generation : Nat := 0
  /-- last registered checkpoint: image address, bytes, generation, and the gangs held (R118, R119) -/
  checkpoint : Option (DWord × Nat × Nat × List GangImage) := none
  ckptBusy : Bool := false
deriving DecidableEq, Repr

/-- The device. -/
structure State where
  /-- device time in ns (R14) -/
  now : Nat := 0
  /-- the model's own field: which moves come next -/
  moves : List Move := []
  /-- the model's own field: the issuing stream and path of the instruction in hand -/
  cur : Option (WaveRef × Nat) := none
  /-- the model's own field: draws of free values so far -/
  fresh : Nat := 0
  /-- the model's own field: the instruction in hand is one that a quench cuts (R107, R229) -/
  cut : Bool := false
  /-- the model's own field: operation and request ids given so far -/
  nextId : Nat := 1
  powered : Bool := false
  start : Start := {}
  security : Security := {}
  /-- the domain configuration of step 0x05: own id, host and package endpoints, privileged hosts -/
  ownId : Nat := 0
  hosts : Nats := []
  packages : Nats := []
  privileged : Nats := []
  /-- the model's own field: the domain and the expanders as the last start found them (R17, R20) -/
  domain : StartInput := {}
  clusterMask : BitVec 128 := 0
  dies : List Die := List.replicate 4 {}
  /-- die-to-die bridges 0–1, 0–2, 1–3 and 2–3 that failed self-test and are fenced (R10, R16) -/
  bridges : List Bool := List.replicate 4 false
  /-- device time of the last sensor sample (R11) -/
  sampledAt : Option Nat := none
  /-- device time at which the last start began step 0x01 -/
  startedAt : Nat := 0
  links : List Link := List.replicate 12 {}
  ports : List CxlPort := List.replicate 4 {}
  routes : Table Nat := []
  /-- an expert route write that waits for acknowledgements: destination and mask (R44) -/
  routePending : List (Nat × Nat) := []
  fencedPkgs : Nats := []
  fencedRemoteDies : List (Nat × Nat) := []
  /-- links of other packages that a notice has named (R35) -/
  fencedRemoteLinks : List (Nat × Nat) := []
  remote : List RemoteReq := []
  /-- accesses of other endpoints that wait here (R41, R427) -/
  homeOps : List HomeOp := []
  /-- the last completion that has left for another endpoint: status byte and data (R18, R30, R32) -/
  completion : Nat × Bytes := (0, [])
  /-- bytes of bonded DRAM and CXL windows by offset in the package (R28); unlisted bytes read 0 -/
  mem : Table Byte := []
  /-- poisoned 64-byte lines, by line number (R206) -/
  poison : Table Bool := []
  /-- what bytes written while a version slot was open held before, newest first (R108) -/
  trail : Table Bytes := []
  clusters : Table Cluster := []
  caches : Caches := {}
  cores : Table Core := []
  contexts : Table (Option Context) := []
  notifyLost : Table Nat := []
  queues : Table Queue := []
  staging : Table (List Staging) := []
  tasks : List Task := []
  gangs : List Gang := []
  dirs : List Directory := []
  nextTask : Nat := 1
  ops : List PendingOp := []
  imprecise : List Imprecise := []
  notices : List Notice := []
  profs : Table Prof := []
  testInterval : Nat := 24
  tlbinvPending : Option DWord := none
  tlbinvQueue : List DWord := []
  tlbinvDone : Bool := true
  handlerEntry : DWord := BitVec.ofNat 64 Config.residentEntry
  hangLimit : Nat := 2000
  /-- the status byte of the last host access to the management space (R30, R48) -/
  hostStatus : Nat := 0
deriving DecidableEq, Repr

/-- The machine right after reset: every field at its default above. -/
def State.reset : State := {}

/-- Why a step stops. -/
inductive Fault where
  /-- an instruction was given to `exec` while no path had been chosen to issue it: raised by every
  instruction's meaning, never by `step`, which chooses the path first; safe -/
  | noIssuer
deriving DecidableEq, Repr

/-- Why an instruction has no meaning. -/
inductive Refusal where
  /-- raised only by an arm of `exec` that has no meaning yet; safe -/
  | notModelled (mnemonic : String)
deriving DecidableEq, Repr

/-- The outcome of one step. -/
abbrev Result := Host.Outcome State Fault Refusal

end Sys2Proof.Machine
end

