-- ==== Sys2Proof/Machine/Number.lean ====
section
/-! DEFINITION. Number formats, rounding and exact arithmetic (R141–R152, R334, R345–R351, R355–R357). A
finite value is a sign, a natural mantissa and a power of two, so that every sum, difference and product
is exact; quotients, roots and the long functions carry a low sticky bit that tells the value from every
rounding boundary. -/

namespace Sys2Proof.Machine

/-- Sticky flags in the order of STICKY (R125, R152). -/
abbrev Flags := BitVec 9

/-- Invalid operation. -/
def fIV : Flags := 1
/-- Division by zero. -/
def fDZ : Flags := 2
/-- Overflow. -/
def fOF : Flags := 4
/-- Underflow. -/
def fUF : Flags := 8
/-- Inexact. -/
def fNX : Flags := 16
/-- Integer saturation. -/
def fSI : Flags := 32
/-- Exact-sum overflow. -/
def fXO : Flags := 64
/-- Generator wrap. -/
def fGW : Flags := 128
/-- Pocket overflow. -/
def fPK : Flags := 256

/-- `f` when `b` holds, no flag otherwise. -/
def flagIf (b : Bool) (f : Flags) : Flags := if b then f else 0

/-- The element types of MODE.T (R293). -/
inductive ETy where
  | i32 | n32 | i16 | n16 | i8 | n8 | i64 | n64 | f32 | f64 | f16 | bf16 | e4m3 | e5m2 | e2m1 | o4
deriving DecidableEq, Repr

/-- The type a code names (R293); codes 16–31 are reserved. -/
def ETy.ofCode : Nat → Option ETy
  | 0 => some .i32 | 1 => some .n32 | 2 => some .i16 | 3 => some .n16 | 4 => some .i8 | 5 => some .n8
  | 6 => some .i64 | 7 => some .n64 | 8 => some .f32 | 9 => some .f64 | 10 => some .f16 | 11 => some .bf16
  | 12 => some .e4m3 | 13 => some .e5m2 | 14 => some .e2m1 | 15 => some .o4
  | _ => none

/-- The width of one element (R141, R145). -/
def ETy.width : ETy → Nat
  | .i32 | .n32 | .f32 => 32
  | .i64 | .n64 | .f64 => 64
  | .i16 | .n16 | .f16 | .bf16 => 16
  | .i8 | .n8 | .e4m3 | .e5m2 => 8
  | .e2m1 | .o4 => 4

/-- The operand width W (R333). -/
def ETy.opWidth (t : ETy) : Nat := if t.width = 64 then 64 else 32

/-- Elements per lane, k (R145, R333). -/
def ETy.count (t : ETy) : Nat := t.opWidth / t.width

/-- The integer types of R332, with their signedness; O4 counts as an integer in conversions only. -/
def ETy.intSigned : ETy → Option Bool
  | .i32 | .i16 | .i8 | .i64 => some true
  | .n32 | .n16 | .n8 | .n64 => some false
  | _ => none

/-- The integer types of R332. -/
def ETy.isInt (t : ETy) : Bool := t.intSigned.isSome

/-- The float types of R332. -/
def ETy.isFloat : ETy → Bool
  | .f32 | .f64 | .f16 | .bf16 => true
  | _ => false

/-- Which codes of a float format are special (R141). -/
inductive Specials where
  /-- infinities and NaNs at the top exponent -/
  | ieee
  /-- one NaN code, no infinity -/
  | e4m3
  /-- neither -/
  | none
deriving DecidableEq, Repr

/-- A float format (R141): exponent and fraction bits, bias, specials. -/
structure Fmt where
  ebits : Nat
  fbits : Nat
  bias : Nat
  sp : Specials
deriving DecidableEq, Repr

/-- binary64 -/
def fmt64 : Fmt := ⟨11, 52, 1023, .ieee⟩
/-- binary32 -/
def fmt32 : Fmt := ⟨8, 23, 127, .ieee⟩
/-- binary16 -/
def fmt16 : Fmt := ⟨5, 10, 15, .ieee⟩
/-- bfloat16 -/
def fmtBf : Fmt := ⟨8, 7, 127, .ieee⟩
/-- E5M2 -/
def fmtE5 : Fmt := ⟨5, 2, 15, .ieee⟩
/-- E4M3 -/
def fmtE4 : Fmt := ⟨4, 3, 7, .e4m3⟩
/-- E2M1 -/
def fmtE2 : Fmt := ⟨2, 1, 1, .none⟩

/-- The format of a float element type. -/
def ETy.fmt : ETy → Option Fmt
  | .f32 => some fmt32 | .f64 => some fmt64 | .f16 => some fmt16 | .bf16 => some fmtBf
  | .e4m3 => some fmtE4 | .e5m2 => some fmtE5 | .e2m1 => some fmtE2
  | _ => none

/-- A float value: NaN (signalling or quiet), signed infinity, or ±m·2^e with a signed zero. -/
inductive FVal where
  | nan (signalling : Bool)
  | inf (neg : Bool)
  | fin (neg : Bool) (m : Nat) (e : Int)
deriving DecidableEq, Repr

/-- The sign bit of a code. -/
def Fmt.signBit (f : Fmt) : Nat := f.ebits + f.fbits

/-- The value of a code (R142, R144). -/
def Fmt.decode (f : Fmt) (c : Nat) : FVal :=
  let neg := bitOf c f.signBit
  let ex := bitsOf c (f.signBit - 1) f.fbits
  let fr := c % 2 ^ f.fbits
  let top := 2 ^ f.ebits - 1
  if f.sp = .ieee ∧ ex = top then
    if fr = 0 then .inf neg else .nan (!(bitOf fr (f.fbits - 1)))
  else if f.sp = .e4m3 ∧ ex = top ∧ fr = 2 ^ f.fbits - 1 then .nan false
  else if ex = 0 then .fin neg fr (1 - (f.bias : Int) - f.fbits)
  else .fin neg (2 ^ f.fbits + fr) ((ex : Int) - f.bias - f.fbits)

/-- The canonical NaN (R144); E2M1 has none. -/
def Fmt.nanCode (f : Fmt) : Nat :=
  match f.sp with
  | .ieee => (2 ^ f.ebits - 1) * 2 ^ f.fbits + 2 ^ (f.fbits - 1)
  | .e4m3 => 0x7F
  | .none => 0

/-- A sign bit in place. -/
def Fmt.sign (f : Fmt) (neg : Bool) : Nat := neg.toNat * 2 ^ f.signBit

/-- The mantissa of the largest finite value, in units of the top binade. -/
def Fmt.maxMant (f : Fmt) : Nat :=
  match f.sp with
  | .e4m3 => 2 ^ (f.fbits + 1) - 2
  | _ => 2 ^ (f.fbits + 1) - 1

/-- The largest exponent field of a finite value. -/
def Fmt.maxField (f : Fmt) : Nat :=
  match f.sp with
  | .ieee => 2 ^ f.ebits - 2
  | _ => 2 ^ f.ebits - 1

/-- The code of the largest finite value (R141). -/
def Fmt.maxCode (f : Fmt) : Nat := f.maxField * 2 ^ f.fbits + (f.maxMant - 2 ^ f.fbits)

/-- The largest finite value as mantissa and exponent. -/
def Fmt.maxVal (f : Fmt) : Nat × Int := (f.maxMant, (f.maxField : Int) - f.bias - f.fbits)

/-- A rounding rule with what DITHER needs of the element (R146, R147). -/
inductive Rnd where
  | rne | rtz | rdn | rup | rna
  | dither (d : Nat)
deriving DecidableEq, Repr

/-- The threshold table D of R147. -/
def ditherTable : List Nats :=
  [[0, 32, 8, 40, 2, 34, 10, 42], [48, 16, 56, 24, 50, 18, 58, 26],
   [12, 44, 4, 36, 14, 46, 6, 38], [60, 28, 52, 20, 62, 30, 54, 22],
   [3, 35, 11, 43, 1, 33, 9, 41], [51, 19, 59, 27, 49, 17, 57, 25],
   [15, 47, 7, 39, 13, 45, 5, 37], [63, 31, 55, 23, 61, 29, 53, 21]]

/-- The rounding that MODE.RM code `rm` names for dither row `dr` and position `j` (R146, R147). -/
def Rnd.ofCode (rm dr j : Nat) : Rnd :=
  match rm with
  | 0 => .rne | 1 => .rtz | 2 => .rdn | 3 => .rup | 4 => .rna
  | _ => .dither (nth 0 (nth [] ditherTable dr) (j % 8))

/-- Round `n / 2^sh` to a natural number: the magnitude goes up as R146 says. Answers whether it was
inexact. -/
def roundShift (r : Rnd) (neg : Bool) (n sh : Nat) : Nat × Bool :=
  let q := n >>> sh
  let rem := n % 2 ^ sh
  let u := 2 ^ sh
  let up := match r with
    | .rne => decide (2 * rem > u) || (2 * rem == u && q % 2 == 1)
    | .rtz => false
    | .rdn => neg && rem != 0
    | .rup => !neg && rem != 0
    | .rna => decide (2 * rem ≥ u) && rem != 0
    | .dither d => decide (rem * 128 > (2 * d + 1) * u)
  (if up then q + 1 else q, rem != 0)

/-- Round ±m·2^e to a multiple of 2^u: the multiple's magnitude and whether it was inexact. -/
def roundAt (r : Rnd) (neg : Bool) (m : Nat) (e u : Int) : Nat × Bool :=
  if u ≤ e then (m <<< (e - u).toNat, false) else roundShift r neg m (u - e).toNat

/-- Whether an overflow under this rounding stays at the largest finite value (R148). -/
def Rnd.overflowsDown (r : Rnd) (neg : Bool) : Bool :=
  match r with
  | .rtz => true
  | .rdn => !neg
  | .rup => neg
  | _ => false

/-- The code an overflow delivers (R148). -/
def Fmt.overflow (f : Fmt) (r : Rnd) (sat neg : Bool) : Nat :=
  if sat || r.overflowsDown neg then f.sign neg + f.maxCode
  else match f.sp with
    | .ieee => f.sign neg + (2 ^ f.ebits - 1) * 2 ^ f.fbits
    | .e4m3 => f.nanCode
    | .none => f.sign neg + f.maxCode

/-- RoundTo for a finite nonzero or zero value ±m·2^e (R146, R148, R150): code and flags. -/
def Fmt.round (f : Fmt) (r : Rnd) (sat dn neg : Bool) (m : Nat) (e : Int) : Nat × Flags :=
  if m = 0 then (f.sign neg, 0)
  else
    let l : Int := (m.log2 : Int) + e
    let emin : Int := 1 - (f.bias : Int)
    let u : Int := (if l < emin then emin else l) - f.fbits
    let (q, inexact) := roundAt r neg m e u
    let (mm, me) := f.maxVal
    let high : Bool := if u > me then q != 0 else decide (q > mm <<< (me - u).toNat)
    if high then (f.overflow r sat neg, fOF ||| fNX)
    else
      let tiny : Bool := decide (l < emin) &&
        (decide (l < emin - 1) || decide ((roundAt r neg m e (l - f.fbits)).1 < 2 ^ (f.fbits + 1)))
      let sub : Bool := decide (u = emin - f.fbits) && decide (q < 2 ^ f.fbits)
      if dn && sub && q != 0 then (f.sign neg, fUF ||| fNX)
      else
        (f.sign neg + (q + (u - (emin - f.fbits)).toNat * 2 ^ f.fbits),
          flagIf inexact fNX ||| flagIf (tiny && inexact) fUF)

/-- RoundTo for any float value whose NaN and infinities the format can hold (R144, R148). -/
def Fmt.roundVal (f : Fmt) (r : Rnd) (sat dn : Bool) : FVal → Nat × Flags
  | .nan _ => (f.nanCode, 0)
  | .inf neg => (f.sign neg + (2 ^ f.ebits - 1) * 2 ^ f.fbits, 0)
  | .fin neg m e => f.round r sat dn neg m e

/-- Whether a code is a subnormal of the format. -/
def Fmt.isSubnormal (f : Fmt) (c : Nat) : Bool :=
  bitsOf c (f.signBit - 1) f.fbits == 0 && c % 2 ^ f.fbits != 0

/-- An operand read under DN (R150). -/
def Fmt.read (f : Fmt) (dn : Bool) (c : Nat) : FVal :=
  if dn && f.isSubnormal c then .fin (bitOf c f.signBit) 0 0 else f.decode c

/-- IV for a signalling NaN operand (R144). -/
def FVal.iv : FVal → Flags
  | .nan true => fIV
  | _ => 0

/-- Whether a value is a NaN. -/
def FVal.isNan : FVal → Bool
  | .nan _ => true
  | _ => false

/-- Whether a value is a zero. -/
def FVal.isZero : FVal → Bool
  | .fin _ 0 _ => true
  | _ => false

/-- The sign of a value; a NaN counts as positive. -/
def FVal.neg : FVal → Bool
  | .nan _ => false
  | .inf n => n
  | .fin n _ _ => n

/-- Change the sign. -/
def FVal.negate : FVal → FVal
  | .nan s => .nan s
  | .inf n => .inf (!n)
  | .fin n m e => .fin (!n) m e

/-- The signed mantissa. -/
def signed (neg : Bool) (m : Nat) : Int := if neg then -(m : Int) else m

/-- The exact sum of two dyadic numbers: mantissa and exponent. -/
def dyAdd (a : Int) (ea : Int) (b : Int) (eb : Int) : Int × Int :=
  if ea ≤ eb then (a + b * (2 : Int) ^ (eb - ea).toNat, ea)
  else (a * (2 : Int) ^ (ea - eb).toNat + b, eb)

/-- a + b (R345), with the sign rule of an exact zero sum (R148). -/
def FVal.add (r : Rnd) (a b : FVal) : FVal × Flags :=
  match a, b with
  | .nan x, .nan y => (.nan false, (FVal.nan x).iv ||| (FVal.nan y).iv)
  | .nan x, _ => (.nan false, (FVal.nan x).iv)
  | _, .nan y => (.nan false, (FVal.nan y).iv)
  | .inf x, .inf y => if x = y then (.inf x, 0) else (.nan false, fIV)
  | .inf x, _ => (.inf x, 0)
  | _, .inf y => (.inf y, 0)
  | .fin na ma ea, .fin nb mb eb =>
    if ma = 0 ∧ mb = 0 then (.fin (if na = nb then na else r == .rdn) 0 0, 0)
    else
      let (s, e) := dyAdd (signed na ma) ea (signed nb mb) eb
      if s = 0 then (.fin (r == .rdn) 0 0, 0) else (.fin (decide (s < 0)) s.natAbs e, 0)

/-- The two are infinities of opposite signs (R349). -/
def FVal.opposes : FVal → FVal → Bool
  | .inf x, .inf y => x != y
  | _, _ => false

/-- a · b, exact (R345). -/
def FVal.mul (a b : FVal) : FVal × Flags :=
  match a, b with
  | .nan x, .nan y => (.nan false, (FVal.nan x).iv ||| (FVal.nan y).iv)
  | .nan x, _ => (.nan false, (FVal.nan x).iv)
  | _, .nan y => (.nan false, (FVal.nan y).iv)
  | .inf x, .fin y m _ => if m = 0 then (.nan false, fIV) else (.inf (x != y), 0)
  | .fin x m _, .inf y => if m = 0 then (.nan false, fIV) else (.inf (x != y), 0)
  | .inf x, .inf y => (.inf (x != y), 0)
  | .fin na ma ea, .fin nb mb eb => (.fin (na != nb) (ma * mb) (ea + eb), 0)

/-- a · b + d, exact (R345): a product 0·∞ raises IV even beside a quiet NaN. -/
def FVal.fma (r : Rnd) (a b d : FVal) : FVal × Flags :=
  let (p, fp) := a.mul b
  let (s, fs) := p.add r d
  (s, fp ||| fs)

/-- a / b with a sticky low bit (R345). -/
def FVal.div (a b : FVal) : FVal × Flags :=
  match a, b with
  | .nan x, .nan y => (.nan false, (FVal.nan x).iv ||| (FVal.nan y).iv)
  | .nan x, _ => (.nan false, (FVal.nan x).iv)
  | _, .nan y => (.nan false, (FVal.nan y).iv)
  | .inf _, .inf _ => (.nan false, fIV)
  | .inf x, .fin y _ _ => (.inf (x != y), 0)
  | .fin x _ _, .inf y => (.fin (x != y) 0 0, 0)
  | .fin na ma ea, .fin nb mb eb =>
    if mb = 0 then (if ma = 0 then (.nan false, fIV) else (.inf (na != nb), fDZ))
    else
      let k := 96 + mb.log2
      let n := ma <<< k
      (.fin (na != nb) (2 * (n / mb) + (if n % mb = 0 then 0 else 1)) (ea - eb - k - 1), 0)

/-- The integer square root by digits: the largest r below 2^fuel + acc with r² ≤ n. -/
def isqrt (n : Nat) : Nat → Nat → Nat
  | 0, acc => acc
  | i + 1, acc => isqrt n i (if (acc + 2 ^ i) * (acc + 2 ^ i) ≤ n then acc + 2 ^ i else acc)

/-- √a with a sticky low bit (R345). -/
def FVal.sqrt (a : FVal) : FVal × Flags :=
  match a with
  | .nan x => (.nan false, (FVal.nan x).iv)
  | .inf n => if n then (.nan false, fIV) else (.inf false, 0)
  | .fin n m e =>
    if m = 0 then (.fin n 0 0, 0)
    else if n then (.nan false, fIV)
    else
      let odd := (e % 2).toNat
      let x := m <<< (160 + odd)
      let r := isqrt x 112 0
      (.fin false (2 * r + (if r * r = x then 0 else 1)) ((e - odd - 160) / 2 - 1), 0)

/-- 1/√a with a sticky low bit (R350, R351). -/
def FVal.rsqrt (a : FVal) : FVal × Flags :=
  match a with
  | .nan x => (.nan false, (FVal.nan x).iv)
  | .inf n => if n then (.nan false, fIV) else (.fin false 0 0, 0)
  | .fin n m e =>
    if m = 0 then (.inf n, fDZ)
    else if n then (.nan false, fIV)
    else
      let odd := (e % 2).toNat
      let m' := m <<< odd
      let r := isqrt (2 ^ 288 / m') 146 0
      (.fin false (2 * r + (if r * r * m' = 2 ^ 288 then 0 else 1)) (-((e - odd) / 2) - 144 - 1), 0)

/-- The two operands in order: a < b, for finite values and infinities. -/
def FVal.lt (a b : FVal) : Bool :=
  match a, b with
  | .nan _, _ => false
  | _, .nan _ => false
  | .inf x, .inf y => x && !y
  | .inf x, .fin _ _ _ => x
  | .fin _ _ _, .inf y => !y
  | .fin na ma ea, .fin nb mb eb => decide ((dyAdd (signed na ma) ea (-(signed nb mb)) eb).1 < 0)

/-- a = b as numbers: −0 equals +0 (R348). -/
def FVal.eqv (a b : FVal) : Bool := !a.isNan && !b.isNan && !(a.lt b) && !(b.lt a)

/-- The smaller of a and b, −0 below +0, a NaN giving way to a number (R346). -/
def FVal.min (a b : FVal) : FVal :=
  if a.isNan then (if b.isNan then .nan false else b)
  else if b.isNan then a
  else if a.lt b then a else if b.lt a then b else if a.neg then a else b

/-- The larger of a and b (R346). -/
def FVal.max (a b : FVal) : FVal :=
  if a.isNan then (if b.isNan then .nan false else b)
  else if b.isNan then a
  else if a.lt b then b else if b.lt a then a else if a.neg then b else a

/-- a · 2^k; zeros, infinities and NaNs pass (R345). -/
def FVal.scale (a : FVal) (k : Int) : FVal :=
  match a with
  | .fin n m e => .fin n m (e + k)
  | x => x

/-- Round to an integral value: the integer's magnitude and whether it changed (R345, R151). -/
def FVal.roundInt (r : Rnd) (neg : Bool) (m : Nat) (e : Int) : Nat × Bool := roundAt r neg m e 0

/-- An integer result exceeding the element's range: clamped or wrapped (R334). -/
def inRange (w : Nat) (sgn : Bool) (y : Int) : Bool :=
  if sgn then decide (-(2 : Int) ^ (w - 1) ≤ y) && decide (y < (2 : Int) ^ (w - 1))
  else decide (0 ≤ y) && decide (y < (2 : Int) ^ w)

/-- Trunc(w, y): the low w bits of the two's-complement form (R8). -/
def truncInt (w : Nat) (y : Int) : Nat := (y % (2 : Int) ^ w).toNat

/-- Sat(T, y): the nearest end of the range (R8). -/
def satInt (w : Nat) (sgn : Bool) (y : Int) : Int :=
  if sgn then (if y < 0 then -(2 : Int) ^ (w - 1) else (2 : Int) ^ (w - 1) - 1)
  else (if y < 0 then 0 else (2 : Int) ^ w - 1)

/-- Fit(y) of R334: element bits and flags. -/
def fit (w : Nat) (sgn sat : Bool) (y : Int) : Nat × Flags :=
  if sat && !(inRange w sgn y) then (truncInt w (satInt w sgn y), fSI) else (truncInt w y, 0)

/-- The integer that w bits hold, signed or natural. -/
def intOf (w : Nat) (sgn : Bool) (x : Nat) : Int :=
  if sgn && bitOf x (w - 1) then (x : Int) - (2 : Int) ^ w else x

/-- The value of an element read as a number, for conversions: a float, or an exact integer; `none` for
the invalid O4 code (R143). -/
inductive EVal where
  | int (y : Int)
  | flt (v : FVal)
  | badO4
deriving DecidableEq, Repr

/-- Read an element (R141–R143, R150). -/
def ETy.readElem (t : ETy) (dn : Bool) (x : Nat) : EVal :=
  match t.fmt with
  | some f => .flt (f.read dn x)
  | none =>
    match t with
    | .o4 => if x = 8 then .badO4 else .int (intOf 4 true x)
    | _ => .int (intOf t.width (t.intSigned == some true) x)

/-- A float value to an integer type of width `w` (R149, R151): a value that is clamped sets IV alone (log 139). -/
def floatToInt (w : Nat) (sgn : Bool) (r : Rnd) : FVal → Nat × Flags
  | .nan _ => (0, fIV)
  | .inf n => (truncInt w (satInt w sgn (if n then -1 else 1)), fIV)
  | .fin n m e =>
    let (q, nx) := FVal.roundInt r n m e
    let y := signed n q
    if inRange w sgn y then (truncInt w y, flagIf nx fNX) else (truncInt w (satInt w sgn y), fIV)

/-- A float value to O4 (R149, R151). -/
def floatToO4 (r : Rnd) : FVal → Nat × Flags
  | .nan _ => (0, fIV)
  | .inf n => (truncInt 4 (if n then -7 else 7), fIV)
  | .fin n m e =>
    let (q, nx) := FVal.roundInt r n m e
    if q ≤ 7 then (truncInt 4 (signed n q), flagIf nx fNX)
    else (truncInt 4 (if n then -7 else 7), fOF ||| fNX)

/-- A float value to a float format, with the special inputs of R149. -/
def floatToFloat (f : Fmt) (r : Rnd) (sat dn : Bool) (v : FVal) : Nat × Flags :=
  match v with
  | .nan s =>
    match f.sp with
    | .none => (0, fIV)
    | _ => (f.nanCode, flagIf s fIV)
  | .inf n =>
    match f.sp with
    | .ieee => (f.sign n + (2 ^ f.ebits - 1) * 2 ^ f.fbits, 0)
    | .e4m3 => if sat then (f.sign n + f.maxCode, fIV) else (f.nanCode, fIV)
    | .none => (f.sign n + f.maxCode, fIV)
  | .fin n m e => f.round r sat dn n m e

/-- Convert one element to type `t` (R356, R143). -/
def convertElem (t : ETy) (r : Rnd) (sat dn : Bool) (x : EVal) : Nat × Flags :=
  match t.fmt, x with
  | some f, .flt v => floatToFloat f r sat dn v
  | some f, .int y => f.round r sat dn (decide (y < 0)) y.natAbs 0
  | some f, .badO4 => (f.nanCode, fIV)
  | none, .badO4 => (0, fIV)
  | none, .flt v =>
    match t with
    | .o4 => floatToO4 r v
    | _ => floatToInt t.width (t.intSigned == some true) r v
  | none, .int y =>
    match t with
    | .o4 => if -7 ≤ y ∧ y ≤ 7 then (truncInt 4 y, 0) else (truncInt 4 (if y < 0 then -7 else 7), fSI)
    | _ => fit t.width (t.intSigned == some true) sat y

/-- The exact value of finite elements as a dyadic number; NaN and infinities are kept apart. -/
def EVal.toF : EVal → FVal
  | .int y => .fin (decide (y < 0)) y.natAbs 0
  | .flt v => v
  | .badO4 => .nan false

/-- Element `e` of a packed operand (R145). -/
def elemOf (w x e : Nat) : Nat := (x >>> (w * e)) % 2 ^ w

/-- Pack elements, element 0 lowest (R145). -/
def packElems (w : Nat) : List Nat → Nat
  | [] => 0
  | x :: t => x % 2 ^ w + 2 ^ w * packElems w t

end Sys2Proof.Machine
end

