-- ==== Sys2Proof/Machine/Flags.lean ====
section
/-! DEFINITION. The cyclic checks of the machine and the signature step (R156, R157, R174, R260, R261),
and the sticky flags of a path (R125, R152, R153). -/

namespace Sys2Proof.Machine

/-- One bit of a reflected CRC: shift right, XOR the polynomial when a one falls out (R261). -/
def crcBitR (poly : Nat) (c : Nat) : Nat := if c % 2 = 1 then Nat.xor (c / 2) poly else c / 2

/-- `n` bits of a reflected CRC. -/
def crcBitsR (poly : Nat) : Nat → Nat → Nat
  | 0, c => c
  | n + 1, c => crcBitsR poly n (crcBitR poly c)

/-- A reflected CRC-32C step over one byte, with no inversion (R261). -/
def sigStep (sig : Word) (b : Byte) : Word :=
  BitVec.ofNat 32 (crcBitsR 0x82F63B78 8 (Nat.xor sig.toNat b.toNat))

/-- The step of one issue: the opcode, then the four bytes of ACTIVE XOR the reference mask (R260). -/
def sigIssue (sig : Word) (op : Nat) (mask : Word) : Word :=
  (wordBytes mask.toNat).foldl sigStep (sigStep sig (BitVec.ofNat 8 op))

/-- The signature that a completed REGANG leaves: 0 stepped over 0xE2 (R260). -/
def sigRegang : Word := sigStep 0 0xE2

/-- One bit of a CRC of width `w` shifted left. -/
def crcBitL (w poly c : Nat) : Nat :=
  if c / 2 ^ (w - 1) % 2 = 1 then Nat.xor (c * 2 % 2 ^ w) poly else c * 2 % 2 ^ w

/-- `n` bits of a CRC shifted left. -/
def crcBitsL (w poly : Nat) : Nat → Nat → Nat
  | 0, c => c
  | n + 1, c => crcBitsL w poly n (crcBitL w poly c)

/-- A CRC of width `w`, most significant bit first, over bytes, starting from `init`. -/
def crcL (w poly init : Nat) (bs : Bytes) : Nat :=
  bs.foldl (fun c b => crcBitsL w poly 8 (Nat.xor c (b.toNat * 2 ^ (w - 8)))) init

/-- CRC-32C over bytes, inverted at both ends (R25, R118). -/
def crc32c (bs : Bytes) : Nat :=
  Nat.xor (bs.foldl (fun c b => crcBitsR 0x82F63B78 8 (Nat.xor c b.toNat)) 0xFFFFFFFF) 0xFFFFFFFF

/-- The lowest-numbered of a list, or `d`. -/
def lowest (d : Nat) (l : Nats) : Nat := l.headD d

/-- The bits of a mask below `n`, rising. -/
def bitsBelow (n m : Nat) : Nats := (upto n).filter (fun i => bitOf m i)

/-- The lanes of a 32-bit mask, rising. -/
def lanesOf (m : Word) : Nats := bitsBelow 32 m.toNat

/-- The mask of a list of bit numbers. -/
def maskOf (l : Nats) : Nat := l.foldl (fun m i => m ||| 2 ^ i) 0

/-- The 32-bit mask of a list of lanes. -/
def laneMask (l : Nats) : Word := BitVec.ofNat 32 (maskOf l)

/-- The four lanes of slice `s` in a 32-bit mask. -/
def sliceLanes (m : Word) (s : Nat) : BitVec 4 := BitVec.ofNat 4 (m.toNat >>> (4 * s))

/-- A 4-bit lane mask put in slice `s`'s place. -/
def atSlice (m : BitVec 4) (s : Nat) : Nat := m.toNat <<< (4 * s)

end Sys2Proof.Machine
end

