-- ==== Sys2Proof/Machine/Formed.lean ====
section
/-! DEFINITION. Formed lines (R154–R160), their building (R304, R359), and compressed packets (R174–R176). -/

namespace Sys2Proof.Machine

/-- Bytes of a number, little-endian (R3). -/
def leBytes : Nat → Nat → Bytes
  | 0, _ => []
  | n + 1, x => BitVec.ofNat 8 x :: leBytes n (x / 256)

/-- Bytes `off … off + n − 1`, as a number (R3). -/
def fieldAt (bs : Bytes) (off n : Nat) : Nat := leNat ((bs.drop off).take n)

/-- Byte `i` as a number. -/
def byteAt (bs : Bytes) (i : Nat) : Nat := (nth 0 bs i).toNat

/-- The zero line (R156). -/
def zeroLine : Bytes := List.replicate 64 0

/-- Elements of a line of format code `c`; `none` for a reserved code (R156). -/
def lineCount : Nat → Option Nat
  | 0 => some 0 | 1 => some 96 | 2 => some 96 | 3 => some 48 | 4 => some 48 | 5 => some 48
  | 6 => some 24 | 7 => some 24 | 8 => some 12
  | _ => none

/-- The width class of a format code: 0 4-bit, 1 8-bit, 2 16-bit, 3 32-bit (R156, R193). -/
def lineClass : Nat → Nat
  | 1 | 2 => 0
  | 3 | 4 | 5 => 1
  | 6 | 7 => 2
  | _ => 3

/-- Element bits of a width class. -/
def classBits (wc : Nat) : Nat := 4 * 2 ^ wc

/-- Elements per line of a width class (R193). -/
def classCount (wc : Nat) : Nat := 96 / 2 ^ wc

/-- The float format of a format code; INT8 and O4 have none. -/
def lineFmt : Nat → Option Fmt
  | 2 => some fmtE2 | 3 => some fmtE4 | 4 => some fmtE5 | 6 => some fmtBf | 7 => some fmt16 | 8 => some fmt32
  | _ => none

/-- First byte of a line that R156 requires to be zero (bytes 50–61); 62 when none is. -/
def lineZeroFrom : Nat → Nat
  | 3 | 4 | 5 => 56
  | 6 | 7 => 53
  | 8 => 50
  | _ => 62

/-- The line check of R157. -/
def lineCheck (bs : Bytes) : Nat :=
  if byteAt bs 0 = 0 then 0 else crcL 16 0x1021 0xFFFF (bs.take 62)

/-- The payload as a 384-bit number (R155). -/
def linePayload (bs : Bytes) : Nat := fieldAt bs 2 48

/-- The element codes in order (R155). -/
def lineCodes (bs : Bytes) : Nats :=
  let c := byteAt bs 0
  let w := classBits (lineClass c)
  (upto ((lineCount c).getD 0)).map (elemOf w (linePayload bs))

/-- The count of O4 markers (R143). -/
def lineMarkers (codes : Nats) : Nat := (codes.filter (· == 8)).length

/-- The checks of R158 and R159, in order: the fault code, and whether PK is set beside it. -/
def checkLine (bs : Bytes) : Option (Nat × Bool) :=
  let c := byteAt bs 0
  if fieldAt bs 62 2 ≠ lineCheck bs then some (0x21, false)
  else if c = 0 then none
  else if (lineCount c).isNone then some (0x20, false)
  else if byteAt bs 1 = 0xFF then some (0x20, false)
  else if (upto 62).any (fun i => decide (lineZeroFrom c ≤ i) && byteAt bs i != 0) then some (0x20, false)
  else if c = 1 then
    let k := lineMarkers (lineCodes bs)
    if 12 < k then some (0x20, true)
    else if (upto k).any (fun i => byteAt bs (50 + i) % 128 == 0x7F) then some (0x22, false)
    else if (upto 12).any (fun i => decide (k ≤ i) && byteAt bs (50 + i) != 0) then some (0x22, false)
    else none
  else none

/-- The fine scale of quad `q` (R155). -/
def fineScale (bs : Bytes) (q : Nat) : Nat :=
  let b := byteAt bs (50 + q / 2)
  if q % 2 = 0 then b % 16 else b / 16

/-- Values of O4 elements in order, the k-th marker taking pocket byte 50 + k (R159). -/
def o4Vals (bs : Bytes) (sc : Int) : Nats → Nat → List FVal
  | [], _ => []
  | c :: t, k =>
    if c = 8 then ((fmtE4.decode (byteAt bs (50 + k))).scale sc) :: o4Vals bs sc t (k + 1)
    else (FVal.fin (bitOf c 3) (intOf 4 true c).natAbs sc) :: o4Vals bs sc t k

/-- The element values of a line that has passed its checks (R155, R159); a zero line has none. -/
def lineVals (bs : Bytes) : List FVal :=
  let c := byteAt bs 0
  let sc : Int := (byteAt bs 1 : Int) - 127
  let codes := lineCodes bs
  if c = 1 then o4Vals bs sc codes 0
  else codes.zipIdx.map fun (x, i) =>
    match lineFmt c with
    | some f => (f.decode x).scale (if c = 8 then sc else sc - fineScale bs (i / 4))
    | none => FVal.fin (bitOf x 7) (intOf 8 true x).natAbs (sc - fineScale bs (i / 4))

/-- A line from its code, coarse scale, element codes and bytes 50–61, with its check (R154, R157). -/
def mkLine (c sc : Nat) (codes : Nats) (side : Nats) : Bytes :=
  let head := [BitVec.ofNat 8 c, BitVec.ofNat 8 sc]
  let body := leBytes 48 (packElems (classBits (lineClass c)) codes)
  let pre := head ++ body ++ (upto 12).map fun i => BitVec.ofNat 8 (nth 0 side i)
  pre ++ leBytes 2 (lineCheck pre)

/-- How a line is rounded (R359): MODE.RM, DR, SAT and DN. -/
structure LineMode where
  rm : Nat
  dr : Nat := 0
  sat : Bool := false
  dn : Bool := false

/-- The rounding of the element at index `i` (R359). -/
def LineMode.rnd (m : LineMode) (i : Nat) : Rnd := Rnd.ofCode m.rm m.dr (i % 8)

/-- The element code of value `v` at index `i`, for a format other than O4, at power `sh` (R359). -/
def lineElem (m : LineMode) (c : Nat) (sh : Int) (v : FVal) (i : Nat) : Nat × Flags :=
  match lineFmt c with
  | some f => floatToFloat f (m.rnd i) m.sat m.dn (v.scale sh)
  | none => floatToInt 8 true (m.rnd i) (v.scale sh)

/-- Whether a quad is held exactly at power `sh`: no finite value raises a flag (R304), DN or not. -/
def quadExact (m : LineMode) (c : Nat) (sh : Int) (vs : List (FVal × Nat)) : Bool :=
  vs.all fun (v, i) => match v with
    | .fin _ _ _ => (lineElem { m with dn := false } c sh v i).2 == 0
    | _ => true

/-- The fine scale of a quad (R304): the smallest under which every value is exact. Values grow with the
fine scale, so where none is exact the smallest that does not overflow is 0 if any is, and R359 takes 0
where every one overflows. -/
def quadScale (m : LineMode) (c : Nat) (base : Int) (vs : List (FVal × Nat)) : Nat :=
  ((upto 16).find? fun (n : Nat) => quadExact m c (base + (n : Int)) vs).getD 0

/-- Split a list into pieces of `n`, at most `fuel` of them. -/
def pieces {α : Type} (n : Nat) : Nat → List α → List (List α)
  | 0, _ => []
  | _, [] => []
  | k + 1, l => l.take n :: pieces n k (l.drop n)

/-- OR of flags. -/
def orFlags (l : List Flags) : Flags := l.foldl (· ||| ·) 0

/-- One O4 element (R359): code, pocket byte for a marker, flags. `k` pocket bytes are in use. -/
def o4Elem (m : LineMode) (base : Int) (v : FVal) (i k : Nat) : Nat × Option Nat × Flags :=
  match v.scale base with
  | .fin n mant e =>
    let (q, nx) := roundAt (m.rnd i) n mant e 0
    if q ≤ 7 then (truncInt 4 (signed n q), none, flagIf nx fNX)
    else if k < 12 then
      let (p, f) := fmtE4.round (m.rnd i) m.sat false n mant e
      (8, some p, f)
    else (truncInt 4 (if n then -7 else 7), none, fPK ||| fOF ||| fNX)
  | w => let (c, f) := floatToO4 (m.rnd i) w; (c, none, f)

/-- The O4 elements of a line from index `i` on, with `k` pocket bytes used: codes, pocket, flags. -/
def o4Elems (m : LineMode) (base : Int) : List FVal → Nat → Nat → Nats × Nats × Flags
  | [], _, _ => ([], [], 0)
  | v :: t, i, k =>
    let (c, p, f) := o4Elem m base v i k
    let (cs, ps, fs) := o4Elems m base t (i + 1) (k + p.toList.length)
    (c :: cs, p.toList ++ ps, f ||| fs)

/-- Two nibbles to a byte (R155). -/
def packNibbles : Nats → Nats
  | a :: b :: t => (a + 16 * b) :: packNibbles t
  | [a] => [a]
  | [] => []

/-- Build a line of format `c` with coarse scale `sc` from values in element order (R304, R359). -/
def buildLine (m : LineMode) (c sc : Nat) (vals : List FVal) : Bytes × Flags :=
  let n := (lineCount c).getD 0
  let vs := (vals ++ List.replicate n (FVal.fin false 0 0)).take n
  let base : Int := 127 - (sc : Int)
  if n = 0 then (zeroLine, 0)
  else if c = 1 then
    let (codes, pocket, f) := o4Elems m base vs 0 0
    (mkLine c sc codes pocket, f)
  else if c = 8 then
    let es := vs.zipIdx.map fun (v, i) => lineElem m c base v i
    (mkLine c sc (es.map (·.1)) [], orFlags (es.map (·.2)))
  else
    let qs := (pieces 4 24 vs.zipIdx).map fun q =>
      let s := quadScale m c base q
      (s, q.map fun (v, i) => lineElem m c (base + s) v i)
    let es := qs.flatMap (·.2)
    (mkLine c sc (es.map (·.1)) (packNibbles (qs.map (·.1))), orFlags (es.map (·.2)))

/-- The CRC-24 of R174. -/
def packetCrc (bs : Bytes) : Nat := crcL 24 0x864CFB 0xB704CE bs

/-- A packet header's fields (R174): CRC, CLEN, LINES, METHOD. -/
structure PacketHead where
  crc : Nat
  clen : Nat
  lines : Nat
  method : Nat
deriving DecidableEq, Repr

/-- Read a packet header (R174). -/
def packetHead (bs : Bytes) : PacketHead :=
  let h := fieldAt bs 0 8
  { crc := bitsOf h 63 40, clen := bitsOf h 39 16, lines := bitsOf h 15 4, method := bitsOf h 3 0 }

/-- Bytes of a packet with its padding (R174). -/
def PacketHead.size (h : PacketHead) : Nat := (8 + h.clen + 7) / 8 * 8

/-- The lines of a ZRUN payload (R175); `none` when a record runs past the end. -/
def zrun : Nat → Bytes → Option (List Bytes)
  | _, [] => some []
  | 0, _ :: _ => none
  | fuel + 1, c :: t =>
    let n := c.toNat % 128 + 1
    if 128 ≤ c.toNat then (zrun fuel t).map (List.replicate n zeroLine ++ ·)
    else if t.length < 64 * n then none
    else (zrun fuel (t.drop (64 * n))).map (pieces 64 n t ++ ·)

/-- One byte-plane of a PLANE payload: `need` values still to come; answers them and the rest (R175). -/
def plane : Nat → Nat → Bytes → Option (Bytes × Bytes)
  | _, 0, t => some ([], t)
  | 0, _, _ => none
  | fuel + 1, need, c :: v :: t =>
    if c.toNat = 0 ∨ need < c.toNat then none
    else (plane fuel (need - c.toNat) t).map fun (b, r) => (List.replicate c.toNat v ++ b, r)
  | _, _, _ => none

/-- The 64 planes in order (R175): the planes' values and the bytes left over. -/
def planes (lines : Nat) : Nat → Bytes → Option (List Bytes × Bytes)
  | 0, t => some ([], t)
  | n + 1, t => (plane lines lines t).bind fun (b, r) => (planes lines n r).map fun (bs, r') => (b :: bs, r')

/-- Decode a payload into its lines (R175); `none` when R176's third check fails. -/
def packetLines (h : PacketHead) (pay : Bytes) : Option (List Bytes) :=
  match h.method with
  | 0 => if h.clen = 64 * h.lines then some (pieces 64 h.lines pay) else none
  | 1 => (zrun h.clen pay).bind fun ls => if ls.length = h.lines then some ls else none
  | _ => (planes h.lines 64 pay).bind fun (ps, rest) =>
      if rest = [] then some ((upto h.lines).map fun i => ps.map fun p => nth 0 p i) else none

/-- The checks of R176 on the packet at the head of a source range of `bs`: a fault code, or the lines
and the packet's size. -/
def readPacket (bs : Bytes) : Except Nat (List Bytes × Nat) :=
  let h := packetHead bs
  if bs.length < 8 ∨ 3 ≤ h.method ∨ h.lines = 0 ∨ h.clen = 0 ∨ bs.length < 8 + h.clen then .error 0x20
  else
    let pay := (bs.drop 8).take h.clen
    if packetCrc pay ≠ h.crc then .error 0x21
    else match packetLines h pay with
      | none => .error 0x20
      | some ls =>
        match (ls.filterMap checkLine).head? with
        | some (c, _) => .error c
        | none => .ok (ls, h.size)

end Sys2Proof.Machine
end

