-- ==== Sys2Proof/Machine/Access.lean ====
section
/-! DEFINITION. The one home of every piece of state: how tasks, gangs, waves, paths, slices, cores, clusters
and contexts are found and replaced, the launch packet's fields (R56), and registers (R123, R287). -/

namespace Sys2Proof.Machine

/-- The context of number `c`. -/
def State.ctx? (s : State) (c : Nat) : Option Context := Table.get none s.contexts c

/-- Replace, create or remove context `c`. -/
def State.setCtx (s : State) (c : Nat) (x : Option Context) : State :=
  { s with contexts := s.contexts.set none c x }

/-- Change context `c` when it exists. -/
def State.mapCtx (s : State) (c : Nat) (f : Context → Context) : State := s.setCtx c ((s.ctx? c).map f)

/-- The task with this id. -/
def State.task? (s : State) (t : Nat) : Option Task := s.tasks.find? (fun x => x.id == t)

/-- Replace the task record of the same id. -/
def State.setTask (s : State) (t : Task) : State :=
  { s with tasks := s.tasks.map fun x => if x.id == t.id then t else x }

/-- Change the task of this id. -/
def State.mapTask (s : State) (t : Nat) (f : Task → Task) : State :=
  { s with tasks := s.tasks.map fun x => if x.id == t then f x else x }

/-- The gang of this task and index. -/
def State.gang? (s : State) (t g : Nat) : Option Gang :=
  s.gangs.find? (fun x => x.task == t && x.index == g)

/-- Replace the gang of the same task and index. -/
def State.setGang (s : State) (g : Gang) : State :=
  { s with gangs := s.gangs.map fun x => if x.task == g.task && x.index == g.index then g else x }

/-- Change a gang. -/
def State.mapGang (s : State) (t g : Nat) (f : Gang → Gang) : State :=
  { s with gangs := s.gangs.map fun x => if x.task == t && x.index == g then f x else x }

/-- The cluster of number `c`. -/
def State.cluster (s : State) (c : Nat) : Cluster := s.clusters.get {} c

/-- Replace cluster `c`. -/
def State.setCluster (s : State) (c : Nat) (x : Cluster) : State := { s with clusters := s.clusters.set {} c x }

/-- Change cluster `c`. -/
def State.mapCluster (s : State) (c : Nat) (f : Cluster → Cluster) : State := s.setCluster c (f (s.cluster c))

/-- The handler side of core `c` of the package. -/
def State.core (s : State) (c : Nat) : Core := s.cores.get {} c

/-- Replace core `c`. -/
def State.setCore (s : State) (c : Nat) (x : Core) : State := { s with cores := s.cores.set {} c x }

/-- The die of number `d`. -/
def State.die (s : State) (d : Nat) : Die := nth {} s.dies d

/-- Change die `d`. -/
def State.mapDie (s : State) (d : Nat) (f : Die → Die) : State :=
  { s with dies := setNth s.dies d (f (s.die d)) }

/-- Queue `q`. -/
def State.queue (s : State) (q : Nat) : Queue := s.queues.get {} q

/-- Replace queue `q`. -/
def State.setQueue (s : State) (q : Nat) (x : Queue) : State := { s with queues := s.queues.set {} q x }

/-- A field of the launch packet (R56). -/
def Task.field (t : Task) (off n : Nat) : Nat := fieldAt t.packet off n
/-- Wave entry. -/
def Task.waveEntry (t : Task) : Nat := t.field 0x00 8
/-- Caster entry, 0 for none. -/
def Task.casterEntry (t : Task) : Nat := t.field 0x08 8
/-- Gang count G. -/
def Task.gangCount (t : Task) : Nat := t.field 0x10 4
/-- Groups per gang. -/
def Task.groups (t : Task) : Nat := t.field 0x14 1
/-- Waves per group. -/
def Task.waves (t : Task) : Nat := t.field 0x15 1
/-- Register blocks per wave. -/
def Task.blocks (t : Task) : Nat := t.field 0x16 1
/-- Producer wave index, 0xFF for none. -/
def Task.producer (t : Task) : Nat := t.field 0x17 1
/-- Scratch bytes per gang. -/
def Task.scratch (t : Task) : Nat := t.field 0x18 4
/-- Tiles per gang. -/
def Task.tiles (t : Task) : Nat := t.field 0x1C 1
/-- Banks per gang. -/
def Task.banks (t : Task) : Nat := t.field 0x1D 1
/-- Launch flag bit `i`. -/
def Task.flag (t : Task) (i : Nat) : Bool := bitOf (t.field 0x1E 1) i
/-- Persistent. -/
def Task.persistent (t : Task) : Bool := t.flag 0
/-- Anytime. -/
def Task.anytime (t : Task) : Bool := t.flag 1
/-- Idempotent. -/
def Task.idempotent (t : Task) : Bool := t.flag 2
/-- Signature check. -/
def Task.sigcheck (t : Task) : Bool := t.flag 3
/-- Fill-class. -/
def Task.fillClass (t : Task) : Bool := t.flag 4
/-- Argument block address. -/
def Task.args (t : Task) : Nat := t.field 0x20 8
/-- Liveness table address. -/
def Task.liveness (t : Task) : Nat := t.field 0x28 8
/-- Completion timeline id. -/
def Task.timeline (t : Task) : Nat := t.field 0x30 2
/-- Version region base. -/
def Task.region (t : Task) : Nat := t.field 0x40 8
/-- Slot bytes. -/
def Task.slotBytes (t : Task) : Nat := t.field 0x48 4
/-- Slot count V. -/
def Task.slotCount (t : Task) : Nat := t.field 0x4C 1
/-- Time limit, ns: the packet's, or the ceiling where the packet's is 0 or above it (R69). -/
def Task.timeLimit (t : Task) : Nat :=
  let l := t.field 0x50 8
  if t.limits.timeNs != 0 && (l == 0 || decide (t.limits.timeNs < l)) then t.limits.timeNs else l
/-- Energy limit, µJ (R69). -/
def Task.energyLimit (t : Task) : Nat :=
  let l := t.field 0x58 8
  if t.limits.energyUj != 0 && (l == 0 || decide (t.limits.energyUj < l)) then t.limits.energyUj else l
/-- Ingot planes per cluster. -/
def Task.planes (t : Task) : Nat := t.field 0x60 2

/-- A wave of a gang, a caster thread, or a core's handler wave (R123, R135, R252). -/
def State.wave? (s : State) : WaveRef → Option Wave
  | .user t g w => (s.gang? t g).bind fun x => x.waves[w]?
  | .caster t g => (s.gang? t g).map (·.caster)
  | .handler c => (s.core c).wave

/-- Replace a wave. -/
def State.setWave (s : State) (r : WaveRef) (w : Wave) : State :=
  match r with
  | .user t g i => s.mapGang t g fun x => { x with waves := setNth x.waves i w }
  | .caster t g => s.mapGang t g fun x => { x with caster := w }
  | .handler c => s.setCore c { s.core c with wave := some w }

/-- Path `p` of a wave. -/
def Wave.path (w : Wave) (p : Nat) : Path := nth {} w.paths p

/-- Replace path `p`. -/
def Wave.setPath (w : Wave) (p : Nat) (x : Path) : Wave := { w with paths := setNth w.paths p x }

/-- Slice `i` of a wave. -/
def Wave.slice (w : Wave) (i : Nat) : Slice := nth {} w.slices i

/-- Replace slice `i`. -/
def Wave.setSlice (w : Wave) (i : Nat) (x : Slice) : Wave := { w with slices := setNth w.slices i x }

/-- Change slice `i`. -/
def Wave.mapSlice (w : Wave) (i : Nat) (f : Slice → Slice) : Wave := w.setSlice i (f (w.slice i))

/-- A slice whose four lanes have all ended is exited (R129). -/
def Slice.exited (x : Slice) : Bool := x.ended == 0xF

/-- The slices of a path, exited ones left out, rising. -/
def Wave.pathSlices (w : Wave) (p : Nat) : Nats :=
  (bitsBelow 8 (w.path p).slices.toNat).filter fun i => !(w.slice i).exited

/-- Live slices of a wave (R127). -/
def Wave.liveSlices (w : Wave) : Nats := (upto 8).filter fun i => !(w.slice i).exited

/-- A wave has ended when all its lanes have (R129). -/
def Wave.finished (w : Wave) : Bool := w.liveSlices == []

/-- The lanes that the split stacks of a list of slices enable and that have not ended (R125). -/
def Wave.enabledLanes (w : Wave) (sl : Nats) : Word :=
  BitVec.ofNat 32 ((sl.map fun i => atSlice ((w.slice i).enabled &&& ~~~(w.slice i).ended) i).sum)

/-- A path's ACTIVE as its slices and SLEEP give it (R125). -/
def Wave.refreshActive (w : Wave) (p : Nat) : Wave :=
  let x := w.path p
  w.setPath p { x with active := w.enabledLanes (bitsBelow 8 x.slices.toNat) &&& ~~~x.sleep }

/-- The key of lane `l` of vector register `r`. -/
def vkey (r l : Nat) : Nat := 32 * r + l

/-- Read a lane of a vector register. -/
def Wave.getV (w : Wave) (r l : Nat) : RegVal := w.vregs.get {} (vkey r l)

/-- Write a lane of a vector register. -/
def Wave.setV (w : Wave) (r l : Nat) (v : RegVal) : Wave := { w with vregs := w.vregs.set {} (vkey r l) v }

/-- Read a scalar register of slice `i`. -/
def Wave.getS (w : Wave) (r i : Nat) : RegVal := (w.slice i).regs.get {} r

/-- Write a scalar register of slice `i`. -/
def Wave.setS (w : Wave) (r i : Nat) (v : RegVal) : Wave :=
  w.mapSlice i fun x => { x with regs := x.regs.set {} r v }

/-- Predicate `p`: p0 reads all ones (R123). -/
def Wave.pred (w : Wave) (p : Nat) : Word := if p = 0 then 0xFFFFFFFF else w.preds.get 0 p

/-- Write predicate `p` in the lanes of `mask`: writes to p0 are discarded (R123, R323). -/
def Wave.setPred (w : Wave) (p : Nat) (mask v : Word) : Wave :=
  if p = 0 then w else { w with preds := w.preds.set 0 p ((w.pred p &&& ~~~mask) ||| (v &&& mask)) }

/-- Predicate field value over 32 lanes, with its negation (R291). -/
def Wave.predF (w : Wave) (p : PredF) : Word := if p.neg then ~~~(w.pred p.idx) else w.pred p.idx

/-- Read a lane of an exact sum. -/
def Wave.getX (w : Wave) (x l : Nat) : XSum := w.xsums.get {} (32 * x + l)

/-- Write a lane of an exact sum. -/
def Wave.setX (w : Wave) (x l : Nat) (v : XSum) : Wave := { w with xsums := w.xsums.set {} (32 * x + l) v }

/-- OR flags into a path's STICKY (R152). -/
def Wave.orSticky (w : Wave) (p : Nat) (f : Flags) : Wave :=
  w.setPath p { w.path p with sticky := (w.path p).sticky ||| f }

/-- The fields of MODE (R292). -/
def modeG (m : BitVec 24) : Nat := bitsOf m.toNat 3 0
/-- Guard negate. -/
def modeGN (m : BitVec 24) : Bool := bitOf m.toNat 4
/-- Element type code. -/
def modeT (m : BitVec 24) : Nat := bitsOf m.toNat 9 5
/-- Rounding. -/
def modeRM (m : BitVec 24) : Nat := bitsOf m.toNat 12 10
/-- Saturation. -/
def modeSAT (m : BitVec 24) : Bool := bitOf m.toNat 13
/-- Scope. -/
def modeSCOPE (m : BitVec 24) : Nat := bitsOf m.toNat 16 14
/-- Subnormals. -/
def modeDN (m : BitVec 24) : Bool := bitsOf m.toNat 18 17 == 1
/-- Dither row. -/
def modeDR (m : BitVec 24) : Nat := bitsOf m.toNat 21 19

/-- Whether a MODE value holds no reserved field or value (R292). -/
def modeLegal (m : Nat) : Bool :=
  decide (bitsOf m 23 22 = 0) && decide (bitsOf m 18 17 < 2) && decide (bitsOf m 16 14 < 6)
    && decide (bitsOf m 12 10 < 6) && decide (bitsOf m 9 5 < 16)

/-- The guard of one slice as a mask of all lanes (R294). -/
def Wave.guard (w : Wave) (m : BitVec 24) : Word :=
  if modeGN m then ~~~(w.pred (modeG m)) else w.pred (modeG m)

/-- Active (R274): the lanes of ACTIVE, all in the path's slices, that each slice's guard selects. -/
def Wave.activeLanes (w : Wave) (p : Nat) : Word :=
  (w.path p).active &&&
    BitVec.ofNat 32 (((w.pathSlices p).map fun i => atSlice (sliceLanes (w.guard (w.slice i).mode) i) i).sum)

/-- The kind of word `k` of a buffered line (R276). -/
def LineBuf.kind (l : LineBuf) (k : Nat) : Nat :=
  lineKind (nth 0 l.words 0).toNat (nth 0 l.words 1).toNat k

/-- Word `k` of a buffered line. -/
def LineBuf.word (l : LineBuf) (k : Nat) : Word := nth 0 l.words k

/-- Whether an address lies in the buffered line. -/
def LineBuf.holds (l : LineBuf) (pc : DWord) : Bool := decide (l.base.toNat / 128 = pc.toNat / 128)

/-- The word index of an address in its line. -/
def wordIx (pc : DWord) : Nat := pc.toNat % 128 / 4

/-- The address at which fetch continues after word `k` of a line (R278): the next word that is not fill,
or word 2 of the next line. -/
def LineBuf.after (l : LineBuf) (k : Nat) : DWord :=
  match (upto 32).find? (fun i => decide (k < i) && l.kind i != 3) with
  | some i => l.base + BitVec.ofNat 64 (4 * i)
  | none => l.base + BitVec.ofNat 64 136

/-- The literal words that directly follow word `k` inside the clause (R290), at most `fuel`. -/
def LineBuf.literals (l : LineBuf) (last : Nat) : Nat → Nat → List Word
  | 0, _ => []
  | fuel + 1, k =>
    if k + 1 ≤ last ∧ l.kind (k + 1) = 2 then l.word (k + 1) :: l.literals last fuel (k + 1) else []

/-! ### What stands at a path's PC (R276, R278, R281) -/

/-- The word at an offset of a buffered line as the machine meets it: a clause header outside a clause, an
instruction inside one, and otherwise a word that is not decoded (R278, R286, R290, R296). -/
def LineBuf.meets (l : LineBuf) (clause : Option Clause) (k : Nat) : Instr :=
  match clause with
  | none => if l.kind k = 1 then .clauseHeader (l.word k).toNat else .unassignedOpcode (l.word k).toNat
  | some c =>
    if k ≤ c.last ∧ l.kind k = 0 then
      (match decodeWord (l.word k).toNat with
      | .ok i => i
      | .error _ => .unassignedOpcode (l.word k).toNat)
    else .unassignedOpcode (l.word k).toNat

/-- What a path meets at its PC, when its fetch buffer holds the line. -/
def Path.meets (p : Path) : Option Instr :=
  match p.buf with
  | some l => if l.holds p.pc then some (l.meets p.clause (wordIx p.pc)) else none
  | none => none

/-! ### Directories and timelines -/

/-- The version directory of a task (R204). -/
def State.dir? (s : State) (t : Nat) : Option Directory := s.dirs.find? (fun d => d.task == t)

/-- Change a task's directory. -/
def State.mapDir (s : State) (t : Nat) (f : Directory → Directory) : State :=
  { s with dirs := s.dirs.map fun d => if d.task == t then f d else d }

/-! ### Records -/

/-- STATE codes of a path (R125). -/
def PathState.code : PathState → Nat
  | .free => 0
  | .run => 1
  | .blocked => 2
  | .regang => 3
  | .halted => 4

/-- The 24 bytes of a path record (R125). -/
def Path.record (x : Path) (index : Nat) : Bytes :=
  leBytes 8 (index + 2 ^ 32 * x.sticky.toNat + 2 ^ 53 * x.state.code + 2 ^ 56 * x.slices.toNat)
    ++ leBytes 4 x.active.toNat ++ leBytes 4 x.sleep.toNat ++ leBytes 8 x.pc.toNat

/-- The 64 bytes of a fault record (R254). -/
def FaultRec.bytes (r : FaultRec) : Bytes :=
  leBytes 1 r.code
    ++ leBytes 1 (r.imprecise.toNat + 2 * r.exited.toNat + 4 * r.caster.toNat + 8 * r.nested.toNat
        + 16 * r.haltPending.toNat + 32 * r.ladle.toNat)
    ++ leBytes 1 r.disposition ++ leBytes 1 r.lane ++ leBytes 4 r.task ++ leBytes 4 r.gang ++ leBytes 1 r.group
    ++ leBytes 1 r.slot ++ leBytes 2 r.core ++ leBytes 8 r.pc.toNat ++ leBytes 8 r.addr.toNat
    ++ (if r.caster then List.replicate 24 0 else r.path.record r.pathIx)
    ++ leBytes 4 r.done.toNat ++ leBytes 1 r.cause ++ leBytes 1 r.outer ++ leBytes 2 r.lost

/-- Drop from a list of performed numbers those that the counter takes up in order. -/
def advance : Nat → Nat → Nats → Nat × Nats
  | 0, r, l => (r, l)
  | fuel + 1, r, l => if l.contains (r + 1) then advance fuel (r + 1) (l.filter (· != r + 1)) else (r, l)

/-- Take the next number (R223). -/
def Timeline.take (t : Timeline) : Timeline := { t with taken := t.taken + 1 }

/-- Operation `n` is performed: the counter reaches every number whose predecessors all are (R223). -/
def Timeline.perform (t : Timeline) (n : Nat) : Timeline :=
  if t.fenced ∨ n ≤ t.reached then t
  else
    let (r, l) := advance (t.performed.length + 1) t.reached (t.performed ++ [n])
    { t with reached := r, performed := l }

end Sys2Proof.Machine
end

