-- ==== Sys2Proof/Machine/Memory.lean ====
section
/-! DEFINITION. Memory (R27–R30, R39–R41), its poison and watches (R185, R206), translation (R177–R188) and
the accesses built on them. -/

namespace Sys2Proof.Machine

/-- One byte of the package's memory: an unlisted byte reads 0, as step 0x06 of R16 leaves it. -/
def State.byte (s : State) (off : Nat) : Byte := s.mem.get 0 off

/-- `n` bytes from offset `off`. -/
def State.readLocal (s : State) (off n : Nat) : Bytes := (upto n).map fun i => s.byte (off + i)

/-- Write bytes at rising offsets of a byte table. -/
def putBytes : Table Byte → Nat → Bytes → Table Byte
  | t, _, [] => t
  | t, off, b :: bs => putBytes (t.set 0 off b) (off + 1) bs

/-- Read `n` bytes of a byte table. -/
def getBytes (t : Table Byte) (off n : Nat) : Bytes := (upto n).map fun i => t.get 0 (off + i)

/-- The memory is in canonical form. -/
def Memory.wf (t : Table Byte) : Bool := Table.wf 0 t

/-- Change an ingot's record (R239). -/
def State.mapIngot (s : State) (c i : Nat) (f : Ingot → Ingot) : State :=
  s.mapCtx c fun x => { x with ingots := x.ingots.set {} i (f (x.ingots.get {} i)) }

/-- An ingot's record. -/
def State.ingot (s : State) (c i : Nat) : Ingot :=
  match s.ctx? c with
  | some x => x.ingots.get {} i
  | none => {}

/-- The watch of R185 on one ingot (R241): it becomes STALE, a COLD one without planes; a load in progress
remembers the store. -/
def Ingot.hit (g : Ingot) : Ingot :=
  match g.state with
  | .resident => { g with state := .stale }
  | .loading => { g with loadStale := true }
  | .cold => { g with state := .stale, place := none, holder := none, data := [] }
  | _ => g

/-- The die that owns an offset: by bonded DRAM, or by the CXL port of its window (R28, R39). -/
def dieOf (off : Nat) : Nat := if off < 2 ^ 40 then off / 2 ^ 36 else off / 2 ^ 40 - 1

/-- Mark every ingot that watches the granule of `off` (R185). -/
def State.hitWatch (s : State) (off : Nat) : State :=
  ((s.die (dieOf off)).watches.get [] (off / 4096)).foldl (fun s ci => s.mapIngot ci.1 ci.2 Ingot.hit) s

/-- The 64-byte lines that a range wholly covers. -/
def wholeLines (off n : Nat) : Nats :=
  (upto (n / 64 + 2)).filterMap fun i =>
    let l := off / 64 + i
    if off ≤ 64 * l ∧ 64 * l + 64 ≤ off + n then some l else none

/-- The granules that a range touches. -/
def granules (off n : Nat) : Nats := (upto ((off % 4096 + n + 4095) / 4096)).map (off / 4096 + ·)

/-- What bytes of memory that are overwritten from an offset on held before, newest first (R108). -/
def overwritten (m : Table Byte) : Table Bytes → Nat → Bytes → Table Bytes
  | t, _, [] => t
  | t, off, b :: bs =>
    let old := m.get 0 off
    overwritten m (if old = b ∨ (t.get [] off).contains old then t else t.set [] off (old :: t.get [] off)) (off + 1) bs

/-- Write bytes of the package's own memory: the watches see the write first (R185); a whole-line write in
one operation clears the line's poison (R206). While a slot is open, what the bytes held is kept (R108). -/
def State.writeLocal (s : State) (off : Nat) (bs : Bytes) (whole : Bool) : State :=
  let s := if bs = [] then s else (granules off bs.length).foldl (fun s g => s.hitWatch (4096 * g)) s
  { s with
    mem := putBytes s.mem off bs
    poison := if whole then (wholeLines off bs.length).foldl (fun t l => t.set false l false) s.poison
      else s.poison
    trail := if s.dirs.any (·.openSlot.isSome) then overwritten s.mem s.trail off bs else s.trail }

/-- Whether an own-package offset names memory that exists (R28, R40). -/
def State.hasMemory (s : State) (off : Nat) : Bool :=
  decide (off < 2 ^ 38) ||
  (decide (2 ^ 40 ≤ off) && decide (off < 5 * 2 ^ 40) &&
    decide (off % 2 ^ 40 < (nth {} s.ports (off / 2 ^ 40 - 1)).capacity))

/-- Whether the die or CXL port behind an own-package offset is fenced (R13, R42). -/
def State.fencedAt (s : State) (off : Nat) : Bool :=
  if off < 2 ^ 40 then (s.die (dieOf off)).fenced else (nth {} s.ports (dieOf off)).fenced

/-- The first offset of the management space (R28). -/
def mgmtBase : Nat := 0x0030000000000000

/-- Whether an offset lies in the management space. -/
def isMgmt (off : Nat) : Bool := decide (mgmtBase ≤ off) && decide (off < mgmtBase + 2 ^ 32)

/-- The domain names an endpoint of this id (R27). -/
def State.endpoint (s : State) (pkg : Nat) : Bool := s.hosts.contains pkg || s.packages.contains pkg

/-- The place `k` bytes on. -/
def Place.plus : Place → Nat → Place
  | .mem o, k => .mem (o + k)
  | .scratch o, k => .scratch (o + k)
  | .remote p o, k => .remote p (o + k)
  | .mgmt o, k => .mgmt (o + k)
  | .record o, k => .record (o + k)

/-- The range checks of R27–R29 and R36 on a fabric-global address: the place, or the fault code. -/
def State.reach (s : State) (priv leafP : Bool) (addr : Nat) : Except Nat Place :=
  let pkg := addr / 2 ^ 54
  let off := addr % 2 ^ 54
  if pkg = s.ownId then
    if s.hasMemory off then (if s.fencedAt off then .error 0x10 else .ok (.mem off))
    else if isMgmt off then (if priv && leafP then .ok (.mgmt (off - mgmtBase)) else .error 0x11)
    else .error 0x10
  else if !(s.endpoint pkg) then .error 0x10
  else if s.fencedPkgs.contains pkg then .error 0x10
  else if s.packages.contains pkg then
    if off < 2 ^ 38 then (if s.fencedRemoteDies.contains (pkg, dieOf off) then .error 0x10 else .ok (.remote pkg off))
    else if 2 ^ 40 ≤ off ∧ off < 5 * 2 ^ 40 then .ok (.remote pkg off)
    else if isMgmt off then (if priv && leafP then .ok (.remote pkg off) else .error 0x11)
    else .error 0x10
  else .ok (.remote pkg off)

/-- Fields of a leaf entry (R181). -/
def leafKind (e : Nat) : Nat := bitsOf e 3 2
/-- Stores permitted. -/
def leafW (e : Nat) : Bool := bitOf e 4
/-- Fetch permitted. -/
def leafX (e : Nat) : Bool := bitOf e 5
/-- Formed lines. -/
def leafFormed (e : Nat) : Bool := bitOf e 6
/-- Privileged only. -/
def leafP (e : Nat) : Bool := bitOf e 7
/-- Task-scratch. -/
def leafTS (e : Nat) : Bool := bitOf e 8

/-- Bytes of another endpoint's memory as they read now (R32): free values. -/
def State.readRemote (s : State) (pkg off n : Nat) : Bytes := (upto n).map fun i => Config.remoteByte s.now pkg (off + i)

/-- An entry of a page table, when its address can be read (R182). -/
def State.tableEntry (s : State) (addr : Nat) : Option Nat :=
  match s.reach false false addr with
  | .ok (.mem off) => some (leNat (s.readLocal off 8))
  | .ok (.remote pkg off) => some (leNat (s.readRemote pkg off 8))
  | _ => none

/-- The lowest address bit that a level's index takes (R179). -/
def levelLow (l : Nat) : Nat := if l = 0 then 16 else 21 + 9 * (l - 1)

/-- The index into a table of level `l` (R179). -/
def levelIndex (l va : Nat) : Nat := if l = 0 then bitsOf va 20 16 else bitsOf va (levelLow l + 8) (levelLow l)

/-- Whether a leaf entry at level `l` has no fault of R182. -/
def leafLegal (l e : Nat) : Bool :=
  decide (l ≤ 2) && decide (bitsOf e 15 10 = 0) && decide (leafKind e ≠ 3)
    && decide (e % 2 ^ levelLow l / 2 ^ 16 = 0)

/-- The walk of R179–R182 from a table of level `l`: the leaf and the level it was found at. -/
def State.walk (s : State) (va : Nat) : Nat → Nat → Option (Nat × Nat)
  | 0, table =>
    (s.tableEntry (table + 8 * levelIndex 0 va)).bind fun e =>
      if bitOf e 0 && bitOf e 1 && leafLegal 0 e then some (e, 0) else none
  | l + 1, table =>
    (s.tableEntry (table + 8 * levelIndex (l + 1) va)).bind fun e =>
      if !(bitOf e 0) then none
      else if bitOf e 1 then (if leafLegal (l + 1) e then some (e, l + 1) else none)
      else if bitsOf e 7 2 ≠ 0 then none
      else if l ≠ 0 ∧ bitsOf e 11 8 ≠ 0 then none
      else s.walk va l (e / 256 * 256)

/-- Who presents a virtual address (R177): its context, whether it is privileged code (R298), the gang
whose scratch the aperture maps (R178), and the cluster whose TLBs it uses. -/
structure Who where
  ctx : Nat
  priv : Bool := false
  gang : Option (Nat × Nat) := none
  cluster : Option Nat := none
  /-- the package core whose L1 TLB and L1 data cache it uses: none for a caster thread, a ladle or the runner -/
  core : Option Nat := none
deriving DecidableEq, Repr

/-! ### TLBs and the L1 data cache (R186, R190) -/

/-- The caches of a package core. -/
def State.coreCache (s : State) (c : Nat) : CoreCache := s.caches.cores.get {} c

/-- Change the caches of a package core. -/
def State.mapCoreCache (s : State) (c : Nat) (f : CoreCache → CoreCache) : State :=
  { s with caches := { s.caches with cores := s.caches.cores.set {} c (f (s.coreCache c)) } }

/-- The L2 TLB of a cluster. -/
def State.l2Tlb (s : State) (c : Nat) : List TlbEntry := s.caches.l2.get [] c

/-- Change the L2 TLB of a cluster. -/
def State.mapL2 (s : State) (c : Nat) (f : List TlbEntry → List TlbEntry) : State :=
  { s with caches := { s.caches with l2 := s.caches.l2.set [] c (f (s.l2Tlb c)) } }

/-- A free choice of the caches is used up. -/
def State.picked (s : State) : State := { s with caches := { s.caches with picks := s.caches.picks + 1 } }

/-- A new entry of a structure of `cap` places: where all are taken, which one makes room is the device's free choice. -/
def makePlace {α : Type} (cap pick : Nat) (l : List α) (x : α) : List α :=
  (if l.length < cap then l else l.eraseIdx (Config.cachePick pick % l.length)) ++ [x]

/-- A cached translation maps an address of a context. -/
def TlbEntry.maps (e : TlbEntry) (ctx va : Nat) : Bool :=
  e.ctx == ctx && decide (e.base ≤ va) && decide (va < e.base + 2 ^ e.size)

/-- The cached translation of an address in its core's L1 TLB or else its cluster's L2 TLB (R186). -/
def State.tlbFind (s : State) (w : Who) (va : Nat) : Option TlbEntry :=
  match w.core.bind fun c => (s.coreCache c).tlb.find? fun e => e.maps w.ctx va with
  | some e => some e
  | none => w.cluster.bind fun c => (s.l2Tlb c).find? fun e => e.maps w.ctx va

/-- The leaf that a walk of the context's tables finds, and the log of its page size (R179–R182). -/
def State.walked (s : State) (ctx va : Nat) : Option (Nat × Nat) :=
  match s.ctx? ctx with
  | some c => (s.walk va 4 c.root.toNat).map fun (e, l) => (e, levelLow l)
  | none => none

/-- The leaf that maps an address and the log of its page size: a cached one, or a walk's (R186). -/
def State.leaf (s : State) (w : Who) (va : Nat) : Option (Nat × Nat) :=
  match s.tlbFind w va with
  | some e => some (e.leaf, e.size)
  | none => s.walked w.ctx va

/-- Places of a core's L1 TLB, of a cluster's L2 TLB, and of a core's L1 data cache of 256 KiB (R121). -/
def l1TlbPlaces : Nat := 256
/-- See `l1TlbPlaces`. -/
def l2TlbPlaces : Nat := 8192
/-- See `l1TlbPlaces`. -/
def l1Places : Nat := 4096

/-- A translation enters a cluster's L2 TLB. -/
def State.enterL2 (s : State) (c : Nat) (e : TlbEntry) : State :=
  (s.mapL2 c fun l => makePlace l2TlbPlaces s.caches.picks l e).picked

/-- A translation enters a core's L1 TLB. -/
def State.enterL1 (s : State) (c : Nat) (e : TlbEntry) : State :=
  (s.mapCoreCache c fun k => { k with tlb := makePlace l1TlbPlaces s.caches.picks k.tlb e }).picked

/-- Translations leave every TLB of the package. -/
def State.dropTlbs (s : State) (named : TlbEntry → Bool) : State :=
  let keep := fun (l : List TlbEntry) => l.filter fun e => !(named e)
  { s with caches := { s.caches with
      cores := s.caches.cores.map fun (c, k) => (c, { k with tlb := keep k.tlb })
      l2 := s.caches.l2.map fun (c, l) => (c, keep l) } }

/-- The first address of the scratchpad aperture (R178). -/
def aperture : Nat := 0x01FFFFFFFFC00000

/-- Bytes of the fault records of the package's 512 cores (R254). -/
def recordBytes : Nat := 64 * 32 * 512

/-- Whether an address lies in the fault records, which only handler waves reach (R254). -/
def inRecords (va : Nat) : Bool := decide (Config.recordBase ≤ va) && decide (va < Config.recordBase + recordBytes)

/-- The TLBs of an agent hold the translation of an address before its access issues (R186, R188): a miss takes it from the
L2 TLB or from a walk; a walk that finds no leaf caches nothing. -/
def State.holdPage (s : State) (w : Who) (va : Nat) : State :=
  if aperture ≤ va || inRecords va then s
  else
    let l1 := w.core.bind fun c => (s.coreCache c).tlb.find? fun e => e.maps w.ctx va
    let l2 := w.cluster.bind fun c => (s.l2Tlb c).find? fun e => e.maps w.ctx va
    if l1.isSome then s
    else
      let (s, found) := match l2 with
        | some e => (s, some e)
        | none =>
          match s.walked w.ctx va with
          | none => (s, none)
          | some (leaf, sz) =>
            let e : TlbEntry := { ctx := w.ctx, base := va / 2 ^ sz * 2 ^ sz, size := sz, leaf := leaf }
            (match w.cluster with
              | some c => s.enterL2 c e
              | none => s, some e)
      match w.core, found with
      | some c, some e => s.enterL1 c e
      | _, _ => s

/-- The translations of the pages of some accesses of `n` bytes are held (R188). -/
def State.holdPages (s : State) (w : Who) (n : Nat) (vas : Nats) : State :=
  vas.foldl (fun s va => (s.holdPage w va).holdPage w (va + n - 1)) s

/-- Bytes of a line of the package's memory overwritten by `bs` from offset `off`. -/
def overlay (line : Nat) (old : Bytes) (off : Nat) (bs : Bytes) : Bytes :=
  (upto 64).map fun i =>
    let a := 64 * line + i
    if off ≤ a ∧ a < off + bs.length then nth 0 bs (a - off) else nth 0 old i

/-- Whether a line of 64 bytes has bytes in a range. -/
def lineMeets (line off n : Nat) : Bool := decide (64 * line < off + n) && decide (off < 64 * line + 64)

/-- A core's store is seen in its own L1 line too; it writes through (R190). -/
def State.storeL1 (s : State) (c off : Nat) (bs : Bytes) : State :=
  let write := fun (x : L1Line) => if lineMeets x.line off bs.length then { x with bytes := overlay x.line x.bytes off bs } else x
  s.mapCoreCache c fun k => { k with lines := k.lines.map write }

/-- Lines of a range leave a core's L1 data cache: what bypasses it, and CFLUSH (R190, R389). -/
def State.dropL1 (s : State) (c off n : Nat) : State :=
  s.mapCoreCache c fun k => { k with lines := k.lines.filter fun x => !(lineMeets x.line off n) }

/-- An acquire at group scope or wider drops what its core's L1 must not serve stale (R190). -/
def State.acquireL1 (s : State) (c scope : Nat) : State :=
  if scope = 0 then s else s.mapCoreCache c fun k => { k with lines := [] }

/-- One line as a core's load of an RC or UO page sees it, and its poison (R190): the L1's, where it holds the line, or the
home's, which the L1 then holds. Whether a line that has been overwritten at its home is still held is the device's free
choice. -/
def State.loadLine (s : State) (c l : Nat) : Bytes × Bool × State :=
  let home := s.readLocal (64 * l) 64
  let pz := s.poison.get false l
  let fill := fun (s : State) => (s.mapCoreCache c fun k =>
    { k with lines := makePlace l1Places s.caches.picks (k.lines.filter (·.line != l)) { line := l, bytes := home, poison := pz } }).picked
  match (s.coreCache c).lines.find? (·.line == l) with
  | none => (home, pz, fill s)
  | some x =>
    if x.bytes = home ∧ x.poison = pz then (home, pz, s)
    else if Config.cachePick s.caches.picks % 2 = 0 then (x.bytes, x.poison, s.picked)
    else (home, pz, fill s.picked)

/-- `n` bytes from offset `off` through a core's L1 data cache, and whether a line they come from is poisoned. -/
def State.loadL1 (s : State) (c off n : Nat) : Bytes × Bool × State :=
  (upto ((off % 64 + n + 63) / 64)).foldl (fun (r : Bytes × Bool × State) i =>
    let l := off / 64 + i
    let (bs, pz, t) := r.2.2.loadLine c l
    let lo := max off (64 * l)
    let hi := min (off + n) (64 * l + 64)
    (r.1 ++ (bs.drop (lo - 64 * l)).take (hi - lo), r.2.1 || pz, t)) ([], false, s)

/-! ### Translation (R177, R178, R182) -/

/-- Scratch bytes of a gang. -/
def State.scratchBytes (s : State) (t : Nat) : Nat := ((s.task? t).map Task.scratch).getD 0

/-- What an access does. -/
inductive Access where
  | load
  | store
  | fetch
deriving DecidableEq, Repr

/-- What one page gives an access: the place of the address, the ordering kind, whether it is checked as
formed or plain, FORMED, TS, whether it is the aperture, and the first address beyond the page. -/
structure PageInfo where
  place : Place
  kind : Nat := 0
  formed : Bool := false
  ts : Bool := false
  inScratch : Bool := false
  stop : Nat := 0
deriving DecidableEq, Repr

/-- The first address beyond a page: the fault records and the aperture are cut out of every page (R178, R254). -/
def pageStop (va sz : Nat) : Nat :=
  min (va / 2 ^ sz * 2 ^ sz + 2 ^ sz) (if va < Config.recordBase then Config.recordBase else aperture)

/-- Translate one address and check it (R177, R178, R182, R28, R29): translation, then permission, then
the range. -/
def State.translate (s : State) (w : Who) (acc : Access) (va : Nat) : Except Nat PageInfo :=
  if 2 ^ 57 ≤ va then .error 0x10
  else if aperture ≤ va then
    if acc = .fetch then .error 0x11
    else match w.gang with
    | none => .error 0x10
    | some (t, _) =>
      if s.scratchBytes t ≤ va - aperture then .error 0x10
      else .ok { place := .scratch (va - aperture), inScratch := true, stop := aperture + s.scratchBytes t }
  else if inRecords va then
    if w.priv && acc != .fetch then .ok { place := .record (va - Config.recordBase), stop := Config.recordBase + recordBytes }
    else .error 0x11
  else match s.leaf w va with
    | none => .error 0x10
    | some (e, sz) =>
      if (acc = .store && !(leafW e)) || (acc = .fetch && !(leafX e)) || (leafP e && !w.priv) then .error 0x11
      else match s.reach w.priv (leafP e) (e / 2 ^ 16 * 2 ^ 16 + va % 2 ^ sz) with
        | .error c => .error c
        | .ok p => .ok { place := p, kind := leafKind e, formed := leafFormed e, ts := leafTS e,
                         stop := pageStop va sz }

/-- The first address beyond the page of an address whose access it does not permit. -/
def State.deniedStop (s : State) (w : Who) (va : Nat) : Nat :=
  if aperture ≤ va then 2 ^ 57
  else if inRecords va then Config.recordBase + recordBytes
  else match s.leaf w va with
    | some (_, sz) => pageStop va sz
    | none => va

/-- Translate an access of `n` bytes, which covers at most two pages; both are checked before any byte
is performed (R184), and a translation fault of the second comes before a permission fault of the first (R378). -/
def State.span (s : State) (w : Who) (acc : Access) (va n : Nat) : Except Nat Span :=
  match s.translate w acc va with
  | .error c =>
    let stop := s.deniedStop w va
    if c = 0x11 ∧ stop < va + n then
      match s.translate w acc stop with
      | .error 0x10 => .error 0x10
      | _ => .error c
    else .error c
  | .ok p =>
    if va + n ≤ p.stop then
      .ok { va := va, parts := [(p.place, n)], so := p.kind == 1, formed := p.formed, ts := p.ts,
            inScratch := p.inScratch }
    else match s.translate w acc p.stop with
      | .error c => .error c
      | .ok q =>
        if p.formed != q.formed && !p.inScratch && !q.inScratch then .error 0x12
        else .ok { va := va, parts := [(p.place, p.stop - va), (q.place, va + n - p.stop)],
                   so := p.kind == 1 || q.kind == 1, formed := p.formed && q.formed,
                   ts := (p.ts || p.inScratch) && (q.ts || q.inScratch), inScratch := p.inScratch && q.inScratch }

/-- The gang's scratch bytes of a `Who`. -/
def State.scratchOf (s : State) (w : Who) : Table Byte :=
  match w.gang with
  | some (t, g) => ((s.gang? t g).map (·.scratch)).getD []
  | none => []

/-- A byte of the fault records (R254); a free place reads 0. -/
def State.recordByte (s : State) (off : Nat) : Byte :=
  match (s.core (off / 2048)).records.get none (off % 2048 / 64) with
  | some r => nth 0 r.bytes (off % 64)
  | none => 0

/-- Store bytes into the fault records: the disposition byte is the handler's to write (R251, R254). -/
def State.putRecord : State → Nat → Bytes → State
  | s, _, [] => s
  | s, off, b :: bs =>
    let c := off / 2048
    let k := s.core c
    let s := match decide (off % 64 = 2), k.records.get none (off % 2048 / 64) with
      | true, some r => s.setCore c { k with records := k.records.set none (off % 2048 / 64) (some { r with disposition := b.toNat }) }
      | _, _ => s
    s.putRecord (off + 1) bs

/-- Read one part; a load's remote part is replaced by the data of its reply (R33). -/
def State.readPart (s : State) (w : Who) : Place → Nat → Bytes
  | .mem o, n => s.readLocal o n
  | .scratch o, n => getBytes (s.scratchOf w) o n
  | .remote p o, n => s.readRemote p o n
  | .mgmt _, n => List.replicate n 0
  | .record o, n => (upto n).map fun i => s.recordByte (o + i)

/-- Read a span's bytes. -/
def State.readSpan (s : State) (w : Who) (sp : Span) : Bytes := sp.parts.flatMap fun (p, n) => s.readPart w p n

/-- Whether a part touches a poisoned line (R206). -/
def State.partPoisoned (s : State) (w : Who) : Place → Nat → Bool
  | .mem o, n => (upto ((o % 64 + n + 63) / 64)).any fun i => s.poison.get false (o / 64 + i)
  | .scratch o, n =>
    match w.gang with
    | some (t, g) => match s.gang? t g with
      | some x => (upto ((o % 64 + n + 63) / 64)).any fun i => x.scratchPoison.get false (o / 64 + i)
      | none => false
    | none => false
  | _, _ => false

/-- Whether a span touches a poisoned line. -/
def State.spanPoisoned (s : State) (w : Who) (sp : Span) : Bool :=
  sp.parts.any fun (p, n) => s.partPoisoned w p n

/-- Read one part of a load, its poison, and what the L1 holds after it (R190): `cached` for a plain access to an RC or UO
page; any other access of a core bypasses its L1. -/
def State.fetchPart (s : State) (w : Who) (cached : Bool) (p : Place) (n : Nat) : Bytes × Bool × State :=
  match w.core, p with
  | some c, .mem o =>
    if cached then s.loadL1 c o n else (s.readPart w p n, s.partPoisoned w p n, s.dropL1 c o n)
  | _, _ => (s.readPart w p n, s.partPoisoned w p n, s)

/-- What the core's L1 holds after its write of one part: the write goes through; `cached` as for loads. -/
def State.noteWrite (s : State) (w : Who) (cached : Bool) (p : Place) (bs : Bytes) : State :=
  match w.core, p with
  | some c, .mem o => if cached then s.storeL1 c o bs else s.dropL1 c o bs.length
  | _, _ => s

/-- Write one part; a remote part is sent by the caller. -/
def State.writePart (s : State) (w : Who) (whole : Bool) : Place → Bytes → State
  | .mem o, bs => s.writeLocal o bs whole
  | .scratch o, bs =>
    match w.gang with
    | some (t, g) => s.mapGang t g fun x =>
      { x with
        scratch := putBytes x.scratch o bs
        scratchPoison := if whole then (wholeLines o bs.length).foldl (fun t l => t.set false l false) x.scratchPoison
          else x.scratchPoison }
    | none => s
  | .record o, bs => s.putRecord o bs
  | _, _ => s

/-- Write a list of parts from successive bytes. -/
def State.writeParts (s : State) (w : Who) (whole cached : Bool) : List (Place × Nat) → Bytes → State
  | [], _ => s
  | (p, n) :: t, bs =>
    ((s.writePart w whole p (bs.take n)).noteWrite w cached p (bs.take n)).writeParts w whole cached t (bs.drop n)

/-- Write a span's bytes; SO pages and `bypass` bypass the core's L1 (R190). -/
def State.writeSpan (s : State) (w : Who) (whole : Bool) (sp : Span) (bs : Bytes) (bypass : Bool := false) : State :=
  s.writeParts w whole (!(sp.so || bypass)) sp.parts bs

/-- Poison the lines of a span that hold poisoned source bytes: a ladle copy of a poisoned line (R257). -/
def State.poisonSpan (s : State) (w : Who) (sp : Span) : State :=
  sp.parts.foldl (fun s pn => match pn with
    | (.mem o, n) => { s with poison := (upto ((o % 64 + n + 63) / 64)).foldl (fun t i => t.set false (o / 64 + i) true) s.poison }
    | (.scratch o, n) => match w.gang with
      | some (t, g) => s.mapGang t g fun x =>
        { x with scratchPoison := (upto ((o % 64 + n + 63) / 64)).foldl (fun t i => t.set false (o / 64 + i) true) x.scratchPoison }
      | none => s
    | _ => s) s

/-- Remote parts of a span (R32). -/
def Span.remotes (sp : Span) : List (Nat × Nat × Nat) :=
  sp.parts.filterMap fun (p, n) => match p with
    | .remote k o => some (k, o, n)
    | _ => none

/-- The parts of a span whose expanders' completions are awaited (R41), for a lane. -/
def Span.cxlParts (sp : Span) (lane : Nat) : List CxlPart :=
  sp.parts.filterMap fun (p, n) => match p with
    | .mem o => if 2 ^ 40 ≤ o then
        some { port := dieOf o, lane := lane, va := BitVec.ofNat 64 sp.va, off := o, bytes := n } else none
    | _ => none

/-- The dies of this package whose bonded DRAM a span lies in (R13). -/
def Span.homes (sp : Span) : Nats :=
  sp.parts.filterMap fun (p, _) => match p with
    | .mem o => if o < 2 ^ 40 then some (dieOf o) else none
    | _ => none

/-- Management offset of a span that lies in the management space. -/
def Span.mgmt? (sp : Span) : Option Nat :=
  sp.parts.findSome? fun (p, _) => match p with
    | .mgmt o => some o
    | _ => none

end Sys2Proof.Machine
end

