-- ==== Sys2Proof/Machine/Link.lean ====
section
/-! DEFINITION. The sending side of the fabric: links and their flits (R24–R26), routes (R34, R35, R44), requests and fence
notices as they leave the package (R32, R33, R36). -/

namespace Sys2Proof.Machine

/-! ### Links -/

/-- Link `n`. -/
def State.link (s : State) (n : Nat) : Link := nth {} s.links n

/-- Change link `n`. -/
def State.mapLink (s : State) (n : Nat) (f : Link → Link) : State := { s with links := setNth s.links n (f (s.link n)) }

/-- Places of a link's retry buffer (R26). -/
def retryPlaces : Nat := 512

/-- A flit of 128 bytes (R25): SEQ with the kind, ACK, credits that no software sees, payload, CRC. -/
def flitOf (seq ack : Nat) (x : Parcel) : Bytes :=
  let body := leBytes 2 (seq % 4096 + 4096 * (x.kind % 16)) ++ leBytes 2 (ack % 4096) ++ leBytes 2 0
    ++ (x.payload ++ List.replicate 118 0).take 118
  body ++ leBytes 4 (crc32c body)

/-- The next flit goes out and is kept until it is acknowledged (R26). -/
def Link.emit (l : Link) (now : Nat) (x : Parcel) : Link :=
  let seq := (l.sendSeq + 1) % 4096
  { l with sendSeq := seq, lastSent := now, retry := l.retry ++ [{ seq := seq, parcel := x }], out := flitOf seq l.recvSeq x }

/-- The link carries flits and its retry buffer has a place. -/
def Link.carries (l : Link) : Bool := l.up && decide (l.retry.length < retryPlaces)

/-- What waits goes out in order while the link takes it. -/
def Link.drain (now : Nat) : List Parcel → Link → Link
  | [], l => { l with waiting := [] }
  | x :: t, l => if l.carries then Link.drain now t (l.emit now x) else { l with waiting := x :: t }

/-- Offer one more flit to a link, behind what waits. -/
def Link.put (l : Link) (now : Nat) (x : Parcel) : Link := Link.drain now (l.waiting ++ [x]) l

/-- An acknowledgement frees every flit up to it, and what waits goes out (R26). -/
def Link.acked (l : Link) (now ack : Nat) : Link :=
  let l := { l with retry := l.retry.filter fun f => decide (2048 ≤ (ack + 4096 - f.seq) % 4096) }
  Link.drain now l.waiting l

/-! ### Routes -/

/-- The link that the route of a destination gives to one of its 4 KiB pages (R34); none where no link is left. -/
def State.linkOf (s : State) (pkg page : Nat) : Option Nat :=
  let ls := bitsBelow 12 (s.routes.get 0 pkg)
  if ls = [] then none else some (nth 0 ls (Config.linkHash pkg page ls.length % ls.length))

/-- One flit leaves for its destination by the link of its page. -/
def State.sendParcel (s : State) (x : Parcel) : State :=
  match x.page.bind fun (pkg, page) => s.linkOf pkg page with
  | none => s
  | some n => s.mapLink n fun l => l.put s.now x

/-- Send a fence notice to some endpoints (R35, R36). -/
def State.announce (s : State) (t : FenceTarget) (eps : Nats) : State :=
  let fields : Nats := match t with
    | .link p n => [0, p, n]
    | .die p d => [1, p, d]
    | .package p => [2, p, 0]
  eps.foldl (fun s ep => s.sendParcel { kind := 2, payload := Config.headerOf fields, page := some (ep, 0) }) s

/-- Every other endpoint of the domain. -/
def State.peers (s : State) : Nats := (s.hosts ++ s.packages).filter (· != s.ownId)

/-! ### Requests -/

/-- The number that stands for a request's kind in its header. -/
def RemoteKind.code : RemoteKind → Nat
  | .load => 1
  | .store => 2
  | .atomic _ _ _ => 3
  | .axsum _ => 4
  | .signal => 5
  | .version _ _ _ _ => 6
  | .notify _ _ _ => 2

/-- What the header of a request says beside its kind, id, source, offset and bytes of data: a load's bytes, an atomic's opcode,
width and sign, where an AXSUM's cell goes on, what is asked about a task (R32, R423). -/
def RemoteReq.terms (q : RemoteReq) : Nats :=
  match q.kind with
  | .load => [leNat q.data]
  | .atomic op w sgn => [op, w, sgn.toNat]
  | .axsum (some (cut, off2)) => [cut, off2]
  | .version what ctx task x => [what, ctx, task, x]
  | _ => []

/-- The flits of a request (R25): a header for each 64 bytes of data that it carries, or one header alone. -/
def RemoteReq.parcels (q : RemoteReq) (own : Nat) : List Parcel :=
  let body := match q.kind with
    | .load | .signal | .version _ _ _ _ => []
    | _ => q.data
  let one := fun (k : Nat) (bs : Bytes) =>
    let h := Config.headerOf ([q.kind.code, q.id, own, q.off + 64 * k, bs.length] ++ q.terms)
    ({ kind := 1, payload := (h ++ List.replicate 16 0).take 16 ++ bs, page := some (q.pkg, q.off / 4096) } : Parcel)
  if body = [] then [one 0 []] else (pieces 64 body.length body).zipIdx.map fun (bs, k) => one k bs

/-- A page whose traffic waits until what a fenced link had not had acknowledged has been resent and acknowledged (R35). -/
def State.pageHeld (s : State) (pkg page : Nat) : Bool :=
  s.links.any fun l => (l.retry.map (·.parcel) ++ l.waiting).any fun x => x.again && x.page == some (pkg, page)

/-- New requests to a destination wait while a route write to it is pending, and to a page while its resend is (R35, R44). -/
def State.requestHeld (s : State) (pkg off : Nat) : Bool :=
  s.routePending.any (·.1 == pkg) || s.pageHeld pkg (off / 4096)

/-- An operation comes before another in the program order of a slice (R210). -/
def PendingOp.before (x o : PendingOp) : Bool := x.wave == o.wave && decide (x.id < o.id) && (x.slices &&& o.slices) != 0

/-- The accesses of an operation are performed at a scope (R33, R41, R212): what has left the package counts at fabric scope, an
expander's completion at device scope. -/
def PendingOp.performed (x : PendingOp) (scope : Nat) : Bool :=
  x.engine || x.ended || x.ask || (x.held == [] && x.release.isNone
    && (x.cxl == [] || decide (scope < 4)) && (x.remote == [] || decide (scope < 5)))

/-- Every access before an operation in its path's program order is performed at a scope (R216, R416). -/
def State.releaseDone (s : State) (o : PendingOp) (scope : Nat) : Bool := s.ops.all fun x => !(x.before o) || x.performed scope

/-- A signal on another package's timeline leaves once its release is performed at fabric scope (R416). -/
def State.signalHeld (s : State) (q : RemoteReq) : Bool :=
  q.kind == .signal && s.ops.any fun o => o.id == q.opId && !(s.releaseDone o 5)

/-- A request goes out. -/
def State.emitRequest (s : State) (q : RemoteReq) : State := (q.parcels s.ownId).foldl State.sendParcel s

/-- Send one request to another endpoint (R32), or hold it until it may go; its id. -/
def State.sendRequest (s : State) (q : RemoteReq) : State × Nat :=
  let q : RemoteReq := { q with id := s.nextId, since := s.now, sent := !(s.requestHeld q.pkg q.off) && q.kind != .signal }
  let t : State := { s with remote := s.remote ++ [q], nextId := s.nextId + 1 }
  (if q.sent then t.emitRequest q else t, s.nextId)

/-- Held requests that may go now leave (R35, R44, R416). -/
def State.releaseHeld (s : State) : State :=
  let go := s.remote.filter fun q => !q.sent && !(s.requestHeld q.pkg q.off) && !(s.signalHeld q)
  if go = [] then s
  else
    go.foldl (fun s q => s.emitRequest q)
      { s with remote := s.remote.map fun q => if go.any (·.id == q.id) then { q with sent := true, since := s.now } else q }

end Sys2Proof.Machine
end

