-- ==== Sys2Proof/Machine/Tiles.lean ====
section
/-! DEFINITION. Tile registers (R193–R195, R398) and the moves of a mould entry (R196), as several families use them. -/

namespace Sys2Proof.Machine

/-! ### Tiles -/

/-- Row `r` of a tile, 64 bytes. -/
def Tile.row (t : Tile) (r : Nat) : Bytes := getBytes t.rows (64 * r) 64

/-- Rows in use (R193). -/
def Tile.rowCount (t : Tile) : Nat := bitsOf t.ctl.toNat 22 16
/-- Elements per row in use. -/
def Tile.cols (t : Tile) : Nat := bitsOf t.ctl.toNat 6 0
/-- Width class. -/
def Tile.wc (t : Tile) : Nat := bitsOf t.ctl.toNat 31 30

/-- Whether a control value is legal (R193). -/
def tileCtlLegal (v : Nat) : Bool :=
  decide (bitsOf v 29 23 = 0) && decide (bitsOf v 15 7 = 0) && decide (1 ≤ bitsOf v 22 16) && decide (bitsOf v 22 16 ≤ 64)
    && decide (1 ≤ bitsOf v 6 0) && decide (bitsOf v 6 0 ≤ classCount (bitsOf v 31 30))

/-- A line through the padding view (R398): elements from `cols` on are code 0, pocket bytes of markers dropped
with them and fine nibbles of quads made of padding are 0, and the check is computed again. -/
def padLine (cols : Nat) (bs : Bytes) : Bytes :=
  let c := byteAt bs 0
  if c = 0 ∨ (lineCount c).isNone then bs
  else
    let codes := (lineCodes bs).zipIdx.map fun (x, i) => if i < cols then x else 0
    let side : Nats :=
      if c = 1 then (upto 12).map fun i => if i < lineMarkers codes then byteAt bs (50 + i) else 0
      else if c = 8 then []
      else packNibbles ((upto (codes.length / 4)).map fun q => if 4 * q < cols then fineScale bs q else 0)
    mkLine c (byteAt bs 1) codes side

/-- Row `r` through the padding view: a zero line from ROWS on (R398, R399). -/
def Tile.padRow (t : Tile) (r : Nat) : Bytes := if r < t.rowCount then padLine t.cols (t.row r) else zeroLine

/-- The element values of row `r` as its consumers read them (R194): padding is zero. -/
def Tile.vals (t : Tile) (r : Nat) : List FVal := if r < t.rowCount then (lineVals (t.row r)).take t.cols else []

/-- The zero-block bitmap of a tile's rows (R194). -/
def Tile.zeroBlocks (t : Tile) : BitVec 96 :=
  if t.wc = 3 then 0
  else
    let rows := (upto 64).map fun r => (t.vals r).map (·.isZero)
    let zero := fun (r c : Nat) => ((rows.drop (8 * r)).take 8).all fun l => ((l.drop (8 * c)).take 8).all id
    BitVec.ofNat 96 (maskOf ((upto 8).flatMap fun r =>
      ((upto (classCount t.wc / 8)).filter (zero r)).map fun c => 12 * r + c))

/-- Write rows from `r0` on and recompute the bitmap (R194, R397, R399). -/
def Tile.putRows (t : Tile) (r0 : Nat) (ls : List Bytes) : Tile :=
  let u := { t with rows := putBytes t.rows (64 * r0) ls.flatten }
  { u with bitmap := u.zeroBlocks }

/-- Zero lines in every row; the control register stays (R396). -/
def Tile.zero (t : Tile) : Tile :=
  let u := { t with rows := [] }
  { u with bitmap := u.zeroBlocks }

/-- The checks of a line entering a tile (R158, R159, R194): the fault code, and PK. -/
def Tile.checkRow (t : Tile) (bs : Bytes) : Option (Nat × Bool) :=
  match checkLine bs with
  | some x => some x
  | none => if byteAt bs 0 ≠ 0 ∧ lineClass (byteAt bs 0) ≠ t.wc then some (0x20, false) else none

/-! ### Moulds -/

/-- Enter a state: each entry into FULL from another state toggles PHASE (R196, R198, R415). -/
def Mould.enter (x : Mould) (t : MouldState) : Mould :=
  { x with state := t, phase := if t = .full ∧ x.state ≠ .full then !x.phase else x.phase }

end Sys2Proof.Machine
end

