-- ==== Sys2Proof/Machine/Ops.lean ====
section
/-! DEFINITION. The shared operations of the machine: kills, halts and scrubs (R251, R258, R259, R263), TAKING
A FAULT (R250, R252–R256) and the return from it (R329, R251), and how an issued instruction completes, waits,
parts or ends its path (R103, R126, R260, R274, R278). -/

namespace Sys2Proof.Machine

/-! ### Completion statuses (R63) -/

/-- DONE. -/
def stDone : Nat := 1
/-- QUENCHED. -/
def stQuenched : Nat := 2
/-- FAULTED. -/
def stFaulted : Nat := 3
/-- KILLED. -/
def stKilled : Nat := 4
/-- ABANDONED. -/
def stAbandoned : Nat := 5
/-- FAULTED_AFTER. -/
def stFaultedAfter : Nat := 6
/-- TIMEOUT. -/
def stTimeout : Nat := 7
/-- FENCED. -/
def stFenced : Nat := 8

/-! ### Kills -/

/-- Every lane of a wave ends and its paths become FREE (R129). -/
def Wave.end_ (w : Wave) : Wave :=
  { w with slices := w.slices.map fun x => { x with ended := 0xF, enabled := 0, stack := [] }
           paths := w.paths.map fun p => { p with state := .free, wait := .none, clause := none, active := 0, sleep := 0 } }

/-- Set the abandoned mark where a wave is a party that has not arrived in the current round, and release
the waiters (R259). -/
def Barrier.abandon (w : Nat) (b : Barrier) : Barrier :=
  if b.parties.contains w && !(b.arrived.contains w) then { b with abandoned := true } else b

/-- A wave of a gang is killed (R258): it ends, its barriers are abandoned (R259), and the gang will retire
FAULTED with the code. -/
def Gang.killWave (g : Gang) (w code : Nat) : Gang :=
  { g with
    waves := setNth g.waves w { (nth {} g.waves w).end_ with killed := true }
    barriers := g.barriers.map (Barrier.abandon w)
    status := if g.status = 0 then stFaulted else g.status
    code := if g.status = 0 then code else g.code }

/-- The task, gang and wave index that a wave reference names. -/
def refGang : WaveRef → Option (Nat × Nat)
  | .user t g _ => some (t, g)
  | .caster t g => some (t, g)
  | .handler _ => none

/-- Engines of a gang stop and their queued work is cancelled (R107, R251). -/
def Gang.cancelEngines (g : Gang) : Gang :=
  { g with ladle := g.ladle.map fun q => { q with ops := [], stopped := none }, seq := [], reload := [] }

/-- The cancelled operations of a gang's engines are no engines' any more: those whose issued writes are not performed stay
outstanding until they are (R107). -/
def State.dropEngineOps (s : State) (t g : Nat) : State :=
  let mine := fun (o : PendingOp) => o.engine && refGang o.wave == some (t, g)
  let cut := fun (o : PendingOp) => if mine o then { o with engine := false } else o
  { s with ops := (s.ops.filter fun o => !(mine o && o.cxl == [] && o.remote == [])).map cut }

/-- Change software timeline `i` of context `c`. -/
def State.mapTimeline (s : State) (c i : Nat) (f : Timeline → Timeline) : State :=
  s.mapCtx c fun x => { x with timelines := setNth x.timelines i (f (nth {} x.timelines i)) }

/-- What an operation whose wave starts again or ends leaves behind: writes that are issued and not performed, and a signal whose
release is not (R60, R107, R223). -/
def PendingOp.outlives (o : PendingOp) : Bool :=
  ((!o.isLoad || o.atomic) && (o.remote != [] || o.cxl != [] || o.held != [])) || (o.release.isSome && (o.signal.isSome || o.remote != []))

/-- Such an operation: it delivers nothing any more. -/
def PendingOp.orphan (o : PendingOp) : PendingOp :=
  { o with engine := false, flag := none, writes := [], fill := none, isLoad := false, atomic := false, part := false, barrier := none,
           tile := none }

/-- Some waves start again or end: what their operations have issued stays outstanding until it is performed, and nothing else of
them does. -/
def State.orphanOps (s : State) (mine : WaveRef → Bool) : State :=
  { s with ops := (s.ops.filter fun o => !(mine o.wave) || o.outlives).map fun o => if mine o.wave then o.orphan else o }

/-- A gang starts again (R117, R119): its operations leave. -/
def State.dropOps (s : State) (t g : Nat) : State := s.orphanOps fun r => refGang r == some (t, g)

/-- A load that ends without its planes leaves its ingot COLD, on the planes it was to fill (R108, R241). -/
def Ingot.cooled (v : Ingot) : Ingot :=
  { v with state := .cold, load := none, loadStale := false, next := none, place := v.next.orElse fun _ => v.place }

/-- An ingot in LOADING by a cancelled IGLOAD or reload of a gang becomes COLD (R108, R241). -/
def State.coolLoads (s : State) (t g : Nat) : State :=
  match (s.task? t).bind fun x => s.ctx? x.ctx with
  | none => s
  | some _ =>
    let c := ((s.task? t).map (·.ctx)).getD 0
    s.mapCtx c fun x => { x with ingots := x.ingots.map fun (i, v) =>
      match v.load with
      | some (a, b, _) => if a = t ∧ b = g then (i, v.cooled) else (i, v)
      | none => (i, v) }

/-- The first fault that ends a gang or a wave of a task is remembered at its record (R109). -/
def State.noteFault (s : State) (t code : Nat) : State :=
  s.mapTask t fun x => { x with firstFault := x.firstFault.orElse fun _ => some code }

/-- The status with which a gang that is stopped now will retire: what has ended a wave of it or the whole gang before stands
(R109, R258). -/
def Gang.endWith (g : Gang) (status code : Nat) : Nat × Nat :=
  match g.kill with
  | some k => k
  | none => if g.status ≠ 0 then (g.status, g.code) else (status, code)

/-- Stop a gang for good: its waves and caster end, its engines are cancelled, and it will retire with this
status and code unless something has ended it before (R107, R251). -/
def State.killGang (s : State) (t g status code : Nat) : State :=
  match s.gang? t g with
  | none => s
  | some x =>
    let s := if status = stFaulted ∧ x.state ≠ .retired then s.noteFault t code else s
    let e := x.endWith status code
    match x.state with
    | .retired => s
    | .waiting => (s.setGang { x with state := .retired, status := e.1, code := e.2, saved := none }).coolLoads t g
    | _ =>
      let x := { x with kill := some e }
      let x := (upto x.waves.length).foldl (fun y w => { y with barriers := y.barriers.map (Barrier.abandon w) }) x
      let x := { x with waves := x.waves.map Wave.end_, caster := x.caster.end_, held := [], halted := false }
      ((s.setGang x.cancelEngines).dropEngineOps t g).coolLoads t g

/-- Kill every gang of a task, WAITING ones at once (R60, R251). -/
def State.killTask (s : State) (t status code : Nat) : State :=
  let s := s.mapTask t fun x => if x.kill.isSome || x.status != 0 then x else { x with kill := some (status, code) }
  (s.gangs.filter (·.task == t)).foldl (fun s g => s.killGang t g.index status code) s

/-- A task's fault records that wait for a handler or are with one and end a wave, the gang or the task. -/
def State.recordsOf (s : State) (t : Nat) : List FaultRec :=
  s.cores.flatMap fun (_, c) => c.records.filterMap fun (_, r) => r.bind fun r =>
    if (refGang r.wave).map (·.1) == some t && decide (2 ≤ r.disposition) && decide (r.disposition ≤ 4) then some r else none

/-- The fault that has reached the task record before anything else that ends the task now (R109, R120). -/
def State.faultBefore (s : State) (t : Nat) : Option Nat :=
  match (s.task? t).bind (·.firstFault) with
  | some c => some c
  | none => ((s.recordsOf t).foldl (fun (a : Option FaultRec) r => match a with
    | none => some r
    | some x => some (if r.since < x.since then r else x)) none).map (·.code)

/-- Steps 1–4 of the quench of R107, with the status that R109 gives; the later steps are QUENCH_COMPLETE. -/
def State.startQuench (s : State) (t status code : Nat) : State :=
  match s.task? t with
  | none => s
  | some x =>
    if x.status ≠ 0 ∨ x.quench.isSome then s
    else
      let q := match s.faultBefore t with
        | some c => (stFaulted, c)
        | none => (status, code)
      let s := s.mapTask t fun x => { x with quench := some q }
      (s.gangs.filter (·.task == t)).foldl (fun s g => s.killGang t g.index status code) s

/-- The placement contents of a gang's tiles (R193, R194). -/
def freshTiles (n : Nat) : List Tile := List.replicate n {}

/-- Zero the tiles, banks, scratch and tags of a gang (R251, R435). -/
def Gang.scrub (g : Gang) : Gang :=
  { g with tiles := freshTiles g.tiles.length, banks := List.replicate g.banks.length {}
           scratch := [], scratchPoison := [], tags := [] }

/-- Give back the moulds 40–255 and the shape slots that a gang owns on its cluster (R197, R200); its step descriptors leave the
queues (R237). -/
def State.releaseCluster (s : State) (g : Gang) : State :=
  s.mapCluster g.cluster fun c =>
    { c with
      moulds := c.moulds.filter fun (_, m) => !(m.owned && m.owner == g.thread)
      shapes := c.shapes.filter fun (_, sl) => !(sl.owner == some (g.task, g.index))
      crucibles := c.crucibles.map fun k => { k with queue := k.queue.filter fun d => (d.task, d.gang) != (g.task, g.index) } }

/-- A gang as its task record starts it (R59, R117), WAITING. -/
def Gang.restart (g : Gang) : Gang :=
  { task := g.task, index := g.index, relaunches := g.relaunches, everPlaced := g.everPlaced, passNo := g.passNo }

/-- The gangs of a task. -/
def State.gangsOf (s : State) (t : Nat) : List Gang := s.gangs.filter (·.task == t)

/-- The gang holds a place on its cluster (R79). -/
def Gang.resident (g : Gang) : Bool := g.state == .placing || g.state == .running

/-- A context's planes are released with the last gang of the task on the cluster (R84, R244): the ingots the
task held there are nobody's reservation. -/
def State.releasePlanes (s : State) (g : Gang) : State :=
  if (s.gangsOf g.task).any (fun x => x.index != g.index && x.cluster == g.cluster && x.resident) then s
  else match s.task? g.task with
    | none => s
    | some k => s.mapCtx k.ctx fun c =>
      { c with ingots := c.ingots.map fun (i, x) =>
          if x.holder = some g.task ∧ (x.place.map (·.1)) = some g.cluster then (i, { x with holder := none }) else (i, x) }

/-- The wave-slot microseconds that a resident gang has run up for its queue since its placement, or since the queue was bound
(R80). -/
def State.runUp (s : State) (g : Gang) (q : Queue) : Nat := g.waves.length * ((s.now - max g.placedAt q.boundAt) / 1000)

/-- The wave slots that a gang holds are charged to its task's queue (R80). -/
def State.charge (s : State) (g : Gang) : State :=
  match s.task? g.task with
  | none => s
  | some k =>
    let q := s.queue k.queue
    if q.bound = some k.ctx then s.setQueue k.queue { q with charge := q.charge + s.runUp g q } else s

/-- The bubble allocator sees when the last non-fill gang leaves a cluster (R94). -/
def State.noteIdle (s : State) (g : Gang) : State :=
  let busy := fun (x : Gang) => x.cluster == g.cluster && x.resident && !(((s.task? x.task).map Task.fillClass).getD false)
  if !(busy g) || s.gangs.any (fun x => (x.task, x.index) != (g.task, g.index) && busy x) then s
  else s.mapCluster g.cluster fun c => { c with bubble := { c.bubble with idleFrom := some s.now } }

/-- A gang leaves its place (R80, R84, R94, R197, R200); one that has none keeps what it has. -/
def State.leave (s : State) (g : Gang) : State :=
  if g.resident then (((s.charge g).releaseCluster g).releasePlanes g).noteIdle g else s

/-- The faults of a gang that starts again are nobody's any more (R117): those not delivered and those that wait for a handler
leave, and what a handler decides of one that it serves has no effect. -/
def Core.forget (k : Core) (t g : Nat) : Core :=
  let mine := fun (i : Nat) => ((k.records.get none i).map fun r => refGang r.wave == some (t, g)).getD false
  let served := fun (i : Nat) => k.current == some i || k.outer == some i || k.nesting == some i
  { k with
    records := (k.records.filter fun x => !(mine x.1) || served x.1).map fun (i, r) =>
      (i, if mine i then r.map fun x => { x with stale := true } else r)
    queue := k.queue.filter fun i => !(mine i) || served i }

/-- The gang goes back to WAITING and starts again from its task record (R117). -/
def State.requeueGang (s : State) (g : Gang) : State :=
  let s := (((s.leave g).setGang g.restart).dropOps g.task g.index).coolLoads g.task g.index
  { s with cores := s.cores.map fun (c, k) => (c, k.forget g.task g.index)
           imprecise := s.imprecise.filter fun m => refGang m.wave != some (g.task, g.index) }

/-- Whether the bytes of a registered checkpoint still pass their length and CRC checks (R118, R119). -/
def State.checkpointValid (s : State) (ctx addr len : Nat) : Bool :=
  match s.span { ctx := ctx } .load addr len with
  | .error _ => false
  | .ok sp =>
    let bs := s.readSpan { ctx := ctx } sp
    decide (fieldAt bs 0x20 8 = len) &&
      decide (fieldAt bs 0x28 4 = crc32c (bs.take 0x28 ++ List.replicate 4 0 ++ bs.drop 0x2C))

/-- Roll a task back to its gangs in a checkpoint (R119): every gang is stopped and its state discarded, those in the image
are restored from it, with the operations of their matrix sequencers, and the others start again. -/
def State.rollBack (s : State) (t : Nat) (gs : List GangImage) : State :=
  (s.gangsOf t).foldl (fun s y =>
    let s := s.requeueGang y
    match gs.find? (fun z => z.gang.task == t && z.gang.index == y.index) with
    | some z =>
      let s := s.setGang { z.gang with state := .waiting, chosen := [], relaunches := y.relaunches, everPlaced := true }
      { s with ops := s.ops ++ z.ops }
    | none => s) s

/-- The gangs of the task that R119 restores for a gang killed by the signature fault: none where R117 applies. -/
def State.rollback? (s : State) (k : Task) (code : Nat) : Option (List GangImage) :=
  match (s.ctx? k.ctx).bind (·.checkpoint) with
  | some (a, len, _, gs) =>
    if code = 0x60 ∧ !k.anytime ∧ gs.any (fun y => y.gang.task == k.id) ∧ s.checkpointValid k.ctx a.toNat len then some gs else none
  | none => none

/-- RELAUNCH (R117, R119): roll the task back to its checkpoint where R119 applies, else relaunch the gang;
a fifth relaunch ends the task with FAULTED. A gang or task that has been ended otherwise is not started again. -/
def State.relaunch (s : State) (t g code : Nat) (reload : Bool := false) : State :=
  match s.gang? t g, s.task? t with
  | some x, some k =>
    if x.state = .retired ∨ x.kill.isSome ∨ k.status ≠ 0 ∨ k.kill.isSome ∨ k.quench.isSome then s
    else match if reload then none else s.rollback? k code with
      | some gs => s.rollBack t gs
      | none =>
        if 4 ≤ x.relaunches then s.killTask t stFaulted code else s.requeueGang { x with relaunches := x.relaunches + 1 }
  | _, _ => s

/-! ### Halts (R263) -/

/-- Whether a path stays where it is through a halt: at a fault, or inside an access that is not complete, which
is no instruction boundary. -/
def Wait.stays : Wait → Bool
  | .fault => true
  | .op _ => true
  | _ => false

/-- A wait that the hang watchdog counts (R265). -/
def Wait.watched : Wait → Bool
  | .bar _ => true
  | .barw _ => true
  | .waitm => true
  | .acqv => true
  | .waitt _ _ limit => limit == 0
  | _ => false

/-- When a wait is over by its own timeout (R319). -/
def Wait.ends? : Wait → Option Nat
  | .waitt t0 _ limit => if limit = 0 then Option.none else some (t0 + limit)
  | _ => Option.none

/-- Halt one path: a wait ends without completing, and what the hang watchdog had counted stands (R265); a path held at a
fault or in an access stays held. -/
def Path.halt (p : Path) : Path :=
  match p.state with
  | .free | .halted => p
  | .blocked =>
    if p.wait.stays then { p with state := .halted, haltedFrom := .blocked }
    else { p with state := .halted, haltedFrom := .run, wait := .none, paused := p.wait.watched || p.paused }
  | _ => { p with state := .halted, haltedFrom := .run, wait := .none }

/-- Lift a halt: the instruction that waited issues again (R267, R321). -/
def Path.resume (p : Path) : Path :=
  if p.state = .halted then { p with state := p.haltedFrom } else p

/-- Change every path of a wave. -/
def Wave.mapPaths (w : Wave) (f : Path → Path) : Wave := { w with paths := w.paths.map f }

/-- How many paths of a wave a halt would newly stop. -/
def Wave.haltable (w : Wave) : Nat :=
  (w.paths.filter fun p => p.state != .free && p.state != .halted).length

/-- A stop request reaches a matrix operation at a step boundary (R237): its descriptors not yet taken leave the step queue,
and its ingot is checked again before it goes on. -/
def SeqOp.stop (o : SeqOp) : SeqOp := { o with checked := false, queued := o.step }

/-- Halt every wave and the caster thread of a gang. -/
def Gang.halt (g : Gang) : Gang :=
  { g with waves := g.waves.map (·.mapPaths Path.halt), caster := g.caster.mapPaths Path.halt, halted := true,
           reload := [], seq := g.seq.map SeqOp.stop }

/-- Lift the halt of a gang; a stopped MMAT loads its plane again (R238). -/
def Gang.resume (g : Gang) : Gang :=
  { g with waves := g.waves.map (·.mapPaths Path.resume), caster := g.caster.mapPaths Path.resume, halted := false }

/-! ### Operations that complete (R282, R284) -/

/-- Set or clear flag `f` in slices of a wave (R282). -/
def Wave.putFlag (w : Wave) (f : Nat) (sl : Nats) (v : Bool) : Wave :=
  sl.foldl (fun w i => w.mapSlice i fun x =>
    { x with flags := if v then x.flags ||| BitVec.ofNat 12 (2 ^ f) else x.flags &&& ~~~(BitVec.ofNat 12 (2 ^ f)) }) w

/-- Write the registers an operation delivers, the flags going to the path that holds the slice. -/
def Wave.deliver (w : Wave) (p : Nat) : List RegWrite → Wave
  | [] => w
  | .vec r l v :: t => (w.setV r l v).deliver p t
  | .sca r i v :: t => (w.setS r i v).deliver p t
  | .sticky f :: t => (w.orSticky p f).deliver p t

/-- An outstanding operation by id. -/
def State.op? (s : State) (id : Nat) : Option PendingOp := s.ops.find? (·.id == id)

/-- Change an outstanding operation. -/
def State.mapOp (s : State) (id : Nat) (f : PendingOp → PendingOp) : State :=
  { s with ops := s.ops.map fun o => if o.id == id then f o else o }

/-- Whether an operation has nothing left to wait for. -/
def PendingOp.ready (o : PendingOp) : Bool :=
  o.ended || (o.remote == [] && o.cxl == [] && o.held == [] && !o.engine && o.signal.isNone && o.release.isNone
    && (o.failed == [] || o.node.isSome))

/-- A signal whose number its timeline has reached, or whose timeline is fenced, has nothing left to wait for (R416), nor a CFLUSH
whose range's earlier stores are performed at device scope (R389). -/
def State.opReady (s : State) (o : PendingOp) : Bool :=
  match o.signal with
  | none => o.ready && o.after.all fun i => ((s.op? i).map fun x => x.performed 4).getD true
  | some (c, i, n) =>
    let t : Timeline := nth {} (((s.ctx? c).map (·.timelines)).getD []) i
    o.ended || t.fenced || decide (n ≤ t.reached)

/-- The value of one unit of a fill: its bytes, extended to whole registers (R380). -/
def Fill.value (f : Fill) (u : Nat) : Nat :=
  let n := leNat (getBytes f.data (64 * u) f.bytes)
  if f.bytes < 4 && f.signed && bitOf n (8 * f.bytes - 1) then n + (2 ^ 32 - 2 ^ (8 * f.bytes)) else n

/-- The register writes of a fill in some of its units. -/
def Fill.writes (f : Fill) (us : Nats) : List RegWrite :=
  us.flatMap fun u => (upto ((f.bytes + 3) / 4)).map fun i =>
    let v : RegVal := { bits := BitVec.ofNat 32 (f.value u >>> (32 * i)), poison := f.poison.contains u }
    if f.vector then .vec (f.reg + i) u v else .sca (f.reg + i) u v

/-- What an operation writes when it completes. -/
def PendingOp.results (o : PendingOp) : List RegWrite :=
  o.writes ++ (match o.fill with
    | some f => f.writes f.units
    | none => [])

/-- The package core on which a wave runs, or whose handler serves a caster thread (R252). -/
def State.coreOf (s : State) : WaveRef → Nat
  | .handler c => c
  | .caster t g => match s.gang? t g with
    | some x => 4 * x.cluster + x.core0
    | none => 0
  | .user t g w => match s.gang? t g, s.task? t with
    | some x, some k => 4 * x.cluster + x.core0 + w / max k.waves 1
    | _, _ => 0

/-- The tile write, the bitmap and the mould move of a TLD complete (R198, R397). -/
def State.landTile (s : State) (o : PendingOp) : State :=
  match o.tile with
  | some (k, g, t, ls) => s.mapGang k g fun x =>
      let m : Mould := x.moulds.get {} t
      { x with tiles := setNth x.tiles t ((nth {} x.tiles t).putRows 0 ls)
               moulds := if m.state = .filling then x.moulds.set {} t (m.enter .full) else x.moulds }
  | none => s

/-- The path that an operation's sticky flags go to: the one that issued it, and none once that has ended, whoever holds its entry
then (R336). -/
def PendingOp.flagPath (o : PendingOp) (w : Wave) : Nat :=
  if (w.path o.path).slices &&& o.slices = 0 then w.paths.length else o.path

/-- Complete an operation: a TLD's tile is written, an acquire whose read is there takes effect (R217), its registers are written,
and its flag clears once no other operation holds it (R282, R284). -/
def State.completeOp (s : State) (id : Nat) : State :=
  match s.op? id with
  | none => s
  | some o =>
    let s : State := { s with ops := s.ops.filter (·.id != id) }
    let s := if o.ended then s else s.landTile o
    let s := match o.acquire, o.wave with
      | some _, .caster _ _ => s
      | some sc, _ => s.acquireL1 (s.coreOf o.wave) sc
      | none, _ => s
    match s.wave? o.wave with
    | none => s
    | some w =>
      let w := w.deliver (o.flagPath w) (if o.ended ∨ (o.part && !o.atomic) then [] else o.results)
      match o.flag with
      | none => s.setWave o.wave w
      | some (f, m) =>
        let held := s.ops.filter fun q => q.wave == o.wave && (match q.flag with
          | some (g, _) => g == f
          | none => false)
        let still := held.foldl (fun a q => a ||| (match q.flag with
          | some (_, m) => m
          | none => 0)) (0 : BitVec 8)
        s.setWave o.wave (w.putFlag f (bitsBelow 8 (m &&& ~~~still).toNat) false)

/-- The operations of a ladle queue are cancelled and its timeline is fenced until the task completes (R248). -/
def State.fenceQueue (s : State) (t g k : Nat) : State :=
  match (s.gang? t g).bind fun x => x.ladle[k]? with
  | none => s
  | some q =>
    let s := s.mapGang t g fun x =>
      { x with ladle := setNth x.ladle k { q with ops := [], stopped := none, tl := { q.tl with fenced := true } } }
    q.ops.foldl (fun s o => (s.mapOp o.opId fun p => { p with ended := true }).completeOp o.opId) s

/-- Operations of a wave that have not completed. -/
def State.outstanding (s : State) (r : WaveRef) : List PendingOp := s.ops.filter (·.wave == r)

/-! ### Faults -/

/-- What an instruction's fault names (R250, R254). -/
structure Flt where
  code : Nat
  lane : Nat := 0xFF
  addr : DWord := 0
  cause : Nat := 0
  /-- the one effect a faulting instruction keeps (R159, R275) -/
  pk : Bool := false
deriving DecidableEq, Repr

/-- The basic disposition of a fault code (R250). -/
def basicDisposition (code : Nat) (caster : Bool) : Nat :=
  match code with
  | 0x10 | 0x11 | 0x50 | 0x51 => 4
  | 0x60 => 6
  | 0x61 => if caster then 6 else 2
  | 0x72 => 1
  | _ => 3

/-- The index of a wave in its gang. -/
def refWave : WaveRef → Nat
  | .user _ _ w => w
  | _ => 0

/-- The wave reference is a caster thread. -/
def refCaster : WaveRef → Bool
  | .caster _ _ => true
  | _ => false

/-- The record that a core's handler serves: while a nested handler runs, the outer one (R255, R263). -/
def Core.serving (k : Core) : Option Nat := if k.outerWave.isSome then k.outer else k.current

/-- Halt a gang (R263): a halt that reaches a wave whose fault a handler serves pends with that handler. -/
def State.haltGang (s : State) (t g : Nat) : State :=
  let mine := fun (r : FaultRec) => refGang r.wave == some (t, g)
  (s.cores.map (·.1)).foldl (fun s c =>
    let k := s.core c
    match k.serving with
    | none => s
    | some i =>
      match k.records.get none i with
      | some r =>
        if mine r then s.setCore c { k with haltPending := true, records := k.records.set none i (some { r with haltPending := true }) }
        else s
      | none => s) (s.mapGang t g Gang.halt)

/-- Where a core keeps record `i` (R254). -/
def recordAddr (core i : Nat) : Nat := Config.recordBase + 64 * (32 * core + i)

/-- The lowest free record place of a core (R254). -/
def Core.freePlace (c : Core) : Option Nat := (upto 32).find? fun i => c.records.get none i == none

/-- The record of a fault (R254). -/
def State.faultRec (s : State) (r : WaveRef) (p : Nat) (pc : DWord) (f : Flt) : FaultRec :=
  let g := refGang r
  let x := g.bind fun (t, i) => s.gang? t i
  let k := g.bind fun (t, _) => s.task? t
  let w := (s.wave? r).getD {}
  { code := f.code, caster := refCaster r, disposition := basicDisposition f.code (refCaster r)
    lane := if refCaster r then 0xFF else f.lane
    task := (g.map (·.1)).getD 0, gang := (g.map (·.2)).getD 0
    group := refWave r / max ((k.map Task.waves).getD 1) 1
    slot := match r with
      | .caster _ _ => (x.map (·.thread)).getD 0
      | _ => nth 0 ((x.map (·.slots)).getD []) (refWave r)
    core := s.coreOf r, pc := pc, addr := f.addr
    path := w.path p
    done := (w.path p).done, cause := f.cause
    lost := min (s.core (s.coreOf r)).lost 0xFFFF
    wave := r, pathIx := p, since := s.now }

/-- Path `p` is held at its faulting instruction, with PK where a decoding instruction leaves it, and the
wave's replay checkpoint (R188). -/
def Wave.holdAtFault (w : Wave) (p : Nat) (f : Flt) : Wave :=
  let x := w.path p
  { w.setPath p { x with state := .blocked, wait := .fault, sticky := if f.pk then x.sticky ||| fPK else x.sticky }
    with replayPc := x.pc, doneMask := x.done }

/-- A handler wave at a start address (R252). -/
def handlerWave (pc : DWord) : Wave :=
  let p : Path := { state := .run, pc := pc, active := 0xFFFFFFFF, slices := 0xFF, ref := 0xFFFFFFFF }
  { paths := p :: List.replicate 7 {} }

/-- Kill what a record names: its wave for KILL_WAVE, its gang or its task. A caster thread killed as a wave
ends (R251, R258). -/
def State.killFor (s : State) (r : FaultRec) (disp : Nat) : State :=
  match refGang r.wave with
  | none => s
  | some (t, g) =>
    if disp = 4 then s.killTask t stFaulted r.code
    else if disp = 2 then
      match r.wave with
      | .user _ _ w =>
        let k := w / max (((s.task? t).map Task.waves).getD 1) 1
        let stuck := ((s.gang? t g).bind fun x => x.ladle[k]?).any fun q => q.stopped.isSome && q.ops.any (·.wave == r.wave)
        let s := (s.mapGang t g fun x => x.killWave w r.code).noteFault t r.code
        if stuck then s.fenceQueue t g k else s
      | .caster _ _ => (s.mapGang t g fun x =>
          { x with caster := x.caster.end_, status := if x.status = 0 then stFaulted else x.status,
                   code := if x.status = 0 then r.code else x.code }).noteFault t r.code
      | .handler _ => s
    else s.killGang t g stFaulted r.code

/-- A fault inside a handler wave (R255): the handler wave is held at it, and restarts at the entry + 136 with the nested record
once what it has in flight has completed (R188); a fault inside the nested handler resets it and kills what both records name. -/
def State.nestFault (s : State) (c : Nat) (p : Nat) (pc : DWord) (f : Flt) (imprecise : Bool := false) : State :=
  let k := s.core c
  if k.outerWave.isSome then
    let target := k.outer.bind fun o => k.records.get none o
    let inner := k.current.bind fun i => k.records.get none i
    let drop := fun (t : Table (Option FaultRec)) (i : Option Nat) => match i with
      | some i => t.set none i none
      | none => t
    let s := s.setCore c { k with
      records := drop (drop k.records k.outer) k.current
      current := none, outer := none, outerWave := none, nesting := none, wave := none, hmask := false, haltPending := false
      haltPath := none }
    let kill (s : State) (code : Nat) : State := match target with
      | some r => s.killFor { r with code := code } (if r.disposition = 2 then 2 else 3)
      | none => s
    kill (kill s ((target.map (·.code)).getD f.code)) ((inner.map (·.code)).getD f.code)
  else
    match k.freePlace with
    | none => s
    | some i =>
      let r := { s.faultRec (.handler c) p pc f with nested := true, imprecise := imprecise, outer := k.current.getD 0xFE }
      s.setCore c { k with
        records := k.records.set none i (some r), nesting := some i
        wave := k.wave.map fun w => w.holdAtFault p f }

/-- The handler of a nested fault begins once the accesses of the handler wave that it interrupts have completed (R188, R255). -/
def State.beginNested (s : State) (c : Nat) : State :=
  let k := s.core c
  match k.nesting with
  | none => s
  | some i =>
    if s.ops.any fun o => o.wave == .handler c && !o.engine then s
    else s.setCore c { k with nesting := none, outer := k.current, outerWave := k.wave, current := some i
                              wave := some (handlerWave (s.handlerEntry + 136)) }

/-- Every nested handler that may begin does. -/
def State.beginAllNested (s : State) : State := (s.cores.filter (·.2.nesting.isSome)).foldl (fun s x => s.beginNested x.1) s

/-- A precise fault of a stream finds a place for its record, or needs none (R254, R255). -/
def State.mayRecord (s : State) (r : WaveRef) : Bool :=
  match r with
  | .handler c => (s.core c).freePlace.isSome || (s.core c).outerWave.isSome
  | _ => (s.core (s.coreOf r)).freePlace.isSome

/-- TAKING A PRECISE FAULT (R250, R252, R254, R275): the path is held at the instruction and the record waits
at its core; with every record place taken the wave is held as it stands; inside a handler wave it nests. -/
def State.takeFaultAt (s : State) (r : WaveRef) (p : Nat) (pc : DWord) (f : Flt) : State :=
  match s.wave? r with
  | none => s
  | some w =>
    match r with
    | .handler c => s.nestFault c p pc f
    | _ =>
      let c := s.coreOf r
      let k := s.core c
      match k.freePlace with
      | none => s
      | some i =>
        let rec_ := s.faultRec r p pc f
        (s.setCore c { k with records := k.records.set none i (some rec_), queue := k.queue ++ [i] }).setWave r
          (w.holdAtFault p f)

/-- A precise fault at the instruction that the path stands at. -/
def State.takeFault (s : State) (r : WaveRef) (p : Nat) (f : Flt) : State :=
  s.takeFaultAt r p (((s.wave? r).map fun w => (w.path p).pc).getD 0) f

/-- TAKING AN IMPRECISE FAULT (R254, R256): at the wave's next instruction boundary, or with EXITED when the
wave has ended, a handler wave too; with every place taken it is counted in LOST and kills the gang, a handler wave's the gang of
the record that it serves. A wait ends without
completing; a halted path stays halted, and is held at the fault when its halt is lifted. Inside a handler wave the fault is
nested (R255). -/
def State.takeImprecise (s : State) (m : Imprecise) : State :=
  let c := s.coreOf m.wave
  let k := s.core c
  let w := (s.wave? m.wave).getD {}
  let exited := (s.wave? m.wave).isNone || w.finished || (match refGang m.wave with
    | some (t, g) => match s.gang? t g with
      | some x => x.state == .retired
      | none => true
    | none => false)
  match m.wave, !exited with
  | .handler c, true =>
    if s.mayRecord m.wave then s.nestFault c m.path m.pc { code := m.code, addr := m.addr } true
    else
      let s := s.setCore c { k with lost := k.lost + 1 }
      match k.serving.bind fun i => k.records.get none i with
      | some r => s.killFor { r with code := m.code } 3
      | none => s
  | _, _ =>
    match k.freePlace with
    | none =>
      let s := s.setCore c { k with lost := k.lost + 1 }
      match refGang m.wave with
      | some (t, g) => s.killGang t g stFaulted m.code
      | none => s
    | some i =>
      let r := { s.faultRec m.wave m.path m.pc { code := m.code, addr := m.addr } with
        imprecise := true, exited := exited, ladle := m.ladle }
      let s := s.setCore c { k with records := k.records.set none i (some r), queue := k.queue ++ [i] }
      if exited then s
      else
        let x := w.path m.path
        let x := if x.state = .halted then { x with haltedFrom := .blocked, wait := .fault }
          else { x with state := .blocked, wait := .fault }
        s.setWave m.wave (w.setPath m.path x)

/-- Serve the next record of a core that serves none: the handler wave starts at word 2 of the entry line
(R252, R253). -/
def State.serve (s : State) (c : Nat) : State :=
  let k := s.core c
  match k.current, k.queue with
  | none, i :: q =>
    s.setCore c { k with current := some i, queue := q, wave := some (handlerWave (s.handlerEntry + 8)) }
  | _, _ => s

/-- The path goes on with the same instruction (REISSUE, or an imprecise fault's resumption). -/
def Wave.release (w : Wave) (p : Nat) : Wave :=
  let x := w.path p
  if x.wait = .fault then
    w.setPath p { x with wait := .none, haltedFrom := .run, state := if x.state = .halted then .halted else .run }
  else w

/-- The path goes on where it stood when a fault was taken: still inside the operation that it waited for, or at its
instruction (R251, R256, R242). -/
def Wave.goOnFrom (w : Wave) (p : Nat) (old : Path) (outstanding : Nat → Bool) : Wave :=
  let w := w.release p
  let x := w.path p
  match old.wait with
  | .op id =>
    if x.wait = .none ∧ outstanding id then
      w.setPath p { x with wait := .op id, state := if x.state = .halted then .halted else .blocked, haltedFrom := .blocked }
    else w
  | _ => w

/-- The path goes on at the instruction after the faulting one (SKIP): past its literal words, or after its
clause's line word (R251, R278, R290). -/
def Wave.skip (w : Wave) (p : Nat) : Wave :=
  let x := { w.path p with barrier := none, paused := false, done := 0 }
  let w := { w with doneMask := 0 }
  match x.buf, x.clause with
  | some l, some cl =>
    let k := wordIx x.pc
    let n := k + 1 + (l.literals cl.last 32 k).length
    if n ≤ cl.last then w.setPath p { x with pc := l.base + BitVec.ofNat 64 (4 * n) }
    else w.setPath p { x with pc := l.after (n - 1), clause := none }
  | some l, none => w.setPath p { x with pc := l.after (wordIx x.pc) }
  | none, _ => w.setPath p { x with pc := x.pc + 4 }

/-- The opcode of the instruction that a path stands at, when it has issued (R260): a word that a fetch fault, a breakpoint slot or
a watchdog at a boundary names has not, and SIGCHK steps no signature. -/
def Path.issuedOp (x : Path) (code : Nat) : Option Nat :=
  match x.buf, x.clause with
  | some l, some cl =>
    let k := wordIx x.pc
    let op := (l.word k).toNat / 2 ^ 24
    if cl.last < k ∨ l.kind k ≠ 0 ∨ code = 0x04 ∨ op = 0x15 ∨ (code = 0x72 ∧ op ≠ 0x19) ∨ (code = 0x80 ∧ x.wait = .none) then none
    else some op
  | _, _ => none

/-- A skipped instruction has issued: the path's signature steps (R260, R328). -/
def Wave.stepSkipped (w : Wave) (p : Nat) (old : Path) (code : Nat) : Wave :=
  match old.issuedOp code with
  | none => w
  | some op => let x := w.path p; w.setPath p { x with sig := sigIssue x.sig op (x.active ^^^ x.ref) }

/-- Change a wave that is there. -/
def State.resumeWave (s : State) (r : WaveRef) (f : Wave → Wave) : State :=
  match s.wave? r with
  | some w => s.setWave r (f w)
  | none => s

/-- A path of the state. -/
def State.pathAt (s : State) (x : WaveRef × Nat) : Path := ((s.wave? x.1).getD {}).path x.2

/-- Change a path of the state. -/
def State.mapPath (s : State) (x : WaveRef × Nat) (f : Path → Path) : State :=
  s.resumeWave x.1 fun w => w.setPath x.2 (f (w.path x.2))

/-- SKIP of a fault found by a matrix operation that had stopped and was checked again (R242): the operation
at that PC leaves the sequencer and counts as performed. -/
def State.dropSeqOp (s : State) (t g : Nat) (pc : DWord) : State :=
  match (s.gang? t g).bind fun x => x.seq.find? (fun o => o.pc == pc && o.faulted) with
  | none => s
  | some o =>
    (s.mapGang t g fun x => { x with
      seq := x.seq.filter (·.opId != o.opId)
      casterTl := if o.number = 0 then x.casterTl else x.casterTl.perform o.number }).completeOp o.opId

/-- A matrix operation whose check raised a fault is checked again (R242, R251). -/
def State.recheck (s : State) (t g : Nat) (pc : DWord) : State :=
  let clear := fun (o : SeqOp) => if o.pc = pc then { o with faulted := false } else o
  s.mapGang t g fun x => { x with seq := x.seq.map clear }

/-- HOLD (R251): the gang halts, and the record waits for its RESUME. -/
def State.holdFor_ (s : State) (r : FaultRec) (t g : Nat) : State :=
  (s.haltGang t g).mapGang t g fun x => { x with held := x.held ++ [r] }

/-- REISSUE of a ladle operation's translation or permission fault (R251): its queue resumes, and the wave where it stood. -/
def State.resumeLadle (s : State) (r : FaultRec) (t g : Nat) : State :=
  let s := s.mapGang t g fun x =>
    let q : LadleQueue := nth {} x.ladle r.group
    { x with ladle := setNth x.ladle r.group { q with stopped := none } }
  if r.exited then s else s.resumeWave r.wave (·.goOnFrom r.pathIx r.path fun id => (s.op? id).isSome)

/-- A disposition of an imprecise fault (R251, R256): one of a wave that has ended applies to its gang, and has no further
effect on a gang that has retired. -/
def State.disposeImprecise (s : State) (r : FaultRec) (disp t g : Nat) : State :=
  if r.exited ∧ ((s.gang? t g).map (·.state)).getD .retired = .retired then s
  else match disp with
    | 0 => if r.ladle ∧ (r.code = 0x10 ∨ r.code = 0x11) then s.resumeLadle r t g else s.killGang t g stFaulted r.code
    | 2 => s.killFor r (if r.exited then 3 else 2)
    | 4 => s.killFor r 4
    | 5 => s.holdFor_ r t g
    | 6 => s.relaunch t g r.code
    | _ => s.killGang t g stFaulted r.code

/-- A question whose path does not stand at its ACQV any more has no asker (R423). -/
def State.dropAsks (s : State) : State :=
  { s with ops := s.ops.filter fun o => !o.ask || ((s.pathAt (o.wave, o.path)).pc == o.pc && (s.pathAt (o.wave, o.path)).state != .free) }

/-- SKIP of a precise fault: at a matrix operation that had stopped the operation goes, and with an operation that its path waits
for the path goes on behind it; a path that stands elsewhere just goes on. -/
def State.skipFault (s : State) (r : FaultRec) (t g : Nat) : State :=
  let s := s.dropSeqOp t g r.pc
  match (s.wave? r.wave).map fun w => decide ((w.path r.pathIx).pc = r.pc) with
  | some false => s.resumeWave r.wave (·.goOnFrom r.pathIx r.path fun id => (s.op? id).isSome)
  | _ => s.resumeWave r.wave fun w => ((w.skip r.pathIx).stepSkipped r.pathIx r.path r.code).release r.pathIx

/-- The effect of a disposition on what its record names (R251). -/
def State.applyDisposition (s : State) (r : FaultRec) (disp : Nat) : State :=
  match refGang r.wave with
  | none => s
  | some (t, g) =>
    if r.stale then s
    else if r.imprecise then s.disposeImprecise r disp t g
    else
      match disp with
      | 0 =>
        let s := s.recheck t g r.pc
        s.resumeWave r.wave fun w => { w.goOnFrom r.pathIx r.path (fun id => (s.op? id).isSome) with bpSeen := some r.pc }
      | 1 => s.skipFault r t g
      | 2 => s.killFor r 2
      | 4 => s.killFor r 4
      | 5 => s.holdFor_ r t g
      | 6 => s.relaunch t g r.code
      | _ => s.killGang t g stFaulted r.code

/-- The handler wave ends: what it served is done with, and halts that pended with it are taken (R252, R263, R264). -/
def State.endHandler (s : State) (c : Nat) : State :=
  let k := s.core c
  s.setCore c { k with current := none, outer := none, outerWave := none, nesting := none, wave := none, hmask := false, haltPending := false, haltPath := none }

/-- The halts that pended with a handler that has ended are taken by what its record names (R263, R264). -/
def State.takeHalts (s : State) (k : Core) (r : FaultRec) : State :=
  let s := match k.haltPending, refGang r.wave with
    | true, some (t, g) => s.haltGang t g
    | _, _ => s
  match k.haltPath with
  | some (w, p) => s.mapPath (w, p) Path.halt
  | none => s

/-- The return of a nested handler (R255): REISSUE or SKIP resumes the outer handler, or the monitor where no record was being
served, at the same instruction or behind it, and after an imprecise fault, which names no instruction to skip, where it stood; any other disposition kills what the outer record names. -/
def State.returnNested (s : State) (c : Nat) (r : FaultRec) : State :=
  let k := s.core c
  if r.disposition ≤ 1 then
    let go := fun (w : Wave) =>
      if r.imprecise then w.goOnFrom r.pathIx r.path fun id => (s.op? id).isSome
      else (if r.disposition = 1 then (w.skip r.pathIx).stepSkipped r.pathIx r.path r.code else w).release r.pathIx
    let ow := k.outerWave.map go
    s.setCore c { k with current := k.outer, outer := none, wave := ow, outerWave := none }
  else
    let q := k.outer.bind fun o => k.records.get none o
    let s := (s.setCore c { k with records := match k.outer with
      | some o => k.records.set none o none
      | none => k.records }).endHandler c
    match q with
    | some q => s.killFor { q with code := r.code } (if r.disposition = 2 ∨ r.disposition = 4 then r.disposition else 3)
    | none => s

/-- A nested handler that took up another record by SETS FAULT has returned from it: it serves the nested record again (R255,
R325, R329). -/
def State.serveNested (s : State) (c : Nat) : State :=
  let k := s.core c
  match k.queue.find? fun i => ((k.records.get none i).map (·.nested)).getD false with
  | some i => s.setCore c { k with current := some i, queue := k.queue.filter (· != i), wave := some (handlerWave (s.handlerEntry + 136)) }
  | none => s.setCore c { k with current := k.outer, outer := none, wave := k.outerWave, outerWave := none }

/-- THE RETURN FROM A FAULT: RFT applies the disposition byte of the record that FAULT names and frees its
place (R329); after a nested fault REISSUE or SKIP resumes the outer handler and any other disposition kills
what the outer record names (R255). A halt that pended is taken then (R264). -/
def State.returnFromFault (s : State) (c : Nat) : State :=
  let k := s.core c
  match k.current.bind fun i => (k.records.get none i).map fun r => (i, r) with
  | none => s.endHandler c
  | some (i, r) =>
    let t := s.setCore c { k with records := k.records.set none i none }
    if r.nested && k.outerWave.isSome then t.returnNested c r
    else if k.outerWave.isSome then (t.applyDisposition r r.disposition).serveNested c
    else ((t.endHandler c).applyDisposition r r.disposition).takeHalts k r

/-! ### Issue -/

/-- What an instruction knows of its issue: the stream and path, copies of the wave and path as they stand
at issue, and where they run. -/
structure Env where
  ref : WaveRef
  p : Nat
  w : Wave
  path : Path
  task : Nat
  gang : Nat
  ctx : Nat
  core : Nat
  cluster : Nat
  blocks : Nat
  group : Nat
  wave : Nat
  pass : Nat
  waves : Nat
  groups : Nat
  producer : Bool
  caster : Bool
  handler : Bool
deriving DecidableEq, Repr

/-- The environment of an issue; `none` when no such path is there to issue (R103). -/
def State.env? (s : State) (r : WaveRef) (p : Nat) : Option Env :=
  match s.wave? r with
  | none => none
  | some w =>
    let x := w.path p
    match r with
    | .user t g i =>
      match s.gang? t g, s.task? t with
      | some gg, some k =>
        some { ref := r, p := p, w := w, path := x, task := t, gang := g, ctx := k.ctx, core := s.coreOf r,
               cluster := gg.cluster, blocks := k.blocks, group := i / max k.waves 1, wave := i % max k.waves 1,
               pass := gg.passNo, waves := k.waves, groups := k.groups,
               producer := i % max k.waves 1 == k.producer, caster := false, handler := false }
      | _, _ => none
    | .caster t g =>
      match s.gang? t g, s.task? t with
      | some gg, some k =>
        some { ref := r, p := p, w := w, path := x, task := t, gang := g, ctx := k.ctx, core := s.coreOf r,
               cluster := gg.cluster, blocks := 0, group := 0, wave := 0, pass := gg.passNo, waves := k.waves,
               groups := k.groups, producer := false, caster := true, handler := false }
      | _, _ => none
    | .handler c =>
      let cur := (s.core c).current.bind fun i => (s.core c).records.get none i
      let rc := match cur, (s.core c).outer with
        | some r, some o => if r.nested then (s.core c).records.get none o else cur
        | _, _ => cur
      let t := (rc.map (·.task)).getD 0
      some { ref := r, p := p, w := w, path := x, task := t, gang := (rc.map (·.gang)).getD 0,
             ctx := ((s.task? t).map (·.ctx)).getD 0, core := c, cluster := c / 4, blocks := 12, group := 0,
             wave := 0, pass := 0, waves := ((s.task? t).map Task.waves).getD 1,
             groups := ((s.task? t).map Task.groups).getD 1, producer := false, caster := false, handler := true }

/-- The address of the instruction word. -/
def Env.pc (e : Env) : DWord := e.path.pc

/-- The slices of the issuing path that have not exited. -/
def Env.pathSlices (e : Env) : Nats := e.w.pathSlices e.p

/-- The path's lowest-numbered slice (R139). -/
def Env.low (e : Env) : Nat := lowest 0 e.pathSlices

/-- The MODE of a slice. -/
def Env.mode (e : Env) (i : Nat) : BitVec 24 := (e.w.slice i).mode

/-- Active (R274). -/
def Env.active (e : Env) : Word := e.w.activeLanes e.p

/-- The active lanes, rising. -/
def Env.lanes (e : Env) : Nats := lanesOf e.active

/-- A caster whose guard bit is clear takes only its ordering effects (R294). -/
def Env.off (e : Env) : Bool := e.caster && !(bitOf e.active.toNat 0)

/-- The slices in which scalar effects happen: every slice of the path, none on a caster whose guard is clear
(R124, R274, R294). -/
def Env.slices (e : Env) : Nats := if e.off then [] else e.pathSlices

/-- The literal words that follow the instruction inside its clause (R290). -/
def Env.lits (e : Env) : List Word :=
  match e.path.buf, e.path.clause with
  | some l, some c => l.literals c.last 32 (wordIx e.path.pc)
  | _, _ => []

/-- Who presents the addresses of this issue. -/
def Env.who (e : Env) : Who :=
  { ctx := e.ctx, priv := e.handler, gang := if e.handler then none else some (e.task, e.gang), cluster := some e.cluster
    core := if e.caster then none else some e.core }

/-- Opcodes a caster thread accepts (R297). -/
def casterAccepts (op : Nat) : Bool :=
  decide (op ≤ 0x0F) || (decide (0x13 ≤ op) && decide (op ≤ 0x19)) || op == 0x1B
    || (decide (0x20 ≤ op) && decide (op ≤ 0x3D)) || (decide (0x80 ≤ op) && decide (op ≤ 0x8F))
    || op == 0x9B || op == 0x9C || op == 0xB0 || op == 0xB6 || op == 0xB7
    || (decide (0xB9 ≤ op) && decide (op ≤ 0xBF)) || (decide (0xC5 ≤ op) && decide (op ≤ 0xC8))

/-- Opcodes that only a handler wave may issue (R298). -/
def privilegedOp (op : Nat) : Bool := op == 0x18 || (decide (0xD8 ≤ op) && decide (op ≤ 0xDA))

/-- Opcodes of the ladle right (R137). -/
def ladleOp (op : Nat) : Bool := (decide (0xC0 ≤ op) && decide (op ≤ 0xC4)) || op == 0xCF

/-- Opcodes that only a caster thread runs (R392). -/
def casterOnly (op : Nat) : Bool := op == 0xB6 || op == 0xB7 || (decide (0xB9 ≤ op) && decide (op ≤ 0xBF))

/-- Steps 1 and 2 of the fault order of R275 for an assigned opcode. -/
def Env.refuse (e : Env) (op : Nat) : Option Flt :=
  if e.caster && !(casterAccepts op) then some { code := 0x01 }
  else if !e.caster && casterOnly op then some { code := 0x01 }
  else if privilegedOp op && !e.handler then some { code := 0x05 }
  else if ladleOp op && !e.producer then some { code := 0x40 }
  else none

/-- Where the slices of a path go after an instruction (R126, R278). -/
inductive Next where
  /-- the word after the instruction and its literals -/
  | seq
  /-- an address for each slice that has not exited -/
  | to (l : List (Nat × DWord))
deriving DecidableEq, Repr

/-- A completed instruction: the state it leaves, its literal words, where it goes, whether the reference
mask is set to the new ACTIVE, and whether the signature steps (R260). -/
structure Eff where
  s : State
  lits : Nat := 0
  next : Next := .seq
  remask : Bool := false
  sig : Bool := true

/-- How an issue ends. -/
inductive Out where
  | go (x : Eff)
  /-- the path waits and the instruction issues again -/
  | wait (s : State) (w : Wait)
  /-- the instruction itself has settled what follows -/
  | stop (s : State)

/-- The place after an instruction of `n` literal words: the next word of its clause, or where fetch goes on
after the clause (R278). -/
def Env.after (e : Env) (n : Nat) : DWord × Option Clause :=
  match e.path.buf, e.path.clause with
  | some l, some c =>
    let k := wordIx e.path.pc + 1 + n
    if k ≤ c.last then (e.path.pc + BitVec.ofNat 64 (4 * (1 + n)), some c) else (l.after (k - 1), none)
  | _, _ => (e.path.pc + BitVec.ofNat 64 (4 * (1 + n)), none)

/-- NextClause (R308). -/
def Env.nextClause (e : Env) : DWord :=
  match e.path.buf, e.path.clause with
  | some l, some c => l.after c.last
  | _, _ => e.path.pc + 4

/-- Slices grouped by their next address, in order of each group's lowest slice (R126). -/
def groupNext : List (Nat × DWord) → List (DWord × Nats)
  | [] => []
  | (i, a) :: t =>
    let r := groupNext t
    match r.find? (·.1 == a) with
    | some (_, l) => (a, i :: l) :: r.filter (·.1 != a)
    | none => (a, [i]) :: r

/-- The first FREE entry of a path table above entry 0's neighbours (R126). -/
def Wave.freePath (w : Wave) : Option Nat := (upto 8).find? fun i => (w.path i).state == .free

/-- Put a group of slices that parts from path `p` into the lowest FREE entry (R126, R260). -/
def Wave.partOff (w : Wave) (p : Nat) (a : DWord) (sl : Nats) : Wave :=
  match w.freePath with
  | none => w
  | some q =>
    let x := w.path p
    let lanes : Word := BitVec.ofNat 32 ((sl.map fun i => atSlice (0xF : BitVec 4) i).sum)
    let w := w.setPath q {
      state := .run, pc := a, sleep := x.sleep &&& lanes, active := x.active &&& lanes
      slices := BitVec.ofNat 8 (maskOf sl), sticky := x.sticky, sig := x.sig, ref := x.active &&& lanes,
      inPass := x.inPass, ladleLast := x.ladleLast, lastLive := x.lastLive, stepping := x.stepping }
    w.setPath p { x with
      sleep := x.sleep &&& ~~~lanes, active := x.active &&& ~~~lanes
      slices := x.slices &&& ~~~(BitVec.ofNat 8 (maskOf sl)), ref := x.active &&& ~~~lanes }

/-- Send the slices of path `p` on: one group keeps the entry, the others part (R126). `stay` is the clause
that a group going to `seqPc` is still inside. -/
def Wave.goTo (w : Wave) (p : Nat) (l : List (Nat × DWord)) (seqPc : DWord) (stay : Option Clause) : Wave :=
  let gs := groupNext l
  match gs with
  | [] => w
  | (a, _) :: rest =>
    let w := w.setPath p { w.path p with pc := a, clause := if a = seqPc then stay else none }
    rest.foldl (fun w g =>
      match w.freePath with
      | none => w
      | some q =>
        let w := w.partOff p g.1 g.2
        if g.1 = seqPc then w.setPath q { w.path q with clause := stay, buf := (w.path p).buf } else w) w

/-- Finish a completed instruction: the signature steps over the opcode and ACTIVE as it stood at issue, the
path runs on, and its slices go where they go (R126, R260, R278). -/
def State.finish (s : State) (e : Env) (op : Nat) (x : Eff) : State :=
  match s.wave? e.ref with
  | none => s
  | some w =>
    let y := w.path e.p
    let y := { y with
      state := if y.state = .blocked ∨ y.state = .regang then .run else y.state, wait := .none, paused := false, done := 0
      sig := if x.sig then sigIssue e.path.sig op (e.path.active ^^^ e.path.ref) else y.sig
      ref := if x.remask then y.active else y.ref }
    let w := w.setPath e.p y
    let (a, cl) := e.after x.lits
    match x.next with
    | .seq => s.setWave e.ref (w.setPath e.p { w.path e.p with pc := a, clause := cl })
    | .to l => s.setWave e.ref (w.goTo e.p l a cl)

/-- A path waits: it is BLOCKED, or REGANG, from the time its wait began (R103, R127). -/
def State.block (s : State) (e : Env) (wt : Wait) : State :=
  match s.wave? e.ref with
  | none => s
  | some w =>
    let y := w.path e.p
    s.setWave e.ref (w.setPath e.p { y with
      state := if wt = .regang then .regang else .blocked
      wait := wt, waitSince := if y.wait = .none ∧ !y.paused then s.now else y.waitSince, paused := false })

/-- Close an issue: a fault is taken, a wait blocks the path, a completion goes on. -/
def State.close (s : State) (e : Env) (op : Nat) : Except Flt Out → State
  | .error f => s.takeFault e.ref e.p f
  | .ok (.go x) => x.s.finish e op x
  | .ok (.wait s' wt) => s'.block e wt
  | .ok (.stop s') => s'

/-- Issue an instruction of opcode `op` whose effect is `f` (R274, R275). -/
def issue (op : Nat) (s : State) (f : Env → Except Flt Out) : Result :=
  match s.cur with
  | none => .fault .noIssuer
  | some (r, p) =>
    match s.env? r p with
    | none => .fault .noIssuer
    | some e =>
      match e.refuse op with
      | some flt => .next (s.takeFault r p flt)
      | none => .next (s.close e op (f e))

/-! ### Outstanding operations (R282, R284) -/

/-- The completion flag that the clause assigns to an operation of this class. -/
def Env.flagFor (e : Env) (classA : Bool) : Option Nat :=
  match e.path.clause with
  | some c => if classA then c.fa else c.fb
  | none => none

/-- Add an outstanding operation: its flag is set in every slice of the path when it is assigned one, and
the operation's number is the new id. -/
def State.addOp (s : State) (e : Env) (classA : Bool) (o : PendingOp) : State :=
  let fl := (e.flagFor classA).map fun f => (f, BitVec.ofNat 8 (maskOf e.pathSlices))
  let s := { s with ops := s.ops ++ [{ o with flag := fl }], nextId := s.nextId + 1 }
  match fl, s.wave? e.ref with
  | some (f, _), some w => s.setWave e.ref (w.putFlag f e.pathSlices true)
  | _, _ => s

/-- A new operation of this issue. -/
def Env.op (e : Env) (s : State) : PendingOp := 
  { id := s.nextId, wave := e.ref, path := e.p, pc := e.pc, flag := none, slices := BitVec.ofNat 8 (maskOf e.pathSlices) }

/-- An operation of the package's own that has been performed at issue and delivers `ws`: assigned to a flag
it delivers at its completion, otherwise at once (R282, R284). -/
def State.deliver (s : State) (e : Env) (classA : Bool) (ws : List RegWrite) (homes : Nats := []) : State :=
  if (e.flagFor classA).isSome && ws != [] then s.addOp e classA { e.op s with writes := ws, isLoad := classA, homes := homes }
  else match s.wave? e.ref with
    | some w => s.setWave e.ref (w.deliver e.p ws)
    | none => s

/-- An acquire of this issue at a scope: its core's L1 drops what it must not serve stale (R190, R217). -/
def State.acquired (s : State) (e : Env) (scope : Nat) : State := if e.caster then s else s.acquireL1 e.core scope

/-- Draw a free value: the counter advances (R108, R226). -/
def State.draw (s : State) : Word × State := (Config.freeWord s.fresh, { s with fresh := s.fresh + 1 })

/-! ### Writes that may leave the package -/

/-- Send the remote parts of a store as requests; their ids. -/
def State.sendParts (s : State) (opId lane : Nat) (sp : Span) : List (Place × Nat) → Bytes → State × Nats
  | [], _ => (s, [])
  | (p, n) :: t, bs =>
    match p with
    | .remote pkg off =>
      let (s, i) := s.sendRequest { id := 0, since := 0, pkg := pkg, off := off, kind := .store, data := bs.take n,
                                    opId := opId, va := BitVec.ofNat 64 sp.va, lane := lane }
      let (s, l) := s.sendParts opId lane sp t (bs.drop n)
      (s, i :: l)
    | _ => s.sendParts opId lane sp t (bs.drop n)

/-- Perform a store: the package's own parts at once, the remote ones as requests of operation `opId`; `bypass` for what
bypasses the core's L1 (R190). -/
def State.putSpan (s : State) (w : Who) (whole : Bool) (sp : Span) (bs : Bytes) (opId : Nat) (lane : Nat := 0xFF)
    (bypass : Bool := false) : State × Nats :=
  (s.writeSpan w whole sp bs bypass).sendParts opId lane sp sp.parts bs

/-- A store by an agent at a virtual address, whose requests carry an id: the state, or the fault code (R267, R462). -/
def State.agentPut (s : State) (w : Who) (va : Nat) (bs : Bytes) (opId : Nat := 0) : Except Nat State :=
  match s.span w .store va bs.length with
  | .error c => .error c
  | .ok sp => .ok (s.putSpan w false sp bs opId).1

/-- A load by an agent at a virtual address. -/
def State.agentGet (s : State) (w : Who) (va n : Nat) : Except Nat Bytes :=
  match s.span w .load va n with
  | .error c => .error c
  | .ok sp => .ok (s.readSpan w sp)

end Sys2Proof.Machine
end

