-- ==== Sys2Proof/Machine/Operands.lean ====
section
/-! DEFINITION. Every operand form (R287–R291, R306, R375, R376, R408, R422): which registers a field names,
what it reads in a lane or slice, where a result goes, and the fault of a field that names nothing. -/

namespace Sys2Proof.Machine

/-- The illegal-operand fault (R275 step 4). -/
def badOperand : Flt := { code := 0x02 }
/-- The illegal-instruction fault for a field or sub-field value (R275 step 3). -/
def badField : Flt := { code := 0x01 }

/-- A source as its field names it: first register of a vector or scalar group, a constant of the issue, or
the lane or slice number (R287). -/
inductive Src where
  | vec (r : Nat)
  | sca (r : Nat)
  | imm (v : Nat)
  | lane
  | slice
deriving DecidableEq, Repr

/-- Vector class (R287). -/
def Src.isVec : Src → Bool
  | .vec _ => true
  | .lane => true
  | _ => false

/-- Literal words that a field of `n` registers takes. -/
def litsOf (o : Opd) (n : Nat) : Nat := if o = .lit then n else 0

/-- Join words, lowest first. -/
def joinWords : List Word → Nat
  | [] => 0
  | x :: t => x.toNat + 2 ^ 32 * joinWords t

/-- Word `i` of a number. -/
def wordOf (v i : Nat) : Word := BitVec.ofNat 32 (v >>> (32 * i))

/-- A source field of `n` registers (1, 2 or 4), with the literal words still to be consumed (R287, R289,
R290): an odd pair, a quad out of step, a register beyond the wave's blocks and a missing literal are 0x02. -/
def Env.src (e : Env) (o : Opd) (n : Nat) (lits : List Word) : Except Flt (Src × List Word) :=
  match o with
  | .v r =>
    if e.caster then .error badOperand
    else if r % n = 0 ∧ r + n ≤ 16 * e.blocks then .ok (.vec r, lits) else .error badOperand
  | .s r => if r % n = 0 ∧ r + n ≤ 48 then .ok (.sca r, lits) else .error badOperand
  | .zero => .ok (.imm 0, lits)
  | .lane => .ok (if e.caster then .imm 0 else .lane, lits)
  | .slice => .ok (if e.caster then .imm 0 else .slice, lits)
  | .wave => .ok (.imm (e.wave % 2 ^ 32), lits)
  | .group => .ok (.imm (e.group % 2 ^ 32), lits)
  | .gang => .ok (.imm (e.gang % 2 ^ 32), lits)
  | .pass => .ok (.imm (e.pass % 2 ^ 32), lits)
  | .lit =>
    if lits.length < n then .error badOperand
    else .ok (.imm (joinWords (lits.take n)), lits.drop n)
  | .rsv _ => .error badOperand

/-- What a source of `n` registers reads in lane `L`, or in slice `L / 4` for scalar class, with its poison
(R123, R257). -/
def Env.read (e : Env) (n L : Nat) : Src → Nat × Bool
  | .vec r =>
    let l := (upto n).map fun i => e.w.getV (r + i) L
    (joinWords (l.map (·.bits)), l.any (·.poison))
  | .sca r =>
    let l := (upto n).map fun i => e.w.getS (r + i) (L / 4)
    (joinWords (l.map (·.bits)), l.any (·.poison))
  | .imm v => (v, false)
  | .lane => (L, false)
  | .slice => (L / 4, false)

/-- A destination: a vector group, a scalar group, or ZERO, which discards (R287). -/
inductive Dst where
  | vec (r : Nat)
  | sca (r : Nat)
  | none
deriving DecidableEq, Repr

/-- A destination field of `n` registers (R287, R289). -/
def Env.dst (e : Env) (o : Opd) (n : Nat) : Except Flt Dst :=
  match o with
  | .v r =>
    if e.caster then .error badOperand
    else if r % n = 0 ∧ r + n ≤ 16 * e.blocks then .ok (.vec r) else .error badOperand
  | .s r => if r % n = 0 ∧ r + n ≤ 48 then .ok (.sca r) else .error badOperand
  | .zero => .ok .none
  | _ => .error badOperand

/-- The destination read as a source, for the instructions that accumulate into D. -/
def Dst.src : Dst → Src
  | .vec r => .vec r
  | .sca r => .sca r
  | .none => .imm 0

/-- Whether the instruction runs per active lane (R288). -/
def Dst.isVec : Dst → Bool
  | .vec _ => true
  | _ => false

/-- The writes of a value of `n` registers in lane `L` or slice `L / 4`. -/
def Dst.writes (d : Dst) (n L v : Nat) (poison : Bool) : List RegWrite :=
  match d with
  | .vec r => (upto n).map fun i => .vec (r + i) L { bits := wordOf v i, poison := poison }
  | .sca r => (upto n).map fun i => .sca (r + i) (L / 4) { bits := wordOf v i, poison := poison }
  | .none => []

/-- The positions at which an instruction runs (R288): its active lanes, or lane 4·s of each slice. -/
def Env.units (e : Env) (vec : Bool) : Nats := if vec then e.lanes else e.slices.map (4 * ·)

/-- A vector-class source under a scalar destination is 0x02 (R288). -/
def checkClass (vec : Bool) (srcs : List Src) : Except Flt Unit :=
  if !vec && srcs.any Src.isVec then .error badOperand else .ok ()

/-- The lowest position with a poisoned source raises 0x61 (R257, R275 step 5); which sources a position has may
depend on its slice. -/
def Env.checkPoisonAt (e : Env) (us : Nats) (srcs : Nat → List (Src × Nat)) : Except Flt Unit :=
  match us.find? (fun L => (srcs L).any fun x => (e.read x.2 L x.1).2) with
  | some L => .error { code := 0x61, lane := L }
  | none => .ok ()

/-- The same for sources that every position has. -/
def Env.checkPoison (e : Env) (us : Nats) (srcs : List (Src × Nat)) : Except Flt Unit :=
  e.checkPoisonAt us fun _ => srcs

/-- The element type of a slice. -/
def Env.ety (e : Env) (i : Nat) : ETy := (ETy.ofCode (modeT (e.mode i))).getD .i32

/-- Check T in every slice of the path (R139, R274): each accepted and all of one operand width. Answers
the width in registers, 1 or 2. -/
def Env.types (e : Env) (accept : ETy → Bool) : Except Flt Nat :=
  let ts := e.pathSlices.map e.ety
  let n := (e.ety e.low).opWidth / 32
  if ts.all accept && ts.all (fun t => t.opWidth / 32 == n) then .ok n else .error badField

/-- Check T in the path's lowest slice alone (R139). -/
def Env.lowType (e : Env) (accept : ETy → Bool) : Except Flt ETy :=
  if accept (e.ety e.low) then .ok (e.ety e.low) else .error badField

/-- Apply register writes to the issuing wave as it stands in `s`. -/
def State.write (s : State) (e : Env) (ws : List RegWrite) : State :=
  match s.wave? e.ref with
  | some w => s.setWave e.ref (w.deliver e.p ws)
  | none => s

/-- A completed instruction that goes on at the next word. -/
def goOn (s : State) (lits : Nat) : Except Flt Out := .ok (.go { s := s, lits := lits })

/-- Compute at each position on the sources (each with its width in registers), their poison already looked at, and
write the results of `m` registers, with the sticky flags they raise; `cls` is the class when it is a flagged operation
(R282). -/
def Env.compute (e : Env) (s : State) (d : Dst) (m : Nat) (srcs : List (Src × Nat)) (lits : Nat) (cls : Option Bool)
    (f : Nat → List Nat → Nat × Flags) : Except Flt Out :=
  let us := e.units d.isVec
  let rs := us.map fun L => (L, f L (srcs.map fun x => (e.read x.2 L x.1).1))
  let ws := rs.flatMap (fun r => d.writes m r.1 r.2.1 false) ++ [.sticky (orFlags (rs.map (·.2.2)))]
  goOn (match cls with
    | some c => if us = [] then s else s.deliver e c ws
    | none => s.write e ws) lits

/-- Run an instruction at each position on its sources, whose classes and poison it checks (R257, R288). -/
def Env.run (e : Env) (s : State) (d : Dst) (m : Nat) (srcs : List (Src × Nat)) (lits : Nat) (cls : Option Bool)
    (f : Nat → List Nat → Nat × Flags) : Except Flt Out := do
  checkClass d.isVec (srcs.map (·.1))
  e.checkPoison (e.units d.isVec) srcs
  e.compute s d m srcs lits cls f

/-- Resolve source fields of given widths in order (R290): the sources and the count of literals used. -/
def Env.srcs (e : Env) : List (Opd × Nat) → List Word → Except Flt (List Src × List Word)
  | [], ls => .ok ([], ls)
  | (o, n) :: t, ls => do
    let (x, ls) ← e.src o n ls
    let (xs, ls) ← e.srcs t ls
    .ok (x :: xs, ls)

/-- Literals used, from those left. -/
def Env.used (e : Env) (left : List Word) : Nat := e.lits.length - left.length

/-- A predicate source field (R291). -/
def checkPred (p : PredF) (negAllowed : Bool) : Except Flt Unit :=
  if p.rest ≠ 0 ∨ (p.neg ∧ !negAllowed) then .error badOperand else .ok ()

/-- A field that is an even scalar pair, or LIT when `lit` (R306, R408): its value in the path's lowest
slice is read by the caller. -/
def Env.pairSrc (e : Env) (o : Opd) (lit : Bool) (ls : List Word) : Except Flt (Src × List Word) :=
  match o with
  | .s _ => e.src o 2 ls
  | .lit => if lit then e.src o 2 ls else .error badOperand
  | _ => .error badOperand

/-- A field that is a single scalar register or LIT (R408). -/
def Env.slitSrc (e : Env) (o : Opd) (ls : List Word) : Except Flt (Src × List Word) :=
  match o with
  | .s _ => e.src o 1 ls
  | .lit => e.src o 1 ls
  | _ => .error badOperand

/-- A field of scalar class (R306): a vector-class code is 0x02. -/
def Env.scalarSrc (e : Env) (o : Opd) (ls : List Word) : Except Flt (Src × List Word) := do
  let (x, ls) ← e.src o 1 ls
  if x.isVec then .error badOperand else .ok (x, ls)

/-- A scalar field of `n` registers in the chapters that name no code outside its kind a fault (R306, R375, R392): a
scalar group, a code that reads as a constant (R287, R289), or LIT when `lit`. -/
def Env.scalarOf (e : Env) (o : Opd) (n : Nat) (lit : Bool) (ls : List Word) : Except Flt (Src × List Word) :=
  if o = .lit ∧ !lit then .error badOperand
  else do
    let (x, ls) ← e.src o n ls
    if x.isVec then .error badOperand else .ok (x, ls)

/-- A group of `n` scalar registers, `n` a power of two (R408, R422). -/
def groupSrc (o : Opd) (n : Nat) : Except Flt Src :=
  match o with
  | .s r => if r % n = 0 ∧ r + n ≤ 48 then .ok (.sca r) else .error badOperand
  | _ => .error badOperand

/-- A status destination: a scalar register or ZERO (R408). -/
def Env.stDst (e : Env) (o : Opd) (n : Nat) (zero : Bool) : Except Flt Dst :=
  match o with
  | .s _ => e.dst o n
  | .zero => if zero then .ok .none else .error badOperand
  | _ => .error badOperand

/-- A scalar destination of ALU class: scalar register or ZERO. -/
def Env.scalarDst (e : Env) (o : Opd) (n : Nat) : Except Flt Dst := e.stDst o n true

/-- Read a scalar source in the path's lowest slice, a poisoned one raising 0x61 there (R257, R409). -/
def Env.readLow (e : Env) (n : Nat) (x : Src) : Except Flt Nat :=
  let (v, p) := e.read n (4 * e.low) x
  if p then .error { code := 0x61, lane := 4 * e.low } else .ok v

/-- Write a scalar destination in every slice of the path (R409). -/
def Env.putAll (e : Env) (s : State) (d : Dst) (n v : Nat) : State :=
  s.write e (e.slices.flatMap fun i => d.writes n (4 * i) v false)

/-- The writes of a scalar destination in every slice of the path. -/
def Env.allWrites (e : Env) (d : Dst) (n v : Nat) : List RegWrite :=
  e.slices.flatMap fun i => d.writes n (4 * i) v false

end Sys2Proof.Machine
end

