-- ==== Sys2Proof/Machine/Edges.lean ====
section
/-! DEFINITION. Fetch (R276–R279), moulds (R196–R198) and timelines (R223, R318) as the instructions that
use them find them. -/

namespace Sys2Proof.Machine

/-! ### Fetch -/

/-- The words of a byte string. -/
def wordsOf (bs : Bytes) : List Word := (pieces 4 bs.length bs).map fun b => BitVec.ofNat 32 (leNat b)

/-- The fetch line that holds an address (R276): from the cluster's instruction cache when it is there (R140),
otherwise from memory; or the cause of the fetch fault (R277). The translation and permission are checked
either way. -/
def State.fetchLine (s : State) (who : Who) (va : DWord) : Except Nat LineBuf :=
  let base := va.toNat / 128 * 128
  match s.span who .fetch base 128 with
  | .error c => .error c
  | .ok sp =>
    let b : DWord := BitVec.ofNat 64 base
    let cached := who.cluster.bind fun c => (s.cluster c).icache.find? fun x => x.ctx == who.ctx && x.line.base == b
    let l : LineBuf := match cached with
      | some x => x.line
      | none => { base := b, words := wordsOf (s.readSpan who sp) }
    if lineVer (l.word 1).toNat = 1 then .ok l else .error 0x01

/-- The line at an address as the issuing path sees it: its own fetch buffer when that holds the line (R140). -/
def State.lineFor (s : State) (e : Env) (va : DWord) : Except Nat LineBuf :=
  match e.path.buf with
  | some l => if l.holds va then .ok l else s.fetchLine e.who va
  | none => s.fetchLine e.who va

/-- A target word is a clause header (R279). -/
def LineBuf.isHeader (l : LineBuf) (va : DWord) : Bool :=
  decide (va.toNat % 4 = 0) && decide (2 ≤ wordIx va) && l.kind (wordIx va) == 1

/-- The check of every target before any slice transfers (R307): a line that cannot be fetched is 0x04, a word
that is no clause header 0x03. -/
def State.checkTargets (s : State) (e : Env) (ts : List DWord) : Except Flt Unit :=
  match ts.findSome? (fun va => match s.lineFor e va with
    | .error c => some (va, c)
    | .ok _ => none) with
  | some (va, c) => .error { code := 0x04, addr := va, cause := c }
  | none =>
    if ts.all (fun va => match s.lineFor e va with
      | .ok l => l.isHeader va
      | .error _ => false) then .ok ()
    else .error { code := 0x03 }

/-! ### Moulds -/

/-- The gang whose resources an instruction names: its own, or that of a handler's record. -/
def State.myGang (s : State) (e : Env) : Option Gang := s.gang? e.task e.gang

/-- Whether a mould number names an entry: 0–39 are the gang's own tiles' and banks' (R121, R124). -/
def State.mouldExists (s : State) (e : Env) (m : Nat) : Bool :=
  if 40 ≤ m then true
  else match s.myGang e with
    | none => false
    | some g => if m < 32 then decide (m < g.tiles.length) else decide (m - 32 < g.banks.length)

/-- A mould entry: a gang's own entries are always owned by it (R197). -/
def State.mould (s : State) (e : Env) (m : Nat) : Mould :=
  if 40 ≤ m then (s.cluster e.cluster).moulds.get {} m
  else match s.myGang e with
    | some g => { g.moulds.get {} m with owned := true, owner := g.thread }
    | none => {}

/-- Write a mould entry (R197: an entry that becomes unowned reads as at reset). -/
def State.setMouldOf (s : State) (t g c m : Nat) (x : Mould) : State :=
  if 40 ≤ m then s.mapCluster c fun k => { k with moulds := k.moulds.set {} m (if x.owned then x else {}) }
  else s.mapGang t g fun y => { y with moulds := y.moulds.set {} m { x with owned := false, owner := 0 } }

/-- Write a mould entry of the issuing gang. -/
def State.setMould (s : State) (e : Env) (m : Nat) (x : Mould) : State := s.setMouldOf e.task e.gang e.cluster m x

/-- The caster thread number that stands for the issuing gang in OWNER (R196). -/
def State.ownerNo (s : State) (e : Env) : Nat := ((s.myGang e).map (·.thread)).getD 0

/-- Whether another gang owns an entry. -/
def State.foreign (s : State) (e : Env) (m : Nat) : Bool :=
  let x := s.mould e m
  x.owned && x.owner != s.ownerNo e

/-- State codes of a mould (R196). -/
def MouldState.code : MouldState → Nat
  | .free => 0
  | .filling => 1
  | .full => 2
  | .draining => 3

/-- A state from its code. -/
def MouldState.ofCode : Nat → MouldState
  | 0 => .free
  | 1 => .filling
  | 2 => .full
  | _ => .draining

/-- The 32-bit view of an entry (R196). -/
def Mould.view (x : Mould) : Nat :=
  x.owned.toNat * 2 ^ 31 + x.owner % 4 * 2 ^ 26 + x.phase.toNat * 4 + x.state.code

/-! ### Timelines -/

/-- What a timeline id names (R318). -/
inductive TlRef where
  | soft (i : Nat)
  | remote (pkg i : Nat)
  | ladle (g : Nat)
  | caster
deriving DecidableEq, Repr

/-- Read a timeline id; `none` for one that R318 refuses with 0x02. -/
def State.tlRef (s : State) (e : Env) (id : Nat) : Option TlRef :=
  let kind := bitsOf id 31 30
  let rem := bitOf id 28
  let pkg := bitsOf id 25 16
  let ix := bitsOf id 3 0
  if kind = 3 ∨ bitOf id 29 ∨ bitsOf id 27 26 ≠ 0 ∨ bitsOf id 15 4 ≠ 0 ∨ (!rem ∧ pkg ≠ 0) ∨ (rem ∧ kind ≠ 0) then none
  else if kind = 0 then
    if !rem ∨ pkg = s.ownId then some (.soft ix)
    else if s.endpoint pkg then some (.remote pkg ix) else none
  else if kind = 1 then
    match s.myGang e, s.task? e.task with
    | some _, some k => if ix < k.groups ∧ k.producer < k.waves then some (.ladle ix) else none
    | _, _ => none
  else if ix = 0 ∧ (s.myGang e).isSome then some .caster else none

/-- A timeline's fields; a remote one reads through the fabric (R416), and is fenced once its package or a die of it is (R37,
R38). -/
def State.timeline (s : State) (e : Env) : TlRef → Timeline
  | .soft i => match s.ctx? e.ctx with
    | some c => nth {} c.timelines i
    | none => { fenced := true }
  | .remote p i =>
    { taken := Config.remoteCount s.now p e.ctx i, reached := Config.remoteCount s.now p e.ctx i,
      fenced := s.fencedPkgs.contains p || s.fencedRemoteDies.any (·.1 == p) }
  | .ladle g => match s.myGang e with
    | some x => (nth {} x.ladle g).tl
    | none => { fenced := true }
  | .caster => match s.myGang e with
    | some x => x.casterTl
    | none => { fenced := true }

end Sys2Proof.Machine
end

