-- ==== Sys2Proof/Machine/Control.lean ====
section
/-! DEFINITION. Control, waits and special state, opcodes 0x00–0x1B (R306–R330), with paths, split stacks, exit,
REGANG and leaders (R126–R138). -/

namespace Sys2Proof.Machine

/-! ### NextClause and targets -/

/-- R308: only the `n` literal words of the instruction may follow it inside its clause. -/
def Env.lastInClause (e : Env) (n : Nat) : Except Flt Unit :=
  match e.path.buf, e.path.clause with
  | some l, some c =>
    let k := wordIx e.path.pc
    if (upto (c.last - k)).any (fun i => decide (n ≤ i) || l.kind (k + 1 + i) != 2) then .error badField else .ok ()
  | _, _ => .ok ()

/-- A LIT target (R306, R307): a signed byte displacement from the instruction word. -/
def Env.target (e : Env) (b : Opd) (ls : List Word) : Except Flt (DWord × List Word) :=
  match b, ls with
  | .lit, x :: t => .ok (e.pc + BitVec.ofInt 64 x.toInt, t)
  | _, _ => .error badOperand

/-- Poison of a scalar source in the slices of the path (R306): the lowest poisoned slice. -/
def Env.checkScalars (e : Env) (srcs : List (Src × Nat)) : Except Flt Unit :=
  e.checkPoison (e.pathSlices.map (4 * ·)) srcs

/-- A completed transfer: each slice with its next address. -/
def jump (s : State) (lits : Nat) (l : List (Nat × DWord)) (remask : Bool) : Except Flt Out :=
  .ok (.go { s := s, lits := lits, next := .to l, remask := remask })

/-! ### Mode and idle -/

/-- NOP (R310). -/
def execNop (s : State) : Result := issue 0x00 s fun _ => goOn s 0

/-- MODE (R309): every slice of the path, whatever the guard. -/
def execMode (m : Nat) (s : State) : Result :=
  issue 0x01 s fun e =>
    if modeLegal m then
      goOn (s.setWave e.ref (e.pathSlices.foldl (fun w i => w.mapSlice i fun x => { x with mode := BitVec.ofNat 24 m }) e.w)) 0
    else .error badField

/-- YIELD (R310): the path is offered no issue before the other ready paths have been. -/
def execYield (s : State) : Result :=
  issue 0x0F s fun e => goOn (s.setWave e.ref (e.w.setPath e.p { e.path with yielded := true })) 0

/-! ### Branches -/

/-- BRA (R311). -/
def execBra (b : Opd) (s : State) : Result :=
  issue 0x02 s fun e => do
    let (t, ls) ← e.target b e.lits
    s.checkTargets e [t]
    jump s (e.used ls) (e.pathSlices.map fun i => (i, t)) false

/-- BRS (R311). -/
def execBrs (z : Nat) (a b : Opd) (s : State) : Result :=
  issue 0x04 s fun e => do
    if 1 < z then throw badField
    e.lastInClause (litsOf a 1 + litsOf b 1)
    let (x, ls) ← e.scalarSrc a e.lits
    let (t, ls) ← e.target b ls
    e.checkScalars [(x, 1)]
    let taken := fun i => ((e.read 1 (4 * i) x).1 != 0) == (z == 0)
    if e.pathSlices.any taken then s.checkTargets e [t]
    jump s (e.used ls) (e.pathSlices.map fun i => (i, if taken i then t else e.nextClause)) false

/-- BRX (R311): case i of the table begins 128·i bytes on. -/
def execBrx (n : Nat) (a b : Opd) (s : State) : Result :=
  issue 0x1B s fun e => do
    e.lastInClause (litsOf a 1 + litsOf b 1)
    if n = 0 then throw badOperand
    let (x, ls) ← e.scalarSrc a e.lits
    let (t, ls) ← e.target b ls
    e.checkScalars [(x, 1)]
    let ix := fun i => (e.read 1 (4 * i) x).1
    let dest := fun i => t + BitVec.ofNat 64 (128 * ix i)
    s.checkTargets e ((e.pathSlices.filter fun i => decide (ix i < n)).map dest)
    jump s (e.used ls) (e.pathSlices.map fun i => (i, if ix i < n then dest i else e.nextClause)) false

/-- CALL (R314): the link pair receives NextClause in every slice, then each slice transfers. -/
def execCall (d b : Opd) (s : State) : Result :=
  issue 0x06 s fun e => do
    e.lastInClause (litsOf b 1)
    let dd ← e.stDst d 2 false
    match b with
    | .s _ =>
      let (x, ls) ← e.pairSrc b false e.lits
      e.checkScalars [(x, 2)]
      let l := e.pathSlices.map fun i => (i, (BitVec.ofNat 64 (e.read 2 (4 * i) x).1 : DWord))
      s.checkTargets e (l.map (·.2))
      jump (s.write e (e.pathSlices.flatMap fun i => dd.writes 2 (4 * i) e.nextClause.toNat false)) (e.used ls) l false
    | _ =>
      let (t, ls) ← e.target b e.lits
      s.checkTargets e [t]
      jump (s.write e (e.pathSlices.flatMap fun i => dd.writes 2 (4 * i) e.nextClause.toNat false)) (e.used ls)
        (e.pathSlices.map fun i => (i, t)) false

/-- RET (R314). -/
def execRet (a : Opd) (s : State) : Result :=
  issue 0x07 s fun e => do
    let (x, ls) ← e.pairSrc a false e.lits
    e.checkScalars [(x, 2)]
    let l := e.pathSlices.map fun i => (i, (BitVec.ofNat 64 (e.read 2 (4 * i) x).1 : DWord))
    s.checkTargets e (l.map (·.2))
    jump s (e.used ls) l false

/-! ### The split stack -/

/-- The lanes a slice's split stack enables, ended lanes removed (R312). -/
def Slice.live (x : Slice) : BitVec 4 := x.enabled &&& ~~~x.ended

/-- What BRP does to one slice: the slice after it, and whether it takes the branch (R312). -/
def brpSlice (x : Slice) (sleeping pred : BitVec 4) (next : DWord) : Slice × Bool :=
  let en := x.live
  let E := en &&& ~~~sleeping
  let T := E &&& pred
  if T = 0 then (x, false)
  else if T = E then (x, true)
  else ({ x with stack := { mask := en, resume := next } :: x.stack
                 enabled := (T &&& ~~~sleeping) ||| (en &&& sleeping) }, true)

/-- Whether BRP pushes in a slice whose stack is full (R128). -/
def brpFull (x : Slice) (sleeping pred : BitVec 4) : Bool :=
  let E := x.live &&& ~~~sleeping
  let T := E &&& pred
  T != 0 && T != E && decide (8 ≤ x.stack.length)

/-- BRP (R312); on a caster thread a branch on bit 0 (R135). -/
def execBrp (p : PredF) (b : Opd) (s : State) : Result :=
  issue 0x03 s fun e => do
    e.lastInClause (litsOf b 1)
    checkPred p true
    let (t, ls) ← e.target b e.lits
    let pr := e.w.predF p
    if e.caster then
      let go := bitOf pr.toNat 0
      if go then s.checkTargets e [t]
      jump s (e.used ls) (e.pathSlices.map fun i => (i, if go then t else e.nextClause)) false
    else
      let sl := fun i => sliceLanes e.path.sleep i
      let pl := fun i => sliceLanes pr i
      if e.pathSlices.any fun i => brpFull (e.w.slice i) (sl i) (pl i) then throw badField
      let rs := e.pathSlices.map fun i => (i, brpSlice (e.w.slice i) (sl i) (pl i) e.nextClause)
      if rs.any (·.2.2) then s.checkTargets e [t]
      let w := (rs.foldl (fun w r => w.setSlice r.1 r.2.1) e.w).refreshActive e.p
      jump (s.setWave e.ref w) (e.used ls) (rs.map fun r => (r.1, if r.2.2 then t else e.nextClause)) true

/-- What JOIN does to one slice: the slice after it and its next address (R313). -/
def joinSlice (x : Slice) (next : DWord) : Slice × DWord :=
  match x.stack with
  | [] => (x, next)
  | top :: rest =>
    let pend := top.mask &&& ~~~x.live &&& ~~~x.ended
    if top.resume ≠ 0 ∧ top.resume &&& 1 = 0 ∧ pend ≠ 0 then
      ({ x with stack := { top with resume := next ||| 1 } :: rest, enabled := pend }, top.resume)
    else ({ x with stack := rest, enabled := top.mask &&& ~~~x.ended }, next)

/-- JOIN (R313). -/
def execJoin (s : State) : Result :=
  issue 0x05 s fun e => do
    e.lastInClause 0
    if e.caster then jump s 0 (e.pathSlices.map fun i => (i, e.nextClause)) false
    else
      let rs := e.pathSlices.map fun i => (i, joinSlice (e.w.slice i) e.nextClause)
      let w := (rs.foldl (fun w r => w.setSlice r.1 r.2.1) e.w).refreshActive e.p
      jump (s.setWave e.ref w) 0 (rs.map fun r => (r.1, r.2.2)) true

/-- The unwinding of a slice whose enabled lanes have all ended while its stack holds an entry (R313): the
slice, and where it goes on when it moved. -/
def unwindSlice (next : DWord) : Nat → Slice → Option DWord → Slice × Option DWord
  | 0, x, pc => (x, pc)
  | fuel + 1, x, pc =>
    match x.stack with
    | [] => (x, pc)
    | top :: rest =>
      if x.live ≠ 0 ∨ x.exited then (x, pc)
      else if top.resume &&& 1 = 0 then
        let (y, a) := joinSlice x next
        unwindSlice next fuel y (some a)
      else
        unwindSlice next fuel { x with stack := rest, enabled := top.mask &&& ~~~x.ended } (some (top.resume &&& ~~~1))

/-- All lanes of a path's slices. -/
def Wave.pathLanes (w : Wave) (p : Nat) : Word :=
  BitVec.ofNat 32 (((bitsBelow 8 (w.path p).slices.toNat).map fun i => atSlice (0xF : BitVec 4) i).sum)

/-- Lanes that have ended. -/
def Wave.endedLanes (w : Wave) : Word := BitVec.ofNat 32 (((upto 8).map fun i => atSlice (w.slice i).ended i).sum)

/-- End lanes of a wave. -/
def Wave.endLanes (w : Wave) (m : Word) : Wave :=
  (upto 8).foldl (fun w i => w.mapSlice i fun x =>
    { x with ended := x.ended ||| sliceLanes m i, enabled := x.enabled &&& ~~~(sliceLanes m i) }) w

/-- The wave after the lanes `m` of path `p` have ended: sleeping lanes end when no other lane of the path is
left (R129), and each slice unwinds. Answers the slices' next addresses, the sequential one by default. -/
def Wave.exit (w : Wave) (p : Nat) (m : Word) (seqPc next : DWord) : Wave × List (Nat × DWord) :=
  let w := w.endLanes m
  let rest := w.pathLanes p &&& ~~~w.endedLanes &&& ~~~(w.path p).sleep
  let w := if rest = 0 then w.endLanes (w.path p).sleep else w
  let rs := (w.pathSlices p).map fun i => (i, unwindSlice next 9 (w.slice i) none)
  let w := rs.foldl (fun w r => w.setSlice r.1 r.2.1) w
  let x := w.path p
  let w := w.setPath p { x with sleep := x.sleep &&& ~~~w.endedLanes }
  (w.refreshActive p, rs.map fun r => (r.1, r.2.2.getD seqPc))

/-! ### Arrivals at barriers (R130, R417) -/

/-- Barrier `b` of the issuing gang. -/
def Gang.barrier (g : Gang) (b : Nat) : Barrier := nth {} g.barriers b

/-- Every live slice of a wave has counted toward its arrival (R130). -/
def Gang.allCounted (g : Gang) (b : Barrier) (w : Nat) : Bool :=
  let live := (nth ({} : Wave) g.waves w).liveSlices
  live != [] && live.all fun i => bitOf (b.arrivals.get 0 w).toNat i

/-- The waves whose live slices have all counted, with the releases of their arrivals performed, and that have not arrived (R130,
R417, R418). -/
def Gang.arriving (g : Gang) (b : Barrier) : Nats :=
  (upto g.waves.length).filter fun w => g.allCounted b w && !(b.arrived.contains w) && b.held.get 0 w == 0

/-- One wave arrives; the count that completes the round starts the next (R417). -/
def Barrier.arrive (b : Barrier) (w : Nat) : Barrier :=
  let b := { b with count := b.count + 1, arrived := b.arrived ++ [w],
                    parties := if b.parties.contains w then b.parties else b.parties ++ [w] }
  match b.party with
  | some n =>
    if n ≤ b.count then
      { b with count := 0, party := none, round := b.round + 1, arrived := [],
               arrivals := b.arrivals.filter fun x => !(b.arrived.contains x.1) }
    else b
  | none => b

/-- Settle every arrival of a barrier: slices that end may complete one. -/
def Gang.settle (g : Gang) (b : Nat) : Gang :=
  let x := g.barrier b
  if x.abandoned then g else { g with barriers := setNth g.barriers b ((g.arriving x).foldl Barrier.arrive x) }

/-- The release of an arrival of some slices of a wave is performed: it holds back no longer (R418). -/
def Gang.unhold (g : Gang) (b w : Nat) (sl : BitVec 8) : Gang :=
  let x := g.barrier b
  Gang.settle { g with barriers := setNth g.barriers b { x with held := x.held.set 0 w (x.held.get 0 w &&& ~~~sl) } } b

/-- Slices have ended: the arrivals of their wave that this completes are settled at every barrier (R130). -/
def State.settleArrivals (s : State) (e : Env) : State :=
  if e.caster || e.handler then s else s.mapGang e.task e.gang fun g => (upto 16).foldl Gang.settle g

/-- EXIT (R129, R130, R315): a path whose slices have all exited becomes FREE. -/
def execExitLanes (s : State) : Result :=
  issue 0x08 s fun e =>
    if e.caster && e.off then goOn s 0
    else
      let m := if e.caster then e.w.pathLanes e.p else e.active
      let (w, l) := e.w.exit e.p m (e.after 0).1 e.nextClause
      if l = [] then .ok (.stop ((s.setWave e.ref (w.setPath e.p {})).settleArrivals e))
      else jump ((s.setWave e.ref w).settleArrivals e) 0 l true

/-! ### REGANG -/

/-- The paths that hold a live slice. -/
def Wave.livePaths (w : Wave) : Nats :=
  (upto 8).filter fun p => (w.path p).state != .free && w.pathSlices p != []

/-- Join paths into the lowest of them at an address (R127, R260). -/
def Wave.joinPaths (w : Wave) (ps : Nats) (pc : DWord) (clause : Option Clause) (buf : Option LineBuf) : Wave :=
  let q := lowest 0 ps
  let xs := ps.map w.path
  let x := w.path q
  let y : Path := { x with
    state := .run, pc := pc, wait := .none, clause := clause, buf := buf
    sleep := xs.foldl (fun a p => a ||| p.sleep) 0
    active := xs.foldl (fun a p => a ||| p.active) 0
    slices := xs.foldl (fun a p => a ||| p.slices) 0
    sticky := xs.foldl (fun a p => a ||| p.sticky) 0
    sig := sigRegang
    ref := xs.foldl (fun a p => a ||| p.active) 0
    inPass := xs.any (·.inPass)
    stepping := xs.any (·.stepping)
    ladleLast := (xs.map (·.ladleLast)).foldl max 0
    atPp := false }
  (ps.foldl (fun w p => w.setPath p {}) w).setPath q y

/-- Operations of joined paths now belong to the joined path. -/
def State.moveOps (s : State) (r : WaveRef) (ps : Nats) : State :=
  { s with ops := s.ops.map fun o => if o.wave == r && ps.contains o.path then { o with path := lowest 0 ps } else o }

/-- A running path none of whose lanes is awake: it issues nothing until a REGANG of another path joins it (R323). -/
def Wave.asleep (w : Wave) (p : Nat) : Bool :=
  (w.path p).state == .run && (w.pathSlices p).all fun i => ((w.slice i).ended ||| sliceLanes (w.path p).sleep i) == 0xF

/-- REGANG (R127, R316, R323): the last path to arrive joins them, sleeping ones too; arrivals at different places raise 0x80 on
the lowest waiting path. On a caster thread it completes at once (R297). -/
def execRegang (s : State) : Result :=
  issue 0x09 s fun e =>
    let ps := e.w.livePaths
    let (a, cl) := e.after 0
    let others := ps.filter (· != e.p)
    if e.caster then
      .ok (.stop (s.setWave e.ref (e.w.setPath e.p
        { e.path with state := .run, wait := .none, pc := a, clause := cl, sig := sigRegang, ref := e.path.active })))
    else if others.all fun q => (e.w.path q).state == .regang || e.w.asleep q then
      let here := ps.filter fun q => q == e.p || (e.w.path q).state == .regang
      if here.all fun q => (e.w.path q).pc == e.pc then
        .ok (.stop ((s.setWave e.ref (e.w.joinPaths ps a cl e.path.buf)).moveOps e.ref ps))
      else if e.p = lowest e.p here then .error { code := 0x80 }
      else .ok (.stop ((s.block e .regang).takeFault e.ref (lowest e.p here) { code := 0x80 }))
    else .ok (.wait s .regang)

/-! ### Waits -/

/-- WAITF (R317). -/
def execWaitf (mask : Nat) (s : State) : Result :=
  issue 0x0A s fun e =>
    if e.pathSlices.any (fun i => ((e.w.slice i).flags &&& BitVec.ofNat 12 mask) != 0) then .ok (.wait s .waitf)
    else goOn s 0

/-- WAITT (R319): the status once the timeline has reached n, which acquires at device scope, is fenced or the time is over. -/
def execWaitt (d a b : Opd) (s : State) : Result :=
  issue 0x0B s fun e => do
    let dd ← e.stDst d 1 true
    let (x, ls) ← e.scalarOf a 2 true e.lits
    let (y, ls) ← e.scalarOf b 2 true ls
    let v ← e.readLow 2 x
    let n ← e.readLow 2 y
    match s.tlRef e (v % 2 ^ 32) with
    | none => throw badOperand
    | some r =>
      let t := s.timeline e r
      let (t0, r0) := match e.path.wait with
        | .waitt t0 r0 _ => (t0, r0)
        | _ => (s.now, t.resets)
      let out := v / 2 ^ 32
      let finish := fun (s : State) st => goOn (s.write e (e.pathSlices.flatMap fun i => dd.writes 1 (4 * i) st false)) (e.used ls)
      if t.fenced ∨ t.resets ≠ r0 then finish s 2
      else if n ≤ t.reached then finish (s.acquired e 4) 0
      else if out ≠ 0 ∧ t0 + 1000 * out ≤ s.now then finish s 1
      else return .wait s (.waitt t0 r0 (1000 * out))

/-- WAITM (R320). -/
def execWaitm (m : Nat) (any phase : Bool) (st : Nat) (s : State) : Result :=
  issue 0x0C s fun e => do
    if any && phase then throw badField
    if !(s.mouldExists e m) then throw badOperand
    if s.foreign e m then throw { code := 0x41 }
    let x := s.mould e m
    if x.state.code = st ∧ (any ∨ x.phase = phase) then goOn (s.acquired e 4) 0 else return .wait s .waitm

/-! ### Fetch control -/

/-- Lines of a cluster's instruction cache of 256 KiB (R121). -/
def icachePlaces : Nat := 2048

/-- Put a line into a cluster's instruction cache; where it is full, which line makes room is the device's free choice. -/
def State.cacheLine (s : State) (c ctx : Nat) (l : LineBuf) : State :=
  let others := (s.cluster c).icache.filter fun x => !(x.ctx == ctx && x.line.base == l.base)
  let t := s.mapCluster c fun k => { k with icache := makePlace icachePlaces s.caches.picks others { ctx := ctx, line := l } }
  if others.length < icachePlaces then t else t.picked

/-- PREFI (R322): lines whose translation or permission fails are skipped. -/
def execPrefi (a : Opd) (n : Nat) (s : State) : Result :=
  issue 0x0D s fun e => do
    if n = 0 ∨ 16 < n then throw badOperand
    let (x, ls) ← e.scalarOf a 2 true e.lits
    let va ← e.readLow 2 x
    goOn ((upto n).foldl (fun s i => match s.fetchLine e.who (BitVec.ofNat 64 (va + 128 * i)) with
      | .ok l => s.cacheLine e.cluster e.ctx l
      | .error _ => s) s) (e.used ls)

/-- IFENCE (R322): the cluster's lines of the context and the path's own buffer are discarded. -/
def execIfence (s : State) : Result :=
  issue 0x0E s fun e =>
    goOn ((s.mapCluster e.cluster fun k => { k with icache := k.icache.filter (fun x => x.ctx != e.ctx) }).setWave e.ref
      (e.w.setPath e.p { e.path with buf := none })) 0

/-! ### Lanes at rest -/

/-- SLEEP (R138). -/
def execSleep (s : State) : Result :=
  issue 0x10 s fun e =>
    let w := e.w.setPath e.p { e.path with sleep := e.path.sleep ||| e.active }
    .ok (.go { s := s.setWave e.ref (w.refreshActive e.p), remask := true })

/-- WAKE (R138): whatever the guard. -/
def execWake (s : State) : Result :=
  issue 0x11 s fun e =>
    .ok (.go { s := s.setWave e.ref ((e.w.setPath e.p { e.path with sleep := 0 }).refreshActive e.p), remask := true })

/-- ELECT (R138): the lowest active lane of each segment, over every lane of the path. -/
def execElect (p : PredF) (s : State) : Result :=
  issue 0x12 s fun e => do
    checkPred p false
    let seg := 2 ^ e.w.partn
    let pick := e.lanes.filter fun L => e.lanes.all fun j => j / seg != L / seg || decide (L ≤ j)
    goOn (s.setWave e.ref (e.w.setPred p.idx (e.w.pathLanes e.p) (laneMask pick))) 0

/-! ### Special state -/

/-- The time since a task's first instruction, read at 10 ns resolution (R105). -/
def Task.elapsed (t : Task) (now : Nat) : Nat :=
  match t.firstIssue with
  | some t0 => (now - t0) / 10 * 10
  | none => 0

/-- LIMT and LIME (R106): what is left of a limit. -/
def remaining (anytime : Bool) (limit used : Nat) : Nat :=
  if !anytime ∨ limit = 0 then 0xFFFFFFFF else min (limit - used) 0xFFFFFFFE

/-- The cluster's allowance A (R96, R98). -/
def Cluster.allowance (c : Cluster) : Nat := c.allow

/-- The value and width in registers of state number `num` (R324). -/
def State.special (s : State) (e : Env) (num arg : Nat) : Except Flt (Nat × Nat) :=
  let task := s.task? e.task
  if 15 < num then .error badField
  else if num ≠ 15 ∧ arg ≠ 0 then .error badField
  else match num with
  | 0 => .ok (s.now % 2 ^ 64, 2)
  | 1 => .ok ((task.map (·.energy)).getD 0 % 2 ^ 64, 2)
  | 2 => .ok ((task.map fun t => remaining t.anytime t.timeLimit (t.elapsed s.now)).getD 0xFFFFFFFF, 1)
  | 3 => .ok ((task.map fun t => remaining t.anytime t.energyLimit t.energy).getD 0xFFFFFFFF, 1)
  | 4 => .ok ((s.cluster e.cluster).allowance, 1)
  | 5 => .ok (if e.caster then 0 else e.path.sticky.toNat, 1)
  | 6 => .ok (if e.caster then 0 else e.p, 1)
  | 7 => .ok (e.path.sig.toNat, 1)
  | 8 => .ok (e.task % 2 ^ 32, 1)
  | 9 => .ok (e.ctx, 1)
  | 10 => .ok (if e.caster then 0 else e.w.partn, 1)
  | 11 => .ok (e.w.slip % 2 ^ 32, 1)
  | 12 => .ok (nth 0 (s.die (e.cluster / 32)).sensors (e.cluster % 32 / 2), 1)
  | 13 => .ok ((e.handler && (s.core e.core).hmask).toNat, 1)
  | 14 => .ok (match e.handler, (s.core e.core).current with
      | true, some i => recordAddr e.core i
      | _, _ => 0, 2)
  | _ =>
    if bitOf arg 7 then .error badField
    else
      let word := bitsOf arg 6 5
      match word, (s.myGang e).bind fun g => g.tiles[arg % 32]? with
      | 3, _ => .error badOperand
      | _, none => .error badOperand
      | w, some t => .ok ((t.bitmap.toNat >>> (32 * w)) % 2 ^ 32, 1)

/-- GETS (R324). -/
def execGets (d : Opd) (arg num : Nat) (s : State) : Result :=
  issue 0x13 s fun e => do
    let (v, n) ← s.special e num arg
    let dd ← e.stDst d n true
    goOn (s.write e (e.pathSlices.flatMap fun i => dd.writes n (4 * i) v false)) 0

/-- A handler takes up record `i` (R252): the record leaves the queue, and one that was being served and is not done goes back to
its head. -/
def Core.takeUp (k : Core) (i : Nat) : Core :=
  let back : Nats := match k.current with
    | some j => if j ≠ i ∧ (k.records.get none j).isSome then [j] else []
    | none => []
  { k with current := some i, queue := back ++ k.queue.filter (· != i) }

/-- SETS (R325). -/
def execSets (a : Opd) (num : Nat) (s : State) : Result :=
  issue 0x14 s fun e => do
    if (num = 13 ∨ num = 14) ∧ !e.handler then throw { code := 0x05 }
    if num ≠ 5 ∧ num ≠ 13 ∧ num ≠ 14 then throw badField
    let n := if num = 14 then 2 else 1
    let (x, ls) ← e.src a n e.lits
    if x.isVec then throw badOperand
    let v ← e.readLow n x
    if num = 5 then
      if 2 ^ 9 ≤ v then throw badOperand
      if e.caster then goOn s (e.used ls)
      else goOn (s.setWave e.ref (e.w.setPath e.p { e.path with sticky := BitVec.ofNat 9 v })) (e.used ls)
    else if num = 13 then
      goOn (s.setCore e.core { s.core e.core with hmask := bitOf v 0, hmaskAt := s.now }) (e.used ls)
    else
      match (upto 32).find? fun i => recordAddr e.core i == v with
      | none => throw badOperand
      | some i => goOn (s.setCore e.core ((s.core e.core).takeUp i)) (e.used ls)

/-- SIGCHK (R262, R326): after a comparison that raises no fault the signature restarts from 0. -/
def execSigchk (s : State) : Result :=
  issue 0x15 s fun e =>
    match e.lits with
    | [] => .error badOperand
    | x :: _ =>
      let check := ((s.task? e.task).map Task.sigcheck).getD false
      if check && e.path.sig != x then .error { code := 0x60 }
      else .ok (.go { s := s.setWave e.ref (e.w.setPath e.p { e.path with sig := 0 }), lits := 1, remask := true, sig := false })

/-- LIVE (R327): the entry named last. -/
def execLive (i : Nat) (s : State) : Result :=
  issue 0x16 s fun e => goOn (s.setWave e.ref (e.w.setPath e.p { e.path with lastLive := some i })) 0

/-- TRAP and BRK (R328): when a lane is active. -/
def trapOp (op code cause : Nat) (s : State) : Result :=
  issue op s fun e =>
    match e.lanes with
    | L :: _ => .error { code := code, lane := L, cause := cause }
    | [] => goOn s 0

/-- TRAP (R328). -/
def execTrap (c : Nat) (s : State) : Result := trapOp 0x17 0x71 c s

/-- BRK (R328). -/
def execBrk (s : State) : Result := trapOp 0x19 0x72 0 s

/-- RFT (R329). -/
def execRft (s : State) : Result := issue 0x18 s fun e => .ok (.stop (s.returnFromFault e.core))

/-- PARTN (R330). -/
def execPartn (l : Nat) (s : State) : Result :=
  issue 0x1A s fun e =>
    if l = 0 ∨ 5 < l then .error badField else goOn (s.setWave e.ref { e.w with partn := l }) 0

end Sys2Proof.Machine
end

