-- ==== Sys2Proof/Machine/Tasks.lean ====
section
/-! DEFINITION. Tasks from acceptance to completion: the checks of a launch packet (R56–R58), notify records
(R61, R62), graph nodes (R87–R92), packets' completions (R51–R55) and the completion of a task (R60, R79). -/

namespace Sys2Proof.Machine

/-! ### Records written for the host -/

/-- The runner and other agents of a context that are no cluster's (R209). -/
def agentOf (ctx : Nat) : Who := { ctx := ctx }

/-- Count a dropped record (R62). -/
def State.dropRecord (s : State) (ctx : Nat) : State :=
  { s with notifyLost := s.notifyLost.update 0 ctx fun n => min (n + 1) (2 ^ 64 - 1) }

/-- A task's record is free once its notify record has been written or dropped (R78). -/
def State.noteNotified (s : State) (t : Nat) : State := s.mapTask t fun k => { k with notified := true }

/-- Write a record at a fabric-global address (R61, R62, R70): into this package's memory at once, or as a
store to another endpoint whose completion is awaited. -/
def State.sendRecord (s : State) (ctx task : Nat) (addr : DWord) (bs : Bytes) (reply : Bool) : State :=
  match s.reach true true addr.toNat with
  | .ok (.mem off) => (s.writeLocal off bs false).noteNotified task
  | .ok (.remote pkg off) =>
    (s.sendRequest { id := 0, since := 0, pkg := pkg, off := off, kind := .notify ctx task reply, data := bs, opId := 0 }).1
  | _ => (s.dropRecord ctx).noteNotified task

/-- The notify record (R61). -/
def notifyRecord (tag kind status code number version grade task : Nat) : Bytes :=
  leBytes 2 tag ++ leBytes 1 kind ++ leBytes 1 status ++ leBytes 1 code ++ leBytes 3 0 ++ leBytes 8 number
    ++ leBytes 4 version ++ leBytes 4 grade ++ leBytes 4 task ++ leBytes 4 0

/-- What a notify record waits for (R61): that its timeline has reached its number, or will not, being fenced or reset, and that
every write of its task is performed. -/
def State.mayPost (s : State) (x : Notice) : Bool :=
  (match x.timeline with
    | none => true
    | some (i, n, r) => match s.ctx? x.ctx with
      | none => true
      | some c => let t : Timeline := nth {} c.timelines i; t.fenced || t.resets != r || decide (n ≤ t.reached))
    && (x.task == 0 || s.ops.all fun o => (refGang o.wave).map (·.1) != some x.task)

/-- Write the notify records that wait no longer (R61). -/
def State.postNotices (s : State) : State :=
  let go := s.notices.filter s.mayPost
  if go = [] then s
  else go.foldl (fun s x => s.sendRecord x.ctx x.task x.addr x.bytes false) { s with notices := s.notices.filter fun x => !(s.mayPost x) }

/-- A notify record is due, and is written once it may be (R61). -/
def State.notify (s : State) (x : Notice) : State := ({ s with notices := s.notices ++ [x] } : State).postNotices

/-- A packet other than a LAUNCH, or one that never started, completes (R61); `timeline` is that of the number it took. -/
def State.packetDone (s : State) (p : Packet) (status number : Nat) (timeline : Option (Nat × Nat × Nat) := none) (code : Nat := 0) :
    State :=
  match p.notify with
  | none => s
  | some a => s.notify { ctx := p.ctx, task := 0, addr := a, timeline := timeline
                         bytes := notifyRecord p.tag p.kind status code number 0xFFFFFFFF 0 p.taskId }

/-- The last sealed version and grade of a task (R61). -/
def State.sealedOf (s : State) (t : Nat) : Nat × Nat :=
  match (s.dir? t).bind (·.latest) with
  | some (_, v, g) => (v, g)
  | none => (0xFFFFFFFF, 0)

/-! ### Launch packets -/

/-- Gangs of one shape that an empty cluster can hold, whatever else is free (R83). -/
def clusterRoom (g w b scratch tiles banks planes : Nat) : Nat :=
  let perCore := min (16 / w) (192 / (w * b))
  let cap := fun total need => if need = 0 then 4 else total / need
  if 1024 < planes then 0
  else min (min 4 (4 / g * perCore)) (min (cap 4194304 scratch) (min (cap 32 tiles) (cap 8 banks)))

/-- Clusters set in the cluster mask (R22). -/
def State.maskedClusters (s : State) : Nats := (upto Config.clusters).filter fun c => bitOf s.clusterMask.toNat c

/-- The checks of R56 and R57 that answer MALFORMED. -/
def State.launchLegal (s : State) (bs : Bytes) : Bool :=
  let f := fieldAt bs
  let flags := f 0x1E 1
  let anytime := bitOf flags 1
  let zeros := fun off n => decide (f off n = 0)
  decide (f 0x00 8 ≠ 0) && decide (f 0x00 8 % 128 = 0) && decide (f 0x08 8 % 128 = 0) && decide (1 ≤ f 0x10 4)
    && decide (1 ≤ f 0x14 1) && decide (f 0x14 1 ≤ 4) && decide (1 ≤ f 0x15 1) && decide (f 0x15 1 ≤ 16)
    && decide (1 ≤ f 0x16 1) && decide (f 0x16 1 ≤ 12) && (decide (f 0x17 1 < f 0x15 1) || f 0x17 1 == 0xFF)
    && decide (f 0x18 4 % 1024 = 0) && decide (f 0x18 4 ≤ 4194304) && decide (f 0x1C 1 ≤ 32) && decide (f 0x1D 1 ≤ 8)
    && decide (flags < 32) && !(bitOf flags 0 && bitOf flags 4) && decide (f 0x1F 1 ≤ 3)
    && decide (f 0x20 8 % 8 = 0) && decide (f 0x28 8 % 64 = 0) && (decide (f 0x30 2 < 16) || f 0x30 2 == 0xFFFF)
    && zeros 0x32 6 && decide (f 0x38 8 % 32 = 0)
    && (if anytime then decide (f 0x40 8 ≠ 0) && decide (f 0x40 8 % 64 = 0) && decide (f 0x48 4 ≠ 0)
          && decide (f 0x48 4 % 64 = 0) && decide (2 ≤ f 0x4C 1) && decide (f 0x4C 1 ≤ 8)
        else zeros 0x40 8 && zeros 0x48 4 && zeros 0x4C 1 && zeros 0x50 8 && zeros 0x58 8)
    && zeros 0x4D 3 && decide (f 0x60 2 ≤ 1024) && zeros 0x62 30
    && (!(bitOf flags 0) || decide (f 0x10 4 ≤ s.maskedClusters.length
          * clusterRoom (f 0x14 1) (f 0x15 1) (f 0x16 1) (f 0x18 4) (f 0x1C 1) (f 0x1D 1) (f 0x60 2)))

/-- The next task id (R60): skipping 0 and every id still held. -/
def State.freeTaskId (s : State) : Nat → Nat → Nat
  | 0, n => n
  | fuel + 1, n =>
    if n = 0 ∨ s.tasks.any (fun t => t.id == n && !t.notified) ∨ s.dirs.any (·.task == n)
        ∨ s.queues.any (fun q => q.2.pending.any (·.taskId == n))
    then s.freeTaskId fuel ((n + 1) % 2 ^ 32) else n

/-- Accept a launch packet into a queue (R56, R60, R69): the packet and its task id. The class (R58), the quota that governs the
task (R68) and its limits are those that stand now. -/
def State.acceptLaunch (s : State) (q : Nat) (p : Packet) : State × Nat :=
  let id := s.freeTaskId (s.tasks.length + s.dirs.length + 64 * 64 + 2) s.nextTask
  let lim := ((s.ctx? p.ctx).map (·.limits)).getD {}
  let qq := s.queue q
  let p := { p with taskId := id, limits := lim, cls := max (fieldAt p.body 0x1F 1) qq.cls
                    quota := ((s.ctx? p.ctx).map (·.quotaPackage)).getD 0 }
  ({ s.setQueue q { qq with pending := qq.pending ++ [p] } with nextTask := (id + 1) % 2 ^ 32 }, id)

/-- The acceptance of a launch packet offered by the device (R48, R88, R419): the status, and the task id. -/
def State.offerLaunch (s : State) (ctx q : Nat) (body : Bytes) (node : Option (Nat × Nat)) : State × Nat × Nat :=
  if !s.start.ready then (s, 1, 0)
  else if !(s.launchLegal body) then (s, 2, 0)
  else match s.ctx? ctx with
    | none => (s, 4, 0)
    | some c =>
      if (s.queue q).bound ≠ some ctx then (s, 3, 0)
      else if 64 ≤ (s.queue q).pending.length then (s, 1, 0)
      else if c.quotaCluster < fieldAt body 0x60 2 then (s, 5, 0)
      else
        let (s, id) := s.acceptLaunch q { kind := 1, ctx := ctx, tag := 0, notify := none, ordered := false, body := body, node := node }
        (s, 0, id)

/-! ### Graph nodes -/

/-- The address of node `i` of a graph (R55). -/
def Graph.addr (g : Graph) (i : Nat) : Nat := g.nodes.toNat + 32 * i

/-- Bytes that the runner reads for a context, when its access is permitted. -/
def State.runnerRead (s : State) (ctx va n : Nat) : Option Bytes :=
  match s.span (agentOf ctx) .load va n with
  | .ok sp => some (s.readSpan (agentOf ctx) sp)
  | .error _ => none

/-- The index that stands in an operation of the runner's own writes, for no node. -/
def noNode : Nat := 2 ^ 32

/-- Bytes that the runner writes for the graph of a queue; what leaves the package, or is an expander's, is awaited as an operation
of the queue's (R41, R53). -/
def State.runnerWrite (s : State) (q ctx va : Nat) (bs : Bytes) : State :=
  match s.span (agentOf ctx) .store va bs.length with
  | .ok sp =>
    let id := s.nextId
    let (t, ids) := ({ s with nextId := id + 1 } : State).putSpan (agentOf ctx) false sp bs id
    let o : PendingOp := { id := id, wave := .user 0 0 0, path := 0, pc := 0, flag := none, remote := ids, cxl := sp.cxlParts 0xFF
                           node := some (q, noNode) }
    if o.ready then t else { t with ops := t.ops ++ [o] }
  | .error _ => s

/-- Write a node's STATUS (R87). -/
def State.setNodeStatus (s : State) (q : Nat) (g : Graph) (i st : Nat) : State :=
  s.runnerWrite q g.ctx (g.addr i + 3) [BitVec.ofNat 8 st]

/-- A field of a node record; 0 where it cannot be read. -/
def State.nodeField (s : State) (g : Graph) (i off n : Nat) : Nat :=
  match s.runnerRead g.ctx (g.addr i) 32 with
  | some bs => fieldAt bs off n
  | none => 0

/-- A node record is well formed (R87, R92). -/
def State.nodeLegal (s : State) (g : Graph) (i : Nat) : Bool :=
  match s.runnerRead g.ctx (g.addr i) 32 with
  | none => false
  | some bs =>
    let f := fieldAt bs
    decide (i < g.count) && decide (f 2 1 ≤ 2) && decide (f 4 4 ≤ 2 ^ 20) && decide (f 8 8 % 4 = 0)
      && decide (f 0x18 2 < 64) && (f 2 1 == 0 || f 0x18 2 == 0) && decide (f 0x1A 1 < 2)
      && (f 2 1 == 2 || f 0x1A 1 == 0) && decide (f 0x1B 5 = 0)

/-- A node ends with a status, and with a fault code where a fault has ended it; NODE_COMPLETE settles it. One that fails fails its
graph at once: no further node starts (R92). -/
def State.endNode (s : State) (q i st : Nat) (code : Nat := 0) : State :=
  let qq := s.queue q
  match qq.graph with
  | none => s
  | some g =>
    let bad := !(st == stDone || st == stQuenched)
    s.setQueue q { qq with graph := some { g with
      finished := g.finished ++ [(i, st)], failed := if bad then g.failed.orElse fun _ => some (st, code) else g.failed } }

/-- The queue and node index that a node address of a context names (R65, R420). -/
def State.findNode (s : State) (ctx addr : Nat) : Option (Nat × Nat) :=
  (upto 64).findSome? fun q => match (s.queue q).graph with
    | some g =>
      if g.ctx = ctx ∧ g.nodes.toNat ≤ addr ∧ addr < g.addr g.count ∧ (addr - g.nodes.toNat) % 32 = 0
      then some (q, (addr - g.nodes.toNat) / 32) else none
    | none => none

/-- The nodes that a launch completes: the one that entered it (R88), and the one that its packet's runner node address names
(R65). -/
def State.nodesOf (s : State) (ctx : Nat) (body : Bytes) (node : Option (Nat × Nat)) : List (Nat × Nat) :=
  let a := fieldAt body 0x38 8
  (node.toList ++ (if a = 0 then [] else (s.findNode ctx a).toList)).eraseDups

/-- The nodes of a launch end with its status (R65, R88). -/
def State.endNodes (s : State) (ctx : Nat) (body : Bytes) (node : Option (Nat × Nat)) (st : Nat) (code : Nat := 0) : State :=
  (s.nodesOf ctx body node).foldl (fun s x => s.endNode x.1 x.2 st code) s

/-! ### A task's completion -/

/-- Every gang the task will have is RETIRED (R79): those placed, with no further one to be placed. -/
def State.allRetired (s : State) (k : Task) : Bool :=
  (s.gangsOf k.id).all (·.state == .retired)
    && (k.kill.isSome || k.quench.isSome || decide (k.gangCount ≤ k.nextGang))

/-- The lowest-indexed gang that did not end DONE. -/
def firstBad : List Gang → Option Gang
  | [] => none
  | g :: t => match firstBad t with
    | some x => if g.status ≠ stDone ∧ g.index ≤ x.index then some g else some x
    | none => if g.status ≠ stDone then some g else none

/-- The status a task completes with (R79; R13, R60 for a kill of the whole task). -/
def State.taskStatus (s : State) (k : Task) : Nat × Nat :=
  match k.kill with
  | some x => x
  | none => match firstBad (s.gangsOf k.id) with
    | some g => (g.status, if g.status = stFaulted then g.code else 0)
    | none => (stDone, 0)

/-- The open slot of a directory returns to FREE (R107, R204). -/
def Directory.dropOpen (d : Directory) : Directory :=
  match d.openSlot with
  | none => d
  | some i => { d with openSlot := none, slots := setNth d.slots i { nth {} d.slots i with state := .free } }

/-- A task's counter reaches its number (R60). -/
def State.taskNumber (s : State) (k : Task) : State :=
  if k.tlNumber = 0 then s
  else s.mapTimeline k.ctx k.timeline fun x => if x.resets = k.tlResets then x.perform k.tlNumber else x

/-- A write that a task issued is not performed at device scope yet (R41, R216). -/
def State.writesOpen (s : State) (t : Nat) : Bool :=
  s.ops.any fun o => (refGang o.wave).map (·.1) == some t && (!o.isLoad || o.atomic) && !o.ended && (o.cxl != [] || o.held != [])

/-- Completed tasks whose writes are all performed now have their numbers reached (R60). -/
def State.settleNumbers (s : State) : State :=
  (s.tasks.filter fun k => k.numberDue && !(s.writesOpen k.id)).foldl (fun s k =>
    (s.taskNumber k).mapTask k.id fun x => { x with numberDue := false }) s

/-- Every completed task has its number reached: a start that clears what is outstanding waits for nothing more. -/
def State.flushNumbers (s : State) : State :=
  (s.tasks.filter (·.numberDue)).foldl (fun s k => (s.taskNumber k).mapTask k.id fun x => { x with numberDue := false }) s

/-- A task completes (R60, R61, R65, R79, R429): its counter reaches its number, its notify record is due,
its nodes end and its queue forgets it. -/
def State.finishTask (s : State) (t status code : Nat) : State :=
  match s.task? t with
  | none => s
  | some k =>
    if k.status ≠ 0 then s
    else
      let s := (s.mapTask t fun x => { x with status := status, code := code, quench := none, numberDue := true }).settleNumbers
      let s := s.mapDir t fun d => { d.dropOpen with status := status, completedAt := s.now }
      let (v, g) := s.sealedOf t
      let s := match k.notify with
        | none => s.noteNotified t
        | some a => s.notify { ctx := k.ctx, task := t, addr := a, bytes := notifyRecord k.tag 1 status code k.tlNumber v g t
                               timeline := if k.tlNumber = 0 then none else some (k.timeline, k.tlNumber, k.tlResets) }
      let qq := s.queue k.queue
      (s.setQueue k.queue { qq with live := qq.live.filter (· != t) }).endNodes k.ctx k.packet k.node status code

/-- Change the state for every byte of the package's own memory in `n` lines of a context from an address on. -/
def State.eachByte (s : State) (ctx va : Nat) (f : State → Nat → State) : Nat → State
  | 0 => s
  | n + 1 =>
    let put := fun (s : State) (pn : Place × Nat) => match pn.1 with
      | .mem o => (upto pn.2).foldl (fun s i => f s (o + i)) s
      | _ => s
    let t := match s.span (agentOf ctx) .store va 64 with
      | .ok sp => sp.parts.foldl put s
      | .error _ => s
    t.eachByte ctx (va + 64) f n

/-- What the bytes of a slot held before belongs to no open pass (R108). -/
def State.forgetTrail (s : State) (ctx va n : Nat) : State :=
  s.eachByte ctx va (fun s a => { s with trail := s.trail.filter (·.1 != a) }) n

/-- Bytes of a slot that hold undefined contents from now on: each the value it holds or one that it held since its slot was
opened, which of them free (R107, R108). -/
def State.undefine (s : State) (ctx va n : Nat) : State :=
  s.eachByte ctx va (fun s a =>
    let l := s.mem.get 0 a :: s.trail.get [] a
    if l.length = 1 then s
    else { s with mem := s.mem.set 0 a (nth 0 l ((Config.freeWord s.fresh).toNat % l.length)), fresh := s.fresh + 1 }) n

/-- The open slot of a quenched task has undefined contents (R107, R108). -/
def State.undefineOpen (s : State) (t : Nat) : State :=
  match s.dir? t with
  | some d => match d.openSlot with
    | some i => s.undefine d.ctx (d.base.toNat + i * d.slotBytes) (d.slotBytes / 64)
    | none => s
  | none => s

/-- Complete a task all of whose gangs are RETIRED and that no quench is ending. -/
def State.settleTask (s : State) (t : Nat) : State :=
  match s.task? t with
  | none => s
  | some k =>
    if k.status = 0 ∧ k.quench.isNone ∧ s.allRetired k then
      let (st, c) := s.taskStatus k
      s.finishTask t st c
    else s

/-- Kill a whole task, which completes at once when it has no gang to stop (R60). -/
def State.endTask (s : State) (t status code : Nat) : State := (s.killTask t status code).settleTask t

/-! ### A gang's retirement -/

/-- No fault that a gang's work has raised is still undelivered or with a handler (R79, R256). -/
def State.faultFree (s : State) (g : Gang) : Bool :=
  s.imprecise.all (fun m => refGang m.wave != some (g.task, g.index)) && s.cores.all fun (_, c) =>
    c.records.all fun (_, r) => match r with
      | some r => refGang r.wave != some (g.task, g.index)
      | none => true

/-- A gang has nothing left to do (R79): its waves and its caster thread have ended, and every operation they
issued has completed. -/
def State.gangDone (s : State) (g : Gang) : Bool :=
  (g.state == .running || g.state == .placing) && g.waves.all Wave.finished && g.caster.finished
    && g.ladle.all (fun q => q.ops == []) && g.seq == []
    && s.ops.all (fun o => refGang o.wave != some (g.task, g.index)) && (g.kill.isSome || s.faultFree g)
    && (match (s.task? g.task).bind fun k => s.ctx? k.ctx with
      | some c => c.ingots.all fun x => match x.2.load with
        | some (t, i, _) => !(t == g.task && i == g.index)
        | none => true
      | none => true)

/-- A gang retires (R79, R251): its status, its resources given back and scrubbed, its engines' timelines reset (R37). -/
def State.retireGang (s : State) (g : Gang) : State :=
  let (st, c) := match g.kill with
    | some x => x
    | none => if g.status ≠ 0 then (g.status, g.code) else (stDone, 0)
  (s.leave g).setGang { g.scrub with
    state := .retired, status := st, code := c, kill := none, chosen := [], saved := none, moulds := []
    barriers := List.replicate 16 {}, ladle := [], seq := [], casterTl := {}, slots := [], bankPhys := [], held := [], reload := [] }

/-- GANG_RETIRE (R79). -/
def execGangRetire (t g : Nat) (s : State) : Result :=
  .next (match s.gang? t g with
    | none => s
    | some x => (if s.gangDone x then s.retireGang x else s).settleTask t)

end Sys2Proof.Machine
end

