-- ==== Sys2Proof/Machine/Host.lean ====
section
/-! DEFINITION. The command aperture (R45–R48), the packets hosts commit (R49–R57) and contexts (R66–R69). -/

namespace Sys2Proof.Machine

/-- ACCEPTED (R48). -/
def hsAccepted : Nat := 0
/-- QUEUE_FULL. -/
def hsQueueFull : Nat := 1
/-- MALFORMED. -/
def hsMalformed : Nat := 2
/-- DENIED. -/
def hsDenied : Nat := 3
/-- NO_CONTEXT. -/
def hsNoContext : Nat := 4
/-- OVER_QUOTA. -/
def hsOverQuota : Nat := 5

/-- A privileged host, or privileged code of a package of the domain, this one among them, which writes with its rights (R29,
R49). -/
def State.privEp (s : State) (ep : Nat) : Bool := s.privileged.contains ep || ep == s.ownId || s.packages.contains ep

/-- The access completes with this status (R30). -/
def State.status (s : State) (st : Nat) : State := { s with hostStatus := st }

/-- The number of the control window (R45). -/
def controlWindow : Nat := 64

/-- Staging areas with every area whose last write is 1 ms old freed (R47). -/
def freshAreas (now : Nat) (t : Table (List Staging)) : Table (List Staging) :=
  t.filterMap fun (w, l) =>
    let l := l.filter fun a => decide (now < a.last + 1000000)
    if l = [] then none else some (w, l)

/-- A staging write (R46, R47). An area whose time has passed is freed first. -/
def State.stage (s : State) (ep win off : Nat) (data : Bytes) : State :=
  let n := data.length
  let s : State := { s with staging := freshAreas s.now s.staging }
  if !s.start.ready then s.status hsQueueFull
  else if controlWindow < win ∨ n < 8 ∨ 64 < n ∨ n % 8 ≠ 0 ∨ off % 8 ≠ 0 ∨ 0x100 < off + n then s.status hsMalformed
  else
    let l := s.staging.get [] win
    match l.find? (·.ep == ep) with
    | some a =>
      let l : List Staging := l.map fun x => if x.ep == ep then { a with bytes := putBytes a.bytes off data, last := s.now } else x
      ({ s with staging := s.staging.set [] win l } : State).status hsAccepted
    | none =>
      if 8 ≤ l.length then s.status hsQueueFull
      else
        let l := l ++ [{ ep := ep, bytes := putBytes [] off data, last := s.now }]
        ({ s with staging := s.staging.set [] win l } : State).status hsAccepted

/-- STAGING_WRITE (R46, R47). -/
def execStagingWrite (ep win off : Nat) (data : Bytes) (s : State) : Result := .next (s.stage ep win off data)

/-- STAGING_AREA_TIMEOUT (R47): every area whose last write is 1 ms old. -/
def execStagingAreaTimeout (s : State) : Result :=
  .next { s with staging := freshAreas s.now s.staging }

/-- The bytes an endpoint has staged in a window within the last 1 ms; bytes not written read zero (R47). -/
def State.staged (s : State) (ep win : Nat) : Bytes :=
  match ((freshAreas s.now s.staging).get [] win).find? (·.ep == ep) with
  | some a => getBytes a.bytes 0 0x100
  | none => List.replicate 0x100 0

/-- A commit frees the endpoint's area (R47, R48). -/
def State.freeArea (s : State) (ep win : Nat) : State :=
  { s with staging := s.staging.set [] win ((s.staging.get [] win).filter (·.ep != ep)) }

/-- The body length of a packet type (R49). -/
def bodyBytes : Nat → Option Nat
  | 1 => some 128 | 2 => some 32 | 3 => some 16 | 4 => some 32 | 5 => some 32 | 6 => some 16 | 7 => some 32 | 8 => some 64
  | _ => none

/-- Whether a range of a packet is zero. -/
def zeroAt (bs : Bytes) (off n : Nat) : Bool := decide (fieldAt bs off n = 0)

/-- The header's own checks (R46, R49, R50). -/
def headerLegal (raw : Bytes) (win len : Nat) : Bool :=
  let ty := fieldAt raw 0 1
  let fl := fieldAt raw 1 1
  let nt := fieldAt raw 8 8
  match bodyBytes ty with
  | none => false
  | some n =>
    decide (len = 32 + n) && decide (fieldAt raw 4 2 = n) && decide (fl < 4) && decide (fieldAt raw 2 1 < 64)
      && zeroAt raw 3 1 && zeroAt raw 0x10 16
      && (if ty ≤ 4 then decide (win < 64) else win == controlWindow)
      && (if bitOf fl 0 then decide (nt ≠ 0) && decide (nt % (if ty = 8 then 64 else 32) = 0) else decide (nt = 0))
      && (ty != 8 || bitOf fl 0)

/-- A packet body's own checks (R53–R57, R66–R69). -/
def State.bodyLegal (s : State) (ty ctx : Nat) (b : Bytes) : Bool :=
  let f := fieldAt b
  match ty with
  | 1 => s.launchLegal b
  | 2 => decide (f 0 8 % 32 = 0) && decide (1 ≤ f 8 4) && decide (f 8 4 ≤ 2 ^ 20) && decide (1 ≤ f 12 4)
      && decide (f 12 4 ≤ f 8 4) && decide (f 16 8 % 4 = 0) && zeroAt b 24 8
  | 3 => decide (f 0 2 < 16) && decide (f 2 1 < 2) && zeroAt b 3 13
  | 4 => decide (f 0 2 < 16) && zeroAt b 2 6 && zeroAt b 0x18 8
  | 5 =>
    let sub := f 0 1
    zeroAt b 7 1 && zeroAt b 0x0C 4 && zeroAt b 0x18 8 &&
    (if sub = 1 then zeroAt b 1 3 && decide (f 4 2 < 1024) && decide (f 6 1 < 4) && decide (f 0x10 8 % 4096 = 0)
        && (s.ctx? ctx).isNone
     else if sub = 2 then zeroAt b 1 31
     else if sub = 3 then decide (f 1 1 < 64) && decide (f 2 1 < 4) && zeroAt b 4 28
     else if sub = 4 then decide (f 1 1 < 64) && zeroAt b 2 30
     else false)
  | 6 => decide (f 0 2 ≤ 1024) && zeroAt b 2 2 && decide (f 4 4 ≤ 131072) && zeroAt b 8 8
  | 7 => decide (f 0 1 < 8) && zeroAt b 1 7 && zeroAt b 24 8
  | _ => true

/-- The status of a commit, the first cause that applies (R48, R49, R67). -/
def State.commitStatus (s : State) (ep win len : Nat) : Nat :=
  let raw := s.staged ep win
  let ty := fieldAt raw 0 1
  let ctx := fieldAt raw 2 1
  let body := (raw.take len).drop 32
  let create := ty == 5 && fieldAt body 0 1 == 1
  if !s.start.ready then hsQueueFull
  else if !(headerLegal raw win len) || !(s.bodyLegal ty ctx body) then hsMalformed
  else if (s.ctx? ctx).isNone && !create then hsNoContext
  else
    let owner := (s.ctx? ctx).map (·.owner)
    let other := match (s.queue (fieldAt body 1 1)).bound with
      | some c => c != ctx
      | none => false
    if (decide (5 ≤ ty) && decide (ty ≤ 7) && !(s.privEp ep)) || (!(s.privEp ep) && owner != some ep && !create)
        || (decide (ty ≤ 4) && (s.queue win).bound != some ctx)
        || (ty == 5 && (fieldAt body 0 1 == 3 || fieldAt body 0 1 == 4) && other) then hsDenied
    else if decide (ty ≤ 4) && decide (64 ≤ (s.queue win).pending.length) then hsQueueFull
    else if ty == 1 && decide (((s.ctx? ctx).map (·.quotaCluster)).getD 0 < fieldAt body 0x60 2) then hsOverQuota
    else hsAccepted

/-- The packet of a commit. -/
def stagedPacket (raw : Bytes) (len : Nat) : Packet :=
  { kind := fieldAt raw 0 1, ctx := fieldAt raw 2 1, tag := fieldAt raw 6 2
    notify := if bitOf (fieldAt raw 1 1) 0 then some (BitVec.ofNat 64 (fieldAt raw 8 8)) else none
    ordered := bitOf (fieldAt raw 1 1) 1, body := (raw.take len).drop 32 }

/-- A commit of a packet of this type: its status, and `f` when it is accepted. A staged packet of another type
is not this step. -/
def State.commit (s : State) (ep win len ty : Nat) (f : State → Packet → State) : State :=
  let raw := s.staged ep win
  if fieldAt raw 0 1 ≠ ty then s
  else
    let st := s.commitStatus ep win len
    let s := if s.start.ready then s.freeArea ep win else s
    (if st = hsAccepted then f s (stagedPacket raw len) else s).status st

/-- Enter a packet into its queue (R51). -/
def State.enqueue (s : State) (q : Nat) (p : Packet) : State :=
  let qq := s.queue q
  s.setQueue q { qq with pending := qq.pending ++ [p] }

/-- A committed LAUNCH (R56, R60). -/
def State.commitLaunch (s : State) (ep win len : Nat) : State :=
  s.commit ep win len 1 fun s p => (s.acceptLaunch win p).1

/-- HOST_LAUNCH (R56). -/
def execHostLaunch (ep win len : Nat) (s : State) : Result := .next (s.commitLaunch ep win len)

/-- A committed GRAPH (R55). -/
def State.commitGraph (s : State) (ep win len : Nat) : State := s.commit ep win len 2 fun s p => s.enqueue win p

/-- GRAPH (R55). -/
def execHostGraph (ep win len : Nat) (s : State) : Result := .next (s.commitGraph ep win len)

/-- A committed SIGNAL (R53). -/
def State.commitSignal (s : State) (ep win len : Nat) : State := s.commit ep win len 3 fun s p => s.enqueue win p

/-- SIGNAL (R53): entered into its queue; it takes its number when it starts. -/
def execHostSignal (ep win len : Nat) (s : State) : Result := .next (s.commitSignal ep win len)

/-- A committed WAIT (R54). -/
def State.commitWait (s : State) (ep win len : Nat) : State := s.commit ep win len 4 fun s p => s.enqueue win p

/-- WAIT (R54). -/
def execHostWait (ep win len : Nat) (s : State) : Result := .next (s.commitWait ep win len)

/-! ### Contexts -/

/-- A committed CONTEXT packet of one sub-command; its notify record follows at once (R61). -/
def State.commitCtx (s : State) (ep win len sub : Nat) (f : State → Packet → State) : State :=
  if fieldAt (s.staged ep win) 0x20 1 ≠ sub then s
  else s.commit ep win len 5 fun s p => (f s p).packetDone p stDone 0

/-- CREATE of a context (R67). -/
def State.createCtx (s : State) (p : Packet) : State :=
  let f := fieldAt p.body
  { s.setCtx p.ctx (some { owner := f 4 2, tenant := f 8 4, debuggable := bitOf (f 6 1) 0, retain := bitOf (f 6 1) 1,
                           root := BitVec.ofNat 64 (f 0x10 8) }) with
    notifyLost := s.notifyLost.set 0 p.ctx 0 }

/-- A committed CREATE. -/
def State.commitCreate (s : State) (ep win len : Nat) : State := s.commitCtx ep win len 1 State.createCtx

/-- CREATE (R67). -/
def execCreate (ep win len : Nat) (s : State) : Result := .next (s.commitCreate ep win len)

/-- Every packet pending in a queue completes with ABANDONED (R67). -/
def State.abandonQueue (s : State) (q : Nat) : State :=
  let ps := (s.queue q).pending
  let s := s.setQueue q { s.queue q with pending := [] }
  ps.foldl (fun s p =>
    let s := s.packetDone p stAbandoned 0
    if p.kind = 1 then s.endNodes p.ctx p.body p.node stAbandoned else s) s

/-- Release a queue; its charge is reset, with what its resident gangs have run up (R67, R80). UNBIND of a queue that is bound to
no context is ACCEPTED and finds nothing to release: the manual does not say (log 109). -/
def State.unbind (s : State) (q : Nat) : State :=
  let s := s.abandonQueue q
  let qq := s.queue q
  s.setQueue q { qq with bound := none, cls := 0, weight := 0, charge := 0 }

/-- Remove an ingot's watches (R185). -/
def State.unwatch (s : State) (c i : Nat) : State :=
  { s with dies := s.dies.map fun d =>
      { d with watches := d.watches.filterMap fun (g, l) =>
          let l := l.filter (· != (c, i))
          if l = [] then none else some (g, l) } }

/-- Whether an MMA of a context's gang uses an ingot (R241), some gangs left out. -/
def State.ingotBusy (s : State) (c i : Nat) (ign : List (Nat × Nat) := []) : Bool :=
  s.gangs.any fun g => ((s.task? g.task).map (·.ctx)) == some c && !(ign.contains (g.task, g.index)) &&
    g.seq.any fun o => o.kind == 0 && o.checked && o.ingot == i

/-- Free a revoked record that no MMA uses: its planes go and GEN rises (R239, R241). -/
def State.freeIngot (s : State) (c i : Nat) : State :=
  if (s.ingot c i).state = .revoked ∧ !(s.ingotBusy c i) then
    s.mapIngot c i fun g => { gen := if g.gen ≥ 65535 then 1 else g.gen + 1 }
  else s

/-- A load ends without its planes: its number counts as performed and its operation completes (R241, R107). -/
def State.dropLoad (s : State) (c i : Nat) : State :=
  match (s.ingot c i).load with
  | none => s
  | some (t, g, _, id, n) =>
    let s := s.mapIngot c i fun x => { x with load := none, loadStale := false }
    if id = 0 then s
    else
      (s.mapGang t g fun x => { x with casterTl := x.casterTl.perform n }).completeOp id

/-- Move an ingot to REVOKED (R241, R407): its watches are removed and its planes go once no MMA uses it. -/
def State.revokeIngot (s : State) (c i : Nat) : State :=
  if (s.ingot c i).state = .free ∨ (s.ingot c i).state = .revoked then s
  else (((s.unwatch c i).dropLoad c i).mapIngot c i fun g => { g with state := .revoked }).freeIngot c i

/-- Every ingot of a context is revoked. -/
def State.revokeAll (s : State) (c : Nat) : State :=
  match s.ctx? c with
  | none => s
  | some x => x.ingots.foldl (fun s (i, _) => s.revokeIngot c i) s

/-- A task ends: its operations leave (R60, R61). -/
def State.cutOps (s : State) (t : Nat) : State := s.orphanOps fun r => (refGang r).map (·.1) == some t

/-- Stop a task at once: its gangs retire and it completes (R20, R67), a quench under way included; no fault is attributed to it
any more. -/
def State.stopTask (s : State) (t status : Nat) : State :=
  let s := s.mapTask t fun k => { k with quench := none, kill := some (status, 0), gone := true }
  let s : State := { s.killTask t status 0 with imprecise := s.imprecise.filter fun m => (refGang m.wave).map (·.1) != some t }
  let s := s.cutOps t
  ((s.gangsOf t).foldl (fun s g => if g.state = .retired then s else s.retireGang g) s).settleTask t

/-- The runner's copies of a queue's graph end with it; their numbers count as performed (R88). -/
def State.dropCopies (s : State) (q : Nat) : State :=
  let cs := (((s.queue q).graph).map (·.copies)).getD []
  let s := cs.foldl (fun s x => s.mapDie (x.2.1 / 32) fun d => { d with runner := d.runner.perform x.2.2.n }) s
  { s with ops := s.ops.filter fun o => (o.node.map (·.1)) != some q }

/-- A queue's started WAIT and its graph end when their context goes (R67). They are neither pending packets nor tasks: that the
WAIT is ABANDONED and the graph KILLED is the model's choice (log 110). -/
def State.endQueue (s : State) (q : Nat) : State :=
  let qq := s.queue q
  let s := s.dropCopies q
  let s := s.setQueue q { qq with waiting := none, graph := none }
  let s := match qq.waiting with
    | some (p, _) => s.packetDone p stAbandoned 0
    | none => s
  match qq.graph with
  | some g => s.packetDone g.packet stKilled 0
  | none => s

/-- The queues bound to a context. -/
def State.queuesOf (s : State) (c : Nat) : Nats := (upto 64).filter fun q => (s.queue q).bound == some c

/-- DESTROY of a context, in the order of R67. -/
def State.destroyCtx (s : State) (c : Nat) : State :=
  let qs := s.queuesOf c
  let s := qs.foldl State.abandonQueue s
  let s := (s.tasks.filter fun t => t.ctx == c && t.status == 0).foldl (fun s t => s.stopTask t.id stKilled) s
  let mine := fun (t : Nat) => ((s.task? t).map (·.ctx)) == some c
  let s : State := { s with
    tasks := s.tasks.map fun t => if t.ctx == c then { t with gone := true, numberDue := false } else t
    notices := (s.notices.filter fun x => !(x.ctx == c && x.after)).map fun x => if x.ctx = c then { x with timeline := none } else x
    imprecise := s.imprecise.filter fun m => !(((refGang m.wave).map fun x => mine x.1).getD false) }
  let s := s.revokeAll c
  let s := qs.foldl (fun s q => (s.endQueue q).unbind q) s
  let forget := fun (k : Cluster) => { k with icache := k.icache.filter (·.ctx != c) }
  let s := s.dropTlbs (·.ctx == c)
  let s := { s with
    dirs := s.dirs.filter (·.ctx != c)
    profs := s.profs.set {} c {}
    clusters := s.clusters.map fun (i, k) => (i, forget k) }
  s.setCtx c none

/-- A committed DESTROY. -/
def State.commitDestroy (s : State) (ep win len : Nat) : State :=
  s.commitCtx ep win len 2 fun s p => s.destroyCtx p.ctx

/-- DESTROY (R67). -/
def execDestroy (ep win len : Nat) (s : State) : Result := .next (s.commitDestroy ep win len)

/-- A committed BIND. -/
def State.commitBind (s : State) (ep win len : Nat) : State :=
  s.commitCtx ep win len 3 fun s p =>
    let q := fieldAt p.body 1 1
    let qq := s.queue q
    s.setQueue q { qq with bound := some p.ctx, cls := fieldAt p.body 2 1, weight := fieldAt p.body 3 1
                           boundAt := if qq.bound.isSome then qq.boundAt else s.now }

/-- BIND (R67). -/
def execBindQueue (ep win len : Nat) (s : State) : Result := .next (s.commitBind ep win len)

/-- A committed UNBIND. -/
def State.commitUnbind (s : State) (ep win len : Nat) : State :=
  s.commitCtx ep win len 4 fun s p => s.unbind (fieldAt p.body 1 1)

/-- UNBIND (R67). -/
def execUnbindQueue (ep win len : Nat) (s : State) : Result := .next (s.commitUnbind ep win len)

/-- A committed QUOTA (R68). -/
def State.commitQuota (s : State) (ep win len : Nat) : State :=
  s.commit ep win len 6 fun s p =>
    (s.mapCtx p.ctx fun c => { c with quotaCluster := fieldAt p.body 0 2, quotaPackage := fieldAt p.body 4 4 }).packetDone p stDone 0

/-- QUOTA (R68). -/
def execQuota (ep win len : Nat) (s : State) : Result := .next (s.commitQuota ep win len)

/-- A committed LIMITS (R69). -/
def State.commitLimits (s : State) (ep win len : Nat) : State :=
  s.commit ep win len 7 fun s p =>
    let f := fieldAt p.body
    (s.mapCtx p.ctx fun c =>
      { c with limits := { side := bitOf (f 0 1) 0, lower := bitOf (f 0 1) 1, carry := bitOf (f 0 1) 2
                           timeNs := f 8 8, energyUj := f 0x10 8 } }).packetDone p stDone 0

/-- LIMITS (R69). -/
def execLimits (ep win len : Nat) (s : State) : Result := .next (s.commitLimits ep win len)

end Sys2Proof.Machine
end

