-- ==== Sys2Proof/Machine/Liveness.lean ====
section
/-! DEFINITION. Liveness entries (R113), as the image of a gang and a core dump read them. -/

namespace Sys2Proof.Machine

/-- Entry `i` of a task's liveness table; `none` where a full save stands in for it (R113). -/
def State.liveEntry (s : State) (k : Task) (i : Option Nat) : Option Bytes :=
  match i with
  | none => none
  | some i =>
    if k.liveness = 0 ∨ Config.liveEntries k.liveness ≤ i then none
    else match s.runnerRead k.ctx (k.liveness + 64 * i) 64 with
      | none => none
      | some b => if byteAt b 0x25 < 16 ∧ fieldAt b 0x26 2 = 0 ∧ fieldAt b 0x2C 20 = 0 then some b else none

/-- The indices below `n` that a bit field of an entry names; all of them in a full save. -/
def livePick (e : Option Bytes) (off bytes n : Nat) : Nats :=
  match e with
  | none => upto n
  | some b => bitsBelow n (fieldAt b off bytes)

/-- The scratch slots that an entry names, of `n`: first and count. -/
def liveSlots (e : Option Bytes) (n : Nat) : Nat × Nat :=
  match e with
  | none => (0, n)
  | some b => (fieldAt b 0x28 2, min (fieldAt b 0x2A 2) (n - fieldAt b 0x28 2))

end Sys2Proof.Machine
end

