-- ==== Sys2Proof/Machine/Monitor.lean ====
section
/-! DEFINITION. The debug monitor (R266–R269, R273, R462–R464): sessions and their event ring, the messages that
MAILBOX packets carry (R70), and dumps. -/

namespace Sys2Proof.Machine

/-! ### Reply statuses (R268) -/

/-- OK. -/
def monOk : Nat := 0
/-- BAD_MESSAGE. -/
def monBad : Nat := 1
/-- NO_TARGET. -/
def monNoTarget : Nat := 2
/-- REFUSED. -/
def monRefused : Nat := 3
/-- NOT_HALTED. -/
def monNotHalted : Nat := 4
/-- ACCESS_FAULT. -/
def monAccess : Nat := 5
/-- NO_SESSION. -/
def monNoSession : Nat := 6

/-! ### Targets -/

/-- The gangs and paths that a message names (R266). -/
structure Target where
  gangs : List (Nat × Nat)
  paths : List (WaveRef × Nat)
deriving DecidableEq, Repr

/-- The paths of a wave that are not FREE. -/
def State.pathsOf (s : State) (r : WaveRef) : List (WaveRef × Nat) :=
  match s.wave? r with
  | some w => ((upto 8).filter fun p => (w.path p).state != .free).map fun p => (r, p)
  | none => []

/-- Every wave of a gang and its caster thread. -/
def Gang.refs (g : Gang) : List WaveRef :=
  (upto g.waves.length).map (fun i => .user g.task g.index i) ++ [.caster g.task g.index]

/-- The waves of one gang that a message of scope 0 to 2 names. -/
def State.waveRefs (s : State) (m : Bytes) (g : Gang) : List WaveRef :=
  let per := max (((s.task? g.task).map Task.waves).getD 1) 1
  let grp := byteAt m 0x0C
  let slot := byteAt m 0x0D
  if byteAt m 3 = 2 then ((upto g.waves.length).filter fun i => i / per == grp).map fun i => .user g.task g.index i
  else if 0x80 ≤ slot then (if slot - 0x80 = g.thread then [.caster g.task g.index] else [])
  else ((upto g.waves.length).filter fun i => i / per == grp && nth 0 g.slots i == slot).map fun i => .user g.task g.index i

/-- Find the target of a message in context `c` (R266, R268). -/
def State.target (s : State) (c : Nat) (m : Bytes) : Option Target :=
  let t := fieldAt m 4 4
  match s.task? t with
  | none => none
  | some k =>
    if k.ctx ≠ c ∨ k.status ≠ 0 then none
    else
      let gs := (s.gangsOf t).filter fun g => g.state != .retired && (byteAt m 3 == 4 || g.index == fieldAt m 8 4)
      let rs := if 3 ≤ byteAt m 3 then gs.flatMap Gang.refs else gs.flatMap (s.waveRefs m)
      let ps := (rs.flatMap s.pathsOf).filter fun x => byteAt m 3 != 0 || x.2 == byteAt m 0x0E
      if gs = [] ∨ rs = [] ∨ (byteAt m 3 = 0 ∧ ps = []) then none
      else some { gangs := gs.map fun g => (g.task, g.index), paths := ps }

/-! ### The event ring and replies -/

/-- The header bytes 0x03 to 0x0F that name a path (R266). -/
def State.header (s : State) (r : WaveRef) (p : Nat) : Bytes :=
  let (t, g) := (refGang r).getD (0, 0)
  let x := s.gang? t g
  let per := max (((s.task? t).map Task.waves).getD 1) 1
  let slot := if refCaster r then 0x80 + (x.map (·.thread)).getD 0 else nth 0 ((x.map (·.slots)).getD []) (refWave r)
  [0] ++ leBytes 4 t ++ leBytes 4 g ++ leBytes 1 (if refCaster r then 0 else refWave r / per) ++ leBytes 1 slot
    ++ leBytes 1 p ++ [0]

/-- Write a message into the context's ring (R267): its bytes 0x28 to 0x2B receive the ring sequence number. -/
def State.ringPut (s : State) (c : Nat) (bs : Bytes) (opId : Nat := 0) : State :=
  match (s.ctx? c).bind (·.session) with
  | none => s
  | some x =>
    let bs := bs.take 0x28 ++ leBytes 4 x.seq ++ bs.drop 0x2C
    let s := match s.agentPut { ctx := c } (x.ring.toNat + 64 * ((x.seq - 1) % max x.entries 1)) bs opId with
      | .ok s' => s'
      | .error _ => s
    s.mapCtx c fun k => { k with session := some { x with seq := (x.seq + 1) % 2 ^ 32 } }

/-- Write an EVENT into the context's ring (R267): `head` is bytes 0x03 to 0x0F, `pay` the payload. -/
def State.event (s : State) (c : Nat) (head pay : Bytes) (opId : Nat := 0) : State :=
  s.ringPut c (leBytes 3 0x40 ++ head ++ pay) opId

/-- An EVENT of a kind that R267 lists and for which no rule gives the moment: 2, a halt, and 3, a breakpoint. Whether the
monitor writes it is the device's free choice (log 23). -/
def State.mayEvent (s : State) (c : Nat) (head pay : Bytes) : State :=
  if ((s.ctx? c).bind (·.session)).isNone then s
  else
    let t : State := { s with fresh := s.fresh + 1 }
    if Config.freeChoice s.fresh then t.event c head pay else t

/-- The payload of an EVENT about a fault, a halt or a dump (R267). -/
def eventPayload (kind code pc addr : Nat) : Bytes :=
  leBytes 1 kind ++ leBytes 1 code ++ leBytes 6 0 ++ leBytes 8 pc ++ leBytes 8 addr ++ leBytes 24 0

/-- Write the reply to a message (R70, R266). -/
def State.reply (s : State) (c : Nat) (q : MailReq) (st : Nat) (pay : Bytes) : State :=
  let m := q.message
  let bs := leBytes 1 (byteAt m 0 + 0x80) ++ leBytes 1 (byteAt m 1) ++ leBytes 1 st ++ (m.drop 3).take 13
    ++ (pay ++ leBytes 48 0).take 48
  s.sendRecord c 0 q.notify bs true

/-! ### Messages -/

/-- Bytes of a payload that a message type names (R267); the others are reserved. -/
def payloadNamed (ty i : Nat) : Bool :=
  match ty with
  | 2 => i == 0
  | 4 => decide (i < 3)
  | 5 => decide (i < 3) || (decide (8 ≤ i) && decide (i < 40))
  | 6 => decide (i < 9)
  | 7 => decide (i < 2) || (decide (8 ≤ i) && decide (i < 16))
  | 8 => decide (i < 16)
  | 9 => decide (i < 9)
  | _ => false

/-- A message holds no unknown type and no reserved field or value (R266–R268). -/
def messageLegal (m : Bytes) : Bool :=
  let ty := byteAt m 0
  let pay := fun i => byteAt m (0x10 + i)
  decide (1 ≤ ty) && decide (ty ≤ 10) && byteAt m 2 == 0 && decide (byteAt m 3 ≤ 4) && byteAt m 0x0F == 0
    && ((upto 48).all fun i => payloadNamed ty i || pay i == 0)
    && (match ty with
      | 2 => decide (pay 0 ≤ 6) || pay 0 == 0xFF
      | 4 => decide (pay 0 ≤ 5)
      | 5 => decide (pay 0 ≤ 5)
      | 6 => decide (1 ≤ pay 8) && decide (pay 8 ≤ 32)
      | 7 => decide (pay 0 < 8) && decide (pay 1 < 2) && decide (fieldAt m 0x18 8 % 4 = 0)
      | 8 => decide (fieldAt m 0x10 8 % 8 = 0)
      | 9 => decide (fieldAt m 0x10 8 % 64 = 0) && decide (2 ≤ pay 8)
          && decide (pay 8 ≤ 255)
      | _ => true)

/-- The monitor serves a context (R273). -/
def State.served (s : State) (x : Context) : Bool :=
  s.start.lifecycle == 1 || x.debuggable || (s.security.tokenActive && bitOf s.security.tokenMask 0)

/-- HALT (R263, R267): the state, and how many paths it newly stopped. -/
def State.haltTarget (s : State) (whole : Bool) (t : Target) : State × Nat :=
  let n := (t.paths.filter fun x => (s.pathAt x).state != .halted).length
  if whole then (t.gangs.foldl (fun s g => s.haltGang g.1 g.2) s, n)
  else
    let pend := fun (s : State) (x : WaveRef × Nat) =>
      (s.cores.map (·.1)).foldl (fun s c =>
        let k := s.core c
        match k.serving.bind fun i => (k.records.get none i).map fun r => (i, r) with
        | some (i, r) =>
          if r.wave == x.1 && r.pathIx == x.2 then
            s.setCore c { k with haltPath := some x, records := k.records.set none i (some { r with haltPending := true }) }
          else s
        | none => s) s
    let stop := fun (s : State) (x : WaveRef × Nat) =>
      let s := s.mapPath x Path.halt
      match x.1 with
      | .caster a b => s.mapGang a b fun g => { g with seq := g.seq.map SeqOp.stop, reload := [] }
      | _ => s
    (t.paths.foldl (fun s x => pend (stop s x) x) s, n)

/-- Some path of a gang is halted. -/
def Gang.anyHalted (g : Gang) : Bool := (g.caster :: g.waves).any fun w => w.paths.any (·.state == .halted)

/-- A halt of the target that pends with a handler, or that its wave has taken, is lifted (R263, R267). -/
def State.resumeHandler (s : State) (whole : Bool) (t : Target) (c : Nat) : State :=
  let k := s.core c
  match k.serving.bind fun i => (k.records.get none i).map fun r => (i, r) with
  | some (i, r) =>
    let gang := whole && (match refGang r.wave with
      | some g => t.gangs.contains g
      | none => false)
    if gang || t.paths.contains (r.wave, r.pathIx) then
      let still := k.haltPending && !gang
      s.setCore c { k with haltPending := still, haltPath := none, wave := k.wave.map (·.mapPaths Path.resume)
                           records := k.records.set none i (some { r with haltPending := still }) }
    else s
  | none => s

/-- RESUME (R251, R267): the disposition of each HOLD of the target, then the halt is lifted. -/
def State.resumeTarget (s : State) (whole : Bool) (t : Target) (disp : Nat) : State :=
  let mine := fun (r : FaultRec) => t.paths.any fun x => x.1 == r.wave && x.2 == r.pathIx
  let s := if disp = 0xFF then s else t.gangs.foldl (fun s g =>
    match s.gang? g.1 g.2 with
    | none => s
    | some x =>
      let rs := x.held.filter mine
      let s := s.mapGang g.1 g.2 fun y => { y with held := y.held.filter fun r => !(mine r) }
      rs.foldl (fun s r => s.applyDisposition r disp) s) s
  let s := if whole then t.gangs.foldl (fun s g => s.mapGang g.1 g.2 Gang.resume) s
    else
      let s := t.paths.foldl (fun s x => s.mapPath x Path.resume) s
      t.gangs.foldl (fun s g => s.mapGang g.1 g.2 fun x => { x with halted := x.halted && x.anyHalted }) s
  (s.cores.map (·.1)).foldl (fun s c => s.resumeHandler whole t c) s

/-- The values that READREG reads: words with their poison, or the raw payload (R267); `none` for a class, index
or lane that names nothing. -/
def State.readReg (s : State) (x : WaveRef × Nat) (cls ix first : Nat) : Option Bytes :=
  match s.env? x.1 x.2 with
  | none => none
  | some e =>
    let w := e.w
    let words := fun (l : List RegVal) =>
      some ((l.flatMap (fun v => leBytes 4 v.bits.toNat) ++ leBytes 47 0).take 47
        ++ leBytes 1 (maskOf ((upto l.length).filter fun i => (nth {} l i).poison)))
    match cls with
    | 0 => if ix < 16 * e.blocks ∧ first < 32 then words (((upto 8).filter fun i => decide (first + i < 32)).map fun i => w.getV ix (first + i)) else none
    | 1 => if ix < 48 ∧ first < 8 then words (((upto 8).filter fun i => decide (first + i < 8)).map fun i => w.getS ix (first + i)) else none
    | 2 => if ix < 16 then words [{ bits := w.pred ix }] else none
    | 3 => match s.special e ix first with
      | .ok (v, n) => words ((upto n).map fun i => { bits := BitVec.ofNat 32 (v / 2 ^ (32 * i)) })
      | .error _ => none
    | 4 =>
      if ix < 4 ∧ first < 32 ∧ !e.caster then
        let v := w.getX ix first
        some (leBytes 40 v.S.toNat ++ leBytes 2 v.E.toNat ++ leBytes 5 0 ++ leBytes 1 v.poison.toNat)
      else none
    | _ => some (e.path.record e.p)

/-- WRITEREG (R267): of vectors, scalars and predicates up to 8 words from the named lane or slice on; of an exact sum the low 32
bytes of S, which are all that the message carries (log 25). Each lane written loses its poison. Of the state numbers FLAGS and
PARTN are written, a reserved partition being a bad value (R131); the others and a path record are RO, and a write of them is
discarded (R5, R125, R324). -/
def State.writeReg (s : State) (x : WaveRef × Nat) (cls ix first : Nat) (vals : Bytes) : Option State :=
  match s.env? x.1 x.2 with
  | none => none
  | some e =>
    let v := fun i => (BitVec.ofNat 32 (fieldAt vals (4 * i) 4) : Word)
    match cls with
    | 0 =>
      if ix < 16 * e.blocks ∧ first < 32 then
        some (s.setWave x.1 (((upto 8).filter fun i => decide (first + i < 32)).foldl (fun w i => w.setV ix (first + i) { bits := v i }) e.w))
      else none
    | 1 =>
      if ix < 48 ∧ first < 8 then
        some (s.setWave x.1 (((upto 8).filter fun i => decide (first + i < 8)).foldl (fun w i => w.setS ix (first + i) { bits := v i }) e.w))
      else none
    | 2 => if ix < 16 then some (s.setWave x.1 (e.w.setPred ix 0xFFFFFFFF (v 0))) else none
    | 3 =>
      if ix = 5 ∧ !e.caster then some (s.mapPath x fun p => { p with sticky := BitVec.ofNat 9 (v 0).toNat })
      else if ix = 10 ∧ !e.caster then
        (if 1 ≤ (v 0).toNat ∧ (v 0).toNat ≤ 5 then some (s.setWave x.1 { e.w with partn := (v 0).toNat }) else none)
      else if (s.special e ix first).isOk then some s else none
    | 4 =>
      if ix < 4 ∧ first < 32 ∧ !e.caster then
        let y := e.w.getX ix first
        let S : BitVec 320 := BitVec.ofNat 320 (y.S.toNat / 2 ^ 256 * 2 ^ 256 + fieldAt vals 0 32)
        some (s.setWave x.1 (e.w.setX ix first { y with S := S, poison := false }))
      else none
    | _ => some s

/-! ### Dumps -/

/-- The words of a register list with their poison mask (R463). -/
def dumpRegs (l : List RegVal) : Bytes :=
  l.flatMap (fun v => leBytes 4 v.bits.toNat) ++ leBytes 4 (maskOf ((upto l.length).filter fun i => (nth {} l i).poison))

/-- The register section of a halted path (R463). -/
def dumpRegisters (e : Env) (g : Gang) (ent : Option Bytes) : Bytes :=
  let w := e.w
  let vecs := (livePick ent 0 24 (16 * e.blocks)).flatMap fun r => dumpRegs ((upto 32).map fun l => w.getV r l)
  let scas := (livePick ent 0x18 6 48).flatMap fun r => dumpRegs ((upto 8).map fun i => w.getS r i)
  let prds := (livePick ent 0x1E 2 16).filter (fun i => i != 0 || ent.isNone) |>.flatMap fun r => leBytes 4 (w.pred r).toNat
  let xs := (livePick ent 0x25 1 4).flatMap fun r =>
    ((upto 32).flatMap fun l => leBytes 40 (w.getX r l).S.toNat ++ leBytes 2 (w.getX r l).E.toNat ++ leBytes 6 0)
      ++ leBytes 4 (maskOf ((upto 32).filter fun l => (w.getX r l).poison))
  let tls := (livePick ent 0x20 4 g.tiles.length).flatMap fun i =>
    let t : Tile := nth {} g.tiles i
    leBytes 4 t.ctl.toNat ++ (upto 64).flatMap t.padRow
  let bks := (livePick ent 0x24 1 g.banks.length).flatMap fun i =>
    let b : Bank := nth {} g.banks i
    let f := fun (x : Flags) => (b.flags &&& x != 0).toNat
    ((upto 8192).flatMap fun k => leBytes 4 (b.elems.get 0 k).toNat) ++ leBytes 4 (8 * f fIV + 4 * f fOF + 2 * f fUF + f fNX)
  vecs ++ scas ++ prds ++ (if e.caster then [] else xs) ++ tls ++ bks

/-- A barrier is held while a party is halted (R265). -/
def Gang.barHeld (g : Gang) (b : Barrier) : Bool :=
  b.parties.any fun x => (nth {} g.waves x).paths.any (·.state == .halted)

/-- The sections of a dump in order (R269, R463): kind, first scratch slot, body. -/
def State.dumpSections (s : State) (e : Env) (g : Gang) (ent : Option Bytes) : List (Nat × Nat × Bytes) :=
  let (first, count) := liveSlots ent (s.scratchBytes g.task / 1024)
  let bars := g.barriers.flatMap fun b =>
    leBytes 1 ((g.barHeld b).toNat + 2 * b.abandoned.toNat) ++ leBytes 1 b.arrived.length ++ leBytes 1 (b.party.getD b.parties.length)
      ++ leBytes 1 0
  let own := ((upto g.tiles.length) ++ (upto g.banks.length).map (32 + ·)).map fun i =>
    let m : Mould := g.moulds.get {} i
    (i, ({ m with owned := true, owner := g.thread } : Mould))
  let shared := (s.cluster g.cluster).moulds.filter fun (_, m) => m.owned && m.owner == g.thread
  let mo := (own ++ shared).flatMap fun (i, m) => leBytes 4 i ++ leBytes 4 m.view
  [(1, 0, dumpRegisters e g ent), (2, first, getBytes g.scratch (1024 * first) (1024 * count)), (3, 0, bars), (4, 0, mo)]

/-- What a dump has done: the state, whole sections, bytes written, and how it was cut. -/
structure Dumped where
  s : State
  whole : Nat := 0
  total : Nat := 64
  cut : Bool := false
  fault : Option (Nat × Nat) := none

/-- Write units in order; the failed address and code. -/
def State.dumpUnits (s : State) (c opId va : Nat) : List Bytes → State × Option (Nat × Nat)
  | [] => (s, none)
  | u :: t =>
    match s.agentPut { ctx := c } va u opId with
    | .error code => (s, some (code, va))
    | .ok s' => s'.dumpUnits c opId (va + u.length) t

/-- Write sections until one would not fit or a write faults (R462, R464). -/
def dumpWrite (c opId buf cap : Nat) : List (Nat × Nat × Bytes) → Dumped → Dumped
  | [], d => d
  | (kind, first, body) :: t, d =>
    if d.cut ∨ d.fault.isSome then d
    else if cap < d.total + 16 + body.length then { d with cut := true }
    else
      let head := leBytes 2 kind ++ leBytes 2 0 ++ leBytes 4 body.length ++ leBytes 8 first
      let (s, f) := d.s.dumpUnits c opId (buf + d.total) (head :: pieces 8 (body.length + 1) body)
      match f with
      | some x => { d with s := s, fault := some x }
      | none => dumpWrite c opId buf cap t { d with s := s, whole := d.whole + 1, total := d.total + 16 + body.length }

/-- The header of a dump (R269). -/
def State.dumpHeader (s : State) (e : Env) (code pc : Nat) (flags whole total : Nat) : Bytes :=
  leBytes 4 0x504D4455 ++ leBytes 2 1 ++ leBytes 1 flags ++ leBytes 1 code ++ leBytes 4 e.task ++ leBytes 1 whole
    ++ leBytes 3 0 ++ leBytes 8 pc ++ e.path.record e.p ++ leBytes 8 s.now ++ leBytes 8 total

/-- The record of a fault that a DUMP's write raises (R255, R464): nested, with outer index 0xFE and the disposition SKIP. The PC
is the monitor's own, which the manual does not give (log 141). -/
def State.monitorFault (s : State) (core code addr : Nat) : FaultRec :=
  let pc : DWord := (Config.freeWord (s.fresh + 1)) ++ (Config.freeWord s.fresh)
  let f : Flt := { code := code, addr := BitVec.ofNat 64 addr }
  { code := code, nested := true, disposition := 1, core := core, pc := pc, addr := f.addr, outer := 0xFE
    path := ((handlerWave pc).holdAtFault 0 f).path 0, wave := .handler core, since := s.now }

/-- What step 6 of a DUMP leaves to be sent. -/
structure DumpEnd where
  s : State
  event : Option (Bytes × Bytes) := none
  status : Nat := monOk
  pay : Bytes := []
  nested : Option (Nat × Nat) := none

/-- Steps 3 to 5 of a DUMP for a halted path (R462, R464), with what step 6 sends; `none` where a write faults and no record place of
the core is free, so that the monitor is held (R254). -/
def State.dump (s : State) (c : Nat) (x : WaveRef × Nat) (opId buf cap : Nat) : Option DumpEnd :=
  match s.env? x.1 x.2 with
  | none => some { s := s, status := monNoTarget }
  | some e =>
    match s.gang? e.task e.gang, s.task? e.task with
    | some g, some k =>
      let ent := if e.caster then none else s.liveEntry k e.path.lastLive
      let held := g.held.find? fun r => r.wave == x.1 && r.pathIx == x.2
      let code := (held.map (·.code)).getD 0
      let pc := (held.map (·.pc.toNat)).getD e.pc.toNat
      let d : Dumped := match s.agentPut { ctx := c } buf (s.dumpHeader e code pc 0 0 0) opId with
        | .error f => { s := s, total := 0, fault := some (f, buf) }
        | .ok s' => dumpWrite c opId buf cap (s.dumpSections e g ent) { s := s' }
      let cut := d.cut || d.fault.isSome
      let finish := fun (s : State) (nested : Option (Nat × Nat)) =>
        let s := match s.agentPut { ctx := c } buf (s.dumpHeader e code pc cut.toNat d.whole d.total) opId with
          | .ok s' => s'
          | .error _ => s
        let ev := eventPayload 4 ((d.fault.map (·.1)).getD 0) pc ((d.fault.map (·.2)).getD 0)
        ({ s := s, event := if cut then some (s.header x.1 x.2, ev) else none
           status := if d.fault.isSome then monAccess else monOk
           pay := leBytes 8 d.total ++ leBytes 1 cut.toNat ++ leBytes 1 ((d.fault.map (·.1)).getD 0)
           nested := nested } : DumpEnd)
      match d.fault with
      | none => some (finish d.s none)
      | some (f, va) =>
        let kc := d.s.core e.core
        kc.freePlace.map fun i =>
          let t := d.s.setCore e.core { kc with records := kc.records.set none i (some (d.s.monitorFault e.core f va)) }
          finish { t with fresh := t.fresh + 2 } (some (e.core, i))
    | _, _ => some { s := s, status := monNoTarget }

/-- What the monitor has done with a message: it is answered, or it is still being served. -/
inductive Served where
  | answered (s : State)
  | busy (s : State)

/-- Change the head message of a context. -/
def State.mapHead (s : State) (c : Nat) (f : MailReq → MailReq) : State :=
  s.mapCtx c fun k => { k with mailbox := match k.mailbox with
    | q :: t => f q :: t
    | [] => [] }

/-- Keep the head message of a context in service, with the numbers it waits for. -/
def State.keepServing (s : State) (c : Nat) (marks : Nats) : Served := .busy (s.mapHead c fun q => { q with marks := some marks })

/-- The writes of a DUMP that are not performed yet. -/
def State.dumpOpen (s : State) (q : MailReq) : Bool := q.opId != 0 && s.remote.any (·.opId == q.opId)

/-- Step 6 of a DUMP: its EVENT and then its reply leave as its writes before them are performed (R70, R267), and the place of its
nested record is free again. -/
def State.answerDump (s : State) (c : Nat) (q : MailReq) (a : Option (Bytes × Bytes) × Nat × Bytes) : Served :=
  if s.dumpOpen q then .busy s
  else
    let s := match q.nested with
      | some (k, i) => s.setCore k { s.core k with records := (s.core k).records.set none i none }
      | none => s
    match a with
    | (some (head, pay), st, bs) =>
      let s := s.event c head pay q.opId
      if s.dumpOpen q then .busy (s.mapHead c fun q => { q with nested := none, answer := some (none, st, bs) })
      else .answered (s.reply c q st bs)
    | (none, st, bs) => .answered (s.reply c q st bs)

/-- Serve the message at the head of a context's mailbox (R267, R462). -/
def State.serveMessage (s : State) (c : Nat) (x : Context) (q : MailReq) : Served :=
  let m := q.message
  let ty := byteAt m 0
  let pay := m.drop 0x10
  let done := fun (s : State) (st : Nat) (p : Bytes) => Served.answered (s.reply c q st p)
  match q.answer with
  | some a => s.answerDump c q a
  | none =>
  if !(messageLegal m) then done s monBad []
  else if ty = 9 then
    done (s.mapCtx c fun k => { k with session := some { ring := BitVec.ofNat 64 (fieldAt pay 0 8), entries := byteAt pay 8 } }) monOk []
  else if ty = 10 then
    done (s.mapCtx c fun k => { k with session := none }) (if x.session.isSome then monOk else monNoSession) []
  else if !(s.served x) then done s monRefused []
  else if x.session.isNone then done s monNoSession []
  else if ty = 6 then
    match s.agentGet { ctx := c } (fieldAt pay 0 8) (byteAt pay 8) with
    | .ok bs => done s monOk bs
    | .error code => done s monAccess (leBytes 32 0 ++ leBytes 1 code)
  else if ty = 7 then
    let v : DWord := if byteAt pay 1 = 1 then BitVec.ofNat 64 (fieldAt pay 8 8) else 0
    done (s.mapCtx c fun k => { k with breaks := k.breaks.set 0 (byteAt pay 0) v }) monOk []
  else match s.target c m with
    | none => done s monNoTarget []
    | some t =>
      let whole := decide (3 ≤ byteAt m 3)
      if ty = 1 then
        let (s, n) := s.haltTarget whole t
        let s := match t.paths with
          | (r, p) :: _ => s.mayEvent c (s.header r p) (eventPayload 2 0 (s.pathAt (r, p)).pc.toNat 0)
          | [] => s
        done s monOk (leBytes 4 n)
      else if ty = 2 then done (s.resumeTarget whole t (byteAt pay 0)) monOk []
      else match t.paths with
        | [] => done s monNotHalted []
        | p :: _ =>
          if ty = 3 ∧ q.marks.isSome then
            (if (s.pathAt p).stepping then .busy s else done s monOk (leBytes 8 (s.pathAt p).pc.toNat))
          else if !(t.paths.all fun y => (s.pathAt y).state == .halted) then done s monNotHalted []
          else if ty = 3 then
            (s.mapPath p fun y => { y with state := .run, wait := .none, haltedFrom := .run, stepping := true }).keepServing c []
          else if ty = 4 then
            match s.readReg p (byteAt pay 0) (byteAt pay 1) (byteAt pay 2) with
            | some bs => done s monOk bs
            | none => done s monBad []
          else if ty = 5 then
            match s.writeReg p (byteAt pay 0) (byteAt pay 1) (byteAt pay 2) (pay.drop 8) with
            | some s' => done s' monOk []
            | none => done s monBad []
          else
            let tls : List LadleQueue := match (refGang p.1).bind fun x => s.gang? x.1 x.2 with
              | some g => g.ladle
              | none => []
            let marks := q.marks.getD (tls.map (·.tl.taken))
            let drained := (upto tls.length).all fun i =>
              let l := (nth {} tls i).tl
              l.fenced || decide (nth 0 marks i ≤ l.reached)
            if !drained then s.keepServing c marks
            else match ({ s with nextId := s.nextId + 1 } : State).dump c p s.nextId (fieldAt pay 0 8) (fieldAt pay 8 8) with
              | none => s.keepServing c marks
              | some d =>
                let q := { q with opId := s.nextId, nested := d.nested, answer := some (d.event, d.status, d.pay) }
                if d.nested.isSome then .busy (d.s.mapHead c fun _ => q) else match d.s.answerDump c q (d.event, d.status, d.pay) with
                  | .busy t => .busy (t.mapHead c fun r => if r.answer.isSome then { r with opId := q.opId } else q)
                  | .answered t => .answered t

/-- Serve a context's messages in the order of their commits, one at a time (R462). -/
def State.pump (c : Nat) : Nat → State → State
  | 0, s => s
  | fuel + 1, s =>
    match s.ctx? c with
    | none => s
    | some x =>
      match x.mailbox with
      | [] => s
      | q :: _ =>
        match s.serveMessage c x q with
        | .busy s' => s'
        | .answered s' => (s'.mapCtx c fun k => { k with mailbox := k.mailbox.drop 1 }).pump c fuel

/-- Every context's messages that can be served now. -/
def State.pumpAll (s : State) : State :=
  (s.contexts.map (·.1)).foldl (fun s c => s.pump c (((s.ctx? c).map (·.mailbox.length)).getD 0)) s

/-- A committed MAILBOX of one message type (R70): it joins the context's messages. -/
def State.commitMail (s : State) (ep win len : Nat) : State :=
  s.commit ep win len 8 fun s p =>
    let s := s.mapCtx p.ctx fun k => { k with mailbox := k.mailbox ++ [{ notify := p.notify.getD 0, message := p.body.take 64 }] }
    s.pump p.ctx (((s.ctx? p.ctx).map (·.mailbox.length)).getD 0)

/-- A committed MAILBOX of message type `ty`. -/
def State.commitMessage (s : State) (ep win len ty : Nat) : State :=
  if fieldAt (s.staged ep win) 0x20 1 = ty then s.commitMail ep win len else s

/-- HALT (R267). -/
def execMonHalt (ep win len : Nat) (s : State) : Result := .next (s.commitMessage ep win len 0x01)

/-- RESUME (R267). -/
def execMonResume (ep win len : Nat) (s : State) : Result := .next (s.commitMessage ep win len 0x02)

/-- STEP (R267). -/
def execMonStep (ep win len : Nat) (s : State) : Result := .next (s.commitMessage ep win len 0x03)

/-- READREG (R267). -/
def execMonReadreg (ep win len : Nat) (s : State) : Result := .next (s.commitMessage ep win len 0x04)

/-- WRITEREG (R267). -/
def execMonWritereg (ep win len : Nat) (s : State) : Result := .next (s.commitMessage ep win len 0x05)

/-- READMEM (R267). -/
def execMonReadmem (ep win len : Nat) (s : State) : Result := .next (s.commitMessage ep win len 0x06)

/-- SETBP (R267). -/
def execMonSetbp (ep win len : Nat) (s : State) : Result := .next (s.commitMessage ep win len 0x07)

/-- DUMP (R462). -/
def execMonDump (ep win len : Nat) (s : State) : Result := .next (s.commitMessage ep win len 0x08)

/-- OPEN (R267). -/
def execMonOpen (ep win len : Nat) (s : State) : Result := .next (s.commitMessage ep win len 0x09)

/-- CLOSE (R267). -/
def execMonClose (ep win len : Nat) (s : State) : Result := .next (s.commitMessage ep win len 0x0A)

/-- A STEP ends (R267): every path it stepped stops again at its instruction boundary. -/
def Wave.endStep (w : Wave) : Wave :=
  w.mapPaths fun p =>
    if p.stepping ∧ p.state ≠ .blocked ∧ p.state ≠ .regang then { p.halt with stepping := false }
    else if p.stepping ∧ p.wait = .fault then { p.halt with stepping := false }
    else p

end Sys2Proof.Machine
end

