-- ==== Sys2Proof/Machine/Integer.lean ====
section
/-! DEFINITION. Integer, logic, shift and predicate instructions, opcodes 0x20–0x3D (R331–R344). -/

namespace Sys2Proof.Machine

/-- How every arithmetic entry runs (R333): T is checked, the fields resolved, and `g` applied to each
element in each lane or slice, with the MODE of the slice and the element's lane and index. -/
def aluOp (op : Nat) (accept : ETy → Bool) (d : Opd) (as : List Opd) (useD : Bool) (cls : Option Bool)
    (g : ETy → BitVec 24 → Nat → Nat → Nats → Nat × Flags) (s : State) : Result :=
  issue op s fun e => do
    let n ← e.types accept
    let dd ← e.dst d n
    let (xs, ls) ← e.srcs (as.map fun o => (o, n)) e.lits
    let xs := if useD then xs ++ [dd.src] else xs
    e.run s dd n (xs.map fun x => (x, n)) (e.used ls) cls fun L vs =>
      let t := e.ety (L / 4)
      let rs := (upto t.count).map fun i => g t (e.mode (L / 4)) L i (vs.map fun v => elemOf t.width v i)
      (packElems t.width (rs.map (·.1)), orFlags (rs.map (·.2)))

/-- An element as the integer its type reads (R338). -/
def ETy.int (t : ETy) (x : Nat) : Int := intOf t.width (t.intSigned == some true) x

/-- Fit(y) of R334 under the slice's SAT. -/
def fitT (t : ETy) (m : BitVec 24) (y : Int) : Nat × Flags :=
  fit t.width (t.intSigned == some true) (modeSAT m) y

/-- An integer entry that fits its exact result (R334). -/
def fitOp (op : Nat) (d a b : Opd) (useD : Bool) (f : Int → Int → Int → Int) (s : State) : Result :=
  aluOp op ETy.isInt d [a, b] useD none (fun t m _ _ vs =>
    fitT t m (f (t.int (nth 0 vs 0)) (t.int (nth 0 vs 1)) (t.int (nth 0 vs 2)))) s

/-- IADD (R338). -/
def execIadd (d a b : Opd) (s : State) : Result := fitOp 0x20 d a b false (fun x y _ => x + y) s

/-- ISUB (R338). -/
def execIsub (d a b : Opd) (s : State) : Result := fitOp 0x21 d a b false (fun x y _ => x - y) s

/-- IMUL (R338). -/
def execImul (d a b : Opd) (s : State) : Result := fitOp 0x22 d a b false (fun x y _ => x * y) s

/-- IMULH (R338): the upper w bits of the product; never saturates. -/
def execImulh (d a b : Opd) (s : State) : Result :=
  aluOp 0x23 ETy.isInt d [a, b] false none (fun t _ _ _ vs =>
    (truncInt t.width ((t.int (nth 0 vs 0) * t.int (nth 0 vs 1)) / (2 : Int) ^ t.width), 0)) s

/-- IMAD (R338): one Fit of a · b + d. -/
def execImad (d a b : Opd) (s : State) : Result := fitOp 0x24 d a b true (fun x y z => x * y + z) s

/-- The 32- and 64-bit integer types. -/
def ETy.isWide (t : ETy) : Bool := t.isInt && decide (32 ≤ t.width)

/-- IADDC and ISUBB (R339): `f` forms the exact value from a, b and the carry of p15. -/
def carryOp (op : Nat) (d a b : Opd) (f : Int → Int → Int → Int) (s : State) : Result :=
  issue op s fun e => do
    let n ← e.types ETy.isWide
    let dd ← e.dst d n
    let (xs, ls) ← e.srcs [(a, n), (b, n)] e.lits
    checkClass dd.isVec xs
    let us := e.units dd.isVec
    e.checkPoison us (xs.map fun x => (x, n))
    let p := e.w.pred 15
    let rs := us.map fun L =>
      let v := fun i => ((e.read n L (nth (.imm 0) xs i)).1 : Int)
      let y := f (v 0) (v 1) (bitOf p.toNat L).toNat
      (L, truncInt (32 * n) y, !(inRange (32 * n) false y))
    let s := s.write e (rs.flatMap fun r => dd.writes n r.1 r.2.1 false)
    let lanes := rs.flatMap fun r => if dd.isVec then [(r.1, r.2.2)] else (upto (if e.caster then 1 else 4)).map fun i => (r.1 + i, r.2.2)
    let mask := laneMask (lanes.map (·.1))
    let bits := laneMask ((lanes.filter (·.2)).map (·.1))
    goOn (match s.wave? e.ref with
      | some w => s.setWave e.ref (w.setPred 15 mask bits)
      | none => s) (e.used ls)

/-- IADDC (R339). -/
def execIaddc (d a b : Opd) (s : State) : Result := carryOp 0x25 d a b (fun x y c => x + y + c) s

/-- ISUBB (R339). -/
def execIsubb (d a b : Opd) (s : State) : Result := carryOp 0x26 d a b (fun x y c => x - y - c) s

/-- IABS (R338), on signed types. -/
def execIabs (d a : Opd) (s : State) : Result :=
  aluOp 0x27 (fun t => t.intSigned == some true) d [a] false none (fun t m _ _ vs =>
    fitT t m (t.int (nth 0 vs 0)).natAbs) s

/-- IMIN (R338). -/
def execImin (d a b : Opd) (s : State) : Result :=
  aluOp 0x28 ETy.isInt d [a, b] false none (fun t _ _ _ vs =>
    (truncInt t.width (min (t.int (nth 0 vs 0)) (t.int (nth 0 vs 1))), 0)) s

/-- IMAX (R338). -/
def execImax (d a b : Opd) (s : State) : Result :=
  aluOp 0x29 ETy.isInt d [a, b] false none (fun t _ _ _ vs =>
    (truncInt t.width (max (t.int (nth 0 vs 0)) (t.int (nth 0 vs 1))), 0)) s

/-- The logic entries act on the bits of the lane, whatever the type (R341). -/
def logicOp (op : Nat) (d a b : Opd) (f : Nat → Nat → Nat → Nat) (s : State) : Result :=
  aluOp op (fun _ => true) d [a, b] false none (fun t _ _ _ vs =>
    (f t.width (nth 0 vs 0) (nth 0 vs 1), 0)) s

/-- AND (R341). -/
def execAndOp (d a b : Opd) (s : State) : Result := logicOp 0x2A d a b (fun _ x y => x &&& y) s

/-- OR (R341). -/
def execOrOp (d a b : Opd) (s : State) : Result := logicOp 0x2B d a b (fun _ x y => x ||| y) s

/-- XOR (R341). -/
def execXorOp (d a b : Opd) (s : State) : Result := logicOp 0x2C d a b (fun _ x y => x ^^^ y) s

/-- ANDN (R341): a AND NOT b. -/
def execAndn (d a b : Opd) (s : State) : Result :=
  logicOp 0x2D d a b (fun w x y => x &&& (2 ^ w - 1 - y)) s

/-- The shifts act per element on its bits (R334, R341). -/
def shiftOp (op : Nat) (d a b : Opd) (f : Nat → Nat → Nat → Nat) (s : State) : Result :=
  aluOp op ETy.isInt d [a, b] false none (fun t _ _ _ vs => (f t.width (nth 0 vs 0) (nth 0 vs 1), 0)) s

/-- SHL (R341). -/
def execShl (d a b : Opd) (s : State) : Result :=
  shiftOp 0x2E d a b (fun w x c => if c < w then (x <<< c) % 2 ^ w else 0) s

/-- SHR (R341). -/
def execShr (d a b : Opd) (s : State) : Result :=
  shiftOp 0x2F d a b (fun w x c => if c < w then x >>> c else 0) s

/-- SRA (R341). -/
def execSra (d a b : Opd) (s : State) : Result :=
  shiftOp 0x30 d a b (fun w x c => truncInt w (intOf w true x / (2 : Int) ^ (min c w))) s

/-- ROTL (R341). -/
def execRotl (d a b : Opd) (s : State) : Result :=
  shiftOp 0x31 d a b (fun w x c => (x <<< (c % w)) % 2 ^ w ||| x >>> (w - c % w)) s

/-- The field that a descriptor names in a W-bit element (R342): its offset and its width, 0 when empty. -/
def fieldOf (w b : Nat) : Nat × Nat :=
  let o := b % 256
  let n := b / 256 % 256
  if n = 0 ∨ w ≤ o then (0, 0) else (o, min (o + n) w - o)

/-- BFE (R342). -/
def bfe (w : Nat) (sgn : Bool) (x b : Nat) : Nat :=
  let (o, n) := fieldOf w b
  if n = 0 then 0
  else
    let f := (x >>> o) % 2 ^ n
    truncInt w (intOf n sgn f)

/-- BFI (R342). -/
def bfi (w d x b : Nat) : Nat :=
  let (o, n) := fieldOf w b
  if n = 0 then d
  else d - (d >>> o) % 2 ^ n * 2 ^ o + x % 2 ^ n * 2 ^ o

/-- The field entries: A of width W, then the descriptor, a single register (R331, R342). -/
def bitFieldOp (op : Nat) (d a b : Opd) (useD : Bool) (f : ETy → Nats → Nat) (s : State) : Result :=
  issue op s fun e => do
    let n ← e.types ETy.isWide
    let dd ← e.dst d n
    let (x, ls) ← e.src a n e.lits
    let (y, ls) ← e.src b 1 ls
    let xs := [(x, n), (y, 1)] ++ if useD then [(dd.src, n)] else []
    e.run s dd n xs (e.used ls) none fun L vs => (f (e.ety (L / 4)) vs, 0)

/-- BFE (R342). -/
def execBfe (d a b : Opd) (s : State) : Result :=
  bitFieldOp 0x32 d a b false (fun t vs => bfe t.width (t.intSigned == some true) (nth 0 vs 0) (nth 0 vs 1)) s

/-- BFI (R342). -/
def execBfi (d a b : Opd) (s : State) : Result :=
  bitFieldOp 0x33 d a b true (fun t vs => bfi t.width (nth 0 vs 2) (nth 0 vs 0) (nth 0 vs 1)) s

/-- Set bits of a w-bit element. -/
def popcount (w x : Nat) : Nat := (bitsBelow w x).length

/-- Leading zeros of a w-bit element: w for zero. -/
def leadingZeros (w x : Nat) : Nat := if x = 0 then w else w - 1 - x.log2

/-- A w-bit element with its bit order reversed. -/
def reverseBits (w x : Nat) : Nat := maskOf ((bitsBelow w x).map fun i => w - 1 - i)

/-- POPC (R342). -/
def execPopc (d a : Opd) (s : State) : Result :=
  aluOp 0x34 ETy.isInt d [a] false none (fun t _ _ _ vs => (popcount t.width (nth 0 vs 0), 0)) s

/-- CLZ (R342). -/
def execClz (d a : Opd) (s : State) : Result :=
  aluOp 0x35 ETy.isInt d [a] false none (fun t _ _ _ vs => (leadingZeros t.width (nth 0 vs 0), 0)) s

/-- BREV (R342). -/
def execBrev (d a : Opd) (s : State) : Result :=
  aluOp 0x36 ETy.isInt d [a] false none (fun t _ _ _ vs => (reverseBits t.width (nth 0 vs 0), 0)) s

/-- The compares (R343, R348): per active lane under the guard, element e into predicate p + e. `g` answers
the result and the flags. -/
def cmpOp (op : Nat) (accept : ETy → Bool) (conds cond : Nat) (p : PredF) (a b : Opd)
    (g : ETy → BitVec 24 → Nat → Nat → Nat → Bool × Flags) (s : State) : Result :=
  issue op s fun e => do
    let n ← e.types accept
    if conds ≤ cond then throw badField
    if p.neg then throw badOperand
    let (xs, ls) ← e.srcs [(a, n), (b, n)] e.lits
    let k := ((e.pathSlices.map fun i => (e.ety i).count).foldl max 1)
    if 16 ≤ p.idx + k - 1 ∨ (e.caster ∧ k ≠ 1) then throw badOperand
    let us := e.lanes
    e.checkPoison us (xs.map fun x => (x, n))
    let rs := us.map fun L =>
      let t := e.ety (L / 4)
      let v := fun j i => elemOf t.width (e.read n L (nth (.imm 0) xs j)).1 i
      (L, (upto t.count).map fun i => g t (e.mode (L / 4)) cond (v 0 i) (v 1 i))
    let s := s.write e [.sticky (orFlags (rs.flatMap fun r => r.2.map (·.2)))]
    goOn (match s.wave? e.ref with
      | some w => s.setWave e.ref ((upto k).foldl (fun w i =>
          let on := rs.filter fun r => decide (i < r.2.length)
          w.setPred (p.idx + i) (laneMask (on.map (·.1)))
            (laneMask ((on.filter fun r => (nth (false, 0) r.2 i).1).map (·.1)))) w)
      | none => s) (e.used ls)

/-- The condition codes of ICMP (R343). -/
def intCond (c : Nat) (x y : Int) : Bool :=
  match c with
  | 0 => x == y
  | 1 => x != y
  | 2 => decide (x < y)
  | 3 => decide (x ≤ y)
  | 4 => decide (y < x)
  | _ => decide (y ≤ x)

/-- ICMP (R343). -/
def execIcmp (cond : Nat) (p : PredF) (a b : Opd) (s : State) : Result :=
  cmpOp 0x37 ETy.isInt 6 cond p a b (fun t _ c x y => (intCond c (t.int x) (t.int y), 0)) s

/-- The moves that carry poison (R257, R337): in each position `f` answers which source is written, if any. -/
def moveOp (e : Env) (s : State) (n : Nat) (dd : Dst) (xs : List Src) (lits : Nat) (f : Nat → Option Nat) :
    Except Flt Out := do
  checkClass dd.isVec xs
  goOn (s.write e ((e.units dd.isVec).flatMap fun L =>
    match f L with
    | some i => let (v, p) := e.read n L (nth (.imm 0) xs i); dd.writes n L v p
    | none => [])) lits

/-- SEL (R344): bit L of p chooses, or bit 4·s in scalar form. The reserved bits of its predicate word come before the operands
(R275). -/
def execSel (d a b : Opd) (s : State) : Result :=
  issue 0x38 s fun e => do
    let n ← e.types fun _ => true
    if (nth 0 e.lits (litsOf a n + litsOf b n)).toNat / 32 ≠ 0 then throw badField
    let dd ← e.dst d n
    let (xs, ls) ← e.srcs [(a, n), (b, n)] e.lits
    match ls with
    | [] => throw badOperand
    | q :: ls =>
      let p := e.w.predF (PredF.ofCode (q.toNat % 32))
      moveOp e s n dd xs (e.used ls) fun L => some (if bitOf p.toNat L then 0 else 1)

/-- MOV (R341). -/
def execMov (d a : Opd) (s : State) : Result :=
  issue 0x39 s fun e => do
    let n ← e.types fun _ => true
    let dd ← e.dst d n
    let (x, ls) ← e.src a n e.lits
    moveOp e s n dd [x] (e.used ls) fun _ => some 0

/-- IDIV of R340 on an element. -/
def idiv (t : ETy) (m : BitVec 24) (x y : Nat) : Nat × Flags :=
  if t.int y = 0 then (2 ^ t.width - 1, 0) else fitT t m ((t.int x).tdiv (t.int y))

/-- IREM of R340 on an element. -/
def irem (t : ETy) (x y : Nat) : Nat :=
  if t.int y = 0 then x else truncInt t.width ((t.int x).tmod (t.int y))

/-- IDIV (R340). -/
def execIdiv (d a b : Opd) (s : State) : Result :=
  aluOp 0x3A ETy.isWide d [a, b] false none (fun t m _ _ vs => idiv t m (nth 0 vs 0) (nth 0 vs 1)) s

/-- IREM (R340). -/
def execIrem (d a b : Opd) (s : State) : Result :=
  aluOp 0x3B ETy.isWide d [a, b] false none (fun t _ _ _ vs => (irem t (nth 0 vs 0) (nth 0 vs 1), 0)) s

/-- PMOV (R344): writes where p holds. -/
def execPmov (d a : Opd) (p : PredF) (s : State) : Result :=
  issue 0x3C s fun e => do
    let n ← e.types fun _ => true
    let dd ← e.dst d n
    let (x, ls) ← e.src a n e.lits
    checkPred p true
    moveOp e s n dd [x] (e.used ls) fun L => if bitOf (e.w.predF p).toNat L then some 0 else none

/-- PLOP (R344): and, or, xor, copy; T is not read. -/
def execPlop (o : Nat) (d q r : PredF) (s : State) : Result :=
  issue 0x3D s fun e => do
    if 4 ≤ o ∨ (o = 3 ∧ r.code ≠ 0) then throw badField
    if d.neg then throw badOperand
    checkPred q true
    checkPred r true
    let x := e.w.predF q
    let y := e.w.predF r
    let v := match o with
      | 0 => x &&& y
      | 1 => x ||| y
      | 2 => x ^^^ y
      | _ => x
    goOn (match s.wave? e.ref with
      | some w => s.setWave e.ref (w.setPred d.idx e.active v)
      | none => s) 0

end Sys2Proof.Machine
end

