-- ==== Sys2Proof/Machine/Long.lean ====
section
/-! DEFINITION. The long functions (R350, R351): exact cases apart, each value is formed in fixed point with
256 fraction bits and a low sticky bit, far finer than any rounding boundary of the types that R350 accepts. -/

namespace Sys2Proof.Machine

/-- One in fixed point. -/
def fxOne : Nat := 2 ^ 256

/-- Σ term·x/k over k, from index `k`: the exponential series in fixed point. -/
def expSeries (x : Nat) : Nat → Nat → Nat → Nat
  | 0, _, _ => 0
  | fuel + 1, k, term => term + expSeries x fuel (k + 1) (term * x / (fxOne * (k + 1)))

/-- e^x for a fixed-point 0 ≤ x < 1. -/
def fxExp (x : Nat) : Nat := expSeries x 70 0 fxOne

/-- Σ z^(2k+1)/(2k+1): the area hyperbolic tangent series in fixed point, `pw` holding z^(2k+1). -/
def atanhSeries (z2 : Nat) : Nat → Nat → Nat → Nat
  | 0, _, _ => 0
  | fuel + 1, k, pw => pw / (2 * k + 1) + atanhSeries z2 fuel (k + 1) (pw * z2 / fxOne)

/-- ln m for a fixed-point 1 ≤ m ≤ 2. -/
def fxLn (m : Nat) : Nat :=
  let z := (m - fxOne) * fxOne / (m + fxOne)
  2 * atanhSeries (z * z / fxOne) 100 0 z

/-- ln 2. -/
def fxLn2 : Nat := fxLn (2 * fxOne)

/-- The arctangent of 1/q: alternating terms, `up` adding. -/
def atanSeries (q : Nat) : Nat → Nat → Nat → Bool → Int
  | 0, _, _, _ => 0
  | fuel + 1, k, pw, up =>
    (if up then ((pw / (2 * k + 1) : Nat) : Int) else -((pw / (2 * k + 1) : Nat) : Int))
      + atanSeries q fuel (k + 1) (pw / (q * q)) (!up)

/-- π by Machin's formula. -/
def fxPi : Nat := (16 * atanSeries 5 70 0 (fxOne / 5) true - 4 * atanSeries 239 70 0 (fxOne / 239) true).toNat

/-- The sine series, alternating, from term index `k` (the power 2k + 1). -/
def sinSeries (x2 : Nat) : Nat → Nat → Nat → Bool → Int
  | 0, _, _, _ => 0
  | fuel + 1, k, term, up =>
    (if up then (term : Int) else -(term : Int))
      + sinSeries x2 fuel (k + 1) (term * x2 / (fxOne * ((2 * k + 2) * (2 * k + 3)))) (!up)

/-- A fixed-point magnitude as a value with its sticky bit. -/
def fxVal (neg : Bool) (x : Nat) (e : Int) : FVal := .fin neg (2 * x + 1) (e - 257)

/-- 2^a (R350, R351). -/
def FVal.exp2 : FVal → FVal × Flags
  | .nan s => (.nan false, (FVal.nan s).iv)
  | .inf n => (if n then .fin false 0 0 else .inf false, 0)
  | .fin n m e =>
    if m = 0 then (.fin false 1 0, 0)
    else if (10 : Int) < (m.log2 : Int) + e then (.fin false 3 (if n then -5000 else 5000), 0)
    else
      let x := signed n m
      let i : Int := if 0 ≤ e then x * (2 : Int) ^ e.toNat else x / (2 : Int) ^ (-e).toNat
      let f : Nat := if 0 ≤ e then 0 else (x % (2 : Int) ^ (-e).toNat).toNat * fxOne / 2 ^ (-e).toNat
      if 0 ≤ e ∨ x % (2 : Int) ^ (-e).toNat = 0 then (.fin false 1 i, 0)
      else (fxVal false (fxExp (f * fxLn2 / fxOne)) i, 0)

/-- log2 a (R350, R351). -/
def FVal.log2 : FVal → FVal × Flags
  | .nan s => (.nan false, (FVal.nan s).iv)
  | .inf n => if n then (.nan false, fIV) else (.inf false, 0)
  | .fin n m e =>
    if m = 0 then (.inf true, fDZ)
    else if n then (.nan false, fIV)
    else
      let k := m.log2
      let i : Int := (k : Int) + e
      if m = 2 ^ k then (.fin (decide (i < 0)) i.natAbs 0, 0)
      else
        let r : Int := i * fxOne + ((fxLn (m * fxOne / 2 ^ k) * fxOne / fxLn2 : Nat) : Int)
        (fxVal (decide (r < 0)) r.natAbs 0, 0)

/-- sin(π·t/2^k) for 0 ≤ t < 2^(k+1): the sign, and the value: 0, 1, or a fixed-point magnitude. -/
def sinTurn (t k : Nat) : Bool × FVal :=
  let neg := decide (2 ^ k ≤ t)
  let t := t % 2 ^ k
  let r := if 2 ^ k < 2 * t then 2 ^ k - t else t
  if r = 0 then (neg, .fin false 0 0)
  else if 2 * r = 2 ^ k then (neg, .fin neg 1 0)
  else
    let x := fxPi * r / 2 ^ k
    (neg, fxVal neg (sinSeries (x * x / fxOne) 50 0 x true).toNat 0)

/-- The argument modulo 2 as a natural number over 2^k. -/
def turnOf (m : Nat) (e : Int) : Nat × Nat :=
  if 0 ≤ e then (m * 2 ^ e.toNat % 2 * 2, 1) else (m % 2 ^ ((-e).toNat + 1), (-e).toNat)

/-- sin(π·a) (R350, R351). -/
def FVal.sinpi : FVal → FVal × Flags
  | .nan s => (.nan false, (FVal.nan s).iv)
  | .inf _ => (.nan false, fIV)
  | .fin n m e =>
    let (t, k) := turnOf m e
    let (_, v) := sinTurn t k
    if v.isZero then (.fin n 0 0, 0) else (if n then v.negate else v, 0)

/-- cos(π·a) (R350, R351). -/
def FVal.cospi : FVal → FVal × Flags
  | .nan s => (.nan false, (FVal.nan s).iv)
  | .inf _ => (.nan false, fIV)
  | .fin _ m e =>
    let (t, k) := turnOf m e
    let (_, v) := sinTurn ((2 * t + 2 ^ k) % 2 ^ (k + 2)) (k + 1)
    if v.isZero then (.fin false 0 0, 0) else (v, 0)

/-- Square a fixed-point number `n` times. -/
def fxSquare : Nat → Nat → Nat
  | 0, x => x
  | n + 1, x => fxSquare n (x * x / fxOne)

/-- tanh a (R350, R351). -/
def FVal.tanh : FVal → FVal × Flags
  | .nan s => (.nan false, (FVal.nan s).iv)
  | .inf n => (.fin n 1 0, 0)
  | .fin n m e =>
    if m = 0 then (.fin n 0 0, 0)
    else if (5 : Int) ≤ (m.log2 : Int) + e then (.fin n (2 ^ 90 - 1) (-90), 0)
    else
      let y : Nat := if -250 ≤ e then m * 2 ^ (e + 250).toNat else m / 2 ^ (-(e + 250)).toNat
      let x := fxSquare 7 (fxExp y)
      (fxVal n ((x - fxOne) * fxOne / (x + fxOne)) 0, 0)

end Sys2Proof.Machine
end

