-- ==== Sys2Proof/Machine/Float.lean ====
section
/-! DEFINITION. Float instructions, opcodes 0x40–0x56 (R331–R337, R345–R351). -/

namespace Sys2Proof.Machine

/-- The format of a float type. -/
def ETy.ffmt (t : ETy) : Fmt := t.fmt.getD fmt32

/-- The rounding of MODE.RM for element `i` of lane `L` (R146, R147): j = (L·k + e) mod 8. -/
def rndAt (t : ETy) (m : BitVec 24) (L i : Nat) : Rnd := Rnd.ofCode (modeRM m) (modeDR m) ((L * t.count + i) % 8)

/-- A float entry (R335): operands read under DN, `f` forms the value and its flags, rounded once. -/
def floatOp (op : Nat) (accept : ETy → Bool) (d : Opd) (as : List Opd) (useD : Bool) (cls : Option Bool)
    (rnd : Option Rnd) (f : Rnd → List FVal → FVal × Flags) (s : State) : Result :=
  aluOp op accept d as useD cls (fun t m L i vs =>
    let r := rnd.getD (rndAt t m L i)
    let (v, fl) := f r (vs.map (t.ffmt.read (modeDN m)))
    let (c, fr) := t.ffmt.roundVal r (modeSAT m) (modeDN m) v
    (c, fl ||| fr)) s

/-- Operand `i` of a list. -/
def fv (l : List FVal) (i : Nat) : FVal := nth (.fin false 0 0) l i

/-- FADD (R345). -/
def execFadd (d a b : Opd) (s : State) : Result :=
  floatOp 0x40 ETy.isFloat d [a, b] false none none (fun r l => (fv l 0).add r (fv l 1)) s

/-- FSUB (R345). -/
def execFsub (d a b : Opd) (s : State) : Result :=
  floatOp 0x41 ETy.isFloat d [a, b] false none none (fun r l => (fv l 0).add r (fv l 1).negate) s

/-- FMUL (R345). -/
def execFmul (d a b : Opd) (s : State) : Result :=
  floatOp 0x42 ETy.isFloat d [a, b] false none none (fun _ l => (fv l 0).mul (fv l 1)) s

/-- FFMA (R345): a · b + d. -/
def execFfma (d a b : Opd) (s : State) : Result :=
  floatOp 0x43 ETy.isFloat d [a, b] true none none (fun r l => FVal.fma r (fv l 0) (fv l 1) (fv l 2)) s

/-- FFMS (R345): d − a · b. -/
def execFfms (d a b : Opd) (s : State) : Result :=
  floatOp 0x44 ETy.isFloat d [a, b] true none none (fun r l => FVal.fma r (fv l 0).negate (fv l 1) (fv l 2)) s

/-- FMIN and FMAX (R346): no rounding; a subnormal result under DN is a zero of its sign, with UF and NX. -/
def minMaxOp (op : Nat) (d a b : Opd) (f : FVal → FVal → FVal) (s : State) : Result :=
  aluOp op ETy.isFloat d [a, b] false none (fun t m _ _ vs =>
    let x := t.ffmt.read (modeDN m) (nth 0 vs 0)
    let y := t.ffmt.read (modeDN m) (nth 0 vs 1)
    let (c, fr) := t.ffmt.roundVal .rne false (modeDN m) (f x y)
    (c, x.iv ||| y.iv ||| fr)) s

/-- FMIN (R346). -/
def execFmin (d a b : Opd) (s : State) : Result := minMaxOp 0x45 d a b FVal.min s

/-- FMAX (R346). -/
def execFmax (d a b : Opd) (s : State) : Result := minMaxOp 0x46 d a b FVal.max s

/-- FABS and FNEG (R347): the sign alone changes; a NaN gives the canonical NaN. -/
def signOp (op : Nat) (d a : Opd) (f : Bool → Bool) (s : State) : Result :=
  aluOp op ETy.isFloat d [a] false none (fun t _ _ _ vs =>
    let x := nth 0 vs 0
    let v := t.ffmt.decode x
    if v.isNan then (t.ffmt.nanCode, v.iv)
    else (x % 2 ^ t.ffmt.signBit + t.ffmt.sign (f (bitOf x t.ffmt.signBit)), 0)) s

/-- FABS (R347). -/
def execFabs (d a : Opd) (s : State) : Result := signOp 0x47 d a (fun _ => false) s

/-- FNEG (R347). -/
def execFneg (d a : Opd) (s : State) : Result := signOp 0x48 d a (fun n => !n) s

/-- The condition codes of FCMP (R348). -/
def fltCond (c : Nat) (x y : FVal) : Bool :=
  let un := x.isNan || y.isNan
  match c with
  | 0 => x.eqv y
  | 1 => !(x.eqv y)
  | 2 => x.lt y
  | 3 => x.lt y || x.eqv y
  | 4 => y.lt x
  | 5 => y.lt x || x.eqv y
  | 6 => un
  | _ => !un

/-- FCMP (R348): the ordered comparisons set IV on any NaN, the others on a signalling one. -/
def execFcmp (cond : Nat) (p : PredF) (a b : Opd) (s : State) : Result :=
  cmpOp 0x49 ETy.isFloat 8 cond p a b (fun t m c xa xb =>
    let x := t.ffmt.read (modeDN m) xa
    let y := t.ffmt.read (modeDN m) xb
    (fltCond c x y,
      if 2 ≤ c ∧ c ≤ 5 then flagIf (x.isNan || y.isNan) fIV else x.iv ||| y.iv)) s

/-- The class mask of a code (R347). -/
def Fmt.classMask (f : Fmt) (c : Nat) : Nat :=
  match f.decode c with
  | .nan true => 1
  | .nan false => 2
  | .inf true => 4
  | .inf false => 512
  | .fin n m _ =>
    if m = 0 then (if n then 32 else 64)
    else if f.isSubnormal c then (if n then 16 else 128) else (if n then 8 else 256)

/-- FCLASS (R347): into a single register, element e's mask at bits [16e + 9 : 16e]. -/
def execFclass (d a : Opd) (s : State) : Result :=
  issue 0x4A s fun e => do
    let n ← e.types ETy.isFloat
    let dd ← e.dst d 1
    let (x, ls) ← e.src a n e.lits
    e.run s dd 1 [(x, n)] (e.used ls) none fun L vs =>
      let t := e.ety (L / 4)
      let es := (upto t.count).map fun i => elemOf t.width (nth 0 vs 0) i
      (packElems 16 (es.map t.ffmt.classMask), orFlags (es.map fun c => (t.ffmt.decode c).iv))

/-- FSCALE (R345): a · 2^b, b a single signed register for every element; ±0, ±∞ and NaN pass. -/
def execFscale (d a b : Opd) (s : State) : Result :=
  issue 0x4B s fun e => do
    let n ← e.types ETy.isFloat
    let dd ← e.dst d n
    let (x, ls) ← e.src a n e.lits
    let (y, ls) ← e.src b 1 ls
    e.run s dd n [(x, n), (y, 1)] (e.used ls) none fun L vs =>
      let t := e.ety (L / 4)
      let m := e.mode (L / 4)
      let k := intOf 32 true (nth 0 vs 1)
      -- beyond any exponent of the format a larger count gives the same overflow or underflow
      let k := max (-5000) (min 5000 k)
      let rs := (upto t.count).map fun i =>
        let v := t.ffmt.read (modeDN m) (elemOf t.width (nth 0 vs 0) i)
        let (c, fl) := t.ffmt.roundVal (rndAt t m L i) (modeSAT m) (modeDN m) (v.scale k)
        (c, fl ||| v.iv)
      (packElems t.width (rs.map (·.1)), orFlags (rs.map (·.2)))

/-- A rounded to an integral value, keeping its sign; NX when it changes (R345). -/
def FVal.integral (r : Rnd) (a : FVal) : FVal × Flags :=
  match a with
  | .nan x => (.nan false, (FVal.nan x).iv)
  | .inf n => (.inf n, 0)
  | .fin n m e =>
    let (q, nx) := FVal.roundInt r n m e
    (.fin n q 0, flagIf nx fNX)

/-- FRND (R345). -/
def execFrnd (d a : Opd) (s : State) : Result :=
  floatOp 0x4C ETy.isFloat d [a] false none none (fun r l => (fv l 0).integral r) s

/-- A long operation of class B (R336, R350). -/
def longOp (op : Nat) (accept : ETy → Bool) (rnd : Option Rnd) (d a : Opd) (f : FVal → FVal × Flags)
    (s : State) : Result :=
  floatOp op accept d [a] false (some false) rnd (fun _ l => f (fv l 0)) s

/-- FRCP (R345, R350). -/
def execFrcp (d a : Opd) (s : State) : Result :=
  longOp 0x4D ETy.isFloat none d a (fun v => (FVal.fin false 1 0).div v) s

/-- FRSQ (R350), rounded RNE. -/
def execFrsq (d a : Opd) (s : State) : Result := longOp 0x4E ETy.isFloat (some .rne) d a FVal.rsqrt s

/-- FSQRT (R345, R350). -/
def execFsqrt (d a : Opd) (s : State) : Result := longOp 0x4F ETy.isFloat none d a FVal.sqrt s

/-- FDIV (R345, R350). -/
def execFdiv (d a b : Opd) (s : State) : Result :=
  floatOp 0x50 ETy.isFloat d [a, b] false (some false) none (fun _ l => (fv l 0).div (fv l 1)) s

/-- The types of the transcendental entries (R332). -/
def ETy.isShortFloat : ETy → Bool
  | .f32 | .f16 | .bf16 => true
  | _ => false

/-- FEXP2 (R350, R351). -/
def execFexp2 (d a : Opd) (s : State) : Result := longOp 0x51 ETy.isShortFloat (some .rne) d a FVal.exp2 s

/-- FLOG2 (R350, R351). -/
def execFlog2 (d a : Opd) (s : State) : Result := longOp 0x52 ETy.isShortFloat (some .rne) d a FVal.log2 s

/-- FSIN (R350, R351). -/
def execFsin (d a : Opd) (s : State) : Result := longOp 0x53 ETy.isShortFloat (some .rne) d a FVal.sinpi s

/-- FCOS (R350, R351). -/
def execFcos (d a : Opd) (s : State) : Result := longOp 0x54 ETy.isShortFloat (some .rne) d a FVal.cospi s

/-- FTANH (R350, R351). -/
def execFtanh (d a : Opd) (s : State) : Result := longOp 0x55 ETy.isShortFloat (some .rne) d a FVal.tanh s

/-- FDOT2 (R349): a0·b0 + a1·b1 + d, formed exactly and rounded once to f32. -/
def execFdot2 (d a b : Opd) (s : State) : Result :=
  issue 0x56 s fun e => do
    let _ ← e.types fun t => t == .f16 || t == .bf16
    let dd ← e.dst d 1
    let (xs, ls) ← e.srcs [(a, 1), (b, 1)] e.lits
    e.run s dd 1 ((xs ++ [dd.src]).map fun x => (x, 1)) (e.used ls) none fun L vs =>
      let t := e.ety (L / 4)
      let m := e.mode (L / 4)
      let r := Rnd.ofCode (modeRM m) (modeDR m) (L % 8)
      let v := fun j i => t.ffmt.read (modeDN m) (elemOf 16 (nth 0 vs j) i)
      let z := fmt32.read (modeDN m) (nth 0 vs 2)
      let (p, f0) := (v 0 0).mul (v 1 0)
      let (q, f1) := (v 0 1).mul (v 1 1)
      let (pq, f2) := p.add r q
      -- 0·∞, or infinities of opposite signs among the products and d, is invalid whatever else the sum holds
      let (x, f3) := pq.add r z
      let fi := if p.opposes z || q.opposes z then fIV else 0
      let (c, f4) := fmt32.roundVal r (modeSAT m) (modeDN m) x
      (c, f0 ||| f1 ||| f2 ||| f3 ||| fi ||| f4)

end Sys2Proof.Machine
end

