-- ==== Sys2Proof/Machine/Convert.lean ====
section
/-! DEFINITION. Conversion, formed lines in registers, exact sums and the keyed generator, opcodes 0x60–0x6A
(R352–R367). -/

namespace Sys2Proof.Machine

/-- A destination that must be of vector class (R352). -/
def Env.vecDst (e : Env) (o : Opd) (n : Nat) : Except Flt Dst := do
  let d ← e.dst o n
  if d.isVec then .ok d else .error badOperand

/-- Convert the n elements that R355 pairs: the destination word and the flags. `conv` converts one source
element at a destination index. -/
def convertWord (st dt : ETy) (p : Nat) (src old : Nat) (conv : Nat → Nat → Nat × Flags) : Nat × Flags :=
  let n := min st.count dt.count
  let narrow := decide (st.count < dt.count)
  let rs := (upto n).map fun i =>
    let si := if dt.count < st.count then p * n + i else i
    let di := if narrow then p * n + i else i
    (di, conv (elemOf st.width src si) di)
  let es := (upto dt.count).map fun i =>
    match rs.find? (fun r => r.1 == i) with
    | some r => r.2.1
    | none => elemOf dt.width old i
  (packElems dt.width es, orFlags (rs.map (·.2.2)))

/-- The limit of position p (R355). -/
def positionOk (st dt : ETy) (p : Nat) : Bool :=
  let n := min st.count dt.count
  if st.count = dt.count then p == 0 else decide (p * n + n ≤ max st.count dt.count)

/-- The flags of a scalar conversion, set only where a lane is active (R153, R354). -/
def Env.gate (e : Env) (f : Flags) : Flags := if e.lanes = [] then 0 else f

/-- CVT (R355, R356). -/
def execCvt (d a : Opd) (p t : Nat) (s : State) : Result :=
  issue 0x60 s fun e => do
    let n ← e.types fun _ => true
    let st := (ETy.ofCode t).getD .i32
    if !(e.pathSlices.all fun i => positionOk st (e.ety i) p) then throw badOperand
    let dd ← e.dst d n
    let (x, ls) ← e.src a (st.opWidth / 32) e.lits
    checkClass dd.isVec [x]
    -- D is a source only where elements of it are kept, slice by slice (R139, R355)
    e.checkPoisonAt (e.units dd.isVec) fun L =>
      [(x, st.opWidth / 32)] ++ if st.count < (e.ety (L / 4)).count then [(dd.src, n)] else []
    e.compute s dd n [(x, st.opWidth / 32), (dd.src, n)] (e.used ls) none fun L vs =>
      let dt := e.ety (L / 4)
      let m := e.mode (L / 4)
      let (w, f) := convertWord st dt p (nth 0 vs 0) (nth 0 vs 1) fun c i =>
        let v := st.readElem (modeDN m) c
        let iv := match v with
          | .flt w => w.iv
          | _ => 0
        let (r, f) := convertElem dt (rndAt dt m L i) (modeSAT m) (modeDN m) v
        (r, f ||| iv)
      (w, e.gate f)

/-- The residual that CVTR leaves (R172): its code in the source format and its flags. `n` is the narrowed
code and `high` says that it overflowed. Where the source format does not hold a − widen(n), which the manual calls exact, the
residual is a free value (log 128). -/
def residue (sf df : Fmt) (r : Rnd) (dn : Bool) (a : FVal) (n : Nat) (high : Bool) : Nat × Flags :=
  match a with
  | .nan _ => (sf.nanCode, 0)
  | .inf _ => (0, 0)
  | .fin neg _ _ =>
    let w := if high then FVal.fin neg df.maxVal.1 df.maxVal.2 else df.decode n
    let (v, _) := a.add r w.negate
    if (sf.roundVal .rne false false v).2 = 0 then sf.roundVal .rne false dn v
    else (Config.residual sf.ebits sf.fbits (sf.roundVal .rne false false a).1 n, 0)

/-- CVTR (R357): narrows into D and writes the residuals to D + 1. -/
def execCvtr (d a : Opd) (p t : Nat) (s : State) : Result :=
  issue 0x61 s fun e => do
    let st := (ETy.ofCode t).getD .i32
    let _ ← e.types fun x => match x with
      | .f16 | .bf16 | .e4m3 | .e5m2 | .e2m1 => (st == .f32 || st == .f16 || st == .bf16) && decide (x.width < st.width)
      | _ => false
    if !(e.pathSlices.all fun i => positionOk st (e.ety i) p) then throw badOperand
    let dd ← e.dst d 2
    let (x, ls) ← e.src a 1 e.lits
    e.run s dd 2 [(x, 1), (dd.src, 1)] (e.used ls) none fun L vs =>
      let dt := e.ety (L / 4)
      let m := e.mode (L / 4)
      let (w, f) := convertWord st dt p (nth 0 vs 0) (nth 0 vs 1) fun c i =>
        let v := st.ffmt.read (modeDN m) c
        let (q, g) := floatToFloat dt.ffmt (rndAt dt m L i) (modeSAT m) (modeDN m) v
        (q, g ||| v.iv)
      let rs := (upto st.count).map fun i =>
        let r := rndAt dt m L (p * st.count + i)
        let v := st.ffmt.read (modeDN m) (elemOf st.width (nth 0 vs 0) i)
        let (q, g) := floatToFloat dt.ffmt r (modeSAT m) (modeDN m) v
        residue st.ffmt dt.ffmt r (modeDN m) v q (g &&& fOF != 0)
      (w + 2 ^ 32 * packElems st.width (rs.map (·.1)), e.gate (f ||| orFlags (rs.map (·.2))))

/-- An exact sum of float values (R165, R361, R372): NaN, infinities, and the sign of an exact zero. Infinities of both signs set
IV, beside a NaN too (log 130). -/
def sumVals (r : Rnd) (l : List FVal) : FVal × Flags :=
  let iv := orFlags (l.map FVal.iv)
  let pos := l.any fun v => v == .inf false
  let neg := l.any fun v => v == .inf true
  if l.any FVal.isNan then (.nan false, iv ||| if pos && neg then fIV else 0)
  else
    if pos && neg then (.nan false, fIV)
    else if pos || neg then (.inf neg, 0)
    else
      let (m, x) := l.foldl (fun (a : Int × Int) v => match v with
        | .fin n k y => dyAdd a.1 a.2 (signed n k) y
        | _ => a) (0, 0)
      if m = 0 then
        (.fin (if l.all FVal.neg then decide (l ≠ []) else if l.all (fun v => !v.neg) then false else r == .rdn) 0 0, 0)
      else (.fin (decide (m < 0)) m.natAbs x, 0)

/-- One round of the permutation (R366). -/
def permRound (r : Nat) (x : Nat × Nat × Nat × Nat) : Nat × Nat × Nat × Nat :=
  let (a, b, c, d) := x
  let rotl := fun v n => (v <<< n) % 2 ^ 32 ||| v >>> (32 - n)
  let a := (a + b + 0x9E3779B9 + r) % 2 ^ 32
  let d := rotl (Nat.xor d a) 16
  let c := (c + d) % 2 ^ 32
  (a, rotl (Nat.xor b c) 12, c, d)

/-- The generator permutation (R366). -/
def perm (key pos draw : Nat) : Nat :=
  let x := (key % 2 ^ 32, key / 2 ^ 32 % 2 ^ 32, (pos * 2 ^ 24 + draw) % 2 ^ 32, pos / 2 ^ 8 % 2 ^ 32)
  let (_, b, _, d) := (upto 10).foldl (fun x r => permRound r x) x
  Nat.xor b d

/-- QHAD (R164, R165, R361): in a sum of float elements a lane that is not active enters as 0, with the signs of the entry's
pseudocode. -/
def execQhad (d a b : Opd) (s : State) : Result :=
  issue 0x62 s fun e => do
    let t ← e.lowType fun x => match x with
      | .f32 | .f16 | .bf16 | .i32 | .i16 | .i8 => true
      | _ => false
    if e.w.partn ≠ 5 then throw badField
    let dd ← e.vecDst d 1
    let (x, ls) ← e.src a 1 e.lits
    let q ← groupSrc b 4
    if e.lanes = [] then goOn s (e.used ls)
    else
    e.checkPoison e.lanes [(x, 1)]
    let kv ← e.readLow 4 q
    let m := e.mode e.low
    let key := kv % 2 ^ 64
    let pos := kv / 2 ^ 64 % 2 ^ 40
    let val := fun j i => elemOf t.width (e.read 1 j x).1 i
    let rs := e.lanes.map fun L =>
      let es := (upto t.count).map fun i =>
        let w := perm key ((pos + i) % 2 ^ 40) 0
        let flip := fun j => bitOf w j != (popcount 5 (L &&& j) % 2 == 1)
        if t.isInt then
          let y := (e.lanes.map fun j => if flip j then -(t.int (val j i)) else t.int (val j i)).sum
          fitT t m y
        else
          let vs := (upto 32).map fun j =>
            let v := if e.lanes.contains j then t.ffmt.read (modeDN m) (val j i) else .fin false 0 0
            if flip j then v.negate else v
          let r := rndAt t m L i
          let (v, f) := sumVals r vs
          let (c, g) := t.ffmt.roundVal r (modeSAT m) (modeDN m) v
          (c, f ||| g)
      (L, packElems t.width (es.map (·.1)), orFlags (es.map (·.2)))
    goOn (s.write e (rs.flatMap (fun r => dd.writes 1 r.1 r.2.1 false) ++ [.sticky (orFlags (rs.map (·.2.2)))]))
      (e.used ls)

/-- A field that names a vector register group (R352). -/
def Env.vecReg (e : Env) (o : Opd) (n : Nat) : Except Flt Nat :=
  match o with
  | .v r => if r + n ≤ 16 * e.blocks then .ok r else .error badOperand
  | _ => .error badOperand

/-- FORM (R358, R359). -/
def execForm (d a : Opd) (h : Bool) (c : Nat) (s : State) : Result :=
  issue 0x63 s fun e => do
    let _ ← e.lowType fun x => x == .f32
    if 8 < c then throw badField
    let dd ← e.vecDst d 1
    let n := (lineCount c).getD 0
    let r ← e.vecReg a (max 1 ((n + 31) / 32))
    match e.lits with
    | [] => throw badOperand
    | q :: _ =>
      if 255 ≤ q.toNat then throw badOperand
      let src := (upto n).filterMap fun j => if e.lanes.contains (j % 32) then some j else none
      match (src.map fun j => j % 32).filter (fun l => src.any fun j => j % 32 == l && (e.w.getV (r + j / 32) l).poison) with
      | l :: rest => throw { code := 0x61, lane := rest.foldl min l }
      | [] =>
        let m := e.mode e.low
        let vals := (upto n).map fun j =>
          if e.lanes.contains (j % 32) then fmt32.read (modeDN m) (e.w.getV (r + j / 32) (j % 32)).bits.toNat
          else .fin false 0 0
        let iv := orFlags (vals.map FVal.iv)
        let (line, f) := buildLine { rm := modeRM m, dr := modeDR m, sat := modeSAT m, dn := modeDN m } c q.toNat vals
        let base := if h then 16 else 0
        let ws := (upto 16).flatMap fun i =>
          if e.lanes.contains (base + i) then dd.writes 1 (base + i) (fieldAt line (4 * i) 4) false else []
        goOn (s.write e (ws ++ [.sticky (if e.lanes = [] then 0 else iv ||| f)])) 1

/-- The line image in lanes 16h to 16h + 15 of a register, inactive lanes reading 0 (R358). -/
def Env.image (e : Env) (r : Nat) (h : Bool) : Bytes :=
  let base := if h then 16 else 0
  (upto 16).flatMap fun i =>
    leBytes 4 (if e.lanes.contains (base + i) then (e.w.getV r (base + i)).bits.toNat else 0)

/-- Poison in the active lanes of an image (R257). -/
def Env.imagePoison (e : Env) (r : Nat) (h : Bool) : Except Flt Unit :=
  let base := if h then 16 else 0
  match e.lanes.find? (fun l => decide (base ≤ l) && decide (l < base + 16) && (e.w.getV r l).poison) with
  | some l => .error { code := 0x61, lane := l }
  | none => .ok ()

/-- UNFORM (R358, R360). -/
def execUnform (d a : Opd) (h : Bool) (k : Nat) (s : State) : Result :=
  issue 0x64 s fun e => do
    let t ← e.lowType fun x => x == .f32 || x == .f64
    if k = 3 then throw badOperand
    let n := t.width / 32
    let dd ← e.vecDst d n
    let r ← e.vecReg a 1
    if e.lanes = [] then goOn s 0
    else
      e.imagePoison r h
      let line := e.image r h
      match checkLine line with
      | some (c, pk) => throw { code := c, pk := pk }
      | none =>
        let vals := lineVals line
        if byteAt line 0 ≠ 0 ∧ vals.length ≤ 32 * k then throw badOperand
        let m := e.mode e.low
        let rs := e.lanes.map fun L =>
          let v := nth (.fin false 0 0) vals (32 * k + L)
          let (c, f) := t.ffmt.roundVal (rndAt t m L 0) (modeSAT m) (modeDN m) v
          (L, c, f ||| v.iv)
        goOn (s.write e (rs.flatMap (fun x => dd.writes n x.1 x.2.1 false) ++ [.sticky (orFlags (rs.map (·.2.2)))])) 0

/-- The ZERO and LIT codes in an exact-sum field (R352). -/
def noSum (x : Nat) : Bool := x == 0xF0 || x == 0xFE

/-- An exact-sum field (R291, R352): the ZERO and LIT codes are 0x01, a number above 3 is 0x02. -/
def xField (x : Nat) : Except Flt Nat :=
  if noSum x then .error badField else if 3 < x then .error badOperand else .ok x

/-- Add an exact integer of grid units to a sum (R168). -/
def XSum.addUnits (x : XSum) (q : Int) : XSum × Flags :=
  let y := x.S.toInt + q
  ({ x with S := BitVec.ofInt 320 y }, flagIf (!(inRange 320 true y)) fXO)

/-- floor(±m·2^e / 2^(E − 256)) and whether bits are lost (R167). -/
def gridUnits (E : BitVec 16) (m : Int) (e : Int) : Int × Bool :=
  let sh := e - (E.toInt - 256)
  if 0 ≤ sh then (m * (2 : Int) ^ sh.toNat, false)
  else (m / (2 : Int) ^ (-sh).toNat, m % (2 : Int) ^ (-sh).toNat != 0)

/-- Add one value to a sum (R167, R363). -/
def XSum.addVal (x : XSum) (v : FVal) : XSum × Flags :=
  match v with
  | .fin n m e =>
    let (q, nx) := gridUnits x.E (signed n m) e
    let (y, f) := x.addUnits q
    (y, f ||| flagIf nx fNX)
  | _ => (x, fIV)

/-- Add another sum's value (R169). -/
def XSum.addSum (x y : XSum) : XSum × Flags :=
  let (q, nx) := gridUnits x.E y.S.toInt (y.E.toInt - 256)
  let (z, f) := x.addUnits q
  (z, f ||| flagIf nx fNX)

/-- XCLR (R362). -/
def execXclr (x : Nat) (a : Opd) (s : State) : Result :=
  issue 0x65 s fun e => do
    let x ← xField x
    let (v, ls) ← e.src a 1 e.lits
    e.checkPoison e.lanes [(v, 1)]
    goOn (s.setWave e.ref (e.lanes.foldl (fun w L =>
      w.setX x L { S := 0, E := BitVec.ofNat 16 (e.read 1 L v).1 }) e.w)) (e.used ls)

/-- The types of XADD and XMAD (R353). -/
def ETy.isSummand : ETy → Bool
  | .f32 | .f64 | .f16 | .bf16 | .i32 | .n32 | .i64 | .n64 => true
  | _ => false

/-- Poison of exact sums in the active lanes (R354). -/
def Env.sumPoison (e : Env) (xs : Nats) : Except Flt Unit :=
  match e.lanes.find? (fun L => xs.any fun x => (e.w.getX x L).poison) with
  | some L => .error { code := 0x61, lane := L }
  | none => .ok ()

/-- An element as a value under DN (R363). -/
def ETy.val (t : ETy) (m : BitVec 24) (c : Nat) : FVal := (t.readElem (modeDN m) c).toF

/-- Add values to sum x of each active lane, in element order (R363). -/
def addAll (e : Env) (s : State) (x lits : Nat) (f : Nat → List FVal) : Except Flt Out :=
  let rs := e.lanes.map fun L =>
    (L, (f L).foldl (fun (a : XSum × Flags) v => let (y, g) := a.1.addVal v; (y, a.2 ||| g)) (e.w.getX x L, 0))
  let w := rs.foldl (fun w r => w.setX x r.1 r.2.1) e.w
  goOn (s.setWave e.ref (w.orSticky e.p (orFlags (rs.map (·.2.2))))) lits

/-- The lowest active lane in which one of these exact sums or source registers is poisoned (R257, R354). -/
def Env.poisonWith (e : Env) (xs : Nats) (srcs : List (Src × Nat)) : Except Flt Unit :=
  match e.lanes.find? (fun L => xs.any (fun x => (e.w.getX x L).poison) || srcs.any fun r => (e.read r.2 L r.1).2) with
  | some L => .error { code := 0x61, lane := L }
  | none => .ok ()

/-- XADD (R363): B is 0x80 + y for the sum y, of which numbers above 3 are 0x02 (R291), and otherwise 0. -/
def execXadd (x : Nat) (a : Opd) (sum : Bool) (y : Nat) (s : State) : Result :=
  issue 0x66 s fun e => do
    if sum then
      if a ≠ .v 0 then throw badField
      let x ← xField x
      if 3 < y then throw badOperand
      e.sumPoison [x, y]
      let rs := e.lanes.map fun L => (L, (e.w.getX x L).addSum (e.w.getX y L))
      let w := rs.foldl (fun w r => w.setX x r.1 r.2.1) e.w
      goOn (s.setWave e.ref (w.orSticky e.p (orFlags (rs.map (·.2.2))))) 0
    else
      let n ← e.types ETy.isSummand
      if y ≠ 0 then throw badField
      let x ← xField x
      let (v, ls) ← e.src a n e.lits
      e.poisonWith [x] [(v, n)]
      addAll e s x (e.used ls) fun L =>
        let t := e.ety (L / 4)
        (upto t.count).map fun i => t.val (e.mode (L / 4)) (elemOf t.width (e.read n L v).1 i)

/-- XMAD (R363): exact products. -/
def execXmad (x : Nat) (a b : Opd) (s : State) : Result :=
  issue 0x67 s fun e => do
    let n ← e.types ETy.isSummand
    let x ← xField x
    let (v, ls) ← e.src a n e.lits
    let (u, ls) ← e.src b n ls
    e.poisonWith [x] [(v, n), (u, n)]
    addAll e s x (e.used ls) fun L =>
      let t := e.ety (L / 4)
      (upto t.count).map fun i =>
        let p := t.val (e.mode (L / 4)) (elemOf t.width (e.read n L v).1 i)
        let q := t.val (e.mode (L / 4)) (elemOf t.width (e.read n L u).1 i)
        (p.mul q).1

/-- XRND (R171, R364). -/
def execXrnd (d : Opd) (x el : Nat) (s : State) : Result :=
  issue 0x68 s fun e => do
    let n ← e.types ETy.isFloat
    let x ← xField x
    if !(e.pathSlices.all fun i => decide (el < (e.ety i).count)) then throw badOperand
    let dd ← e.vecDst d n
    let keeps := e.pathSlices.any fun i => decide (1 < (e.ety i).count)
    e.poisonWith [x] (if keeps then [(dd.src, n)] else [])
    e.run s dd n (if keeps then [(dd.src, n)] else []) 0 none fun L vs =>
      let t := e.ety (L / 4)
      let m := e.mode (L / 4)
      let X := e.w.getX x L
      let (c, f) := t.ffmt.round (rndAt t m L el) (modeSAT m) (modeDN m) (decide (X.S.toInt < 0)) X.S.toInt.natAbs
        (X.E.toInt - 256)
      (packElems t.width ((upto t.count).map fun i => if i = el then c else elemOf t.width (nth 0 vs 0) i), f)

/-- The register number that an exact-sum code of XMOV's A or D holds (R287). -/
def xOf (o : Opd) : Except Flt Nat := xField o.code

/-- Word `w` of a sum (R365). -/
def XSum.word (x : XSum) (w : Nat) : Word := if w = 10 then BitVec.ofInt 32 x.E.toInt else wordOf x.S.toNat w

/-- Replace word `w` of a sum (R365). -/
def XSum.putWord (x : XSum) (w : Nat) (v : Word) : XSum :=
  if w = 10 then { x with E := BitVec.ofNat 16 v.toNat }
  else { x with S := BitVec.ofNat 320 (x.S.toNat - (x.S.toNat >>> (32 * w)) % 2 ^ 32 * 2 ^ (32 * w) + v.toNat * 2 ^ (32 * w)) }

/-- ZERO or LIT where an exact sum is named (R352). -/
def notSum (o : Opd) : Bool := o == .zero || o == .lit

/-- XMOV (R365): reserved fields first, then the operands' ranges (R275). -/
def execXmov (d a : Opd) (r w : Nat) (s : State) : Result :=
  issue 0x69 s fun e => do
    if r = 3 ∨ (r ≠ 1 ∧ notSum d) ∨ (r ≠ 2 ∧ notSum a) then throw badField
    if 10 < w ∨ (r = 0 ∧ w ≠ 0) then throw badOperand
    match r with
    | 0 =>
      let x ← xOf d
      let y ← xOf a
      goOn (s.setWave e.ref (e.lanes.foldl (fun u L => u.setX x L (e.w.getX y L)) e.w)) 0
    | 1 =>
      let dd ← e.vecDst d 1
      let y ← xOf a
      goOn (s.write e (e.lanes.flatMap fun L =>
        dd.writes 1 L ((e.w.getX y L).word w).toNat (e.w.getX y L).poison)) 0
    | _ =>
      let x ← xOf d
      let (v, ls) ← e.src a 1 e.lits
      if !v.isVec then throw badOperand
      goOn (s.setWave e.ref (e.lanes.foldl (fun u L =>
        let (b, p) := e.read 1 L v
        let X := (e.w.getX x L).putWord w (BitVec.ofNat 32 b)
        u.setX x L { X with poison := X.poison || p }) e.w)) (e.used ls)

/-- A generator state after a draw, and whether the position wrapped (R173, R367). -/
def drawNext (ctr : Nat) : Nat × Bool :=
  if ctr % 2 ^ 24 = 0xFFFFFF then
    let pos := (ctr / 2 ^ 24 + 1) % 2 ^ 40
    (pos * 2 ^ 24, pos == 0)
  else (ctr + 1, false)

/-- The carry level of the issuing task (R69, R173). -/
def State.carries (s : State) (e : Env) : Bool := ((s.task? e.task).map (·.limits.carry)).getD false && !e.handler

/-- KGEN (R173, R367): ZERO as its quad reads 0 in all four words and takes no update (R289; log 39). -/
def execKgen (d a : Opd) (s : State) : Result :=
  issue 0x6A s fun e => do
    let dd ← e.dst d 1
    let (x, vecState) ← match a with
      | .v _ => do let (x, _) ← e.src a 4 e.lits; pure (x, true)
      | .s _ => do let (x, _) ← e.src a 4 e.lits; pure (x, false)
      | .zero => pure (Src.imm 0, false)
      | _ => throw badOperand
    if vecState && !dd.isVec then throw badOperand
    let us := e.units dd.isVec
    let owners := if vecState then e.lanes else e.slices.map (4 * ·)
    e.checkPoison owners [(x, 4)]
    let ctr := fun L => (e.read 4 L x).1 / 2 ^ 64
    let key := fun L => (e.read 4 L x).1 % 2 ^ 64
    if !(s.carries e) then
      match owners.find? (fun L => ctr L % 2 ^ 24 == 0xFFFFFF) with
      | some L => throw { code := 0x70, lane := L }
      | none => pure ()
    let off := fun L => if vecState || !dd.isVec then 0 else L
    let outs := us.flatMap fun L =>
      dd.writes 1 L (perm (key L) ((ctr L / 2 ^ 24 + off L) % 2 ^ 40) (ctr L % 2 ^ 24)) false
    let st : Dst := match x with
      | .vec r => .vec (r + 2)
      | .sca r => .sca (r + 2)
      | _ => .none
    let ups := owners.flatMap fun L => st.writes 2 L (drawNext (ctr L)).1 false
    goOn (s.write e (outs ++ ups ++ [.sticky (flagIf (e.lanes != [] && owners.any fun L => (drawNext (ctr L)).2) fGW)])) 0

end Sys2Proof.Machine
end

