-- ==== Sys2Proof/Machine/Fabric.lean ====
section
/-! DEFINITION. Atomics at their home (R384–R386), requests to and from other endpoints (R32, R33), fences
(R35–R37, R42) and links (R24–R26). -/

namespace Sys2Proof.Machine

/-! ### Atomics -/

/-- AFADD (R384): rounded to nearest even, subnormals kept. -/
def floatAdd (w old b : Nat) : Nat :=
  let f := if w = 64 then fmt64 else fmt32
  (f.roundVal .rne false false ((f.decode old).add .rne (f.decode b)).1).1

/-- Op(old, b) of R384 by opcode, for width `w`; `none` when the location is left unchanged. ACAS takes the
compare value in the low half of `b`. -/
def atomicNew (op w : Nat) (sgn : Bool) (old b : Nat) : Option Nat :=
  let lt := fun x y => decide (intOf w sgn x < intOf w sgn y)
  match op with
  | 0x90 => some ((old + b) % 2 ^ w)
  | 0x91 => some (if lt b old then b else old)
  | 0x92 => some (if lt old b then b else old)
  | 0x93 => some (Nat.land old b)
  | 0x94 => some (Nat.lor old b)
  | 0x95 => some (Nat.xor old b)
  | 0x96 => some b
  | 0x97 => if old = b % 2 ^ w then some (b >>> w) else none
  | 0x98 => some (floatAdd w old b)
  | _ => if b ≠ 0 ∧ b ≤ old then none else some ((old + 1) % 2 ^ w)

/-- An atomic on the package's own memory (R384): the old value and the state. -/
def State.atomicAt (s : State) (op w : Nat) (sgn : Bool) (off b : Nat) : Nat × State :=
  let old := leNat (s.readLocal off (w / 8))
  match atomicNew op w sgn old b with
  | some v => (old, s.writeLocal off (leBytes (w / 8) v) false)
  | none => (old, s)

/-- AXSUM on a cell (R386): the status, and the cell's new S when the tag matches. -/
def axsumCell (cell : Bytes) (x : XSum) (tag : Nat) : Nat × Option Bytes :=
  if fieldAt cell 42 2 ≠ tag then (1, none)
  else
    let c : XSum := { S := BitVec.ofNat 320 (fieldAt cell 0 40), E := BitVec.ofNat 16 (fieldAt cell 40 2) }
    let (y, f) := c.addSum x
    ((if f &&& fNX ≠ 0 then 2 else 0) + (if f &&& fXO ≠ 0 then 4 else 0), some (leBytes 40 y.S.toNat))

/-! ### Accesses of other endpoints at their home (R18, R28, R32) -/

/-- The completion of a fabric access to memory: an error (R28) is the translation fault's code. -/
def homeError : Nat := 0x10

/-- The access completes at its home with a status and data. -/
def State.answer (s : State) (st : Nat) (data : Bytes) : State := { s with completion := (st, data) }

/-- The completion of a request goes back to its endpoint (R33). -/
def State.sendReply (s : State) (src id : Nat) : State :=
  let h := Config.headerOf [7, id, s.ownId, s.completion.1, s.completion.2.length]
  s.sendParcel { kind := 1, payload := (h ++ List.replicate 16 0).take 16 ++ s.completion.2, page := some (src, 0) }

/-- The completion of a request that a flit brought goes back by one. -/
def State.replyTo (s : State) (src : Nat) (number : Option Nat) : State :=
  match number with
  | some id => s.sendReply src id
  | none => s

/-- The offset and bytes of an access to this package; of an AXSUM's cell that lies in two pages, the first part's. -/
def accessRange : RemoteAccess → Nat × Nat
  | .load off n => (off, n)
  | .store off data => (off, data.length)
  | .atomic off _ w _ _ => (off, w / 8)
  | .axsum off none _ _ _ => (off, 48)
  | .axsum off (some (cut, _)) _ _ _ => (off, cut)
  | .version _ _ _ _ => (0, 0)

/-- The two parts of an AXSUM's cell: the bytes of the first, and the offset of the rest (R222, R386). -/
def cellParts (off : Nat) (second : Option (Nat × Nat)) : List (Nat × Nat) :=
  match second with
  | some (cut, off2) => [(off, cut), (off2, 48 - cut)]
  | none => [(off, 48)]

/-- AXSUM on a cell of this package in one or two parts (R386). -/
def State.axsumParts (s : State) (parts : List (Nat × Nat)) (x : XSum) (tag : Nat) : Nat × State :=
  match axsumCell (parts.flatMap fun (o, n) => s.readLocal o n) x tag with
  | (st, some bs) =>
    (st, (parts.foldl (fun (r : Bytes × State) on => (r.1.drop on.2, r.2.writeLocal on.1 (r.1.take on.2) false)) (bs, s)).2)
  | (st, none) => (st, s)

/-- A memory access of another endpoint is performed (R32). -/
def State.performMem (s : State) (a : RemoteAccess) : State :=
  match a with
  | .load off n => s.answer hsAccepted (s.readLocal off n)
  | .store off data => (s.writeLocal off data true).answer hsAccepted []
  | .atomic off op w sgn b =>
    let (old, t) := s.atomicAt op w sgn off b
    t.answer hsAccepted (leBytes (w / 8) old)
  | .axsum off second sum anchor tag =>
    let (st, t) := s.axsumParts (cellParts off second) { S := sum, E := anchor } tag.toNat
    t.answer hsAccepted (leBytes 4 st)
  | .version _ _ _ _ => s

/-- The memory line that a failed or poisoned access names keeps its poison (R39). -/
def State.poisonLines (s : State) (off n : Nat) : State :=
  { s with poison := (upto ((off % 64 + n + 63) / 64)).foldl (fun t i => t.set false (off / 64 + i) true) s.poison }

/-- The expander completes an access of another endpoint (R39, R41, R189): it is performed, with a poisoned line or not, or ends
in an error. -/
def State.completeHome (s : State) (o : HomeOp) (outcome : CxlOutcome) : State :=
  let s := { s with homeOps := s.homeOps.filter (·.id != o.id) }
  let t := match outcome with
    | .done => s.performMem o.access
    | .failed => s.answer homeError []
    | .poisoned => (s.poisonLines (accessRange o.access).1 (accessRange o.access).2).performMem o.access
  t.replyTo o.src o.request

/-! ### Replies and failures -/

/-- Put reply bytes into an operation's fill. -/
def PendingOp.arrive (o : PendingOp) (id : Nat) (dest : Option (Nat × Nat)) (data : Bytes) : PendingOp :=
  { o with
    remote := o.remote.filter (· != id)
    fill := match dest, o.fill with
      | some (u, b), some f => some { f with data := putBytes f.data (64 * u + b) data }
      | _, f => f }

/-- The same reply bytes for every unit of a fill (R422, R423). -/
def PendingOp.arriveAll (o : PendingOp) (id : Nat) (data : Bytes) : PendingOp :=
  { o with
    remote := o.remote.filter (· != id)
    fill := o.fill.map fun f => { f with data := f.units.foldl (fun t u => putBytes t (64 * u) (data.take f.bytes)) f.data } }

/-- Once every lane's reply has returned, an error that one of them met is raised precisely at the load or value-returning
atomic (R189): the lowest failed lane, and for an atomic the lanes performed at the home, whose results are kept and which a
REISSUE does not perform again; a load is reissued in every lane. It waits while its core has no place for the record (R254). -/
def State.settleFailed (s : State) (id : Nat) : State :=
  match s.op? id with
  | none => s
  | some o =>
    if o.failed = [] ∨ o.remote ≠ [] ∨ o.cxl ≠ [] ∨ o.node.isSome ∨ !(s.mayRecord o.wave) then s
    else
      let lane := (o.failed.map (·.1)).foldl min 0xFF
      let va := ((o.failed.find? (·.1 == lane)).map (·.2)).getD 0
      let f : Fill := o.fill.getD { vector := true, reg := 0, bytes := 4, units := [] }
      let bad := o.failed.map fun x => if f.vector then x.1 else x.1 / 4
      let done := if o.atomic then f.units.filter fun u => !(bad.contains u) else []
      let lanes := fun (us : Nats) => laneMask (if f.vector then us else us.map (4 * ·))
      let s := (s.mapOp id fun o => { o with ended := true }).completeOp id
      let s := if o.atomic then s.resumeWave o.wave (·.deliver o.path (o.writes ++ f.writes done)) else s
      let mark := fun (x : Path) => { x with done := if o.atomic then (x.done &&& ~~~(lanes bad)) ||| lanes done else 0 }
      (s.mapPath (o.wave, o.path) mark).takeFault o.wave o.path { code := 0x10, lane := lane, addr := va }

/-- Operations whose errors had no place for their record are tried again. -/
def State.settleAllFailed (s : State) : State := (s.ops.filter (·.failed != [])).foldl (fun s o => s.settleFailed o.id) s

/-- The ladle operation's queue stops at an error of its target, and its timeline is fenced (R37, R248). -/
def State.stopQueueOf (s : State) (o : PendingOp) : State :=
  match o.engine, o.wave with
  | true, .user t g w =>
    s.mapGang t g fun x =>
      let k := w / max (((s.task? t).map Task.waves).getD 1) 1
      let q : LadleQueue := nth {} x.ladle k
      { x with ladle := setNth x.ladle k { q with stopped := some 0x10, tl := { q.tl with fenced := true } } }
  | _, _ => s

/-- An operation's access ends in an error found at its home (R36, R189, R248): `drop` takes it out of what the operation
waits for. A load or value-returning atomic keeps the error until its other replies are there, and a copy of the runner keeps it
for its node; anything else faults imprecisely, a ladle operation stopping its queue. -/
def State.failOp (s : State) (id lane : Nat) (va : DWord) (drop : PendingOp → PendingOp) : State :=
  match s.op? id with
  | none => s
  | some o =>
    if o.node.isSome then s.mapOp id fun o => { drop o with failed := o.failed ++ [(lane, va)] }
    else if o.isLoad then (s.mapOp id fun o => { drop o with failed := o.failed ++ [(lane, va)] }).settleFailed id
    else
      let s := s.mapOp id drop
      ({ s with imprecise := s.imprecise ++
          [{ wave := o.wave, path := o.path, code := 0x10, pc := o.pc, addr := va, ladle := o.engine }] } : State).stopQueueOf o

/-- A request that will have no reply, or whose reply is an error (R28, R36, R62). -/
def State.failRequest (s : State) (q : RemoteReq) : State :=
  let s := { s with remote := s.remote.filter (·.id != q.id) }
  match q.kind with
  | .notify ctx task _ => (s.dropRecord ctx).noteNotified task
  | .version _ _ _ _ => s.mapOp q.opId fun o => o.arriveAll q.id q.data
  | _ => s.failOp q.opId q.lane q.va fun o => { o with remote := o.remote.filter (· != q.id) }

/-- A request is the write of a notify record or of a monitor's reply. -/
def RemoteReq.isNotify (q : RemoteReq) : Bool := match q.kind with
  | .notify _ _ _ => true
  | _ => false

/-- A request without completion for 2 ms (R36, R62). -/
def RemoteReq.late (q : RemoteReq) (now : Nat) : Bool := q.sent && decide (q.since + 2000000 ≤ now)

/-- An acknowledgement returns (R33): with status 0 the access is performed at fabric scope and a reply's bytes are there;
any other status says that the home did not perform it (R18, R28, R62). A notify write has been dropped by the time of a
completion that returns 2 ms or more after it (R62). -/
def State.acknowledge (s : State) (id status : Nat) (data : Bytes) : State :=
  match s.remote.find? (·.id == id) with
  | none => s
  | some q =>
    if !q.sent then s
    else if status ≠ 0 ∨ (q.late s.now && q.isNotify) then s.failRequest q
    else
      let s := { s with remote := s.remote.filter (·.id != id) }
      match q.kind with
      | .notify _ task _ => s.noteNotified task
      | .version _ _ _ _ => s.mapOp q.opId fun o => o.arriveAll id data
      | _ => (s.mapOp q.opId fun o => o.arrive id q.dest data).settleFailed q.opId

/-- REMOTE_ACKNOWLEDGEMENT (R33). -/
def execRemoteAcknowledgement (id : Nat) (reply : RemoteReply) (s : State) : Result := .next (s.acknowledge id reply.status reply.data)

/-- Fail every outstanding request that a test picks. -/
def State.failWhere (s : State) (p : RemoteReq → Bool) : State := (s.remote.filter p).foldl State.failRequest s

/-- A destination package becomes fenced at this package (R36). -/
def State.fencePackage (s : State) (pkg : Nat) : State :=
  if s.fencedPkgs.contains pkg then s
  else ({ s with fencedPkgs := s.fencedPkgs ++ [pkg], routes := s.routes.set 0 pkg 0 } : State).failWhere (·.pkg == pkg)

/-- A request aims at memory of its destination, whose dies can be fenced; a question about a task does not (R36, R423). -/
def RemoteReq.inMemory (q : RemoteReq) : Bool := match q.kind with
  | .version _ _ _ _ => false
  | _ => true

/-- Another package's die becomes fenced (R36). -/
def State.fenceRemoteDie (s : State) (pkg d : Nat) : State :=
  if s.fencedRemoteDies.contains (pkg, d) then s
  else ({ s with fencedRemoteDies := s.fencedRemoteDies ++ [(pkg, d)] } : State).failWhere fun q =>
    q.pkg == pkg && q.inMemory && decide (q.off < 2 ^ 38) && dieOf q.off == d

/-- The accesses of an operation to a port have completed. -/
def PendingOp.cxlDone (o : PendingOp) (port : Nat) : PendingOp := { o with cxl := o.cxl.filter (·.port != port) }

/-- Every access of an operation to a port ends in an error (R42, R189), each lane's in turn. -/
def State.failPort (s : State) (port : Nat) (o : PendingOp) : State :=
  match o.cxl.filter (·.port == port) with
  | [] => s
  | x :: l =>
    let s := if o.isLoad then l.foldl (fun s y => s.mapOp o.id fun o => { o with failed := o.failed ++ [(y.lane, y.va)] }) s else s
    s.failOp o.id x.lane x.va (·.cxlDone port)

/-- The lanes of an operation whose data came back poisoned (R39): the units of its fill, and the lines they came from. -/
def State.poisonPort (s : State) (port : Nat) (o : PendingOp) : State :=
  let ps := o.cxl.filter (·.port == port)
  let s := if o.isLoad then ps.foldl (fun s x => s.poisonLines x.off x.bytes) s else s
  s.mapOp o.id fun o =>
    { o with fill := o.fill.map fun f => { f with poison := f.poison ++ ps.map fun x => if f.vector then x.lane else x.lane / 4 } }

/-- CXL_COMPLETION (R39, R41, R189): the port's expander completes the operation's accesses to it. -/
def execCxlCompletion (id : Nat) (reply : CxlReply) (s : State) : Result :=
  .next (match s.op? id with
    | none => match s.homeOps.find? (·.id == id) with
      | some o => if o.port = some reply.port then s.completeHome o reply.outcome else s
      | none => s
    | some o =>
      if o.cxl.all (·.port != reply.port) then s
      else match reply.outcome with
        | .done => (s.mapOp id (·.cxlDone reply.port)).settleFailed id
        | .failed => s.failPort reply.port o
        | .poisoned => ((s.poisonPort reply.port o).mapOp id (·.cxlDone reply.port)).settleFailed id)

/-- Fence a CXL port (R42): its outstanding requests take the outcomes of R36. -/
def State.fencePort (s : State) (p : Nat) : State :=
  let x : CxlPort := nth {} s.ports p
  let s := { s with ports := setNth s.ports p { x with up := false, fenced := true } }
  let s := (s.homeOps.filter (·.port == some p)).foldl (fun s o => s.completeHome o .failed) s
  s.ops.foldl (fun s o => s.failPort p o) s

/-- CXL_PORT_FENCE (R42). -/
def execCxlPortFence (p : Nat) (s : State) : Result := .next (if p < 4 then s.fencePort p else s)

/-- REQUEST_TIMEOUT (R36): a request without response for 2 ms fences its destination. -/
def execRequestTimeout (s : State) : Result :=
  .next ((s.remote.filter (·.late s.now)).foldl (fun s q => s.fencePackage q.pkg) s)

/-- NOTIFY_TIMEOUT (R62): a notify write without completion for 2 ms is dropped. -/
def execNotifyTimeout (s : State) : Result :=
  .next (s.failWhere fun q => q.late s.now && q.isNotify)

/-! ### Links -/

/-- Fence a link (R35): it leaves every route mask, a mask left empty fences its destination (R36), what had not been
acknowledged is resent over the surviving links in its order, and every endpoint whose route used the link has a notice. -/
def State.fenceLink (s : State) (n : Nat) : State :=
  let l := s.link n
  let s := s.mapLink n fun l => { l with up := false, fenced := true, retraining := none, retry := [], waiting := [] }
  let old := s.routes
  let drop := fun (m : Nat) => if bitOf m n then m - 2 ^ n else m
  let s := { s with routes := old.foldl (fun t (k, m) => t.set 0 k (drop m)) [] }
  let users := old.filter fun x => bitOf x.2 n
  let s := (users.filter fun x => drop x.2 == 0).foldl (fun s x => s.fencePackage x.1) s
  let again := (l.retry.map (·.parcel) ++ l.waiting).filter (·.page.isSome)
  let s := again.foldl (fun s x => s.sendParcel { x with again := true }) s
  if l.fenced then s else s.announce (.link s.ownId n) (users.map (·.1))

/-- Begin a retrain (R26). -/
def Link.retrain (l : Link) (now : Nat) : Link :=
  if l.fenced ∨ l.retraining.isSome then l
  else { l with up := false, retraining := some now, retrains := min (l.retrains + 1) 0xFFF, crcFails := 0 }

/-- A flit that arrives (R25, R26), and what it delivers, by kind and payload: a good one in sequence is taken and
acknowledges what was sent; a bad one, or one beyond a gap, has the first missing flit asked for again, and the sixteenth
bad one in a row starts a retrain; one that had been received before is dropped. -/
def Link.receive (l : Link) (now : Nat) (flit : Bytes) : Link × Option (Nat × Bytes) :=
  let want := (l.recvSeq + 1) % 4096
  if !l.up then (l, none)
  else if flit.length ≠ 128 ∨ fieldAt flit 124 4 ≠ crc32c (flit.take 124) then
    let l := { l with resend := some want }
    (if 15 ≤ l.crcFails then l.retrain now else { l with crcFails := l.crcFails + 1 }, none)
  else
    let seq := fieldAt flit 0 2 % 4096
    let kind := fieldAt flit 0 2 / 4096
    let l := { l with crcFails := 0, lastValid := now }
    if seq ≠ want then (if (seq + 4096 - want) % 4096 < 2048 then { l with resend := some want } else l, none)
    else
      let l := ({ l with recvSeq := seq, resend := none } : Link).acked now (fieldAt flit 2 2 % 4096)
      (if kind = 3 then l.retrain now else l, some (kind, (flit.drop 6).take 118))

/-- IDLE_FLIT (R26): an idle sender emits an idle flit with the next sequence number. -/
def execIdleFlit (link : Nat) (s : State) : Result :=
  .next (s.mapLink link fun l => if l.carries && l.waiting == [] then l.emit s.now { kind := 0, payload := [] } else l)

/-- Flits that a port or link sends again are counted (R43). -/
def countUp (n k cap : Nat) : Nat := min (n + k) cap

/-- FLIT_RESEND_REQUEST (R26): every flit from `seq` on is sent again in its order and counted (R43). Numbers from 12 on are
the CXL ports, whose replayed flits are `seq` in number. -/
def execFlitResendRequest (link seq : Nat) (s : State) : Result :=
  .next (if 12 ≤ link then
      let x : CxlPort := nth {} s.ports (link - 12)
      if x.up then { s with ports := setNth s.ports (link - 12) { x with retries := countUp x.retries seq 0xFFFF } } else s
    else s.mapLink link fun l =>
      let again := l.retry.filter fun f => decide ((f.seq + 4096 - seq % 4096) % 4096 < 2048)
      match again.getLast? with
      | none => l
      | some f => if l.up then
          { l with retries := countUp l.retries again.length 0xFFFF, lastSent := s.now, out := flitOf f.seq l.recvSeq f.parcel }
        else l)

/-- A fence notice (R35, R36): of this package's own links, and of other packages, their dies and links. -/
def State.noticed (s : State) (target : FenceTarget) : State :=
  match target with
  | .link pkg n =>
    if pkg = s.ownId then (if n < 12 then s.fenceLink n else s)
    else if s.fencedRemoteLinks.contains (pkg, n) then s
    else { s with fencedRemoteLinks := s.fencedRemoteLinks ++ [(pkg, n)] }
  | .die pkg d => if pkg = s.ownId then s else s.fenceRemoteDie pkg d
  | .package pkg => if pkg = s.ownId then s else s.fencePackage pkg

/-- FENCE_NOTICE (R35, R36). -/
def execFenceNotice (target : FenceTarget) (s : State) : Result := .next (s.noticed target)

/-- A retrain of a link, or of a CXL port from number 12 on, begins (R26, R43). -/
def State.retrain (s : State) (link : Nat) : State :=
  if 12 ≤ link then
    let x : CxlPort := nth {} s.ports (link - 12)
    if x.up then { s with ports := setNth s.ports (link - 12) { x with retrains := countUp x.retrains 1 0xFFF } } else s
  else s.mapLink link fun l => l.retrain s.now

/-- RETRAIN_REQUEST (R26). -/
def execRetrainRequest (link : Nat) (s : State) : Result := .next (s.retrain link)

/-- LINK_IDLE_TIMEOUT (R26): no valid flit for 20 µs. -/
def execLinkIdleTimeout (link : Nat) (s : State) : Result :=
  .next (s.mapLink link fun l => if l.up ∧ l.lastValid + 20000 ≤ s.now then l.retrain s.now else l)

/-- RETRAIN_COMPLETE (R26): the link carries flits again, and what waited goes out. -/
def execRetrainComplete (link : Nat) (s : State) : Result :=
  .next (s.mapLink link fun l => match l.retraining with
    | some t => if s.now < t + 200000 then
        Link.drain s.now l.waiting { l with up := true, retraining := none, lastValid := s.now } else l
    | none => l)

/-- RETRAIN_TIMEOUT (R26): every retrain of 200 µs. -/
def execRetrainTimeout (s : State) : Result :=
  .next (((upto 12).filter fun n => match (s.link n).retraining with
    | some t => decide (t + 200000 ≤ s.now)
    | none => false).foldl State.fenceLink s)

end Sys2Proof.Machine
end

