-- ==== Sys2Proof/Machine/Keccak.lean ====
section
/-! DEFINITION. SHAKE256 (R71, R72), as the public standard FIPS 202 gives it: the permutation of 1,600 bits, with its
rotations and round constants formed as the standard defines them, and the sponge of rate 136 bytes with the domain bits 1111. -/

namespace Sys2Proof.Machine

/-- The sponge's 1,600 bits as 25 lanes, lane (x, y) at index x + 5y. -/
abbrev Sponge := List DWord

/-- The index of lane (x, y), coordinates counted modulo 5. -/
def laneIx (x y : Nat) : Nat := x % 5 + y % 5 * 5

/-- The parity of the column at `x`. -/
def Sponge.parity (a : Sponge) (x : Nat) : DWord := (upto 5).foldl (fun p y => p ^^^ nth 0 a (laneIx x y)) 0

/-- θ: what every lane of column `x` is combined with. -/
def Sponge.theta (a : Sponge) : Sponge :=
  let ds := (upto 5).map fun x => a.parity (x + 4) ^^^ (a.parity (x + 1)).rotateLeft 1
  (upto 25).map fun i => nth 0 a i ^^^ nth 0 ds (i % 5)

/-- ρ and π together, as the standard defines the offsets: the walk that starts at (1, 0) and goes from (x, y) to (y, 2x + 3y)
carries each lane to the next stop, rotated by the triangular numbers. `old` is the state before, `new` what has been written. -/
def Sponge.walk (old : Sponge) : Nat → Nat → Nat → Sponge → Sponge
  | 0, _, _, new => new
  | t + 1, x, y, new =>
    let turn := (24 - t) * (25 - t) / 2 % 64
    old.walk t y (2 * x + 3 * y) (new.set (laneIx y (2 * x + 3 * y)) ((nth 0 old (laneIx x y)).rotateLeft turn))

/-- χ. -/
def Sponge.chi (a : Sponge) : Sponge :=
  (upto 25).map fun i =>
    let next := nth 0 a (laneIx (i + 1) (i / 5))
    nth 0 a i ^^^ (nth 0 a (laneIx (i + 2) (i / 5)) &&& ~~~next)

/-- The shift register that ι's constants come from: x⁸ + x⁶ + x⁵ + x⁴ + 1. -/
def shiftRegister (r : Nat) : Nat := if 128 ≤ r then (2 * r) ^^^ 0x171 else 2 * r

/-- The constant of one round from the register's seven next bits, at bits 2ʲ − 1, and the register after them. -/
def iotaOf (r : Nat) : DWord × Nat :=
  (upto 7).foldl (fun (k : DWord × Nat) j =>
    (if k.2 % 2 = 1 then k.1 ||| BitVec.twoPow 64 (2 ^ j - 1) else k.1, shiftRegister k.2)) (0, r)

/-- `n` rounds, with the register as it stands before them. -/
def Sponge.rounds : Nat → Nat → Sponge → Sponge
  | 0, _, a => a
  | n + 1, r, a =>
    let (k, r) := iotaOf r
    let b := a.theta
    let c := (b.walk 24 1 0 b).chi
    Sponge.rounds n r (c.set 0 (nth 0 c 0 ^^^ k))

/-- Bytes of SHAKE256's rate. -/
def shakeRate : Nat := 136

/-- One block of the rate enters the sponge, and 24 rounds follow. -/
def Sponge.take (a : Sponge) (block : Bytes) : Sponge :=
  Sponge.rounds 24 1 ((upto 25).map fun i => nth 0 a i ^^^ BitVec.ofNat 64 (fieldAt block (8 * i) 8))

/-- The message with the domain bits and the padding to whole blocks. -/
def shakePad (m : Bytes) : Bytes :=
  let room := shakeRate - m.length % shakeRate
  m ++ (if room = 1 then [0x9F] else [0x1F] ++ List.replicate (room - 2) 0 ++ [0x80])

/-- The first `n` bytes of SHAKE256, for `n` up to the rate. -/
def shake256 (n : Nat) (m : Bytes) : Bytes :=
  let padded := shakePad m
  let last := (pieces shakeRate padded.length padded).foldl Sponge.take (List.replicate 25 0)
  (last.flatMap fun v => leBytes 8 v.toNat).take n

end Sys2Proof.Machine
end

