-- ==== Sys2Proof/Machine/Thermal.lean ====
section
/-! DEFINITION. Temperatures, refresh bands, allowance and power (R11–R15, R96, R98). -/

namespace Sys2Proof.Machine

/-- The lower bound of a band in 0.25 °C units (R11): bands 1, 2 and 3 lie above 85, 95 and 105 °C. -/
def bandBound : Nat → Nat
  | 0 => 0
  | 1 => 340
  | 2 => 380
  | _ => 420

/-- The band that a temperature alone would give. -/
def rawBand (t : Nat) : Nat := if 420 < t then 3 else if 380 < t then 2 else if 340 < t then 1 else 0

/-- Leave a band downward only 2 °C below its bound (R11). -/
def coolBand (t : Nat) : Nat → Nat
  | 0 => 0
  | b + 1 => if t + 8 ≤ bandBound (b + 1) then coolBand t b else b + 1

/-- The band after a reading (R11). -/
def nextBand (band t : Nat) : Nat := if band ≤ rawBand t then rawBand t else max (rawBand t) (coolBand t band)

/-- The DRAM term of a band (R96). -/
def dramTerm : Nat → Nat
  | 0 => 255
  | 1 => 96
  | 2 => 32
  | _ => 0

/-- The junction term (R96); the reading is in 0.25 °C units. -/
def junctionTerm (q : Nat) : Nat := (min 255 (max 0 (255 - (11 * ((q : Int) - 320)) / 4))).toNat

/-- The allowance of a cluster (R96, R98): the floor raises the junction term alone. -/
def Cluster.recompute (c : Cluster) : Cluster :=
  { c with allow := min (max (junctionTerm c.junction) c.floor) (min (dramTerm c.dramBand) c.powerTerm) }

/-- The highest sensor reading of a die (R11). -/
def Die.hottest (d : Die) : Nat := d.sensors.foldl max 0

/-- Nanoseconds between two samples of the sensors (R11). -/
def samplePeriod : Nat := 100000

/-- The refresh interval of a band in ns (R11). -/
def refreshNs : Nat → Nat
  | 0 => 32000000
  | 1 => 16000000
  | _ => 8000000

/-- A die after a sample (R11–R13): the band that its temperature asks for, by when that band is in force, and by when the die
is fenced. A fenced die stays in self-refresh. -/
def Die.sampled (d : Die) (now : Nat) (readings : Nats) : Die :=
  let d : Die := { d with sensors := readings }
  if d.fenced then d
  else
    let band := nextBand d.pendingBand d.hottest
    { d with
      pendingBand := band
      bandDue := if band = d.band then none else d.bandDue.orElse fun _ => some (now + refreshNs d.band)
      fenceDue := d.fenceDue.orElse fun _ => if 420 < d.hottest then some (now + 10000) else none }

/-- Take a sample (R11): `dram` holds 16 readings per die in order, `junction` one per cluster. -/
def State.sample (s : State) (dram junction : Nats) : State :=
  let dies := s.dies.zipIdx.map fun (d, i) => d.sampled s.now ((upto 16).map fun k => nth 0 dram (16 * i + k))
  let s := { s with dies := dies, sampledAt := some s.now }
  (upto Config.clusters).foldl (fun s c =>
    let t := nth 0 (s.die (c / 32)).sensors (c % 32 / 2)
    s.mapCluster c fun k =>
      ({ k with dramBand := nextBand k.dramBand t, junction := nth 0 junction c } : Cluster).recompute) s

/-- The next sample is due: the first one of a start is taken in its step 0x01 (R11, R16). -/
def State.sampleDue (s : State) : Bool :=
  match s.sampledAt with
  | some t => decide (t + samplePeriod ≤ s.now)
  | none => false

/-- SENSOR_SAMPLE (R11, R96): every 100 µs. -/
def execSensorSample (dram junction : Nats) (s : State) : Result :=
  .next (if s.sampleDue then s.sample dram junction else s)

/-- REFRESH_COMMAND (R12): a changed band takes effect at the die's next refresh command. -/
def execRefreshCommand (d : Nat) (s : State) : Result :=
  .next (s.mapDie d fun x => { x with band := x.pendingBand, bandDue := none })

/-- The first `n` clusters by junction reading, the hottest first and the lower number on a tie. -/
def State.hottestClusters (s : State) (n : Nat) : Nats :=
  ((upto Config.clusters).mergeSort fun a b => decide ((s.cluster b).junction ≤ (s.cluster a).junction)).take n

/-- POWER_LIMIT (R15, R96): `watts` is the package power over the 1 ms before. Above the TDP, firmware lowers the power term
of the hottest clusters, as many as it names and at least one; otherwise every power term is 255. -/
def execPowerLimit (watts n term : Nat) (s : State) : Result :=
  .next (
    if s.now < s.startedAt + 1000000 then s
    else if 4400 < watts then
      (s.hottestClusters (max n 1)).foldl (fun s c =>
        s.mapCluster c fun k => ({ k with powerTerm := min k.powerTerm (min term 255) } : Cluster).recompute) s
    else (s.clusters.map (·.1)).foldl (fun s c => s.mapCluster c fun k => ({ k with powerTerm := 255 } : Cluster).recompute) s)

/-- A load of this package's own that is still outstanding meets the fence of its die (R13, R189): the device chooses whether
it was performed, and which of its results had been received; an unperformed one ends in an imprecise fault, and what had
not been received keeps its value. -/
def State.fenceLoad (s : State) (o : PendingOp) : State :=
  let n := o.results.length
  let s' := { s with fresh := s.fresh + 1 + n }
  if !(Config.freeChoice s.fresh) then s'
  else
    let got := (o.results.zipIdx.filter fun (_, k) => Config.freeChoice (s.fresh + 1 + k)).map (·.1)
    ({ s'.mapOp o.id (fun o => { o with writes := got, fill := none, homes := [] }) with
        imprecise := s.imprecise ++ [{ wave := o.wave, path := o.path, code := 0x10, pc := o.pc, addr := o.va }] } : State)

/-- Fence a die (R13): its tasks are killed as a whole, the timelines of engine contexts on it are fenced, its memory
stays in self-refresh, and every endpoint of the domain has a notice (R36). -/
def State.fenceDie (s : State) (d : Nat) : State :=
  let onDie := fun (g : Gang) => decide (g.cluster / 32 = d) && (g.state == .running || g.state == .placing)
  let fence := fun (t : Timeline) => { t with fenced := true }
  let fenced := fun (x : Die) => { x with fenced := true, fenceDue := none, band := 3, pendingBand := 3, bandDue := none, runner := fence x.runner }
  let s := s.mapDie d fenced
  let ts := ((s.gangs.filter onDie).map (·.task)).eraseDups
  let stop := fun (g : Gang) =>
    let q : List LadleQueue := g.ladle.map fun q => { q with tl := fence q.tl }
    if onDie g then { g with casterTl := fence g.casterTl, ladle := q } else g
  let s := { s with gangs := s.gangs.map stop }
  let s := ts.foldl (fun s t => s.endTask t stKilled 0) s
  let s := (s.ops.filter fun o => o.isLoad && o.homes.contains d).foldl State.fenceLoad s
  s.announce (.die s.ownId d) s.peers

/-- DIE_FENCE (R13): at a moment the device chooses in the 10 µs after a sample above 105 °C. -/
def execDieFence (d : Nat) (s : State) : Result :=
  .next (if (s.die d).fenceDue.isSome ∧ !(s.die d).fenced then s.fenceDie d else s)

end Sys2Proof.Machine
end

