-- ==== Sys2Proof/Machine/Start.lean ====
section
/-! DEFINITION. Cold and warm starts (R16–R20), firmware and its recovery (R72, R73), attestation (R74, R75)
and the debug token (R272). -/

namespace Sys2Proof.Machine

/-! ### Firmware -/

/-- Bytes of an ML-DSA-65 signature (R71). -/
def sigBytes : Nat := 3309

/-- The check of a firmware image (R72, R73): 0x01 accepted, 0x04 header or length, 0x02 signature, 0x03 version. -/
def firmwareCheck (fusedMin : Nat) (image : Bytes) : Nat :=
  let f := fieldAt image
  let n := f 12 4
  if image.length < 64 ∨ f 0 4 ≠ 0x4D4C5846 ∨ f 4 2 ≠ 1 ∨ f 6 2 ≠ 0 ∨ f 16 48 ≠ 0 ∨ image.length < 64 + n + sigBytes then 0x04
  else if !(Config.signatureValid 0 (image.take (64 + n)) ((image.drop (64 + n)).take sigBytes)) then 0x02
  else if f 8 4 < fusedMin then 0x03 else 0x01

/-- Run a checked image: its measurement and version (R72). -/
def Security.boot (x : Security) : Security :=
  { x with measurement := shake256 48 (x.firmware.take (64 + fieldAt x.firmware 12 4)), version := fieldAt x.firmware 8 4 }

/-- Stopped for want of authentic firmware, the device answers management-space reads and the recovery interface alone (R17,
R73). -/
def State.inRecovery (s : State) : Bool := s.start.err == 0x02

/-- A write by an endpoint that its rule admits is performed and ACCEPTED; by another it is DENIED; in recovery it is not
answered (R17, R30). -/
def State.answered (s : State) (admitted : Bool) (f : State → State) : State :=
  if s.inRecovery then s else if admitted then (f s).status hsAccepted else s.status hsDenied

/-! ### The steps of a start -/

/-- What stays of a start's inputs for one that is requested later (R20): the domain, the expanders and their links; every unit
that is there passes. -/
def standing (r : StartInput) : StartInput :=
  let ports := maskOf ((upto 4).filter fun p => bitOf r.cxlOk p || nth 0 r.cxlCapacity p != 0)
  { ownId := r.ownId, hosts := r.hosts, packages := r.packages, privileged := r.privileged, cxlWidth := r.cxlWidth
    cxlCapacity := r.cxlCapacity, cxlOk := ports, cxlRetained := ports }

/-- Step 0x05 (R17, R27, R49, R44, R39, R40): the domain, the links, the ports, of which one narrower than 8 lanes is fenced,
and the route masks. -/
def State.joinDomain (s : State) (r : StartInput) : State :=
  let up := (upto 12).filter fun n => bitOf r.linkOk n
  let mask := maskOf up
  let peers := (r.hosts ++ r.packages).filter (· != r.ownId)
  let ports := (upto 4).filter fun p => bitOf r.cxlOk p && decide (8 ≤ nth 0 r.cxlWidth p)
  { s with
    domain := standing r
    ownId := r.ownId, hosts := r.hosts, packages := r.packages, privileged := r.privileged
    links := (upto 12).map fun n => { up := bitOf r.linkOk n, fenced := !(bitOf r.linkOk n), lastValid := s.now, lastSent := s.now }
    ports := (upto 4).map fun p =>
      { up := ports.contains p, fenced := !(ports.contains p), width := nth 0 r.cxlWidth p
        capacity := min (nth 0 r.cxlCapacity p) (2 ^ 40) }
    routes := if mask = 0 then [] else peers.foldl (fun t p => t.set 0 p mask) []
    fencedPkgs := if mask = 0 then peers else [] }

/-- The notify writes that are on their way to other endpoints (R20, R61); those still due are written with nothing left to wait
for. -/
def State.notifyWrites (s : State) : List RemoteReq := s.remote.filter fun q => match q.kind with
  | .notify _ _ _ => true
  | _ => false

/-- The clusters at the beginning of a start: their tests count from now and their idle time begins now (R94, R102). -/
def freshClusters (now : Nat) : Table Cluster :=
  if now = 0 then []
  else (upto Config.clusters).map fun c => (c, { test := { lastPass := now }, bubble := { idleFrom := some now } })

/-- Clear everything that a start resets, keeping the given contexts and queues, and on a warm start the notify writes on
their way. Every die's and cluster's refresh band begins at 0 again, whatever it was before the start, so that the hysteresis of
R11 starts anew: the manual does not say, and the choice is the model's (log 131). -/
def State.blank (s : State) (warm : Bool) (life : Nat) (x : Security) (ctxs : Table (Option Context))
    (queues : Table Queue) : State :=
  { now := s.now, moves := s.moves, fresh := s.fresh, nextId := s.nextId, powered := true
    start := { step := 0x01, warm := warm, lifecycle := life, bist := s.start.bist && warm }
    startedAt := s.now, remote := if warm then s.notifyWrites else []
    notices := if warm then s.notices.map fun x => { x with timeline := none } else []
    security := { firmware := x.firmware, fusedMin := x.fusedMin, draws := x.draws }
    domain := s.domain, clusters := freshClusters s.now
    clusterMask := s.clusterMask, mem := s.mem, poison := s.poison, contexts := ctxs, queues := queues
    notifyLost := if warm then s.notifyLost else [] }

/-- The ranges of this package's offsets that a page table of level `l` and the tables below it take and map
(R179–R181): offset and bytes. -/
def State.tableRanges (s : State) : Nat → Nat → List (Nat × Nat)
  | 0, table =>
    (table % 2 ^ 54, 256) :: (upto 32).filterMap fun i =>
      match s.tableEntry (table + 8 * i) with
      | some e => if bitOf e 0 ∧ bitOf e 1 ∧ e / 2 ^ 54 = s.ownId then some (e / 2 ^ 16 * 2 ^ 16 % 2 ^ 54, 2 ^ 16) else none
      | none => none
  | l + 1, table =>
    (table % 2 ^ 54, 4096) :: (upto 512).flatMap fun i =>
      match s.tableEntry (table + 8 * i) with
      | some e =>
        if !(bitOf e 0) then []
        else if bitOf e 1 then
          (if e / 2 ^ 54 = s.ownId then [(e / 2 ^ 16 * 2 ^ 16 % 2 ^ 54, 2 ^ levelLow (l + 1))] else [])
        else s.tableRanges l (e / 256 * 256)
      | none => []

/-- Whether a range lies on a die, or on a CXL port, of these masks. -/
def rangeOn (dies ports : Nat) (r : Nat × Nat) : Bool :=
  if r.1 < 2 ^ 40 then bitOf dies (dieOf r.1) else bitOf ports (dieOf r.1)

/-- Step 0x06 (R16, R17): memory is zeroed except the pages that are kept. -/
def State.zeroMemory (s : State) (keep : List (Nat × Nat)) : State :=
  let kept := fun off => keep.any fun r => decide (r.1 ≤ off) && decide (off < r.1 + r.2)
  { s with mem := s.mem.filter (fun x => kept x.1), poison := s.poison.filter (fun x => kept (64 * x.1)) }

/-- Step 0x04 (R10, R16, R17): a cluster, memory-side cache or bridge that fails its self-test is fenced. -/
def State.selfTest (s : State) (r : StartInput) : State :=
  { s with
    clusterMask := BitVec.ofNat 128 r.clusterOk
    dies := s.dies.zipIdx.map fun (d, i) => { d with cacheFenced := !(bitOf r.cacheOk i) }
    bridges := (upto 4).map fun b => !(bitOf r.bridgeOk b) }

/-- Steps 0x01 to 0x07 on a state whose contexts have been settled (R16, R17); each cluster's first test interval
begins (R99). A die, cluster or link that fails its step while the start goes on leaves ERR at 0: R19 lists codes for them and
R17 has the start continue, and which holds is the model's choice (log 132). -/
def State.runSteps (s : State) (r : StartInput) (test : Bool) : State :=
  let warm := s.start.warm
  let s := s.sample r.dram r.junction
  let settle := fun (d : Die) => { d with band := d.pendingBand, bandDue := none }
  let s := { s with dies := s.dies.map settle }
  let res := firmwareCheck s.security.fusedMin s.security.firmware
  if res ≠ 0x01 then
    let s := s.joinDomain r
    { s with start := { s.start with step := 0x05, err := 0x02, bist := false } }
  else
    let s := { s with security := s.security.boot }
    let lost := if warm then (upto 4).filter fun d => !(bitOf r.dieRetained d) else []
    let dead := if warm then lost.filter fun d => !(bitOf r.dieTrained d) else (upto 4).filter fun d => !(bitOf r.dieTrained d)
    let kill := fun (x : Die × Nat) =>
      if dead.contains x.2 then { x.1 with fenced := true, band := 3, pendingBand := 3, fenceDue := none } else x.1
    let s := { s with dies := s.dies.zipIdx.map kill }
    let s := if test then s.selfTest r else s
    let s := s.joinDomain r
    let gone := if warm then (upto 4).filter fun p => !(bitOf r.cxlRetained p) && (nth ({} : CxlPort) s.ports p).up else []
    let ranges := fun (c : Context) => s.tableRanges 4 c.root.toNat
    let broken := fun (c : Context) => (ranges c).any (rangeOn (maskOf lost) (maskOf gone))
    let ctxs := s.contexts.filter fun x => match x.2 with
      | some c => warm && !(broken c)
      | none => false
    let keep := (ctxs.flatMap fun x => match x.2 with
      | some c => ranges c
      | none => []).filter fun x => !(rangeOn (maskOf lost) (maskOf gone) x)
    let s := { s.zeroMemory keep with contexts := ctxs }
    let release := fun (x : Nat × Queue) => match x.2.bound with
      | some c => if (s.ctx? c).isSome then x else (x.1, ({} : Queue))
      | none => x
    let s := { s with queues := s.queues.map release }
    let s := (upto Config.clusters).foldl (fun s c =>
      s.mapCluster c fun k => { k with test := { k.test with
        lastPass := s.startedAt, nextAt := s.now + s.testInterval * 3600000000000 } }) s
    { s with start := { s.start with step := 0x07, ready := true, rl := lost != [] || gone != [], bist := false } }

/-- A cold start (R16, R20). The stored firmware, the fused minimum and the lifecycle are the device's own: the inputs give them
to the first start of all alone, and only RECOVER and MINUP change the first two (R72, R73). -/
def State.coldStart (s : State) (r : StartInput) : State :=
  let x := if s.powered then s.security else { s.security with firmware := r.firmware, fusedMin := r.fusedMin }
  ((s.blank false (if s.powered then s.start.lifecycle else r.lifecycle) x [] []).zeroMemory []).runSteps r true

/-- POWER_ON (R16). -/
def execPowerOn (r : StartInput) (s : State) : Result := .next (s.coldStart r)

/-- COLD_START (R20). -/
def execColdStart (ep : Nat) (r : StartInput) (s : State) : Result :=
  .next (s.answered (s.privEp ep) fun s => s.coldStart r)

/-- What a warm start does before its steps (R20): tasks are killed, contexts without the retain flag are
destroyed, and the others keep what R20 names. -/
def State.warmPrepare (s : State) (bist : Bool) : State :=
  let s := { s with start := { s.start with ready := false, bist := bist } }
  let s := (s.tasks.filter (·.status == 0)).foldl (fun s t => s.stopTask t.id stKilled) s
  let cs := s.contexts.filterMap fun (i, c) => c.map fun x => (i, x.retain)
  let s := (cs.filter fun x => !x.2).foldl (fun s x => s.destroyCtx x.1) s
  (cs.filter (·.2)).foldl (fun s x =>
    let s := (s.queuesOf x.1).foldl (fun s q => (s.abandonQueue q).endQueue q) s
    (s.revokeAll x.1).mapCtx x.1 fun c =>
      { c with session := none, mailbox := [], breaks := [], checkpoint := none, ckptBusy := false }) s

/-- A warm start may begin its steps: every sensor of each fenced die, its clusters' junction sensors among them, reads 95 °C
or below (R13, R20). -/
def State.cooled (s : State) : Bool :=
  s.dies.zipIdx.all fun (d, i) => !d.fenced
    || (decide (d.hottest ≤ 380) && (upto 32).all fun k => decide ((s.cluster (32 * i + k)).junction ≤ 380))

/-- The steps of a warm start: the memory-side caches and bridges that an earlier self-test fenced stay fenced where none
runs now. -/
def State.warmSteps (s : State) (r : StartInput) : State :=
  let s := s.flushNumbers
  let t := s.blank true s.start.lifecycle s.security s.contexts s.queues
  let keep := fun (x : Die × Nat) => { x.1 with cacheFenced := (s.die x.2).cacheFenced }
  ({ t with bridges := s.bridges, dies := t.dies.zipIdx.map keep } : State).runSteps r s.start.bist

/-- A warm start (R20). -/
def State.warmStart (s : State) (bist : Bool) (r : StartInput) : State :=
  let s := s.warmPrepare bist
  if s.cooled then s.warmSteps r else { s with start := { s.start with pendingWarm := true } }

/-- WARM_START (R20). -/
def execWarmStart (ep : Nat) (bist : Bool) (r : StartInput) (s : State) : Result :=
  .next (s.answered (s.privEp ep) fun s => s.warmStart bist r)

/-- What a requested start finds when no event supplies it: the domain as the last start found it, every unit passing, and the
temperatures as the sensors read now (R16, R20). It is the model's choice (log 106). -/
def State.sameDomain (s : State) : StartInput :=
  if s.start.pendingCold then s.domain
  else { s.domain with dram := s.dies.flatMap (·.sensors), junction := (upto Config.clusters).map fun c => (s.cluster c).junction }

/-- A start that START_CTRL requests (R20): everything before its step 0x01 happens at the write. A cold one takes the device
to where power-on finds it. -/
def State.requestStart (s : State) (cold bist : Bool) : State :=
  if cold then
    let t := s.blank false s.start.lifecycle s.security [] []
    { t with sampledAt := s.sampledAt, start := { t.start with step := 0, pendingCold := true }, domain := s.sameDomain }
  else
    let t := s.warmPrepare bist
    { t with start := { t.start with pendingWarm := true } }

/-- FENCED_DIE_COOLED (R20): the steps of a start that has been requested begin, those of a warm one once every sensor of the
fenced dies reads 95 °C or below. -/
def execFencedDieCooled (r : StartInput) (s : State) : Result :=
  .next (if s.start.pendingCold then s.coldStart r
    else if s.start.pendingWarm ∧ s.cooled then s.warmSteps r else s)

/-! ### Recovery (R73) -/

/-- Bytes of the recovery window (R22). -/
def windowBytes : Nat := 16384 * 1024

/-- A write into the recovery window. While ERR is not 0x02 the window accepts nothing, and the write is DENIED: R73 gives no
status, and the choice is the model's (log 133). -/
def State.windowWrite (s : State) (ep off : Nat) (data : Bytes) : State :=
  let n := data.length
  if !(s.privEp ep) ∨ s.start.err ≠ 0x02 then s.status hsDenied
  else if n < 8 ∨ 64 < n ∨ n % 8 ≠ 0 ∨ off % 8 ≠ 0 ∨ windowBytes < off + n then s.status hsMalformed
  else
    ({ s with security := { s.security with
        window := putBytes s.security.window off data, windowLen := max s.security.windowLen (off + n) } } : State).status hsAccepted

/-- RECOVERY_WINDOW_WRITE (R73). -/
def execRecoveryWindowWrite (ep off : Nat) (data : Bytes) (s : State) : Result := .next (s.windowWrite ep off data)

/-- A write of FW_CTRL (R73). Where both bits are set, RECOVER alone is performed: the rule gives no order, and the choice is
the model's (log 101). -/
def State.fwCtrl (s : State) (ep : Nat) (recover minup : Bool) : State :=
  if !(s.privEp ep) then s.status hsDenied
  else
    let x := s.security
    let x := if !recover && !minup then x
      else if x.fwBusy ≠ 0 then { x with fwResult := 0x07 }
      else if recover then (if s.start.err ≠ 0x02 then { x with fwResult := 0x05 } else { x with fwBusy := 1 })
      else { x with fwBusy := 2 }
    ({ s with security := x } : State).status hsAccepted

/-- RECOVER (R73). -/
def execRecover (ep : Nat) (s : State) : Result := .next (s.fwCtrl ep true false)

/-- RECOVERY_CHECK_DONE (R73): an accepted image is stored, and a cold start runs. -/
def execRecoveryCheckDone (r : StartInput) (s : State) : Result :=
  .next (
    if s.security.fwBusy ≠ 1 then s
    else
      let image := getBytes s.security.window 0 s.security.windowLen
      let res := firmwareCheck s.security.fusedMin image
      let s := { s with security := { s.security with fwBusy := 0, fwResult := res } }
      if res ≠ 0x01 then s
      else
        let s := ({ s with security := { s.security with firmware := image } } : State).coldStart r
        { s with security := { s.security with fwResult := 0x01 } })

/-- MINUP (R73). -/
def execMinup (ep : Nat) (s : State) : Result := .next (s.fwCtrl ep false true)

/-- FUSE_WRITE_DONE (R73). -/
def execFuseWriteDone (s : State) : Result :=
  .next (if s.security.fwBusy ≠ 2 then s
    else { s with security := { s.security with
      fwBusy := 0, fwResult := 0x06, fusedMin := max s.security.fusedMin s.security.version } })

/-! ### Attestation (R74, R75) -/

/-- VALID says that the area holds a report for CTX and the nonce (R74): it clears when either has come to differ. -/
def Security.holdsReport (x : Security) : Security :=
  { x with attValid := x.attValid && decide (x.attCtx = x.attFor) && decide (x.nonce = x.attNonce) }

/-- A GO write of ATT_CTRL. -/
def State.attest (s : State) (ctx : Nat) : State :=
  let x := s.security
  let x := if x.attBusy then { x with attErr := 0x02 }
    else if (s.ctx? ctx).isNone then { x with attCtx := ctx, attErr := 0x01 }
    else { x with attCtx := ctx, attErr := 0, attBusy := true, attValid := false, attAt := s.now
                  attFor := ctx, attNonce := x.nonce }
  { s with security := x.holdsReport }

/-- GO (R74): any host endpoint. -/
def execAttGo (ep ctx : Nat) (s : State) : Result :=
  .next (s.answered (s.hosts.contains ep || s.privEp ep) fun s => s.attest (ctx % 64))

/-- The feature mask in force (R75, R272). -/
def State.features (s : State) : Nat :=
  if s.start.lifecycle = 1 then 0xFFFFFFFF else if s.security.tokenActive then s.security.tokenMask else 0

/-- The device serial number (R71). -/
def serialBytes : Bytes := (upto 8).map Config.identityByte

/-- The report (R75). -/
def State.report (s : State) (i : Nat) (c : Context) : Bytes :=
  let x := s.security
  leBytes 4 0x52544C4D ++ leBytes 2 1 ++ leBytes 1 s.start.lifecycle
    ++ leBytes 1 (x.tokenActive.toNat + 2 * c.debuggable.toNat) ++ serialBytes
    ++ (x.measurement ++ List.replicate 48 0).take 48 ++ leBytes 4 x.version ++ leBytes 1 i ++ leBytes 3 0
    ++ leBytes 4 c.tenant ++ leBytes 2 c.owner ++ leBytes 2 0 ++ getBytes x.attNonce 0 32 ++ leBytes 8 s.now
    ++ leBytes 4 s.features ++ leBytes 132 0

/-- REPORT_READY (R75): the report of the context and the nonce that GO found, as the context stands at the signing. -/
def execReportReady (s : State) : Result :=
  .next (
    if !s.security.attBusy then s
    else match s.ctx? s.security.attFor with
      | none => { s with security := { s.security with attBusy := false, attErr := 0x01 } }
      | some c =>
        let r := s.report s.security.attFor c
        let x := { s.security with attBusy := false, attValid := true, report := r, signature := Config.sign r }
        { s with security := x.holdsReport })

/-! ### The debug token (R272) -/

/-- The checks of a token. -/
def State.tokenGood (s : State) : Bool :=
  let t := getBytes s.security.token 0 (64 + sigBytes)
  let f := fieldAt t
  s.start.lifecycle != 3 && decide (f 0 4 = 0x4B544244) && decide (f 4 2 = 1) && decide (f 6 2 = 0)
    && (t.drop 8).take 8 == serialBytes && (t.drop 16).take 32 == (Config.challenge s.security.draws).take 32
    && decide (f 48 4 < 16) && decide (f 52 12 = 0) && Config.signatureValid 1 (t.take 64) (t.drop 64)

/-- A write of 1 to bit 0 of DBG_CTRL: every check draws a new challenge. -/
def State.checkToken (s : State) : State :=
  let x := s.security
  let x := if s.tokenGood then
      { x with tokenActive := true, tokenRefused := false, tokenMask := Nat.lor x.tokenMask (fieldAt (getBytes x.token 0 64) 48 4) }
    else { x with tokenRefused := true }
  { s with security := { x with draws := x.draws + 1 } }

/-- TOKEN_CHECK (R272). -/
def execTokenCheck (ep : Nat) (s : State) : Result :=
  .next (s.answered (s.hosts.contains ep || s.privEp ep) State.checkToken)

end Sys2Proof.Machine
end

