-- ==== Sys2Proof/Machine/Registers.lean ====
section
/-! DEFINITION. The management space (R19–R22, R29, R30): every register of it as it reads and as it is
written, by hosts and by privileged code. -/

namespace Sys2Proof.Machine

/-! ### Reads -/

/-- A Boolean as bit `i` of a word. -/
def flagBit (b : Bool) (i : Nat) : Nat := b.toNat * 2 ^ i

/-- Word `i` of a byte string. -/
def wordAt (bs : Bytes) (i : Nat) : Nat := fieldAt bs (4 * i) 4

/-- The capability list (R21, R22). A set bit of the link mask or of the port mask stands for a link or port that is up; the
rule does not say which way the bits read, and the choice is the model's (log 102). -/
def State.capabilities (s : State) : Bytes :=
  let row := fun (id next : Nat) (pay : Bytes) => leBytes 2 id ++ leBytes 2 1 ++ leBytes 4 next ++ pay
  let up := maskOf ((upto 12).filter fun n => (s.link n).up)
  let ports := maskOf ((upto 4).filter fun p => (nth ({} : CxlPort) s.ports p).up)
  row 1 0x10 (leBytes 4 Config.startStatusOffset ++ leBytes 4 Config.startCtrlOffset)
    ++ row 2 0x20 (leBytes 4 Config.clusterMaskOffset ++ leBytes 2 up ++ leBytes 1 ports ++ leBytes 1 0)
    ++ row 3 0x30 (leBytes 4 Config.sensorBlockOffset ++ leBytes 4 0)
    ++ row 4 0x40 (leBytes 4 Config.apertureOffset ++ leBytes 2 64 ++ leBytes 2 64)
    ++ row 5 0x50 (leBytes 4 Config.identityOffset ++ leBytes 4 0)
    ++ row 6 0x60 (leBytes 4 Config.expertOffset ++ leBytes 4 0)
    ++ row 7 0 (leBytes 4 Config.recoveryOffset ++ leBytes 4 16384)

/-- START_STATUS (R19). -/
def State.startStatus (s : State) : Nat :=
  s.start.step * 2 ^ 24 + s.start.err * 2 ^ 16 + maskOf ((upto 4).filter fun d => (s.die d).fenced) * 2 ^ 8
    + flagBit s.start.rl 2 + flagBit s.start.warm 1 + flagBit s.start.ready 0

/-- QUEUE_STATUS (R52). -/
def Queue.status (q : Queue) : Nat :=
  flagBit q.bound.isSome 31 + q.cls * 2 ^ 26 + q.weight * 2 ^ 16 + q.bound.getD 0 * 2 ^ 8 + q.pending.length

/-- A word of the command aperture (R45); write-only areas read zero. -/
def State.apertureWord (s : State) (o : Nat) : Option Nat :=
  let half := fun (v : Nat) => v / 2 ^ (8 * (o % 8)) % 2 ^ 32
  if o < 0x41000 then
    if o % 0x1000 < 0x108 then some 0
    else if o < 0x40000 ∧ o % 0x1000 = 0x800 then some (s.queue (o / 0x1000)).status
    else none
  else if 0x50000 ≤ o ∧ o < 0x52000 then
    let t := ((s.ctx? ((o - 0x50000) / 0x80)).map fun c => nth ({} : Timeline) c.timelines (o % 0x80 / 8)).getD {}
    some (half t.reached)
  else if 0x60000 ≤ o ∧ o < 0x60200 then some (half (s.notifyLost.get 0 ((o - 0x60000) / 8)))
  else none

/-- FW_CTRL (R73). -/
def Security.fwWord (x : Security) : Nat := flagBit (x.fwBusy != 0) 31 + x.fwResult * 2 ^ 16

/-- ATT_CTRL (R74). -/
def Security.attWord (x : Security) : Nat :=
  flagBit x.attBusy 31 + flagBit x.attValid 30 + x.attErr * 2 ^ 8 + x.attCtx % 64

/-- A word of the identity block (R71, R74, R272). -/
def State.identityWord (s : State) (o : Nat) : Option Nat :=
  let x := s.security
  let fixed := fun (_ : Unit) => some (leNat ((upto 4).map fun i => Config.identityByte (o + i)))
  if o < 0x8 then some (wordAt serialBytes (o / 4))
  else if 0x40 ≤ o ∧ o < 0x7E0 then fixed ()
  else if 0x800 ≤ o ∧ o < 0x830 then some (wordAt x.measurement ((o - 0x800) / 4))
  else if o = 0x830 then some x.version
  else if o = 0x834 then some x.fusedMin
  else if o = 0x838 then some x.fwWord
  else if o = 0x840 then some x.attWord
  else if 0x860 ≤ o ∧ o < 0x880 then some 0
  else if 0x1000 ≤ o ∧ o < 0x1100 then some (wordAt x.report ((o - 0x1000) / 4))
  else if 0x1100 ≤ o ∧ o < 0x1100 + 3312 then some (wordAt x.signature ((o - 0x1100) / 4))
  else if 0x2000 ≤ o ∧ o < 0x4000 then fixed ()
  else if 0x4000 ≤ o ∧ o < 0x5000 then some 0
  else if o = 0x5000 then some (flagBit x.tokenRefused 1)
  else if 0x5020 ≤ o ∧ o < 0x5040 then some (wordAt (Config.challenge x.draws) ((o - 0x5020) / 4))
  else none

/-- LINK_STATUS of a link or a port (R43). -/
def linkWord (fenced up : Bool) (retrains retries : Nat) : Nat :=
  flagBit fenced 31 + flagBit up 30 + retrains * 2 ^ 16 + retries

/-- Fill-class gangs resident on a cluster (R93). -/
def State.fills (s : State) (c : Nat) : Nat :=
  (s.gangs.filter fun g => g.cluster == c && (g.state == .running || g.state == .placing)
    && ((s.task? g.task).map Task.fillClass).getD false).length

/-- A word of a bubble slot's entry (R93). -/
def State.bubbleWord (s : State) (c i : Nat) : Nat :=
  let b := (s.cluster c).bubble
  match i with
  | 0 => b.start % 2 ^ 32
  | 1 => b.start / 2 ^ 32 % 2 ^ 32
  | 2 => b.len
  | _ => flagBit b.valid 31 + flagBit b.host 30 + flagBit b.isOpen 29 + min (s.fills c) 255

/-- A cluster's test status (R102). -/
def State.testWord (s : State) (c : Nat) : Nat :=
  let t := (s.cluster c).test
  flagBit t.untested 31 + flagBit t.failed 30 + t.defer * 2 ^ 28 + min ((s.now - t.lastPass) / 3600000000000) 0xFFFF

/-- The errors corrected in the last hour (R208). -/
def Die.recent (d : Die) (now : Nat) : Nats := d.corrected.filter fun t => decide (now < t + 3600000000000)

/-- Errors that a die has corrected in the hour before a device time and since CORR was cleared, per GiB of its 64 (R208). -/
def Die.corrPerGib (d : Die) (now : Nat) : Nat := (d.counted.filter fun t => decide (now < t + 3600000000000)).length / 64

/-- SCRUB_STATUS (R208). -/
def Die.scrubWord (d : Die) (now : Nat) : Nat :=
  flagBit d.yield 31 + d.rate * 2 ^ 28 + d.poisonCount * 2 ^ 12 + min (d.corrPerGib now) 0xFFF

/-- A word of a profiling entry (R270). -/
def Prof.word (p : Prof) (i : Nat) : Nat :=
  match i with
  | 0 => p.size
  | 1 => flagBit p.en 31 + p.k * 2 ^ 26 + p.drop
  | 2 => p.buffer.toNat % 2 ^ 32
  | 3 => p.buffer.toNat / 2 ^ 32
  | 4 => p.consumed
  | _ => 0

/-- A word of the expert-level control block (R22). -/
def State.expertWord (s : State) (o : Nat) : Option Nat :=
  let within := fun a b => decide (a ≤ o) && decide (o < b)
  let q := fun i => nth 0 (s.die (i / 16)).sensors (i % 16)
  let j := fun i => (s.cluster i).junction
  if within 0x100 0x130 then
    let l := s.link ((o - 0x100) / 4)
    some (linkWord l.fenced l.up l.retrains l.retries)
  else if within 0x140 0x150 then
    let p : CxlPort := nth {} s.ports ((o - 0x140) / 4)
    some (linkWord p.fenced p.up p.retrains p.retries)
  else if within 0x400 0xC00 then
    let i := (o - 0x400) / 2
    some (s.routes.get 0 i + s.routes.get 0 (i + 1) * 2 ^ 16)
  else if within 0x1000 0x1800 then some (s.bubbleWord ((o - 0x1000) / 16) (o % 16 / 4))
  else if within 0x1800 0x1A00 then some (s.testWord ((o - 0x1800) / 4))
  else if o = 0x1A00 then some s.testInterval
  else if o = 0x1B00 ∨ o = 0x1B04 then some 0
  else if o = 0x1B08 then some s.tlbinvDone.toNat
  else if within 0x1C00 0x1C10 then some ((s.die ((o - 0x1C00) / 4)).scrubWord s.now)
  else if o = 0x1D00 then some (s.handlerEntry.toNat % 2 ^ 32)
  else if o = 0x1D04 then some (s.handlerEntry.toNat / 2 ^ 32)
  else if o = 0x1D08 then some s.hangLimit
  else if within 0x2000 0x2200 then
    let c := s.cluster ((o - 0x2000) / 4)
    some (c.allow * 2 ^ 16 + c.floor)
  else if within 0x3000 0x3080 then some (q ((o - 0x3000) / 2) + q ((o - 0x3000) / 2 + 1) * 2 ^ 16)
  else if within 0x3100 0x3200 then some (j ((o - 0x3100) / 2) + j ((o - 0x3100) / 2 + 1) * 2 ^ 16)
  else if within 0x4000 0x4800 then some ((s.profs.get {} ((o - 0x4000) / 32)).word (o % 32 / 4))
  else none

/-- The word at an aligned management-space offset; `none` where no register or window lies. -/
def State.mgmtWord (s : State) (o : Nat) : Option Nat :=
  let rel := fun base size => decide (base ≤ o) && decide (o < base + size)
  if o < 112 then some (wordAt s.capabilities (o / 4))
  else if o = Config.startStatusOffset then some s.startStatus
  else if o = Config.startCtrlOffset then some (flagBit s.start.bist 2)
  else if rel Config.clusterMaskOffset 16 then some (s.clusterMask.toNat / 2 ^ (8 * (o - Config.clusterMaskOffset)) % 2 ^ 32)
  else if rel Config.sensorBlockOffset 8 then
    let d := (o - Config.sensorBlockOffset) / 2
    some ((s.die d).hottest + (s.die (d + 1)).hottest * 2 ^ 16)
  else if rel Config.apertureOffset 0x100000 then s.apertureWord (o - Config.apertureOffset)
  else if rel Config.identityOffset 0x6000 then s.identityWord (o - Config.identityOffset)
  else if rel Config.expertOffset 0x10000 then s.expertWord (o - Config.expertOffset)
  else if rel Config.recoveryOffset windowBytes then some 0
  else none

/-- A read of the management space has a register or window to read, and a size and alignment that are admitted (R30). -/
def State.mgmtReadable (s : State) (off n : Nat) : Bool :=
  (n == 4 || n == 8) && decide (off % n = 0) && (s.mgmtWord off).isSome

/-- A read of the management space (R30): its bytes, zero where it is MALFORMED. -/
def State.mgmtRead (s : State) (off n : Nat) : Bytes :=
  if s.mgmtReadable off n then
    leBytes 4 ((s.mgmtWord off).getD 0) ++ (if n = 8 then leBytes 4 ((s.mgmtWord (off + 4)).getD 0) else [])
  else List.replicate n 0

/-- A host's read of the management space completes (R30): its status, and the data. -/
def State.hostRead (s : State) (off n : Nat) : State :=
  let st := if s.mgmtReadable off n then hsAccepted else hsMalformed
  { s.status st with completion := (st, s.mgmtRead off n) }

/-! ### What writes start -/

/-- A write of START_CTRL (R20): a start that it requests begins its steps at FENCED_DIE_COOLED. -/
def State.startCtrl (s : State) (ep v : Nat) : State :=
  if !(s.privEp ep) then s.status hsDenied
  else if v / 2 ^ 16 % 2 ^ 16 ≠ 0x5754 then s.status hsMalformed
  else if bitOf v 1 then (s.requestStart true false).status hsAccepted
  else if bitOf v 0 then (s.requestStart false (bitOf v 2)).status hsAccepted
  else ({ s with start := { s.start with bist := bitOf v 2 } } : State).status hsAccepted

/-- A write of TLBINV (R187), 8 bytes in one access: it starts, or waits behind the one in progress. -/
def State.tlbInvalidate (s : State) (v : DWord) : State :=
  if s.tlbinvDone then { s with tlbinvPending := some v, tlbinvDone := false }
  else { s with tlbinvQueue := s.tlbinvQueue ++ [v] }

/-- The links of a route mask that are there and not fenced (R44): one that retrains is. -/
def State.usable (s : State) (mask : Nat) : Nat :=
  maskOf ((bitsBelow 12 mask).filter fun n => ((s.link n).up || (s.link n).retraining.isSome) && !(s.link n).fenced)

/-- A route mask takes effect; one left empty fences the destination (R36, R44). A mask for a destination that is fenced is
kept, and the destination stays fenced until the next start: the rule does not say, and the choice is the model's (log 103). -/
def State.setRoute (s : State) (id mask : Nat) : State :=
  let m := s.usable mask
  if m = 0 then s.fencePackage id else { s with routes := s.routes.set 0 id m }

/-- A route write waits for the acknowledgement of every outstanding request to its destination (R44). -/
def State.writeRoute (s : State) (id mask : Nat) : State :=
  if s.remote.any (fun q => q.pkg == id && q.sent) then
    { s with routePending := (s.routePending.filter (·.1 != id)) ++ [(id, mask)] }
  else s.setRoute id mask

/-- Route writes whose destinations have no outstanding request left take effect. -/
def State.settleRoutes (s : State) : State :=
  let busy := fun (x : Nat × Nat) => s.remote.any fun q => q.pkg == x.1 && q.sent
  (s.routePending.filter fun x => !(busy x)).foldl (fun s x => s.setRoute x.1 x.2) { s with routePending := s.routePending.filter busy }

/-- A test attempt begins (R99): the cluster closes and each resident gang is to migrate. At most one cluster of
a die is under test. -/
def State.beginAttempt (s : State) (c : Nat) : State :=
  let t := (s.cluster c).test
  let busy := (upto 32).any fun i =>
    let u := (s.cluster (c / 32 * 32 + i)).test
    u.attempt.isSome || u.running.isSome
  if busy ∨ t.failed ∨ !(bitOf s.clusterMask.toNat c) then s
  else
    let s := s.mapCluster c fun k => { k with test := { k.test with attempt := some s.now } }
    let mark := fun (g : Gang) =>
      if g.cluster = c ∧ (g.state = .running ∨ g.state = .placing) then
        { g with chosen := g.chosen ++ [(.test, s.now)], lastPp := s.now } else g
    { s with gangs := s.gangs.map mark }

/-! ### Writes -/

/-- A profiling entry may be programmed for a context (R270, R273). -/
def State.profOpen (s : State) (c : Nat) : Bool :=
  s.start.lifecycle == 1 || ((s.ctx? c).map (·.debuggable)).getD false || (s.security.tokenActive && bitOf s.security.tokenMask 1)

/-- Replace half `i` of a 64-bit value. -/
def putHalf (old i v : Nat) : Nat := if i = 0 then old / 2 ^ 32 * 2 ^ 32 + v else v * 2 ^ 32 + old % 2 ^ 32

/-- A word written into a profiling entry (R270, R271). -/
def Prof.write (p : Prof) (i v : Nat) : Prof :=
  match i with
  | 0 => { p with size := v }
  | 1 => { p with en := bitOf v 31, k := bitsOf v 30 26, drop := if bitOf v 0 then 0 else p.drop,
                  written := if bitOf v 31 && !p.en then 0 else p.written, full := if bitOf v 31 && !p.en then [] else p.full }
  | 2 => { p with buffer := BitVec.ofNat 64 (putHalf p.buffer.toNat 0 v) }
  | 3 => { p with buffer := BitVec.ofNat 64 (putHalf p.buffer.toNat 1 v) }
  | 4 => { p with consumed := v, full := p.full.filter (· != v) }
  | _ => p

/-- A word of a bubble slot's entry can be written at all: START and LEN are read-only while HOST = 0 (R5, R93). -/
def Bubble.writable (b : Bubble) (i : Nat) : Bool := b.host || i == 3

/-- A word written into a bubble slot's entry by a privileged writer (R93, R94). -/
def Bubble.write (b : Bubble) (i v : Nat) : Bubble :=
  match i with
  | 0 => if b.host && !b.isOpen then { b with start := putHalf b.start 0 v } else b
  | 1 => if b.host && !b.isOpen then { b with start := putHalf b.start 1 v } else b
  | 2 => if b.host && !b.isOpen then { b with len := v } else b
  | _ => { b with valid := if b.host then bitOf v 31 else b.valid, host := bitOf v 30 }

/-- A 4-byte write to the expert-level control block (R30 and each register's rule). A TEST_INTERVAL outside 1 to 168 hours is
discarded and completes with ACCEPTED: R99 does not say, and the choice is the model's (log 104). A written TEST_INTERVAL counts
from each cluster's next attempt on, and an attempt already fixed stays where it is: R99 does not say, and the choice is the
model's (log 134). -/
def State.expertWrite (s : State) (ep o v : Nat) : State :=
  let within := fun a b => decide (a ≤ o) && decide (o < b)
  let priv := s.privEp ep
  let guarded := fun (f : Unit → State) => if priv then (f ()).status hsAccepted else s.status hsDenied
  if within 0x100 0x130 then
    (s.mapLink ((o - 0x100) / 4) fun l =>
      { l with retrains := if bitOf v 16 then 0 else l.retrains, retries := if bitOf v 0 then 0 else l.retries }).status hsAccepted
  else if within 0x140 0x150 then
    let i := (o - 0x140) / 4
    let p : CxlPort := nth {} s.ports i
    ({ s with ports := setNth s.ports i { p with retrains := if bitOf v 16 then 0 else p.retrains,
                                                 retries := if bitOf v 0 then 0 else p.retries } } : State).status hsAccepted
  else if within 0x400 0xC00 then
    let i := (o - 0x400) / 2
    guarded fun _ => (s.writeRoute i (v % 2 ^ 12)).writeRoute (i + 1) (v / 2 ^ 16 % 2 ^ 12)
  else if within 0x1000 0x1800 then
    let c := (o - 0x1000) / 16
    if !((s.cluster c).bubble.writable (o % 16 / 4)) then s.status hsAccepted
    else guarded fun _ => s.mapCluster c fun k => { k with bubble := k.bubble.write (o % 16 / 4) v }
  else if within 0x1800 0x1A00 then
    guarded fun _ => if bitOf v 27 then s.beginAttempt ((o - 0x1800) / 4) else s
  else if o = 0x1A00 then guarded fun _ => if 1 ≤ v ∧ v ≤ 168 then { s with testInterval := v } else s
  else if o = 0x1B08 then s.status hsAccepted
  else if within 0x1C00 0x1C10 then
    (s.mapDie ((o - 0x1C00) / 4) fun d =>
      { d with poisonCount := if bitOf v 12 then 0 else d.poisonCount, counted := if bitOf v 0 then [] else d.counted }).status hsAccepted
  else if o = 0x1D08 then guarded fun _ => { s with hangLimit := v }
  else if within 0x2000 0x2200 then
    guarded fun _ => s.mapCluster ((o - 0x2000) / 4) fun k => ({ k with floor := v % 256 } : Cluster).recompute
  else if within 0x3000 0x3080 ∨ within 0x3100 0x3200 then s.status hsAccepted
  else if within 0x4000 0x4800 then
    let c := (o - 0x4000) / 32
    if priv ∧ s.profOpen c then
      let q : Prof := (s.profs.get {} c).write (o % 32 / 4) v
      let begins := o % 32 / 4 = 1 ∧ q.en ∧ !(s.profs.get {} c).en
      let p : Prof := if begins then { q with lastTick := s.now / 2 ^ q.k, base := s.clusters.map fun (c, k) => (c, k.counters) } else q
      ({ s with profs := s.profs.set {} c p } : State).status hsAccepted
    else s.status hsDenied
  else s.status hsMalformed

/-- A write of HANDLER_ENTRY (R253): an entry that is not line-aligned is discarded. -/
def State.writeHandler (s : State) (ep v : Nat) : State :=
  if !(s.privEp ep) ∨ !(bitOf s.features 2) then s.status hsDenied
  else if v % 128 ≠ 0 then s.status hsAccepted
  else ({ s with handlerEntry := BitVec.ofNat 64 v } : State).status hsAccepted

/-- A write of ATT_CTRL (R74): CTX is written whether or not a report is in progress. -/
def State.attWrite (s : State) (v : Nat) : State :=
  let s := if bitOf v 30 then { s with security := { s.security with attValid := false } } else s
  if bitOf v 7 then s.attest (v % 64)
  else
    let x : Security := { s.security with attCtx := v % 64 }
    { s with security := x.holdsReport }

/-- A 4-byte write to the identity block (R71, R73, R74, R272). -/
def State.identityWrite (s : State) (ep o v : Nat) : State :=
  if (s.identityWord o).isNone then s.status hsMalformed
  else if o = 0x838 then s.fwCtrl ep (bitOf v 0) (bitOf v 1)
  else if o = 0x840 then (s.attWrite v).status hsAccepted
  else if 0x860 ≤ o ∧ o < 0x880 then
    let x : Security := { s.security with nonce := putBytes s.security.nonce (o - 0x860) (leBytes 4 v) }
    ({ s with security := x.holdsReport } : State).status hsAccepted
  else if 0x4000 ≤ o ∧ o < 0x5000 then
    ({ s with security := { s.security with token := putBytes s.security.token (o - 0x4000) (leBytes 4 v) } } : State).status hsAccepted
  else if o = 0x5000 then (if bitOf v 0 then s.checkToken else s).status hsAccepted
  else s.status hsAccepted

/-- A commit of any packet (R46, R48). -/
def State.commitAny (s : State) (ep win len : Nat) : State :=
  let raw := s.staged ep win
  match fieldAt raw 0 1 with
  | 1 => s.commitLaunch ep win len
  | 2 => s.commitGraph ep win len
  | 3 => s.commitSignal ep win len
  | 4 => s.commitWait ep win len
  | 5 =>
    match fieldAt raw 0x20 1 with
    | 1 => s.commitCreate ep win len
    | 2 => s.commitDestroy ep win len
    | 3 => s.commitBind ep win len
    | 4 => s.commitUnbind ep win len
    | _ => s.commit ep win len 5 fun s _ => s
  | 6 => s.commitQuota ep win len
  | 7 => s.commitLimits ep win len
  | 8 => s.commitMail ep win len
  | ty => s.commit ep win len ty fun s _ => s

/-- The whole command aperture (R45). -/
def inAperture (off : Nat) : Bool := decide (Config.apertureOffset ≤ off) && decide (off < Config.apertureOffset + 0x100000)

/-- An 8-byte write to the aperture (R45, R46). -/
def State.apertureWrite (s : State) (ep o v : Nat) : State :=
  let win := o / 0x1000
  let w := o % 0x1000
  if controlWindow < win then
    (if (s.apertureWord o).isSome then s.status hsAccepted else s.status hsMalformed)
  else if w = 0x100 then s.commitAny ep win v
  else if (s.apertureWord o).isSome then s.status hsAccepted
  else s.status hsMalformed

/-- A 4-byte write to the aperture (R30, R45): a read-only register takes it without effect; staging and commits are 8 bytes
or more. -/
def State.apertureWrite4 (s : State) (o : Nat) : State :=
  if (s.apertureWord o).isSome ∧ ¬(o < 0x41000 ∧ o % 0x1000 < 0x108) then s.status hsAccepted else s.status hsMalformed

/-- A 4-byte write at an aligned offset. Half of TLBINV is not written: R187 gives its 8 bytes one meaning, and the status of
a write to one half is the model's choice (log 105). -/
def State.write32 (s : State) (ep o v : Nat) : State :=
  if o = Config.startCtrlOffset then s.startCtrl ep v
  else if Config.expertOffset ≤ o ∧ o < Config.expertOffset + 0x10000 then
    let x := o - Config.expertOffset
    if x = 0x1B00 ∨ x = 0x1B04 then s.status hsMalformed
    else if x = 0x1D00 ∨ x = 0x1D04 then s.writeHandler ep (putHalf s.handlerEntry.toNat ((x - 0x1D00) / 4) v)
    else s.expertWrite ep x v
  else if Config.identityOffset ≤ o ∧ o < Config.identityOffset + 0x6000 then s.identityWrite ep (o - Config.identityOffset) v
  else if inAperture o then s.apertureWrite4 (o - Config.apertureOffset)
  else if (s.mgmtWord o).isSome ∧ !(decide (Config.recoveryOffset ≤ o) && decide (o < Config.recoveryOffset + windowBytes)) then
    s.status hsAccepted
  else s.status hsMalformed

/-- An offset of the recovery interface: the window and FW_CTRL (R73). -/
def recoveryInterface (off : Nat) : Bool :=
  (decide (Config.recoveryOffset ≤ off) && decide (off < Config.recoveryOffset + windowBytes)) || off == Config.identityOffset + 0x838

/-- A write that gets no answer: in recovery only reads and the recovery interface are answered, and the aperture refuses (R17,
R18, R73). -/
def State.unanswered (s : State) (off : Nat) : Bool :=
  s.inRecovery && !(recoveryInterface off) && !(inAperture off && !s.start.ready)

/-- The staging area of a window of the aperture (R45, R46). -/
def inStaging (off : Nat) : Bool :=
  inAperture off && decide (off - Config.apertureOffset < 0x41000) && decide ((off - Config.apertureOffset) % 0x1000 < 0x100)

/-- The recovery window (R73). -/
def inWindow (off : Nat) : Bool := decide (Config.recoveryOffset ≤ off) && decide (off < Config.recoveryOffset + windowBytes)

/-- A write of the management space by a host or by privileged code (R17, R18, R29, R30). The staging areas and the recovery
window have sizes of their own (R46, R73). -/
def State.regWrite (s : State) (ep off size v : Nat) : State :=
  if inAperture off ∧ !s.start.ready then s.status hsQueueFull
  else if s.unanswered off then s
  else if !(s.hosts.contains ep) ∧ !(s.privEp ep) then s.status hsDenied
  else if inStaging off then
    s.stage ep ((off - Config.apertureOffset) / 0x1000) ((off - Config.apertureOffset) % 0x1000) (leBytes size v)
  else if inWindow off then s.windowWrite ep (off - Config.recoveryOffset) (leBytes size v)
  else if (size ≠ 4 ∧ size ≠ 8) ∨ off % size ≠ 0 then s.status hsMalformed
  else if size = 4 then s.write32 ep off (v % 2 ^ 32)
  else if inAperture off then s.apertureWrite ep (off - Config.apertureOffset) (v % 2 ^ 64)
  else if off = Config.expertOffset + 0x1B00 then (s.tlbInvalidate (BitVec.ofNat 64 v)).status hsAccepted
  else if off = Config.expertOffset + 0x1D00 then s.writeHandler ep (v % 2 ^ 64)
  else
    let s := s.write32 ep off (v % 2 ^ 32)
    if s.hostStatus ≠ hsAccepted ∨ (s.mgmtWord (off + 4)).isNone then s
    else s.write32 ep (off + 4) (v / 2 ^ 32 % 2 ^ 32)

/-- An atomic aimed at the management space, by an endpoint: a read and, where the opcode writes, a write of the register (R30,
R384). The manual does not say, and it is the model's choice (log 135). -/
def State.atomicMgmt (s : State) (ep op w : Nat) (sgn : Bool) (off b : Nat) : Nat × State :=
  let t := s.hostRead off (w / 8)
  let old := leNat (s.mgmtRead off (w / 8))
  match s.mgmtReadable off (w / 8), atomicNew op w sgn old b with
  | true, some v => (old, s.regWrite ep off (w / 8) v)
  | _, _ => (old, t)

/-- REGISTER_WRITE (R30). -/
def execRegisterWrite (ep off size : Nat) (v : DWord) (s : State) : Result := .next (s.regWrite ep off size v.toNat)

/-- TLBINV (R187). -/
def execTlbinv (ep : Nat) (v : DWord) (s : State) : Result :=
  .next (s.answered (s.hosts.contains ep || s.privEp ep) fun s => s.tlbInvalidate v)

/-- Whether an invalidation names a cached translation (R187). -/
def tlbNamed (v : Nat) (e : TlbEntry) : Bool :=
  let base := bitsOf v 63 16 * 2 ^ 9
  let count := bitsOf v 15 8
  let size := match bitsOf v 7 6 with
    | 0 => 2 ^ 16
    | 1 => 2 ^ 21
    | 2 => 2 ^ 30
    | _ => 0
  e.ctx == bitsOf v 5 0 && (count == 0 || (decide (e.base < base + count * size) && decide (base < e.base + 2 ^ e.size)))

/-- TLBINV_DONE (R187): the entries are gone and a waiting invalidation begins. -/
def execTlbinvDone (s : State) : Result :=
  .next (match s.tlbinvPending with
    | none => { s with tlbinvDone := true }
    | some v =>
      let s := s.dropTlbs (tlbNamed v.toNat)
      match s.tlbinvQueue with
      | [] => { s with tlbinvPending := none, tlbinvDone := true }
      | w :: t => { s with tlbinvPending := some w, tlbinvQueue := t })

/-- ROUTE_TABLE_WRITE (R44). -/
def execRouteTableWrite (ep id mask : Nat) (s : State) : Result :=
  .next (s.answered (s.privEp ep) fun s => s.writeRoute (id % 1024) (mask % 2 ^ 12))

/-- TEST_REQUEST (R102). -/
def execTestRequest (ep c : Nat) (s : State) : Result :=
  .next (s.answered (s.privEp ep) fun s => s.beginAttempt c)

end Sys2Proof.Machine
end

