-- ==== Sys2Proof/Machine/Mem.lean ====
section
/-! DEFINITION. Loads, stores, atomics, fences, tags and cache control, opcodes 0x80–0xA2 (R375–R391). -/

namespace Sys2Proof.Machine

/-! ### Operands and forms -/

/-- A base field (R375): an even pair, ZERO, LIT for two words, or a code that reads as a constant (R289). -/
def Env.baseSrc (e : Env) (o : Opd) (ls : List Word) : Except Flt (Src × List Word) := e.src o 2 ls

/-- An offset field (R375): a single register, ZERO, LIT, or a code that reads as a constant (R287). -/
def Env.offSrc (e : Env) (o : Opd) (ls : List Word) : Except Flt (Src × List Word) := e.src o 1 ls

/-- A quad field of a store (R375): a quad of registers as in R352, ZERO or LIT. -/
def Env.quadSrc (e : Env) (o : Opd) (ls : List Word) : Except Flt (Src × List Word) :=
  match o with
  | .v _ | .s _ | .zero | .lit => e.src o 4 ls
  | _ => .error badOperand

/-- Whether the instruction is in vector form (R376): D is a scalar register or ZERO and every other operand of
scalar class in scalar form; a vector operand beside a scalar D is 0x02. A caster thread has the scalar form
alone. -/
def Env.vectorForm (e : Env) (d : Opd) (srcs : List Src) : Except Flt Bool :=
  let vec := srcs.any Src.isVec
  if e.caster then .ok false
  else match d with
    | .s _ => if vec then .error badOperand else .ok false
    | .zero => .ok vec
    | _ => .ok true

/-- Sign-extend a 32-bit offset and add it to a base (R377). -/
def effective (base off : Nat) : Nat := (base + (BitVec.ofNat 32 off).signExtend 64 |>.toNat) % 2 ^ 64

/-- One access: the lane, or lane 4·s of slice s; its address; where its bytes lie. -/
structure Acc where
  lane : Nat
  va : Nat
  sp : Span

/-! ### Checks (R377, R378) -/

/-- Whether the issuing agent is inside an open pass (R378). -/
def State.insidePass (s : State) (e : Env) : Bool :=
  if e.handler then false
  else if e.caster then (match s.myGang e with
    | some g => g.joined && !g.sealedBit
    | none => false)
  else e.path.inPass

/-- The bytes `[lo, lo + n)` of a task's version region that a write of `[va, va + n)` may not touch (R205). -/
def Directory.forbids (d : Directory) (va n : Nat) : Bool :=
  let lo := max va d.base.toNat
  let hi := min (va + n) (d.base.toNat + d.slots.length * d.slotBytes)
  decide (lo < hi) && (match d.openSlot with
    | some i => !(decide (d.base.toNat + i * d.slotBytes ≤ lo) && decide (hi ≤ d.base.toNat + (i + 1) * d.slotBytes))
    | none => true)

/-- A range lies in the open slot. -/
def Directory.inOpen (d : Directory) (va n : Nat) : Bool :=
  match d.openSlot with
  | some i => decide (d.base.toNat + i * d.slotBytes ≤ va) && decide (va + n ≤ d.base.toNat + (i + 1) * d.slotBytes)
  | none => false

/-- The pages of an access in order: address, bytes, and whether the page is task-scratch or scratch. -/
def State.pagesOf (s : State) (w : Who) (sp : Span) : List (Nat × Nat × Bool) :=
  let cut := match sp.parts with
    | (_, n) :: _ => n
    | [] => 0
  let at_ := fun (va : Nat) => match s.translate w .store va with
    | .ok p => p.ts || p.inScratch
    | .error _ => false
  match sp.parts with
  | [] => []
  | [(_, n)] => [(sp.va, n, at_ sp.va)]
  | _ :: rest => [(sp.va, cut, at_ sp.va), (sp.va + cut, (rest.map (·.2)).sum, at_ (sp.va + cut))]

/-- The side-effect check of a write by a task's own agent (R205, R378, R410). -/
def State.sideEffect (s : State) (w : Who) (task : Nat) (inside : Bool) (sp : Span) : Bool :=
  match s.dir? task, s.task? task with
  | some d, some k =>
    (s.pagesOf w sp).any fun (va, n, ts) =>
      (decide (va < aperture) && d.forbids va n)
        || (inside && d.openSlot.isSome && !k.limits.side && !ts && !(d.inOpen va n))
  | _, _ => false

/-- The first of a list of numbers that no other is below. -/
def leastOf (l : Nats) : Option Nat := l.foldl (fun m x => match m with
  | some y => some (min x y)
  | none => some x) none

/-- Steps 1 to 4 of R378 over the accesses of an instruction: `align` is the alignment the instruction itself
requires, or 1. -/
def State.accesses (s : State) (e : Env) (acc : Access) (n align : Nat) (l : List (Nat × Nat)) :
    Except Flt (List Acc) :=
  let at_ := fun (code : Nat) (x : Nat × Nat) => ({ code := code, lane := x.1, addr := BitVec.ofNat 64 x.2 } : Flt)
  match l.find? fun x => x.2 % align != 0 with
  | some x => .error (at_ 0x12 x)
  | none =>
    let tr := l.map fun x => (x, s.span e.who acc x.2 n)
    let codes := tr.filterMap fun t => match t.2 with
      | .error c => some c
      | .ok _ => none
    match leastOf codes with
    | some c =>
      match tr.find? fun t => match t.2 with
        | .error d => d == c
        | .ok _ => false with
      | some t => .error (at_ c t.1)
      | none => .error { code := c }
    | none =>
      let as := tr.filterMap fun t => match t.2 with
        | .ok sp => some ({ lane := t.1.1, va := t.1.2, sp := sp } : Acc)
        | .error _ => none
      match as.find? fun a => a.sp.so && a.va % min n 16 != 0 with
      | some a => .error (at_ 0x12 (a.lane, a.va))
      | none =>
        if acc != .store || e.handler then .ok as
        else match as.find? fun a => s.sideEffect e.who e.task (s.insidePass e) a.sp with
          | some a => .error (at_ 0x50 (a.lane, a.va))
          | none => .ok as

/-- The translations of the pages of an instruction's accesses are held before it issues (R188). -/
def State.holds (s : State) (e : Env) (n : Nat) (l : List (Nat × Nat)) : State := s.holdPages e.who n (l.map (·.2))

/-- A quad field that is a register alone (R352, R375). -/
def Env.quadReg (e : Env) (o : Opd) (ls : List Word) : Except Flt (Src × List Word) :=
  match o with
  | .v _ | .s _ => e.src o 4 ls
  | _ => .error badOperand

/-- The outstanding operations that come before this issue in the program order of a slice of its path (R210). -/
def State.earlier (s : State) (e : Env) : List PendingOp :=
  s.ops.filter fun o => o.wave == e.ref && (o.slices &&& BitVec.ofNat 8 (maskOf e.pathSlices)) != 0

/-- An access waits: a request to its destination may not leave now (R35, R44), or it is to an SO page and an earlier SO access
of the path is not performed (R34, R215). -/
def State.accessHeld (s : State) (e : Env) (as : List Acc) : Bool :=
  as.any fun a => a.sp.remotes.any (fun r => s.requestHeld r.1 r.2.1)
    || (a.sp.so && (s.earlier e).any fun o => o.so && !o.ended && (o.remote != [] || o.cxl != [] || o.held != []))

/-- A write waits for an earlier release of its path (R216, R382): until the release is performed, and its own store. -/
def State.writeHeld (s : State) (e : Env) : Bool :=
  (s.earlier e).any fun o => !o.ended && (o.release.isSome || (o.orders && (o.held != [] || o.remote != [] || o.cxl != [])))

/-- An access that is performed elsewhere, and whose completion is awaited. -/
def Acc.far (a : Acc) : Bool := a.sp.remotes != [] || a.sp.cxlParts a.lane != []

/-- The accesses that one issue begins, and whether others follow it: on SO pages an access begins once the one before it is
performed, lane by lane (R215). -/
def soPrefix : List Acc → List Acc × Bool
  | [] => ([], false)
  | a :: t => if a.sp.so && a.far then ([a], !t.isEmpty) else (a :: (soPrefix t).1, (soPrefix t).2)

/-- Some access of an instruction is to an SO page. -/
def anySo (as : List Acc) : Bool := as.any (·.sp.so)

/-- The CXL accesses of an instruction whose completions it awaits (R41). -/
def cxlOf (as : List Acc) : List CxlPart := as.flatMap fun a => a.sp.cxlParts a.lane

/-! ### Waiting for an operation (R189, R282) -/

/-- The path goes on once its operation has completed: after `lits` literal words, or with the lanes of its instruction that
follow (R215). -/
def State.holdFor (s : State) (id lits : Nat) : Except Flt Out :=
  match s.op? id with
  | none => goOn s lits
  | some o =>
    if !(s.opReady o) then .ok (.wait s (.op id))
    else if o.part then .ok (.wait (s.completeOp id) .engine)
    else goOn (s.completeOp id) lits

/-- An instruction that holds its path while its operation is outstanding: `first` is its first issue. -/
def Env.held (e : Env) (s : State) (lits : Nat) (first : Except Flt Out) : Except Flt Out :=
  match e.path.wait with
  | .op id => s.holdFor id lits
  | _ => first

/-- A class-B operation (R282): assigned to its flag the path goes on; otherwise the path waits for it. -/
def State.sent (s : State) (e : Env) (o : PendingOp) (lits : Nat) : Except Flt Out :=
  if (e.flagFor false).isSome then goOn (s.addOp e false o) lits
  else if s.opReady o then goOn s lits
  else .ok (.wait (s.addOp e false o) (.op o.id))

/-- The widest MODE.SCOPE of the path's slices (R139, R211). -/
def Env.scope (e : Env) : Nat := (e.pathSlices.map fun i => modeSCOPE (e.mode i)).foldl max 0

/-- Every earlier access of the path is performed at a scope (R212, R216, R387). -/
def State.quiet (s : State) (e : Env) (scope : Nat) : Bool := (s.earlier e).all (·.performed scope)

/-- The lanes that an earlier issue of this instruction has already performed (R189, R215). -/
def Env.doneMask (e : Env) : Word := e.path.done

/-- The units that are still to be performed. -/
def Env.todo (e : Env) (us : Nats) : Nats := us.filter fun L => !(bitOf e.doneMask.toNat L)

/-- Some lanes are begun, and the instruction waits to issue again for the others (R215). -/
def State.partDone (s : State) (e : Env) (as : List Acc) : State :=
  s.mapPath (e.ref, e.p) fun p => { p with done := p.done ||| laneMask (as.map (·.lane)) }

/-! ### Loads and stores -/

/-- What a load has read so far. -/
structure Gather where
  s : State
  data : Table Byte := []
  poison : Nats := []
  remote : Nats := []

/-- Read one access into a fill: the package's own bytes now, through the core's L1 for a plain access to an RC or UO page
(R190), another endpoint's by request (R32, R189). -/
def Gather.access (g : Gather) (e : Env) (opId unit : Nat) (cached : Bool) (a : Acc) : List (Place × Nat) → Nat → Gather
  | [], _ => g
  | (p, n) :: t, b =>
    let g : Gather := match p with
      | .remote pkg off =>
        let (s, i) := g.s.sendRequest { id := 0, since := 0, pkg := pkg, off := off, kind := .load, data := leBytes 8 n, opId := opId,
                                        dest := some (unit, b), va := BitVec.ofNat 64 a.va, lane := a.lane }
        { g with s := s, remote := g.remote ++ [i] }
      | .mgmt off => { g with data := putBytes g.data (64 * unit + b) (g.s.mgmtRead off n) }
      | _ =>
        let (bs, pz, s) := g.s.fetchPart e.who (cached && !a.sp.so) p n
        { g with s := s, data := putBytes g.data (64 * unit + b) bs, poison := if pz then g.poison ++ [unit] else g.poison }
    g.access e opId unit cached a t (b + n)

/-- The lane or slice of an access. -/
def Acc.unit (a : Acc) (vec : Bool) : Nat := if vec then a.lane else a.lane / 4

/-- Read some accesses of an instruction, behind what an earlier issue of it has read. -/
def State.gather (s : State) (e : Env) (cached vec : Bool) (as : List Acc) (old : Fill) : Gather :=
  as.foldl (fun (g : Gather) a => g.access e s.nextId (a.unit vec) cached a a.sp.parts 0)
    { s := { s with nextId := s.nextId + 1 }, data := old.data, poison := old.poison }

/-- The operation of an instruction's accesses of `n` bytes each. -/
def Env.accessOp (e : Env) (s : State) (n : Nat) (as : List Acc) : PendingOp :=
  { e.op s with cxl := cxlOf as, so := anySo as, homes := as.flatMap (·.sp.homes), ranges := as.map fun a => (a.va, n)
                va := BitVec.ofNat 64 ((as.map (·.va)).headD 0) }

/-- A load of which some lanes have arrived and others follow (R215). -/
def State.partLoad (s : State) (e : Env) : Option PendingOp :=
  match e.path.wait with
  | .op id => (s.op? id).filter fun o => o.part && !o.atomic && s.opReady o
  | _ => none

/-- A fault that an instruction raises in the state that it has reached, and not as it stood at its issue. -/
def Out.orFault (s : State) (e : Env) (x : Except Flt Out) : Except Flt Out :=
  match x with
  | .error f => .ok (.stop (s.takeFault e.ref e.p f))
  | y => y

/-- The issue of a load: its first, with nothing read yet; or the one that goes on behind the lanes of `old`. -/
def State.loadIssue (s : State) (e : Env) (lits : Nat) (f : State → PendingOp → Except Flt Out) : Except Flt Out :=
  match s.partLoad e with
  | some o => let t : State := { s with ops := s.ops.filter (·.id != o.id) }; Out.orFault t e (f t o)
  | none => e.held s lits (f s (e.op s))

/-- The operation of a load's next lanes, behind those of `old`: what it has read, and whether lanes follow. -/
def State.loadLanes (s : State) (e : Env) (cached vec : Bool) (n : Nat) (as : List Acc) (old : PendingOp) (fill : Fill) :
    State × PendingOp :=
  let (now, more) := soPrefix (as.filter fun a => !(old.units.contains a.lane))
  let g := s.gather e cached vec now (old.fill.getD fill)
  let units := old.units ++ now.map (·.lane)
  let o : PendingOp := { e.accessOp s n now with
    remote := g.remote, isLoad := true, part := more, units := units
    fill := some { fill with units := (as.filter fun a => units.contains a.lane).map (·.unit vec), data := g.data, poison := g.poison } }
  (g.s, o)

/-- The register of a destination, for a fill of `n` bytes a unit. -/
def fillFor (dd : Dst) (vec : Bool) (n : Nat) (sgn : Bool) : Fill :=
  let r := match dd with
    | .vec r => r
    | .sca r => r
    | .none => 0
  { vector := vec, reg := r, bytes := n, signed := sgn, units := [] }

/-- Perform the accesses of a load (R380, R381): it delivers at once or at its flag's completion; a remote or CXL
load holds its path (R189). An acquire at `acq` bypasses the L1 and, once its read is there, drops its lines (R217). -/
def State.load (s : State) (e : Env) (dd : Dst) (n : Nat) (sgn vec : Bool) (acq : Option Nat) (as : List Acc) (old : PendingOp)
    (lits : Nat) : Except Flt Out :=
  let (t, o) := s.loadLanes e acq.isNone vec n as old (fillFor dd vec n sgn)
  let o : PendingOp := { o with acquire := acq }
  if o.part then .ok (.wait { t with ops := t.ops ++ [o] } (.op o.id))
  else
    let o : PendingOp := if dd = .none then { o with fill := none } else o
    if o.ready then
      let t := match acq with
        | some c => t.acquired e c
        | none => t
      goOn (t.deliver e true o.results o.homes) lits
    else .ok (.wait (t.addOp e true o) (.op o.id))

/-- The scope of an acquire of some positions: the widest of the path, or in the scalar form of their slices (R139). -/
def Env.scopeOf (e : Env) (vec : Bool) (us : Nats) : Nat :=
  if vec || us == [] then e.scope else (us.map fun L => modeSCOPE (e.mode (L / 4))).foldl max 0

/-- A load of `n` bytes (R380, R382): `align` holds for the acquire forms. -/
def loadOp (op n : Nat) (sgn align : Bool) (d a b : Opd) (s : State) : Result :=
  issue op s fun e => s.loadIssue e (litsOf a 2 + litsOf b 1) fun s old => do
    let k := max 1 (n / 4)
    if k = 4 ∧ d = .zero then throw badOperand
    let dd ← e.dst d k
    let (ba, ls) ← e.baseSrc a e.lits
    let (off, ls) ← e.offSrc b ls
    let vec ← e.vectorForm d [ba, off]
    let us := e.units vec
    e.checkPoison us [(ba, 2), (off, 1)]
    let addrs := us.map fun L => (L, effective (e.read 2 L ba).1 (e.read 1 L off).1)
    let s := s.holds e n addrs
    let acq := if align then some (e.scopeOf vec us) else none
    if us.isEmpty then goOn (if align then s.acquired e e.scope else s) (e.used ls)
    else
      let as ← s.accesses e .load n (if align then n else 1) addrs
      if s.accessHeld e as then return .wait s .engine
      s.load e dd n sgn vec acq as old (e.used ls)

/-- The first `k` bytes of a span. -/
def Span.first (sp : Span) (k : Nat) : Span :=
  let cut := sp.parts.foldl (fun (r : List (Place × Nat) × Nat) (p : Place × Nat) =>
    if r.2 = 0 then r else (r.1 ++ [(p.1, min p.2 r.2)], r.2 - min p.2 r.2)) ([], k)
  { sp with parts := cut.1 }

/-- Store one access's bytes: a management register is written with the rights of a privileged host (R29). -/
def State.storeAt (s : State) (e : Env) (opId : Nat) (bypass : Bool) (a : Acc) (bs : Bytes) : State × Nats :=
  match a.sp.mgmt? with
  | some off => (s.regWrite s.ownId off bs.length (leNat bs), [])
  | none => s.putSpan e.who false a.sp bs opId a.lane bypass

/-- The accesses of a store in order of lane or slice (R381): the state, and the requests that they sent. -/
def State.storeAll (s : State) (e : Env) (bypass : Bool) (l : List (Acc × Bytes)) : State × Nats :=
  l.foldl (fun (x : State × Nats) ab =>
    let (t, i) := x.1.storeAt e s.nextId bypass ab.1 ab.2
    (t, x.2 ++ i)) (({ s with nextId := s.nextId + 1 } : State), [])

/-- Some lanes of a store, or of an atomic without destination, are begun, and the instruction waits for the others (R215). -/
def State.partSent (s : State) (e : Env) (o : PendingOp) (as : List Acc) : Except Flt Out :=
  .ok (.wait (({ s with ops := s.ops ++ [{ o with part := true, units := as.map (·.lane) }] } : State).partDone e as) .engine)

/-- Perform the accesses of a store of `n` bytes; `release` for the store of a release (R216). -/
def State.store (s : State) (e : Env) (release : Bool) (n : Nat) (l : List (Acc × Bytes)) (lits : Nat) : Except Flt Out :=
  let (now, more) := soPrefix (l.map (·.1))
  let (t, ids) := s.storeAll e release (l.take now.length)
  let o : PendingOp := { e.accessOp s n now with remote := ids, orders := release }
  if more then t.partSent e o now else t.sent e o lits

/-- A release whose earlier accesses are not all performed at its scope (R216, R382): its stores wait for them, each slice's by its
own SCOPE in the scalar form, and the path goes on without them when it is flagged. -/
def State.holdStores (s : State) (e : Env) (n : Nat) (vec : Bool) (l : List (Acc × Bytes)) (lits : Nat) : Except Flt Out :=
  let item := fun (x : Acc × Bytes) =>
    ({ lane := x.1.lane, scope := if vec then e.scope else modeSCOPE (e.mode (x.1.lane / 4)), span := x.1.sp, bytes := x.2 } : HeldStore)
  ({ s with nextId := s.nextId + 1 } : State).sent e
    { e.accessOp s n (l.map (·.1)) with cxl := [], orders := true, held := l.map item } lits

/-- A release that stores nothing (R219, R379): its flag clears at once, and the path's later writes wait until the earlier accesses
are performed at a scope. -/
def State.orderOnly (s : State) (e : Env) (scope lits : Nat) : Except Flt Out :=
  if s.quiet e scope then goOn s lits
  else goOn { s with ops := s.ops ++ [{ e.op s with orders := true, release := some scope }], nextId := s.nextId + 1 } lits

/-- A place is behind a fence now (R13, R36, R42). -/
def State.placeFenced (s : State) : Place → Bool
  | .mem o => s.fencedAt o
  | .remote p o => s.fencedPkgs.contains p || (decide (o < 2 ^ 38) && s.fencedRemoteDies.contains (p, dieOf o))
  | _ => false

/-- One store that a release held back is performed, or ends in an error where its target is fenced by now (R36, R189). -/
def State.performHeld (s : State) (o : PendingOp) (h : HeldStore) : State :=
  let drop := fun (o : PendingOp) => { o with held := o.held.filter (· != h) }
  let w : Who := ((s.env? o.wave o.path).map Env.who).getD { ctx := 64, gang := refGang o.wave }
  if h.span.parts.any fun x => s.placeFenced x.1 then s.failOp o.id h.lane (BitVec.ofNat 64 h.span.va) drop
  else
    let (t, ids) := match h.span.mgmt? with
      | some off => (s.regWrite s.ownId off h.bytes.length (leNat h.bytes), [])
      | none => s.putSpan w false h.span h.bytes o.id h.lane true
    t.mapOp o.id fun o => { drop o with remote := o.remote ++ ids, cxl := o.cxl ++ h.span.cxlParts h.lane }

/-- A release that orders alone is performed: an arrival that it held back counts (R216, R418). -/
def State.endRelease (s : State) (o : PendingOp) : State :=
  let s := s.mapOp o.id fun o => { o with release := none, barrier := none }
  match o.barrier, refGang o.wave with
  | some b, some (t, g) => s.mapGang t g (·.unhold b (refWave o.wave) o.slices)
  | _, _ => s

/-- Releases whose earlier accesses are performed go on (R216, R382): those that order alone are done, and held stores are
performed, to SO pages one after the other. -/
def State.performReleases (s : State) : State :=
  s.ops.foldl (fun s o =>
    let o := (s.op? o.id).getD o
    match o.release, o.signal with
    | some sc, none => if s.releaseDone o sc then s.endRelease o else s
    | _, _ =>
      (o.held.filter fun h => s.releaseDone o h.scope).foldl (fun s h =>
        let x := (s.op? o.id).getD o
        if h.span.so && (x.remote != [] || x.cxl != []) then s else s.performHeld x h) s) s

/-- How many bytes of each lane a store of two halves has reached when a quench stops it: on SO pages whole lanes in their order
and then part of one, elsewhere any number of halves of each (R107, R215). -/
def cutBytes (draw : Nat) (l : List Acc) : Nats :=
  let free := fun (i : Nat) => (Config.freeWord (draw + i)).toNat
  if anySo l then
    let full := free l.length % (l.length + 1)
    (upto l.length).map fun i => if i < full then 16 else if i = full then 8 * (free i % 2) else 0
  else (upto l.length).map fun i => 8 * (free i % 3)

/-- A store of two halves that a quench stops (R107, R229, R379): each lane has reached as many of its 8-byte halves, in
increasing address order, as the device chooses; the path does not go on. -/
def State.cutStore (s : State) (e : Env) (l : List (Acc × Bytes)) : Except Flt Out :=
  let now := (soPrefix (l.map (·.1))).1
  let cut := ((l.take now.length).zip (cutBytes s.fresh now)).map fun (ab, k) =>
    (({ ab.1 with sp := ab.1.sp.first k } : Acc), ab.2.take k)
  let (t, ids) := ({ s with fresh := s.fresh + now.length + 1 } : State).storeAll e false (cut.filter (·.2 != []))
  .ok (.stop { t with ops := t.ops ++ [{ e.accessOp s 16 (cut.map (·.1)) with remote := ids }] })

/-- A store of `n` bytes (R380, R382). -/
def storeOp (op n : Nat) (align : Bool) (d a b : Opd) (s : State) : Result :=
  let k := max 1 (n / 4)
  issue op s fun e => e.held s (litsOf d k + litsOf a 2 + litsOf b 1) do
    let (dat, ls) ← if k = 4 then e.quadSrc d e.lits else e.src d k e.lits
    let (ba, ls) ← e.baseSrc a ls
    let (off, ls) ← e.offSrc b ls
    let vec ← e.vectorForm d [ba, off]
    let us := e.todo (e.units vec)
    e.checkPoison us [(dat, k), (ba, 2), (off, 1)]
    let addrs := us.map fun L => (L, effective (e.read 2 L ba).1 (e.read 1 L off).1)
    let s := s.holds e n addrs
    if us.isEmpty then (if align then s.orderOnly e e.scope (e.used ls) else goOn s (e.used ls))
    else
      let as ← s.accesses e .store n (if align then n else 1) addrs
      if s.accessHeld e as || s.writeHeld e then return .wait s .engine
      let data := as.map fun a => (a, leBytes n (e.read k a.lane dat).1)
      if s.cut && decide (n = 16) then s.cutStore e data
      else if align && !(s.quiet e (e.scopeOf vec us)) then s.holdStores e n vec data (e.used ls)
      else s.store e align n data (e.used ls)

/-- LDB (R380). -/
def execLdb (d a b : Opd) (s : State) : Result := loadOp 0x80 1 false false d a b s
/-- LDSB (R380). -/
def execLdsb (d a b : Opd) (s : State) : Result := loadOp 0x81 1 true false d a b s
/-- LDH (R380). -/
def execLdh (d a b : Opd) (s : State) : Result := loadOp 0x82 2 false false d a b s
/-- LDSH (R380). -/
def execLdsh (d a b : Opd) (s : State) : Result := loadOp 0x83 2 true false d a b s
/-- LDW (R380). -/
def execLdw (d a b : Opd) (s : State) : Result := loadOp 0x84 4 false false d a b s
/-- LDD (R380). -/
def execLdd (d a b : Opd) (s : State) : Result := loadOp 0x85 8 false false d a b s
/-- LDQ (R380). -/
def execLdq (d a b : Opd) (s : State) : Result := loadOp 0x86 16 false false d a b s
/-- STB (R380). -/
def execStb (d a b : Opd) (s : State) : Result := storeOp 0x87 1 false d a b s
/-- STH (R380). -/
def execSth (d a b : Opd) (s : State) : Result := storeOp 0x88 2 false d a b s
/-- STW (R380). -/
def execStw (d a b : Opd) (s : State) : Result := storeOp 0x89 4 false d a b s
/-- STD (R380). -/
def execStd (d a b : Opd) (s : State) : Result := storeOp 0x8A 8 false d a b s
/-- STQ (R380). -/
def execStq (d a b : Opd) (s : State) : Result := storeOp 0x8B 16 false d a b s
/-- LDAW (R382). -/
def execLdaw (d a b : Opd) (s : State) : Result := loadOp 0x8C 4 false true d a b s
/-- LDAD (R382). -/
def execLdad (d a b : Opd) (s : State) : Result := loadOp 0x8D 8 false true d a b s
/-- STLW (R382). -/
def execStlw (d a b : Opd) (s : State) : Result := storeOp 0x8E 4 true d a b s
/-- STLD (R382). -/
def execStld (d a b : Opd) (s : State) : Result := storeOp 0x8F 8 true d a b s

/-! ### Atomics (R383–R386) -/

/-- An order that the device chooses (R385): each place is taken by a free pick among those left. -/
def freeOrder {α : Type} (draw : Nat) : Nat → List α → List α
  | 0, _ => []
  | _, [] => []
  | fuel + 1, l@(x :: _) =>
    let i := (Config.freeWord draw).toNat % l.length
    nth x l i :: freeOrder (draw + 1) fuel (l.eraseIdx i)

/-- Lanes that name one location are taken in a free order, on SO pages in increasing order; where no two name
one location the order does not matter (R385). -/
def State.serial (s : State) (as : List Acc) : State × List Acc :=
  let vas := as.map (·.va)
  if vas.eraseDups.length = vas.length ∨ as.any (·.sp.so) then (s, as)
  else ({ s with fresh := s.fresh + as.length }, freeOrder s.fresh as.length as)

/-- What the accesses of an atomic have done so far. -/
structure Rmw where
  s : State
  data : Table Byte := []
  poison : Nats := []
  remote : Nats := []

/-- The request of a read-modify-write whose location lies at one other endpoint: its offset, and for a cell in two of its pages the
bytes in the first and the offset of the rest (R222). -/
def Span.oneHome (sp : Span) : Option (Nat × Nat × Option (Nat × Nat)) :=
  match sp.parts with
  | [(.remote pkg off, _)] => some (pkg, off, none)
  | [(.remote pkg off, n), (.remote pkg2 off2, _)] => if pkg = pkg2 then some (pkg, off, some (n, off2)) else none
  | _ => none

/-- One read-modify-write: the package's own at once, a remote one by request. `f` answers the bytes that D
receives and those to be written. An AXSUM cell that lies in two pages of which one is another endpoint's has no one home:
what the device reads of the other endpoint's bytes is a free value, and each part is written where it lies. -/
def Rmw.access (g : Rmw) (e : Env) (opId unit : Nat) (kind : Option (Nat × Nat) → RemoteKind) (send : Bytes) (keep : Bool)
    (f : Bytes → Bytes × Option Bytes) (n : Nat) (a : Acc) : Rmw :=
  match a.sp.oneHome, a.sp.mgmt?, kind none with
  | some (pkg, off, second), _, _ =>
    let (s, i) := g.s.sendRequest { id := 0, since := 0, pkg := pkg, off := off, kind := kind second, data := send, opId := opId,
                                    dest := if keep then some (unit, 0) else none, va := BitVec.ofNat 64 a.va, lane := a.lane }
    { g with s := s, remote := g.remote ++ [i] }
  | none, some off, .atomic op w sgn =>
    let (old, t) := g.s.atomicMgmt g.s.ownId op w sgn off (leNat send)
    { g with s := t, data := if keep then putBytes g.data (64 * unit) (leBytes n old) else g.data }
  | _, _, _ =>
    let (old, new) := f ((g.s.readSpan e.who a.sp).take n)
    let (s, ids) := match new with
      | some bs => g.s.putSpan e.who false a.sp (bs ++ ((g.s.readSpan e.who a.sp).take n).drop bs.length) opId a.lane true
      | none => (a.sp.parts.foldl (fun s pn => s.noteWrite e.who false pn.1 (List.replicate pn.2 0)) g.s, [])
    { g with
      s := s
      remote := g.remote ++ ids
      data := if keep then putBytes g.data (64 * unit) old else g.data
      poison := if keep && g.s.spanPoisoned e.who a.sp then g.poison ++ [unit] else g.poison }

/-- Complete an atomic's issue (R379, R384): class A with a destination, class B without; `more` where lanes follow (R215). -/
def Rmw.finish (g : Rmw) (e : Env) (o : PendingOp) (dd : Dst) (bytes : Nat) (vec more : Bool) (as : List Acc) (lits : Nat) :
    Except Flt Out :=
  let o : PendingOp := { o with remote := g.remote, cxl := cxlOf as, so := anySo as, homes := as.flatMap (·.sp.homes)
                                ranges := as.map fun a => (a.va, bytes), va := BitVec.ofNat 64 ((as.map (·.va)).headD 0) }
  if dd = .none then (if more then g.s.partSent e o as else g.s.sent e o lits)
  else
    let fill : Fill := { fillFor dd vec bytes false with units := as.map (·.unit vec), data := g.data, poison := g.poison }
    let o : PendingOp := { o with fill := some fill, isLoad := true, atomic := true, part := more, units := as.map (·.lane) }
    if more then .ok (.wait (({ g.s with ops := g.s.ops ++ [o] } : State).partDone e as) (.op o.id))
    else if o.ready then goOn (g.s.deliver e true o.results o.homes) lits
    else .ok (.wait (g.s.addOp e true o) (.op o.id))

/-- An atomic other than AXSUM (R383, R384). -/
def atomicOp (op : Nat) (accept : ETy → Bool) (d a b : Opd) (s : State) : Result :=
  issue op s fun e => do
    let n ← e.types accept
    let k := if op = 0x97 then 2 * n else n
    e.held s (litsOf a 2 + litsOf b k) do
      let dd ← e.dst d n
      let (ba, ls) ← e.baseSrc a e.lits
      let (x, ls) ← if k = 4 then e.quadReg b ls else e.src b k ls
      let vec ← e.vectorForm d [ba, x]
      let us := e.todo (e.units vec)
      e.checkPoison us [(ba, 2), (x, k)]
      let addrs := us.map fun L => (L, (e.read 2 L ba).1)
      let s := s.holds e (4 * n) addrs
      let as ← s.accesses e .store (4 * n) (4 * n) addrs
      if s.accessHeld e as || s.writeHeld e then return .wait s .engine
      if as.isEmpty then goOn s (e.used ls)
      else
        let id := s.nextId
        let o := e.op s
        let (s, as) := ({ s with nextId := id + 1 } : State).serial as
        let (now, more) := soPrefix as
        let g := now.foldl (fun (g : Rmw) a =>
          let v := (e.read k a.lane x).1
          let sgn := (e.ety (a.lane / 4)).intSigned.getD false
          let f := fun (bs : Bytes) => (bs, (atomicNew op (32 * n) sgn (leNat bs) v).map (leBytes (4 * n)))
          g.access e id (a.unit vec) (fun _ => .atomic op (32 * n) sgn) (leBytes (4 * k) v) (dd != .none) f (4 * n) a) { s := s }
        g.finish e o dd (4 * n) vec more now (e.used ls)

/-- The integer types of R383: i32, n32, i64, n64. -/
def atomicInt (t : ETy) : Bool := t == .i32 || t == .n32 || t == .i64 || t == .n64

/-- AADD (R384). -/
def execAadd (d a b : Opd) (s : State) : Result := atomicOp 0x90 atomicInt d a b s
/-- AMIN (R384). -/
def execAmin (d a b : Opd) (s : State) : Result := atomicOp 0x91 atomicInt d a b s
/-- AMAX (R384). -/
def execAmax (d a b : Opd) (s : State) : Result := atomicOp 0x92 atomicInt d a b s
/-- AAND (R384). -/
def execAand (d a b : Opd) (s : State) : Result := atomicOp 0x93 atomicInt d a b s
/-- AOR (R384). -/
def execAor (d a b : Opd) (s : State) : Result := atomicOp 0x94 atomicInt d a b s
/-- AXOR (R384). -/
def execAxor (d a b : Opd) (s : State) : Result := atomicOp 0x95 atomicInt d a b s
/-- AXCH (R384). -/
def execAxch (d a b : Opd) (s : State) : Result := atomicOp 0x96 atomicInt d a b s
/-- ACAS (R384). -/
def execAcas (d a b : Opd) (s : State) : Result := atomicOp 0x97 atomicInt d a b s
/-- AFADD (R384). -/
def execAfadd (d a b : Opd) (s : State) : Result := atomicOp 0x98 (fun t => t == .f32 || t == .f64) d a b s
/-- AINC (R384). -/
def execAinc (d a b : Opd) (s : State) : Result := atomicOp 0x9A atomicInt d a b s

/-- AXSUM (R376, R386). -/
def execAxsum (d a : Opd) (x : Nat) (s : State) : Result :=
  issue 0x99 s fun e => e.held s (litsOf a 2) do
    if 3 < x then throw badOperand
    let dd ← match d with
      | .v _ | .zero => e.dst d 1
      | _ => throw badOperand
    let (ba, ls) ← e.baseSrc a e.lits
    let us := e.todo (e.units true)
    let regs := [(ba, 2)] ++ (if dd = .none then [] else [(dd.src, 1)])
    match us.find? fun L => (e.w.getX x L).poison || regs.any fun r => (e.read r.2 L r.1).2 with
    | some L => throw { code := 0x61, lane := L }
    | none =>
      let addrs := us.map fun L => (L, (e.read 2 L ba).1)
      let s := s.holds e 48 addrs
      let as ← s.accesses e .store 48 16 addrs
      if s.accessHeld e as || s.writeHeld e then return .wait s .engine
      if as.isEmpty then goOn s (e.used ls)
      else
        let id := s.nextId
        let o := e.op s
        let (s, as) := ({ s with nextId := id + 1 } : State).serial as
        let (now, more) := soPrefix as
        let g := now.foldl (fun (g : Rmw) a =>
          let y := e.w.getX x a.lane
          let tag := (e.read 1 a.lane dd.src).1 % 2 ^ 16
          let f := fun (bs : Bytes) =>
            let (st, new) := axsumCell bs y tag
            (leBytes 4 st, new)
          g.access e id a.lane .axsum (leBytes 40 y.S.toNat ++ leBytes 2 y.E.toNat ++ leBytes 2 tag ++ leBytes 4 0)
            (dd != .none) f 48 a) { s := s }
        g.finish e o dd 4 true more now (e.used ls)

/-! ### Fences (R387) -/

/-- FENCE (R387). -/
def execFence (s : State) : Result :=
  issue 0x9B s fun e => if s.quiet e e.scope then goOn (s.acquired e e.scope) 0 else .ok (.wait s .fence)

/-- Whether the engine work that a FENCEE of this path waits for is performed (R387). -/
def State.enginesQuiet (s : State) (e : Env) : Bool :=
  match s.myGang e with
  | none => true
  | some g =>
    if e.caster then (s.outstanding e.ref).all fun o => !o.engine || o.ended
    else
      let q : LadleQueue := nth {} g.ladle e.group
      e.handler || q.tl.fenced || decide (e.path.ladleLast ≤ q.tl.reached)

/-- FENCEE (R387). -/
def execFencee (s : State) : Result :=
  issue 0x9C s fun e =>
    if s.quiet e e.scope && s.enginesQuiet e then goOn (s.acquired e e.scope) 0 else .ok (.wait s .fencee)

/-! ### Tags (R388) -/

/-- TAGL on a tag table: the lowest valid slot with this key. -/
def tagLookup (tags : Table DWord) (key : Nat) : Nat :=
  match tags.find? fun x => bitOf x.2.toNat 0 && decide (x.2.toNat / 1024 = key / 1024) with
  | some (i, _) => i
  | none => 0xFFFFFFFF

/-- A slot beyond the gang's is 0x02 (R388). -/
def State.checkSlots (s : State) (e : Env) (us : Nats) (x : Src) : Except Flt Unit :=
  match us.find? fun L => decide (s.scratchBytes e.task / 1024 ≤ (e.read 1 L x).1) with
  | some L => .error { badOperand with lane := L }
  | none => .ok ()

/-- The issuing gang's tag table. -/
def State.tagsOf (s : State) (e : Env) : Table DWord := ((s.myGang e).map (·.tags)).getD []

/-- Write a tag entry of the issuing gang. -/
def State.setTag (s : State) (e : Env) (i : Nat) (v : DWord) : State :=
  s.mapGang e.task e.gang fun g => { g with tags := g.tags.set 0 i v }

/-- TAGL (R388). -/
def execTagl (d a : Opd) (s : State) : Result :=
  issue 0x9D s fun e => do
    let dd ← e.dst d 1
    let (x, ls) ← e.src a 2 e.lits
    let vec ← e.vectorForm d [x]
    let us := e.units vec
    e.checkPoison us [(x, 2)]
    goOn (s.write e (us.flatMap fun L => dd.writes 1 L (tagLookup (s.tagsOf e) (e.read 2 L x).1) false)) (e.used ls)

/-- TAGS (R388): of several lanes naming one slot the highest remains. -/
def execTags (a b : Opd) (s : State) : Result :=
  issue 0x9E s fun e => do
    let (x, ls) ← e.src a 1 e.lits
    let (y, ls) ← e.src b 2 ls
    let us := e.units ((x.isVec || y.isVec) && !e.caster)
    s.checkSlots e us x
    e.checkPoison us [(x, 1), (y, 2)]
    goOn (us.foldl (fun s L =>
      let v := (e.read 2 L y).1
      s.setTag e (e.read 1 L x).1 (BitVec.ofNat 64 (v / 1024 * 1024 + v % 4))) s) (e.used ls)

/-- TAGI (R388): the old entry, whose VALID clears in the same step. -/
def execTagi (d a : Opd) (s : State) : Result :=
  issue 0x9F s fun e => do
    let dd ← e.dst d 2
    let (x, ls) ← e.src a 1 e.lits
    let vec ← e.vectorForm d [x]
    let us := e.units vec
    s.checkSlots e us x
    e.checkPoison us [(x, 1)]
    let r := us.foldl (fun (r : State × List RegWrite) L =>
      let i := (e.read 1 L x).1
      let old := ((r.1.tagsOf e).get 0 i).toNat
      (r.1.setTag e i (BitVec.ofNat 64 (old / 2 * 2)), r.2 ++ dd.writes 2 L old false)) (s, [])
    goOn (r.1.write e r.2) (e.used ls)

/-! ### Cache control (R389, R390) -/

/-- The 64-byte lines of a range of addresses leave a core's L1 (R389), a page at a time; unmapped pages are skipped. -/
def State.flushRange (s : State) (w : Who) (core va stop : Nat) : Nat → State
  | 0 => s
  | fuel + 1 =>
    if stop ≤ va then s
    else match s.translate w .load va with
      | .error _ => s.flushRange w core (va / 65536 * 65536 + 65536) stop fuel
      | .ok p =>
        let n := min p.stop stop - va
        let t := match p.place with
          | .mem o => s.dropL1 core o n
          | _ => s
        t.flushRange w core (va + max n 1) stop fuel

/-- CFLUSH (R389): the range's lines are dropped from the core's L1, and the operation is complete once the path's earlier stores to
the range are performed at device scope. -/
def execCflush (a b : Opd) (s : State) : Result :=
  issue 0xA0 s fun e => e.held s (litsOf a 2 + litsOf b 1) do
    let (x, ls) ← e.scalarOf a 2 true e.lits
    let (y, ls) ← e.scalarOf b 1 true ls
    let n := (e.read 1 (4 * e.low) y).1
    if 1048576 < n then throw badOperand
    let va ← e.readLow 2 x
    let _ ← e.readLow 1 y
    let meets := fun (o : PendingOp) => !o.isLoad && o.ranges.any fun r => decide (r.1 < va + n) && decide (va < r.1 + r.2)
    let t := s.flushRange e.who e.core va (va + n) 18
    ({ t with nextId := t.nextId + 1 } : State).sent e { e.op s with after := ((s.earlier e).filter meets).map (·.id) } (e.used ls)

/-- PREF (R390): hint 0 brings the lines of RC and UO pages of the package's memory into the core's L1; the memory-side
cache of hint 1 shows in no value. What has no translation is skipped. -/
def execPref (h : Bool) (a b : Opd) (s : State) : Result :=
  issue 0xA1 s fun e => do
    let (x, ls) ← e.baseSrc a e.lits
    let (y, ls) ← e.offSrc b ls
    let us := e.lanes
    e.checkPoison us [(x, 2), (y, 1)]
    let bring := fun (s : State) (L : Nat) =>
      match s.translate e.who .load (effective (e.read 2 L x).1 (e.read 1 L y).1) with
      | .ok { place := .mem o, kind := k, .. } => if k = 1 then s else (s.loadLine e.core (o / 64)).2.2
      | _ => s
    goOn (if h then s else us.foldl bring s) (e.used ls)

/-! ### Formed element load (R391) -/

/-- Element `i` of a line of a float format is a subnormal of that format (R150, R391; log 140). -/
def subnormalAt (line : Bytes) (i : Nat) : Bool :=
  (lineFmt (byteAt line 0)).any fun f => f.isSubnormal (nth 0 (lineCodes line) i)

/-- Element `i` of a line converted to a slice's T: bits and flags (R391). A conversion to f32 reads a subnormal element under DN
(R150); one to f64 is exact. -/
def lineElemTo (f : Fmt) (m : BitVec 24) (line : Bytes) (i : Nat) : Nat × Flags :=
  match (lineVals line)[i]? with
  | none => (0, 0)
  | some v =>
    let v := if modeDN m && f != fmt64 && subnormalAt line i then .fin v.neg 0 0 else v
    let (x, g) := floatToFloat f (Rnd.ofCode (modeRM m) (modeDR m) (i % 8)) (modeSAT m) (modeDN m) v
    (x, if f = fmt64 then g &&& fIV else g)

/-- The lines of an LDFE are there: they are checked, and the elements converted and delivered (R391). -/
def State.formedElements (s : State) (e : Env) (dd : Dst) (n : Nat) (ix : Src) (homes : Nats) (rows : List (Acc × Bytes × Bool))
    (lits : Nat) : Except Flt Out :=
  let bad := fun (r : Acc × Bytes × Bool) => checkLine r.2.1
  match rows.find? fun r => !r.2.2 && (bad r).isSome with
  | some r =>
    let (code, pk) := (bad r).getD (0x21, false)
    .error { code := code, lane := r.1.lane, addr := BitVec.ofNat 64 r.1.va, pk := pk }
  | none =>
    let f := if n = 2 then fmt64 else fmt32
    let ws := rows.flatMap fun r =>
      let a := r.1
      let v := if (bad r).isSome then ((Config.freeWord (s.fresh + a.lane)).toNat, 0)
        else lineElemTo f (e.mode (a.lane / 4)) r.2.1 (e.read 1 a.lane ix).1
      dd.writes n a.lane v.1 r.2.2 ++ [.sticky v.2]
    let s := if rows.any fun r => (bad r).isSome then { s with fresh := s.fresh + 32 } else s
    goOn (s.deliver e true ws homes) lits

/-- LDFE (R391): the path issues nothing more until each line has arrived and been checked. -/
def execLdfe (d a b : Opd) (s : State) : Result :=
  issue 0xA2 s fun e => do
    let n ← e.types fun t => t == .f32 || t == .f64
    let dd ← e.dst d n
    let (ba, ls) ← e.baseSrc a e.lits
    let (ix, ls) ← e.src b 1 ls
    let vec ← e.vectorForm d [ba, ix]
    let us := e.units vec
    let rows := fun (as : List Acc) (f : Fill) => as.map fun a => (a, getBytes f.data (64 * a.unit vec) 64, f.poison.contains (a.unit vec))
    let addrs := us.map fun L => (L, (e.read 2 L ba).1)
    let empty : Fill := { vector := vec, reg := 0, bytes := 64, units := [] }
    let arrived := fun (s : State) (o : PendingOp) (homes : Nats) =>
      let as := addrs.map fun (L, va) => ({ lane := L, va := va, sp := { va := va, parts := [] } } : Acc)
      s.formedElements e dd n ix homes (rows as (o.fill.getD empty)) (e.used ls)
    let first := fun (s : State) (old : PendingOp) => do
      e.checkPoison us [(ba, 2), (ix, 1)]
      let s := s.holds e 64 addrs
      let as ← s.accesses e .load 64 64 addrs
      if s.accessHeld e as then return .wait s .engine
      match as.find? fun a => !a.sp.formed && !a.sp.inScratch with
      | some a => throw { code := 0x12, lane := a.lane, addr := BitVec.ofNat 64 a.va }
      | none =>
        let (t, o) := s.loadLanes e true vec 64 as old empty
        if as.isEmpty then goOn s (e.used ls)
        else if o.ready && !o.part then arrived t o o.homes
        else return .wait { t with ops := t.ops ++ [{ o with part := true }] } (.op o.id)
    match e.path.wait with
    | .op id =>
      match s.op? id with
      | none => goOn s (e.used ls)
      | some o =>
        if !o.ready then return .wait s (.op id)
        let s : State := { s with ops := s.ops.filter (·.id != id) }
        Out.orFault s e (if us.all o.units.contains then arrived s o [] else first s o)
    | _ => first s (e.op s)

end Sys2Proof.Machine
end

