-- ==== Sys2Proof/Machine/Ladle.lean ====
section
/-! DEFINITION. The ladle: LCOPY, LGATH, LSCAT, LFILL, SHLD and SHEV, opcodes 0xC0–0xC4 and 0xCF (R408–R414), its
queues (R246–R249) and shape slots (R200–R202). -/

namespace Sys2Proof.Machine

/-! ### Shape slots -/

/-- A field of a tensor header record (R201). -/
def shapeFmt (r : Bytes) : Nat := byteAt r 4
/-- Rank. -/
def shapeRank (r : Bytes) : Nat := byteAt r 5
/-- The formed flag. -/
def shapeFormed (r : Bytes) : Bool := bitOf (byteAt r 6) 0
/-- Element bytes of a plain tensor. -/
def shapeElem (r : Bytes) : Nat := byteAt r 7
/-- Base address. -/
def shapeBase (r : Bytes) : Nat := fieldAt r 8 8
/-- Extent of dimension `d`. -/
def shapeExtent (r : Bytes) (d : Nat) : Nat := fieldAt r (0x10 + 4 * d) 4
/-- Stride of dimension `d`, from 1 on. -/
def shapeStride (r : Bytes) (d : Nat) : Nat := fieldAt r (0x20 + 8 * (d - 1)) 8

/-- The format checks of R202. -/
def shapeLegal (r : Bytes) : Bool :=
  decide (fieldAt r 0 4 = 0x52444854) && decide (1 ≤ shapeRank r) && decide (shapeRank r ≤ 4)
    && ((lineCount (shapeFmt r)).isSome || shapeFmt r == 0xFF)
    && (shapeFormed r == (shapeFmt r != 0xFF))
    && (shapeFormed r || [1, 2, 4, 8].contains (shapeElem r))
    && ((upto 4).all fun d => d = 0 || decide (shapeRank r ≤ d) || !(shapeFormed r) || shapeStride r d % 64 == 0)
    && decide (byteAt r 6 < 8)

/-- Lines of a dimension-0 row of a formed tensor (R160, R201); a zero-format tensor has none. -/
def shapeRowLines (r : Bytes) : Nat :=
  match (lineCount (shapeFmt r)).getD 0 with
  | 0 => 0
  | p => (shapeExtent r 0 + p - 1) / p

/-- Bytes of one item of a gather or scatter (R413). -/
def shapeItem (r : Bytes) : Nat := if shapeFormed r then 64 * shapeRowLines r else shapeElem r

/-- The address of item `i` of a tensor (R413), from dimension `d` on; `none` beyond the extents. -/
def shapeAddr (r : Bytes) : Nat → Nat → Nat → Nat → Option Nat
  | 0, _, i, va => if i = 0 then some (va % 2 ^ 64) else none
  | fuel + 1, d, i, va =>
    let e := shapeExtent r d
    if e = 0 then none
    else shapeAddr r fuel (d + 1) (i / e) (va + i % e * (if d = 0 then shapeElem r else shapeStride r d))

/-- The address that index `i` names. -/
def shapeAt (r : Bytes) (i : Nat) : Option Nat :=
  if shapeFormed r then shapeAddr r (shapeRank r - 1) 1 i (shapeBase r) else shapeAddr r (shapeRank r) 0 i (shapeBase r)

/-- The key of slot `k` of a core (R200). -/
def slotKey (core k : Nat) : Nat := 32 * (core % 4) + k

/-- Slot `k` of the issuing core. -/
def State.slot (s : State) (e : Env) (k : Nat) : ShapeSlot := (s.cluster e.cluster).shapes.get {} (slotKey e.core k)

/-- Write a slot of the issuing core. -/
def State.setSlot (s : State) (e : Env) (k : Nat) (x : ShapeSlot) : State :=
  s.mapCluster e.cluster fun c => { c with shapes := c.shapes.set {} (slotKey e.core k) x }

/-- The slot is owned by another gang than the issuing one. -/
def State.slotForeign (s : State) (e : Env) (k : Nat) : Bool :=
  match (s.slot e k).owner with
  | some x => x != (e.task, e.gang)
  | none => false

/-- The issuing group's queue. -/
def State.ladleQ (s : State) (e : Env) : LadleQueue := nth {} (((s.myGang e).map (·.ladle)).getD []) e.group

/-- An operation of the group's queue that names slot `k` has not begun (R414). -/
def State.slotAwaited (s : State) (e : Env) (k : Nat) : Bool :=
  (s.ladleQ e).ops.any fun o => o.slot == some k && !o.begun

/-- SHLD (R200–R202, R414). -/
def execShld (k : Nat) (a : Opd) (s : State) : Result :=
  issue 0xC4 s fun e => do
    if 32 ≤ k then throw badField
    let (x, ls) ← e.pairSrc a true e.lits
    let va ← e.readLow 2 x
    if s.slotForeign e k then throw badOperand
    if va % 64 ≠ 0 then throw { code := 0x12, addr := BitVec.ofNat 64 va }
    if s.slotAwaited e k then return .wait s .ladle
    match s.span e.who .load va 64 with
    | .error c => throw { code := c, addr := BitVec.ofNat 64 va }
    | .ok sp =>
      if s.accessHeld e [{ lane := 0xFF, va := va, sp := sp }] then return .wait s .ladle
      let r := s.readSpan e.who sp
      if !(shapeLegal r) then throw { code := 0x20, addr := BitVec.ofNat 64 va }
      goOn (s.setSlot e k { owner := some (e.task, e.gang), record := r }) (e.used ls)

/-- SHEV (R414). -/
def execShev (k : Nat) (s : State) : Result :=
  issue 0xCF s fun e => do
    if 32 ≤ k then throw badField
    if s.slotForeign e k then throw badOperand
    if s.slotAwaited e k then return .wait s .ladle
    goOn (s.setSlot e k {}) 0

/-! ### Issue (R411, R412) -/

/-- The descriptor words that an operation uses (R411). -/
def usedWords (k : LadleKind) (formed mv : Bool) : Nats :=
  (match k with
    | .copy => [0, 1, 2, 3]
    | .gather => [0, 1, 4, 5]
    | .scatter => [2, 3, 4, 5]
    | .fill => if formed then [0, 1, 2, 3] else [0, 1, 2])
    ++ [6] ++ (if mv then [7] else [])

/-- A pair of descriptor words as an address. -/
def pairOf (d : Nats) (i : Nat) : Nat := nth 0 d i + 2 ^ 32 * nth 0 d (i + 1)

/-- The values of a descriptor are legal (R411). -/
def descLegal (k : LadleKind) (x mv : Bool) (d : Nats) : Bool :=
  let used := usedWords k x mv
  let w := nth 0 d
  ((upto 8).all fun i => used.contains i || w i == 0) && w 6 != 0
    && (if mv then decide (w 7 < 256) && decide (40 ≤ w 7) else true)
    && (if k = .gather ∨ k = .scatter then decide (w 6 ≤ 2 ^ 20) else true)
    && (if k = .fill ∧ x then decide (w 3 < 256) else true)

/-- The alignment of a descriptor (R412 step 2); `r` is the record of the slot when the gang owns it. -/
def descAligned (k : LadleKind) (x : Bool) (d : Nats) (r : Option Bytes) : Bool :=
  let at_ := fun (i n : Nat) => decide (pairOf d i % n = 0)
  let len := fun (n : Nat) => decide (nth 0 d 6 % n = 0)
  let el := match r with
    | some b => if shapeFormed b then 64 else max (shapeElem b) 1
    | none => 1
  match k with
  | .copy => if x then at_ 0 64 && at_ 2 8 && len 64 else at_ 0 8 && at_ 2 8 && len 8
  | .fill => if x then at_ 0 64 && len 64 else at_ 0 8 && len 8
  | .gather => at_ 4 4 && at_ 0 el
  | .scatter => at_ 4 4 && at_ 2 el

/-- A ladle instruction (R411, R412): `x` is `unpack` or `formed`. -/
def ladleInstr (op : Nat) (kind : LadleKind) (d a : Opd) (mv x sv : Bool) (k : Nat) (s : State) : Result :=
  issue op s fun e => e.held s 0 do
    if !sv ∧ (kind = .gather ∨ kind = .scatter ∨ (kind = .fill ∧ x)) then throw badField
    let dd ← e.stDst d 2 true
    let oct ← groupSrc a 8
    let used := usedWords kind x mv
    let regs := (upto 8).map fun i => match oct with
      | .sca r => e.w.getS (r + i) e.low
      | _ => ({} : RegVal)
    if used.any fun i => (nth {} regs i).poison then throw { code := 0x61, lane := 4 * e.low }
    let desc := regs.map fun (v : RegVal) => v.bits.toNat
    if !(descLegal kind x mv desc) then throw badOperand
    let sl := s.slot e k
    let owned := sv && sl.owner == some (e.task, e.gang)
    if !(descAligned kind x desc (if owned then some sl.record else none)) then throw { code := 0x12 }
    if sv && !owned then throw badOperand
    if kind = .fill ∧ x ∧ !(shapeFormed sl.record) then throw badOperand
    let m := nth 0 desc 7
    if mv && s.foreign e m then throw { code := 0x41 }
    let s := if mv && !(s.mould e m).owned then s.setMould e m { s.mould e m with owned := true, owner := s.ownerNo e } else s
    let q := s.ladleQ e
    if 32 ≤ q.ops.length then return .wait s .ladle
    let n := q.tl.taken + 1
    let o : LadleOp := {
      n := n, kind := kind, desc := desc, x := x, slot := if sv then some k else none, mould := if mv then some m else none
      pc := e.pc, wave := e.ref, path := e.p, inPass := s.insidePass e, opId := s.nextId }
    let s := s.mapGang e.task e.gang fun g =>
      { g with ladle := setNth g.ladle e.group { q with ops := q.ops ++ [o], tl := q.tl.take } }
    let s := s.mapPath (e.ref, e.p) fun p => { p with ladleLast := n }
    let s := s.write e (e.allWrites dd 2 n)
    ({ s with nextId := s.nextId + 1 } : State).sent e
      { e.op s with engine := true, va := BitVec.ofNat 64 (pairOf desc (if kind = .scatter then 2 else 0)) } 0

/-- LCOPY (R413). -/
def execLcopy (d a : Opd) (v x w : Bool) (k : Nat) (s : State) : Result := ladleInstr 0xC0 .copy d a v x w k s
/-- LGATH (R413). -/
def execLgath (d a : Opd) (v w : Bool) (k : Nat) (s : State) : Result := ladleInstr 0xC1 .gather d a v false w k s
/-- LSCAT (R413). -/
def execLscat (d a : Opd) (v w : Bool) (k : Nat) (s : State) : Result := ladleInstr 0xC2 .scatter d a v false w k s
/-- LFILL (R413). -/
def execLfill (d a : Opd) (v x w : Bool) (k : Nat) (s : State) : Result := ladleInstr 0xC3 .fill d a v x w k s

/-! ### The work of an operation (R413) -/

/-- Who an operation's accesses are made for. -/
def LadleOp.who (o : LadleOp) (ctx cluster : Nat) : Who := { ctx := ctx, gang := refGang o.wave, cluster := some cluster }

/-- What stops an operation: code and address. -/
abbrev Stop := Nat × Nat

/-- The state of an operation in progress: source and destination bytes done, the item in progress and its elements or lines
done, whether a source byte of the destination line in progress was poisoned, the remote requests sent and the CXL accesses
made, and the bytes moved. -/
structure Work where
  s : State
  pos : Nat
  outPos : Nat
  item : Option Nat := none
  sub : Nat := 0
  poisoned : Bool := false
  remote : Nats := []
  cxl : List CxlPart := []
  moved : Nat := 0
  stop : Option Stop := none

/-- Translate one unit with its page kind (R413): scratch meets either kind. -/
def State.unit (s : State) (w : Who) (acc : Access) (va n : Nat) (formed : Option Bool) : Except Stop Span :=
  match s.span w acc va n with
  | .error c => .error (c, va)
  | .ok sp =>
    match formed with
    | some f => if sp.inScratch || sp.formed == f then .ok sp else .error (0x12, va)
    | none => .ok sp

/-- Whether a formed line that is not poisoned may pass: its checks, and the slot's code (R412, R413, R230). -/
def lineStop (want : Option Nat) (line : Bytes) : Option Nat :=
  match checkLine line with
  | some (c, _) => some c
  | none => match want with
    | some f => if byteAt line 0 ≠ 0 ∧ byteAt line 0 ≠ f then some 0x20 else none
    | none => none

/-- The lines of a span lose their poison (R206). -/
def State.clearPoison (s : State) (w : Who) (sp : Span) : State :=
  let clear := fun (o n : Nat) (t : Table Bool) => (upto ((o % 64 + n + 63) / 64)).foldl (fun t i => t.set false (o / 64 + i) false) t
  sp.parts.foldl (fun s pn => match pn with
    | (.mem o, n) => { s with poison := clear o n s.poison }
    | (.scratch o, n) => match w.gang with
      | some (t, g) => s.mapGang t g fun x => { x with scratchPoison := clear o n x.scratchPoison }
      | none => s
    | _ => s) s

/-- Write one unit of an operation whose destination range begins at `first`, with the check of each write (R410). Poisoned
source bytes poison their destination line (R257); one that the range covers wholly, and of whose bytes none came from a
poisoned line, loses its poison with its last unit (R206). `none` for a scatter, whose elements are no range. -/
def Work.put (k : Work) (w : Who) (o : LadleOp) (first : Option Nat) (sp : Span) (bs : Bytes) (poisoned : Bool) : Except Stop Work :=
  if k.s.sideEffect w ((w.gang.map (·.1)).getD 0) o.inPass sp then .error (0x50, sp.va)
  else
    let (s, ids) := k.s.putSpan w true sp bs o.opId
    let s := if poisoned then s.poisonSpan w sp else s
    let pz := poisoned || (k.poisoned && sp.va % 64 != 0)
    let whole := (sp.va + bs.length) % 64 == 0 && first.any fun f => decide (f ≤ sp.va / 64 * 64)
    let s := if whole && !pz then s.clearPoison w sp else s
    .ok { k with s := s, remote := k.remote ++ ids, cxl := k.cxl ++ sp.cxlParts 0xFF, poisoned := pz, moved := k.moved + bs.length }

/-- Stop an operation, or go on. -/
def Work.bound (k : Work) (x : Except Stop Work) : Work :=
  match x with
  | .ok y => y
  | .error f => { k with stop := some f }

/-- The bytes of the next unit of a copy or fill: a whole line where both ranges stand at one, else 8. -/
def unitBytes (o : LadleOp) (pos : Nat) (formed : Bool) : Nat :=
  let dst := pairOf o.desc 0 + pos
  let src := pairOf o.desc 2 + pos
  if dst % 64 = 0 ∧ pos + 64 ≤ nth 0 o.desc 6 ∧ (formed ∨ o.kind = .fill ∨ src % 64 = 0) then 64 else 8

/-- One unit of a plain copy. -/
def Work.copyUnit (k : Work) (w : Who) (o : LadleOp) : Except Stop Work := do
  let dst := pairOf o.desc 0 + k.pos
  let src := pairOf o.desc 2 + k.pos
  let d0 ← k.s.unit w .store dst 8 none
  let s0 ← k.s.unit w .load src 8 none
  if !d0.inScratch && !s0.inScratch && d0.formed != s0.formed then throw (0x12, dst)
  let formed := if d0.inScratch then s0.formed else d0.formed
  let n := unitBytes o k.pos formed
  let sp ← k.s.unit w .load src n (if s0.inScratch then none else some s0.formed)
  let dp ← k.s.unit w .store dst n none
  let bs := k.s.readSpan w sp
  let pz := k.s.spanPoisoned w sp
  if formed && n == 64 && !pz then
    match lineStop (o.slot.map fun _ => shapeFmt o.record) bs with
    | some c => throw (c, dst)
    | none => pure ()
  let k ← k.put w o (some (pairOf o.desc 0)) dp bs pz
  .ok { k with pos := k.pos + n, cxl := k.cxl ++ sp.cxlParts 0xFF }

/-- The 64 bytes or the pattern that a fill writes (R413). -/
def fillLine (o : LadleOp) : Bytes :=
  let v := fmt32.decode (nth 0 o.desc 2)
  let f := shapeFmt o.record
  (buildLine { rm := 0 } f (nth 0 o.desc 3) (List.replicate ((lineCount f).getD 0) v)).1

/-- One unit of a fill. -/
def Work.fillUnit (k : Work) (w : Who) (o : LadleOp) : Except Stop Work := do
  let dst := pairOf o.desc 0 + k.pos
  let n := unitBytes o k.pos o.x
  let dp ← k.s.unit w .store dst n (some o.x)
  let bs := if o.x then fillLine o else (List.replicate (n / 4) (leBytes 4 (nth 0 o.desc 2))).flatten
  if o.x then
    match checkLine bs with
    | some (c, _) => throw (c, dst)
    | none => pure ()
  let k ← k.put w o (some (pairOf o.desc 0)) dp bs false
  .ok { k with pos := k.pos + n }

/-- Read a range in 8-byte units (R413): the bytes and whether any line of it is poisoned. -/
def State.readUnits (s : State) (w : Who) (formed : Option Bool) (va : Nat) : Nat → Except Stop (Bytes × Bool)
  | 0 => .ok ([], false)
  | n + 1 => do
    let sp ← s.unit w .load va 8 formed
    let (bs, pz) ← s.readUnits w formed (va + 8) n
    .ok (s.readSpan w sp ++ bs, pz || s.spanPoisoned w sp)

/-- Write lines from an address on into formed pages, once every one of them may be written. -/
def Work.putLines (k : Work) (w : Who) (o : LadleOp) (pz : Bool) (va : Nat) : List Bytes → Except Stop Work
  | [] => .ok k
  | l :: t => do
    let sp ← k.s.unit w .store va 64 (some true)
    let k ← k.put w o (some (pairOf o.desc 0)) sp l pz
    k.putLines w o pz (va + 64) t

/-- One packet of an unpacking copy (R174–R176, R413). -/
def Work.packetUnit (k : Work) (w : Who) (o : LadleOp) : Except Stop Work := do
  let src := pairOf o.desc 2 + k.pos
  let dst := pairOf o.desc 0 + k.outPos
  let left := nth 0 o.desc 6 - k.pos
  let (head, _) ← k.s.readUnits w (some false) src 1
  let h := packetHead head
  let bad := decide (3 ≤ h.method) || decide (h.lines = 0) || decide (h.clen = 0) || decide (left < 8 + h.clen)
  if bad then throw (0x20, src)
  let (bs, pz) ← k.s.readUnits w (some false) src ((8 + h.clen + 7) / 8)
  match readPacket (bs.take left) with
  | .error c => throw (c, src)
  | .ok (ls, size) =>
    match ls.findSome? (lineStop (o.slot.map fun _ => shapeFmt o.record)) with
    | some c => throw (c, src)
    | none =>
      let k ← k.putLines w o pz dst ls
      .ok { k with pos := k.pos + size, outPos := k.outPos + 64 * ls.length }

/-- Move one element or line between two places; a source of `none` gives zeros. -/
def Work.moveElem (k : Work) (w : Who) (o : LadleOp) (el : Nat) (formed : Bool) (src : Option Nat) (dst : Nat) : Except Stop Work := do
  let (bs, pz, cx) ← match src with
    | none => pure (List.replicate el (0 : Byte), false, ([] : List CxlPart))
    | some a => do
      let sp ← k.s.unit w .load a el (some formed)
      let bs := k.s.readSpan w sp
      let pz := k.s.spanPoisoned w sp
      if formed && !pz then
        match checkLine bs with
        | some (c, _) => throw (c, a)
        | none => pure ()
      pure (bs, pz, sp.cxlParts 0xFF)
  let dp ← k.s.unit w .store dst el (some formed)
  let k ← k.put w o (if o.kind = .gather then some (pairOf o.desc 0) else none) dp bs pz
  .ok { k with cxl := k.cxl ++ cx }

/-- The index of the item in progress of a gather or scatter: read once. -/
def Work.itemIndex (k : Work) (w : Who) (o : LadleOp) : Except Stop Nat :=
  match k.item with
  | some i => .ok i
  | none => do
    let list := pairOf o.desc 4 + 4 * k.pos
    let sp ← k.s.unit w .load list 4 none
    if k.s.spanPoisoned w sp then throw (0x61, list)
    .ok (leNat (k.s.readSpan w sp))

/-- The next element or line of a gather or scatter (R413). -/
def Work.itemUnit (k : Work) (w : Who) (o : LadleOp) : Except Stop Work := do
  let i ← k.itemIndex w o
  let r := o.record
  let formed := shapeFormed r
  let el := if formed then 64 else shapeElem r
  let n := shapeItem r / max el 1
  let here := k.pos * shapeItem r + k.sub * el
  let next := fun (k : Work) => if n ≤ k.sub + 1 then { k with pos := k.pos + 1, item := none, sub := 0 } else { k with sub := k.sub + 1 }
  let k : Work := { k with item := some i }
  if n = 0 then .ok (next k)
  else match o.kind, shapeAt r i with
    | .gather, a => return next (← k.moveElem w o el formed (a.map (· + k.sub * el)) (pairOf o.desc 0 + here))
    | _, some a => return next (← k.moveElem w o el formed (some (pairOf o.desc 2 + here)) (a + k.sub * el))
    | _, none => .ok { k with pos := k.pos + 1, item := none, sub := 0 }

/-- The next unit of an operation: 8 bytes or a line, an element, or a packet. -/
def Work.unit (k : Work) (w : Who) (o : LadleOp) : Work :=
  k.bound (match o.kind with
    | .copy => if o.x then k.packetUnit w o else k.copyUnit w o
    | .fill => k.fillUnit w o
    | _ => k.itemUnit w o)

/-- The address up to which an operation has moved: of its destination, or of the source of a scatter, whose destinations are no
range. -/
def Work.edge (k : Work) (o : LadleOp) : Nat :=
  let el := if shapeFormed o.record then 64 else shapeElem o.record
  match o.kind with
  | .copy | .fill => pairOf o.desc 0 + k.pos
  | .gather => pairOf o.desc 0 + k.pos * shapeItem o.record + k.sub * el
  | .scatter => pairOf o.desc 2 + k.pos * shapeItem o.record + k.sub * el

/-- A unit has brought an operation to a place at which the device may stop it: a packet's end, or a 64-byte line's (R107, R246). -/
def Work.atLine (k k' : Work) (o : LadleOp) : Bool := (o.kind == .copy && o.x) || k'.edge o / 64 != k.edge o / 64

/-- Run an operation to the next such place, its end or its stop. -/
def Work.line (w : Who) (o : LadleOp) : Nat → Work → Work
  | 0, k => k
  | fuel + 1, k =>
    let k' := k.unit w o
    if k'.stop.isSome ∨ nth 0 o.desc 6 ≤ k'.pos ∨ k.atLine k' o then k' else Work.line w o fuel k'

/-! ### Service (R246, R248) -/

/-- Change a queue of a gang. -/
def State.mapLadle (s : State) (t g k : Nat) (f : LadleQueue → LadleQueue) : State :=
  s.mapGang t g fun x => { x with ladle := setNth x.ladle k (f (nth {} x.ladle k)) }

/-- The accesses that precede an operation's issue are performed at device scope (R224). -/
def State.issuedQuiet (s : State) (r : WaveRef) (id : Nat) : Bool :=
  match s.op? id with
  | some x => s.releaseDone x 4
  | none => true

/-- The operation of a queue that begins next (R246): in queue order, at most 4 in progress, none behind a stop. -/
def State.nextLadle (s : State) (q : LadleQueue) : Option LadleOp :=
  if q.stopped.isSome then none
  else match q.ops.find? (fun o => !o.begun) with
    | none => none
    | some o => if 4 ≤ (q.ops.filter (·.begun)).length ∨ !(s.issuedQuiet o.wave o.opId) then none else some o

/-- An operation begins: it reads its slot (R246). -/
def State.beginLadle (s : State) (x : Gang) (k : Nat) (o : LadleOp) : State :=
  let core := s.coreOf o.wave
  let r := match o.slot with
    | some i => ((s.cluster x.cluster).shapes.get {} (slotKey core i)).record
    | none => []
  let ops : LadleQueue → List LadleOp := fun q => q.ops.map fun y => if y.n = o.n then { y with begun := true, record := r } else y
  s.mapLadle x.task x.index k fun q => { q with ops := ops q }

/-- LADLE_OP_BEGIN (R246). -/
def execLadleOpBegin (t g grp : Nat) (s : State) : Result :=
  .next (match s.gang? t g with
    | none => s
    | some x => match s.nextLadle (nth {} x.ladle grp) with
      | some o => s.beginLadle x grp o
      | none => s)

/-- An operation is performed (R198, R223, R246): its mould goes FULL, its number is reached, its flag clears. -/
def State.endLadle (s : State) (x : Gang) (k : Nat) (o : LadleOp) : State :=
  let s : State := match o.mould with
    | none => s
    | some m =>
      let v : Mould := (s.cluster x.cluster).moulds.get {} m
      if v.state = MouldState.filling then s.setMouldOf x.task x.index x.cluster m (v.enter .full)
      else { s with imprecise := s.imprecise ++ [{ wave := o.wave, path := o.path, code := 0x41, pc := o.pc, ladle := true }] }
  let s := s.mapLadle x.task x.index k fun q => { q with ops := q.ops.filter (·.n != o.n), tl := q.tl.perform o.n }
  (s.mapOp o.opId fun p => { p with engine := false, ended := true }).completeOp o.opId

/-- The target of an address lies behind a fence: a die or CXL port of this package, another package or a die of it (R36, R37,
R42). -/
def State.targetFenced (s : State) (w : Who) (va : Nat) : Bool :=
  match s.leaf w va with
  | none => false
  | some (e, sz) =>
    let a := e / 2 ^ 16 * 2 ^ 16 + va % 2 ^ sz
    let pkg := a / 2 ^ 54
    let off := a % 2 ^ 54
    if pkg = s.ownId then s.hasMemory off && s.fencedAt off
    else s.fencedPkgs.contains pkg || (decide (off < 2 ^ 38) && s.fencedRemoteDies.contains (pkg, dieOf off))

/-- An operation stops at a fault (R248); where its target is fenced its timeline is fenced too (R37, R42). -/
def State.stopLadle (s : State) (x : Gang) (k : Nat) (o : LadleOp) (f : Stop) : State :=
  let s : State := { s with imprecise := s.imprecise ++
    [{ wave := o.wave, path := o.path, code := f.1, pc := o.pc, addr := BitVec.ofNat 64 f.2, ladle := true }] }
  if f.1 = 0x20 ∨ f.1 = 0x21 ∨ f.1 = 0x22 then s.fenceQueue x.task x.index k
  else
    let w := o.who (((s.task? x.task).map (·.ctx)).getD 0) x.cluster
    let fence := f.1 = 0x10 && s.targetFenced w f.2
    s.mapLadle x.task x.index k fun q => { q with stopped := some f.1, tl := { q.tl with fenced := q.tl.fenced || fence } }

/-! ### The round of a cluster's ladle (R246) -/

/-- What an operation has left to move. -/
def LadleOp.left (o : LadleOp) : Bool := o.begun && decide (o.pos < nth 0 o.desc 6)

/-- The queues of a cluster's ladle that have something to move: 4 · thread + group, or 16 + q for a copy of the runner's queue
q. -/
def State.ladleKeys (s : State) (c : Nat) : Nats :=
  (s.gangs.filter fun g => g.cluster == c && g.resident).flatMap (fun g =>
    (upto g.ladle.length).filterMap fun k =>
      let q : LadleQueue := nth {} g.ladle k
      if q.stopped.isNone && q.ops.any LadleOp.left then some (4 * g.thread + k) else none)
  ++ s.queues.filterMap fun (q, x) => match x.graph with
    | some g => if g.copies.any (fun y => y.2.1 == c && y.2.2.left) then some (16 + q) else none
    | none => none

/-- The queue that is served next: the one whose 4 KiB unit is not moved yet, or the first behind the one served last. -/
def State.ladleTurn (s : State) (c key : Nat) : Bool :=
  let k := s.cluster c
  let ks := s.ladleKeys c
  if k.ladleUnit ≠ 0 ∧ ks.contains k.ladleLast then key == k.ladleLast
  else
    let dist := fun (x : Nat) => (x + 79 - k.ladleLast) % 80
    ks.all fun x => decide (dist key ≤ dist x)

/-- A queue has been served: `moved` bytes of its unit, which is at its end with a packet or the operation. -/
def State.ladleServed (s : State) (c key moved : Nat) (ends : Bool) : State :=
  s.mapCluster c fun k =>
    let u := (if k.ladleLast = key then k.ladleUnit else 0) + moved
    { k with ladleLast := key, ladleUnit := if ends || decide (4096 ≤ u) then 0 else u
             counters := { k.counters with ladleBytes := k.counters.ladleBytes + moved } }

/-- The operation as the work has left it. -/
def LadleOp.after (o : LadleOp) (w : Work) : LadleOp :=
  { o with pos := w.pos, outPos := w.outPos, item := w.item, sub := w.sub, poisoned := w.poisoned }

/-- The work of an operation as it stands. -/
def LadleOp.work (o : LadleOp) (s : State) : Work :=
  { s := s, pos := o.pos, outPos := o.outPos, item := o.item, sub := o.sub, poisoned := o.poisoned }

/-- What an operation has sent and awaits is added to its outstanding operation. -/
def State.noteSent (s : State) (o : LadleOp) (w : Work) : State :=
  s.mapOp o.opId fun p => { p with remote := p.remote ++ w.remote, cxl := p.cxl ++ w.cxl }

/-- An outstanding operation awaits acknowledgements or completions. -/
def State.opWaits (s : State) (id : Nat) : Bool := (s.op? id).any fun p => p.remote != [] || p.cxl != []

/-- Perform the next line, packet or item of an operation that has begun and whose queue's turn it is; what has left the package
is awaited at its end. -/
def State.runLadle (s : State) (x : Gang) (k : Nat) (o : LadleOp) : State :=
  let ctx := ((s.task? x.task).map (·.ctx)).getD 0
  let len := nth 0 o.desc 6
  let key := 4 * x.thread + k
  if len ≤ o.pos then (if s.opWaits o.opId then s else s.endLadle x k o)
  else if !(s.ladleTurn x.cluster key) then s
  else
    let w := Work.line (o.who ctx x.cluster) o 64 (o.work s)
    let ops : LadleQueue → List LadleOp := fun q => q.ops.map fun y => if y.n = o.n then y.after w else y
    let s := ((w.s.mapLadle x.task x.index k fun q => { q with ops := ops q }).noteSent o w).ladleServed x.cluster key w.moved
      ((o.kind == .copy && o.x) || decide (len ≤ w.pos))
    match w.stop with
    | some f => s.stopLadle x k o f
    | none => if len ≤ w.pos ∧ !(s.opWaits o.opId) then s.endLadle x k o else s

/-- LADLE_OP_PERFORMED (R246, R413). -/
def execLadleOpPerformed (t g grp n : Nat) (s : State) : Result :=
  .next (match s.gang? t g with
    | none => s
    | some x =>
      let q : LadleQueue := nth {} x.ladle grp
      match q.ops.find? (fun o => o.n == n && o.begun) with
      | some o => if q.stopped.isSome then s else s.runLadle x grp o
      | none => s)

end Sys2Proof.Machine
end

