-- ==== Sys2Proof/Machine/Matrix.lean ====
section
/-! DEFINITION. Tiles, crucibles and ingots, opcodes 0xB0–0xBF (R392–R407), the steps of the crucibles (R161–R163,
R230–R238) and the life of an ingot (R239–R245). -/

namespace Sys2Proof.Machine

/-! ### Tiles and banks of the issuing gang -/

/-- Tile `t` of the issuing gang; 0x02 when it has none (R124, R291). -/
def State.tile (s : State) (e : Env) (t : Nat) : Except Flt Tile :=
  match (s.myGang e).bind fun g => g.tiles[t]? with
  | some x => .ok x
  | none => .error badOperand

/-- Bank `k` of the issuing gang. -/
def State.bank (s : State) (e : Env) (k : Nat) : Except Flt Bank :=
  match (s.myGang e).bind fun g => g.banks[k]? with
  | some x => .ok x
  | none => .error badOperand

/-- Write a tile of the issuing gang. -/
def State.setTile (s : State) (e : Env) (t : Nat) (x : Tile) : State :=
  s.mapGang e.task e.gang fun g => { g with tiles := setNth g.tiles t x }

/-- A scalar field without literals (R392). -/
def Env.regSrc (e : Env) (o : Opd) (n : Nat) : Except Flt Src := (e.scalarOf o n false []).map (·.1)

/-- TCFG (R395). -/
def execTcfg (t : Nat) (a : Opd) (s : State) : Result :=
  issue 0xB0 s fun e => do
    let (x, ls) ← e.scalarOf a 1 true e.lits
    let old ← s.tile e t
    if e.off then goOn s (e.used ls)
    else
      let v ← e.readLow 1 x
      if !(tileCtlLegal v) then throw badOperand
      goOn (s.setTile e t { old with ctl := BitVec.ofNat 32 v, rows := if bitsOf v 31 30 = old.wc then old.rows else [] }) (e.used ls)

/-- TZERO (R396). -/
def execTzero (t : Nat) (s : State) : Result :=
  issue 0xB5 s fun e => do
    let x ← s.tile e t
    goOn (s.setTile e t { x with rows := [] }) 0

/-- The signed byte stride of TLD and TST. -/
def rowAddr (base stride r : Nat) : Nat :=
  ((base : Int) + r * (BitVec.ofNat 32 stride).toInt).emod (2 ^ 64) |>.toNat

/-- Steps 2 and 3 of R397 over the rows of a tile: address and span of each. -/
def State.tileRows (s : State) (e : Env) (acc : Access) (base stride n : Nat) : Except Flt (List Acc) :=
  let at_ := fun (code va : Nat) => ({ code := code, addr := BitVec.ofNat 64 va } : Flt)
  if base % 64 ≠ 0 ∨ stride % 64 ≠ 0 then .error (at_ 0x12 base)
  else
    (upto n).foldr (fun r rest =>
      let va := rowAddr base stride r
      match s.span e.who acc va 64 with
      | .error c => .error (at_ c va)
      | .ok sp =>
        if !sp.formed && !sp.inScratch then .error (at_ 0x12 va)
        else match rest with
          | .ok l => .ok ({ lane := 0xFF, va := va, sp := sp } :: l)
          | .error f => .error f) (.ok [])

/-- Step 4 of R397, in increasing row order: the first row whose line does not decode or is of another class. -/
def tileStop (t : Tile) (rows : List (Acc × Bytes)) : Option Flt :=
  rows.findSome? fun r => (t.checkRow r.2).map fun x => { code := x.1, pk := x.2, addr := BitVec.ofNat 64 r.1.va }

/-- The rows that a TLD has gathered, as lines: every row's bytes, where a row is a unit of the fill. -/
def rowsOf (as : List Acc) (data : Table Byte) : List (Acc × Bytes) := as.zipIdx.map fun (a, r) => (a, getBytes data (64 * r) 64)

/-- Read every row of a tile: the package's own now, another endpoint's by request (R32, R189). -/
def State.gatherRows (s : State) (e : Env) (as : List Acc) : Gather :=
  as.zipIdx.foldl (fun (g : Gather) (ar : Acc × Nat) => g.access e s.nextId ar.2 false ar.1 ar.1.sp.parts 0)
    { s := { s with nextId := s.nextId + 1 } }

/-- Every row of a TLD has been read: the checks of step 4, then the tile write and the mould's move complete under the flag. -/
def State.tldRows (s : State) (e : Env) (t : Nat) (tile : Tile) (homes : Nats) (rows : List (Acc × Bytes)) (lits : Nat) : Except Flt Out :=
  match tileStop tile rows with
  | some f => .ok (.stop (s.takeFault e.ref e.p f))
  | none =>
    let o : PendingOp := { e.op s with homes := homes, tile := some (e.task, e.gang, t, rows.map (·.2)) }
    let s : State := { s with nextId := s.nextId + 1 }
    if (e.flagFor false).isSome then s.sent e o lits else (s.landTile o).sent e { o with tile := none } lits

/-- TLD (R397). The path holds until every row has been read. -/
def execTld (t : Nat) (a b : Opd) (s : State) : Result :=
  issue 0xB1 s fun e => do
    let (x, ls) ← e.scalarOf a 2 true e.lits
    let (y, ls) ← e.scalarOf b 1 true ls
    let tile ← s.tile e t
    let base ← e.readLow 2 x
    let st ← e.readLow 1 y
    let rows := (upto tile.rowCount).map fun r => rowAddr base st r
    match e.path.wait with
    | .op id =>
      match s.op? id with
      | none => goOn s (e.used ls)
      | some o =>
        if !o.ready then return .wait s (.op id)
        let s : State := { s with ops := s.ops.filter (·.id != id) }
        let f : Fill := o.fill.getD { vector := false, reg := 0, bytes := 64, units := [] }
        let as := rows.map fun va => ({ lane := 0xFF, va := va, sp := { va := va, parts := [] } } : Acc)
        s.tldRows e t tile [] (rowsOf as f.data) (e.used ls)
    | _ =>
      let m := s.mould e t
      if m.state ≠ .free ∧ m.state ≠ .filling then throw { code := 0x41 }
      let h := s.holds e 64 (rows.map fun va => (0xFF, va))
      let s := if m.state = .free then h.setMould e t (m.enter .filling) else h
      match h.tileRows e .load base st tile.rowCount with
      | .error f => .ok (.stop (s.takeFault e.ref e.p f))
      | .ok as =>
        if h.accessHeld e as then return .wait s .engine
        let g := s.gatherRows e as
        let f : Fill := { vector := false, reg := 0, bytes := 64, units := [], data := g.data }
        let o : PendingOp := { e.accessOp s 64 as with remote := g.remote, isLoad := true, fill := some f }
        if o.ready then g.s.tldRows e t tile o.homes (rowsOf as g.data) (e.used ls)
        else return .wait { g.s with ops := g.s.ops ++ [o] } (.op o.id)

/-- The rows that a TST performs: all of them, or, where a quench cuts it, as many as the device chooses (R107, R394). -/
def State.rowsToStore (s : State) (as : List Acc) : State × List Acc :=
  if s.cut then ({ s with fresh := s.fresh + 1 }, as.take ((Config.freeWord s.fresh).toNat % (as.length + 1))) else (s, as)

/-- TST (R398): each row one write, which bypasses the L1. -/
def execTst (t : Nat) (a b : Opd) (s : State) : Result :=
  issue 0xB2 s fun e => e.held s (litsOf a 2 + litsOf b 1) do
    let (x, ls) ← e.scalarOf a 2 true e.lits
    let (y, ls) ← e.scalarOf b 1 true ls
    let tile ← s.tile e t
    let base ← e.readLow 2 x
    let st ← e.readLow 1 y
    let s := s.holds e 64 ((upto tile.rowCount).map fun r => (0xFF, rowAddr base st r))
    let as ← s.tileRows e .store base st tile.rowCount
    match as.find? fun x => !e.handler && s.sideEffect e.who e.task (s.insidePass e) x.sp with
    | some x => throw { code := 0x50, addr := BitVec.ofNat 64 x.va }
    | none =>
      if s.accessHeld e as || s.writeHeld e then return .wait s .engine
      let (s, as) := s.rowsToStore as
      let id := s.nextId
      let (s', ids) := as.zipIdx.foldl (fun (k : State × Nats) xr =>
        let (s, i) := k.1.putSpan e.who true xr.1.sp (tile.padRow xr.2) id 0xFF true
        (s, k.2 ++ i)) (({ s with nextId := id + 1 } : State), [])
      let o : PendingOp := { e.accessOp s 64 as with remote := ids }
      if s.cut then return .stop { s' with ops := s'.ops ++ [o] }
      s'.sent e o (e.used ls)

/-- TWR (R399). -/
def execTwr (t : Nat) (a : Opd) (h : Bool) (r : Nat) (s : State) : Result :=
  issue 0xB3 s fun e => do
    let v ← e.vecReg a 1
    let tile ← s.tile e t
    if e.lanes = [] then goOn s 0
    else
      e.imagePoison v h
      let line := e.image v h
      match tile.checkRow line with
      | some (c, pk) => throw { code := c, pk := pk }
      | none => goOn (s.setTile e t (tile.putRows r [line])) 0

/-- TRD (R399). -/
def execTrd (d : Opd) (t : Nat) (h : Bool) (r : Nat) (s : State) : Result :=
  issue 0xB4 s fun e => do
    let dd ← e.vecReg d 1
    let tile ← s.tile e t
    let line := tile.padRow r
    let lo := if h then 16 else 0
    let ls := (upto 16).filter fun i => e.lanes.contains (lo + i)
    goOn (s.write e (ls.map fun i => .vec dd (lo + i) { bits := BitVec.ofNat 32 (fieldAt line (4 * i) 4) })) 0

/-- A scalar register that is the odd half of a pair (R392; log 56). -/
def oddScalar : Opd → Bool
  | .s r => r % 2 != 0
  | _ => false

/-- ARD (R402): the value that the element holds at this step boundary (R226). -/
def execArd (d : Opd) (q k : Nat) (b : Opd) (s : State) : Result :=
  issue 0xB8 s fun e => do
    let _ ← e.types fun x => x == .f32
    let dd ← e.vecReg d 1
    let bank ← s.bank e k
    if oddScalar b then throw badOperand
    let (x, ls) ← e.src b 1 e.lits
    e.checkPoison e.lanes [(x, 1)]
    match e.lanes.find? fun L => decide (63 < (e.read 1 L x).1) with
    | some L => throw { badOperand with lane := L }
    | none =>
      let ws := e.lanes.map fun L => RegWrite.vec dd L { bits := bank.elems.get 0 (128 * (e.read 1 L x).1 + 32 * q + L) }
      goOn (s.write e (ws ++ (if e.lanes = [] then [] else [.sticky bank.flags]))) (e.used ls)

/-! ### Planes (R244, R245) -/

/-- The planes that an ingot holds: cluster, crucible and first plane, where it lies and where a load moves it to (R243). -/
def Ingot.places (g : Ingot) : List (Nat × Nat × Nat) := g.place.toList ++ g.next.toList

/-- The planes that it holds on a cluster. -/
def Ingot.planesOn (g : Ingot) (c : Nat) : Nat := (g.places.filter fun p => p.1 == c).length * g.planes

/-- An ingot holds planes on a cluster. -/
def Ingot.holds (g : Ingot) (c : Nat) : Bool := g.places.any fun p => p.1 == c

/-- The ingots that hold planes on a cluster: context, index, record. -/
def State.heldOn (s : State) (c : Nat) : List (Nat × Nat × Ingot) :=
  s.contexts.flatMap fun (x, k) => match k with
    | some k => k.ingots.filterMap fun (i, g) => if g.holds c then some (x, i, g) else none
    | none => []

/-- Planes of a context's ingots that `p` picks. -/
def State.planesOf (s : State) (ctx : Nat) (p : Nat → Bool) : Nat :=
  match s.ctx? ctx with
  | none => 0
  | some k => (k.ingots.map fun (_, g) => ((g.places.filter fun x => p x.1).length) * g.planes).sum

/-- A task has a gang on a cluster, some gangs left out (R84). -/
def State.residentBut (s : State) (ign : List (Nat × Nat)) (t c : Nat) : Bool :=
  s.gangs.any fun g => g.task == t && g.cluster == c && g.resident && !(ign.contains (g.task, g.index))

/-- Planes left in a task's reservation on a cluster (R244). -/
def State.room (s : State) (t c : Nat) : Nat :=
  let used := ((s.heldOn c).map fun (_, _, g) => if g.holder = some t then g.planesOn c else 0).sum
  ((s.task? t).map Task.planes).getD 0 - used

/-- Whether planes may be taken from an ingot (R245): its kind, unpinned first; never under an MMA, a load or a
resident task's reservation, as they are without some gangs. -/
def State.takeable (s : State) (c ctx i : Nat) (g : Ingot) (ign : List (Nat × Nat) := []) : Option Nat :=
  if s.ingotBusy ctx i ign ∨ g.load.isSome ∨ g.state = .loading ∨ g.next.isSome ∨ (g.holder.any fun t => s.residentBut ign t c)
  then none
  else if !g.pin then some 0
  else if s.gangs.any (fun x => x.resident && !(ign.contains (x.task, x.index)) && ((s.task? x.task).map (·.ctx)) == some ctx) then none
  else some 1

/-- Take the planes of an ingot (R241): RESIDENT and STALE become COLD, watches kept. -/
def State.takePlanes (s : State) (ctx i : Nat) : State :=
  s.mapIngot ctx i fun g =>
    { g with state := if g.state = .resident ∨ g.state = .stale then .cold else g.state, place := none, holder := none, data := [] }

/-- The next ingot that R245 takes among some: unpinned first, then least recently used. -/
def State.victim (s : State) (c : Nat) (l : List (Nat × Nat × Ingot)) : Option (Nat × Nat × Ingot) :=
  let key := fun (x : Nat × Nat × Ingot) => (s.takeable c x.1 x.2.1 x.2.2).map fun k => k * 2 ^ 64 + x.2.2.lastUse
  l.foldl (fun best x => match key x, best with
    | none, _ => best
    | some _, none => some x
    | some a, some y => if a < (key y).getD 0 then some x else best) none

/-- The lowest run of `n` free planes of a crucible (R244). -/
def State.freeRun (s : State) (c cruc n : Nat) : Option Nat :=
  let used := (s.heldOn c).flatMap fun (_, _, g) => g.places.filterMap fun (d, k, f) =>
    if d = c ∧ k = cruc then some (f, f + g.planes) else none
  (upto (513 - n)).find? fun f => used.all fun u => decide (u.2 ≤ f) || decide (f + n ≤ u.1)

/-- Find consecutive planes in one crucible, taking others' planes as R245 allows. -/
def State.findRun (c cruc n : Nat) : Nat → State → State × Option Nat
  | 0, s => (s, s.freeRun c cruc n)
  | fuel + 1, s =>
    match s.freeRun c cruc n with
    | some f => (s, some f)
    | none =>
      match s.victim c ((s.heldOn c).filter fun x => (x.2.2.place.map (·.2.1)) == some cruc) with
      | none => (s, none)
      | some (x, i, _) => (s.takePlanes x i).findRun c cruc n fuel

/-- Find planes that are free, in one crucible or, with `either`, in the other as well: crucible and first plane, what a load or a
reload may have (R244, R245). -/
def State.freePlanes (s : State) (c n pref : Nat) (either : Bool) : Option (Nat × Nat) :=
  match s.freeRun c pref n with
  | some f => some (pref, f)
  | none => if either then (s.freeRun c (1 - pref) n).map fun f => (1 - pref, f) else none

/-- Find planes on a cluster for an IGALLOC: free ones, and only where these do not suffice with planes that are taken (R245). One
that finds none takes none (log 138). -/
def State.findPlanes (s : State) (c n pref : Nat) (either : Bool) : Option (State × Nat × Nat) :=
  match s.freePlanes c n pref either with
  | some (k, f) => some (s, k, f)
  | none => match s.findRun c pref n 1024 with
    | (s1, some f) => some (s1, pref, f)
    | (_, none) => if !either then none else match s.findRun c (1 - pref) n 1024 with
      | (s2, some f) => some (s2, 1 - pref, f)
      | (_, none) => none

/-! ### Ingots (R239, R405–R407) -/

/-- A handle (R239). -/
def handleOf (ctx i gen : Nat) : Nat := gen * 2 ^ 16 + ctx * 2 ^ 10 + i

/-- The index that a handle of the issuing context names, when it is not a revoked ingot (R239). -/
def State.handle? (s : State) (ctx h : Nat) : Option Nat :=
  let g := s.ingot ctx (h % 1024)
  if bitsOf h 15 10 = ctx ∧ h / 2 ^ 16 = g.gen ∧ g.state ≠ .free ∧ g.state ≠ .revoked then some (h % 1024) else none

/-- State codes of R240. -/
def IngotState.code : IngotState → Nat
  | .free => 0
  | .loading => 1
  | .resident => 2
  | .stale => 3
  | .cold => 4
  | .revoked => 5

/-- Where an ingot's planes are held: those that its load moves it to, from the moment they are taken (R243, R406). -/
def Ingot.planesAt (g : Ingot) : Option (Nat × Nat × Nat) := g.next.orElse fun _ => g.place

/-- The status word of an ingot on a cluster (R240). -/
def Ingot.word (g : Ingot) (c : Nat) : Nat :=
  g.pin.toNat * 2 ^ 31 + g.state.code * 2 ^ 28 + g.policy * 2 ^ 26 + g.wc * 2 ^ 24
    + ((g.planesAt.map (·.2.1)).getD 0) * 2 ^ 23 + (decide ((g.planesAt.map (·.1)) = some c)).toNat * 2 ^ 22
    + g.src.isSome.toNat * 2 ^ 21 + g.planes

/-- The crucible that holds a bank of the gang. -/
def Gang.crucible (g : Gang) (bank : Nat) : Nat := nth 0 g.bankPhys bank / 4

/-- The crucible that holds a gang's bank a0 (R405); a gang without banks prefers the first (log 138). -/
def State.homeCrucible (s : State) (t g : Nat) : Nat := ((s.gang? t g).map fun x => x.crucible 0).getD 0

/-- IGALLOC (R405): the state, the handle and the status. -/
def State.allocIngot (s : State) (e : Env) (req : Nat) : State × Nat × Nat :=
  let n := bitsOf req 9 0
  let pol := bitsOf req 19 18
  let wc := bitsOf req 17 16
  let quota := fun (f : Context → Nat) => ((s.ctx? e.ctx).map f).getD 0
  if bitsOf req 31 22 ≠ 0 ∨ bitsOf req 15 10 ≠ 0 ∨ pol = 3 ∨ wc = 3 ∨ n = 0 ∨ 512 < n then (s, 0, 6)
  else if s.room e.task e.cluster < n then (s, 0, 1)
  else if quota (·.quotaCluster) < s.planesOf e.ctx (· == e.cluster) + n then (s, 0, 2)
  else if quota (·.quotaPackage) < s.planesOf e.ctx (fun _ => true) + n then (s, 0, 3)
  else
    let cruc := if bitOf req 21 then none else some (bitsOf req 20 20)
    match s.findPlanes e.cluster n (cruc.getD (s.homeCrucible e.task e.gang)) cruc.isNone with
    | none => (s, 0, 4)
    | some (s', k, f) =>
      match (upto 1024).find? fun i => (s.ingot e.ctx i).state == .free with
      | none => (s, 0, 5)
      | some i =>
        (s'.mapIngot e.ctx i fun g => { state := .cold, policy := pol, wc := wc, planes := n, gen := g.gen, cruc := cruc,
                                        place := some (e.cluster, k, f), lastUse := s.now, holder := some e.task },
          handleOf e.ctx i (s'.ingot e.ctx i).gen, 0)

/-- IGALLOC (R405). -/
def execIgalloc (d a : Opd) (s : State) : Result :=
  issue 0xBA s fun e => do
    let dd ← e.stDst d 2 true
    let (x, ls) ← e.scalarOf a 1 true e.lits
    if e.off then goOn s (e.used ls)
    else
      let req ← e.readLow 1 x
      let (s', h, st) := s.allocIngot e req
      goOn (s'.write e (e.allWrites dd 2 (h + st * 2 ^ 32))) (e.used ls)

/-- The die and granule of each 4 KiB granule of a source range that lies in the package's own memory (R185). -/
def State.watchedBy (s : State) (w : Who) (va n : Nat) : List (Nat × Nat) :=
  (granules va n).filterMap fun g => match s.translate w .load (4096 * g) with
    | .ok p => match p.place with
      | .mem o => some (dieOf o, o / 4096)
      | _ => none
    | .error _ => none

/-- Enter granules in the watch directory for an ingot; `none` when there is no room (R185). -/
def State.watch (s : State) (ci : Nat × Nat) : List (Nat × Nat) → Option State
  | [] => some s
  | (d, g) :: t =>
    let l := (s.die d).watches.get [] g
    if l.contains ci then s.watch ci t
    else if 8 ≤ l.length ∨ (l = [] ∧ 262144 ≤ (s.die d).watches.length) then none
    else (s.mapDie d fun x => { x with watches := x.watches.set [] g (l ++ [ci]) }).watch ci t

/-- An ingot's planes on the issuing gang's cluster: those it holds, or free ones within the task's reservation and in a crucible
that its IGALLOC allows (R244), which it moves to at the
load's end; those that it leaves stay as they are until then, and until no MMA uses them (R241, R243, R406). -/
def State.planesHere (s : State) (t x c ctx i : Nat) : Option State :=
  let g := s.ingot ctx i
  if (g.place.map (·.1)) = some c then some s
  else if s.room t c < g.planes then none
  else match s.freePlanes c g.planes (g.cruc.getD (s.homeCrucible t x)) g.cruc.isNone with
    | some (k, f) => some (s.mapIngot ctx i fun x => { x with next := some (c, k, f), holder := some t })
    | none => none

/-- Start IGLOAD's load: the state, or the status that refuses it (R406). -/
def State.startLoad (s : State) (e : Env) (i va n : Nat) (packed : Bool) : Except Nat State :=
  let g := s.ingot e.ctx i
  if g.state = .loading then .error 2
  else if !packed ∧ n ≠ 64 * 128 * g.planes then .error 3
  else match s.planesHere e.task e.gang e.cluster e.ctx i with
    | none => .error 4
    | some s1 => match (s1.unwatch e.ctx i).watch (e.ctx, i) (s1.watchedBy e.who va n) with
      | none => .error 1
      | some s2 => .ok (s2.mapIngot e.ctx i fun x => { x with state := .loading, src := some (BitVec.ofNat 64 va, n, packed), loadStale := false })

/-- IGLOAD (R406). -/
def execIgload (d a b : Opd) (s : State) : Result :=
  issue 0xBB s fun e => e.held s 0 do
    let dd ← e.stDst d 1 true
    let x ← e.regSrc a 1
    let q ← e.regSrc b 4
    if e.off then goOn s 0
    else
      let h ← e.readLow 1 x
      let v ← e.readLow 4 q
      let flags := bitsOf v 127 96
      if 1 < flags then throw badOperand
      match s.handle? e.ctx h with
      | none => throw { code := 0x31 }
      | some i =>
        if !(s.quiet e 4) then return .wait s .engine
        match s.startLoad e i (v % 2 ^ 64) (bitsOf v 95 64) (flags == 1) with
        | .error st => goOn (s.write e (e.allWrites dd 1 st)) 0
        | .ok s' =>
          let n := ((s.myGang e).map (·.casterTl.taken)).getD 0 + 1
          let s' := s'.mapIngot e.ctx i fun g => { g with load := some (e.task, e.gang, e.pc, s.nextId, n) }
          let s' := s'.mapGang e.task e.gang fun g => { g with casterTl := g.casterTl.take }
          let s' := s'.write e (e.allWrites dd 1 0)
          ({ s' with nextId := s.nextId + 1 } : State).sent e { e.op s with engine := true } 0

/-- IGPIN, IGUNPIN, IGREVOKE (R407). -/
def ingotOp (op : Nat) (strict : Bool) (a : Opd) (f : State → Nat → Nat → State) (s : State) : Result :=
  issue op s fun e => do
    let x ← e.regSrc a 1
    if e.off then goOn s 0
    else
      let h ← e.readLow 1 x
      match s.handle? e.ctx h with
      | none => if strict then throw { code := 0x31 } else goOn s 0
      | some i => goOn (f s e.ctx i) 0

/-- IGPIN (R407). -/
def execIgpin (a : Opd) (s : State) : Result :=
  ingotOp 0xBC true a (fun s c i => s.mapIngot c i fun g => { g with pin := true }) s

/-- IGUNPIN (R407). -/
def execIgunpin (a : Opd) (s : State) : Result :=
  ingotOp 0xBD true a (fun s c i => s.mapIngot c i fun g => { g with pin := false }) s

/-- IGREVOKE (R407). -/
def execIgrevoke (a : Opd) (s : State) : Result := ingotOp 0xBE false a State.revokeIngot s

/-- IGSTAT (R407). -/
def execIgstat (d a : Opd) (s : State) : Result :=
  issue 0xBF s fun e => do
    let dd ← e.stDst d 1 true
    let x ← e.regSrc a 1
    if e.off then goOn s 0
    else
      let h ← e.readLow 1 x
      let v := match s.handle? e.ctx h with
        | some i => (s.ingot e.ctx i).word e.cluster
        | none => 5 * 2 ^ 28
      goOn (s.write e (e.allWrites dd 1 v)) 0

/-! ### The check of an ingot (R242) -/

/-- What the check of R242 decides. -/
inductive Verdict where
  | run
  | wait
  | reload
  | fault (code : Nat)
deriving DecidableEq, Repr

/-- The check of R242 for an MMA on `count` planes from `off`, with tiles of class `wc`, on a cluster; `done` when
the reload that it asked for has ended. -/
def State.checkIngot (s : State) (ctx h off count wc c : Nat) (done : Bool) : Verdict :=
  match s.handle? ctx h with
  | none => .fault 0x31
  | some i =>
    let g := s.ingot ctx i
    let here := decide ((g.place.map (·.1)) = some c)
    let again := if g.src.isSome then Verdict.reload else .fault 0x30
    if g.planes < off + count ∨ g.wc ≠ wc then .fault 0x02
    else match g.state with
      | .loading => .wait
      | .resident => if here then .run else again
      | .stale => if here ∧ (done ∨ g.policy = 1) then .run else if g.policy = 2 then again else .fault 0x30
      | .cold => again
      | _ => .fault 0x31

/-! ### MMA, MMAT and ACLR (R400–R403) -/

/-- Another MMAT of the crucible uses transient plane `u` (R401). -/
def State.planeTaken (s : State) (e : Env) (cruc u : Nat) : Bool :=
  s.gangs.any fun g => g.cluster == e.cluster && g.seq.any fun o => o.kind == 1 && o.u == u && g.crucible o.bank == cruc

/-- The lines of a transient plane from tiles `b` and `b + 1` (R401). -/
def transientPlane (ts : List Tile) (b : Nat) : Table Byte :=
  let half := fun (i : Nat) => (upto 64).flatMap fun r => (nth {} ts i).padRow r
  putBytes [] 0 (half b ++ half (b + 1))

/-- The operation of a gang that runs on crucible `k`: one at a time, as a later one waits for its end (R122). -/
def Gang.seqOn (g : Gang) (k : Nat) : Option SeqOp := g.seq.find? fun o => g.crucible o.bank == k

/-- Row blocks of an operation. -/
def rowBlocks (t : Tile) : Nat := (t.rowCount + 7) / 8

/-- An operation enters the caster's sequencer: it takes the next number (R234). -/
def State.enterSeq (s : State) (e : Env) (g : Gang) (o : SeqOp) : Except Flt Out :=
  let o := { o with pc := e.pc, number := g.casterTl.taken + 1, opId := s.nextId, checked := true
                    blocks := rowBlocks (nth {} g.tiles o.tile) }
  let s' := s.mapGang e.task e.gang fun x =>
    { x with seq := x.seq ++ [o], casterTl := x.casterTl.take, reload := x.reload.filter fun r => o.kind != 0 || r.1 != o.ingot }
  ({ s' with nextId := s.nextId + 1 } : State).sent e { e.op s with engine := true } 0

/-- An MMA of a gang needs an ingot reloaded (R242, R243). -/
def State.askReload (s : State) (t g i : Nat) : State :=
  s.mapGang t g fun x => if x.reload.contains (i, false) then x else { x with reload := x.reload.filter (·.1 != i) ++ [(i, false)] }

/-- The MMA that asked for a reload has raised a fault: it asks no more (R242). -/
def State.unask (s : State) (t g i : Nat) : State := s.mapGang t g fun x => { x with reload := x.reload.filter (·.1 != i) }

/-- MMA (R400). The path holds until the MMA begins, so that the faults of its check are precise (R242). -/
def execMma (l : Bool) (k t : Nat) (b : Opd) (s : State) : Result :=
  issue 0xB6 s fun e => e.held s 0 do
    let _ ← s.bank e k
    let first ← s.tile e t
    let x ← e.regSrc b 2
    if e.off then goOn s 0
    else
      let v ← e.readLow 2 x
      let run := bitsOf v 63 32
      if bitsOf run 31 21 ≠ 0 ∨ bitsOf run 15 9 ≠ 0 then throw badOperand
      let count := bitsOf run 20 16 + 1
      let off := bitsOf run 8 0
      let h := v % 2 ^ 32
      match s.myGang e with
      | none => throw badOperand
      | some g =>
        let ts := (g.tiles.drop t).take count
        if ts.length < count ∨ !(ts.all fun y => y.rowCount == first.rowCount && y.wc == first.wc) then throw badOperand
        if (g.seqOn (g.crucible k)).isSome ∨ !(s.quiet e 4) then return .wait s .engine
        match s.checkIngot e.ctx h off count first.wc e.cluster (g.reload.contains (h % 1024, true)) with
        | .wait => return .wait s .engine
        | .fault c => return .stop ((s.unask e.task e.gang (h % 1024)).takeFault e.ref e.p { code := c })
        | .reload => return .wait (s.askReload e.task e.gang (h % 1024)) .engine
        | .run =>
          (s.mapIngot e.ctx (h % 1024) fun y => { y with lastUse := s.now }).enterSeq e g
            { kind := 0, last := l, bank := k, tile := t, count := count, off := off, handle := BitVec.ofNat 32 h, u := 0, btile := 0
              pc := 0, number := 0, opId := 0, ingot := h % 1024 }

/-- MMAT (R401). -/
def execMmat (l : Bool) (k t u p : Nat) (s : State) : Result :=
  issue 0xB7 s fun e => e.held s 0 do
    let _ ← s.bank e k
    let a ← s.tile e t
    if p % 2 ≠ 0 then throw badOperand
    let b0 ← s.tile e p
    let b1 ← s.tile e (p + 1)
    if e.off then goOn s 0
    else if a.wc ≠ b0.wc ∨ a.wc ≠ b1.wc then throw badOperand
    else match s.myGang e with
      | none => throw badOperand
      | some g =>
        if (g.seqOn (g.crucible k)).isSome ∨ !(s.quiet e 4) ∨ s.planeTaken e (g.crucible k) u then return .wait s .engine
        s.enterSeq e g { kind := 1, last := l, bank := k, tile := t, count := 1, off := 0, handle := 0, u := u, btile := p
                         pc := 0, number := 0, opId := 0, plane := transientPlane g.tiles p }

/-- ACLR (R403): after every earlier MMA and MMAT of the thread into the bank. -/
def execAclr (k : Nat) (s : State) : Result :=
  issue 0xB9 s fun e => do
    let _ ← s.bank e k
    if e.off then goOn s 0
    else if ((s.myGang e).map (·.seq)).any fun l => l.any fun o => o.bank == k then return .wait s .engine
    else goOn (s.mapGang e.task e.gang fun g => { g with banks := setNth g.banks k {} }) 0

/-! ### Steps (R161, R162, R230–R236) -/

/-- One element of a step: the accumulator and the products' operands (R161, R162); `plus` when a gated or padded
element or a zero line adds an exact +0. -/
def stepElem (acc : Word) (ps : List (FVal × FVal)) (plus : Bool) : Word × Flags :=
  let a := fmt32.decode acc.toNat
  if a.isNan || ps.any fun p => p.1.isNan || p.2.isNan then (BitVec.ofNat 32 fmt32.nanCode, fIV)
  else
    let ms := ps.map fun p => p.1.mul p.2
    let (v, f) := sumVals .rne ([a] ++ ms.map (·.1) ++ (if plus then [.fin false 0 0] else []))
    let iv := orFlags (ms.map (·.2)) ||| f
    let (c, g) := fmt32.roundVal .rne false false v
    -- a zero result is −0 only where the exact sum is (R162)
    let c := if c = 2 ^ 31 ∧ !v.isZero then 0 else c
    (BitVec.ofNat 32 c, (if iv &&& fIV ≠ 0 then fIV else 0) ||| g)

/-- The positions of an A line that take part in a step: not padding, and not in a segment that is gated (R232), as the
descriptor's bits have it. -/
def stepPositions (t : Tile) (gates : Nat) : Nats := (upto t.cols).filter fun i => t.wc == 3 || !(bitOf gates (i / 8))

/-- One row of a step against the 128 columns: the bank row's new elements and the flags. -/
def stepRow (t : Tile) (gates row : Nat) (plane : List (List FVal)) (b : Bank) : Bank :=
  let live := decide (row < t.rowCount)
  let av := if live then lineVals (t.row row) else []
  let pos := stepPositions t gates
  plane.zipIdx.foldl (fun (b : Bank) (col : List FVal × Nat) =>
    let key := 128 * row + col.2
    let ps := if av = [] ∨ col.1 = [] then [] else pos.filterMap fun i => match av[i]?, col.1[i]? with
      | some x, some y => some (x, y)
      | _, _ => none
    let plus := decide (ps.length < max av.length col.1.length) || ps == []
    if live then
      let (v, f) := stepElem (b.elems.get 0 key) ps plus
      { b with elems := b.elems.set 0 key v, flags := b.flags ||| f }
    else { b with elems := b.elems.set 0 key (stepElem (b.elems.get 0 key) [] true).1 }) b

/-- The 128 lines of the plane that step `j` of an operation meets. -/
def State.planeLines (s : State) (ctx : Nat) (o : SeqOp) (j : Nat) : List Bytes :=
  let d := if o.kind = 1 then o.plane else (s.ingot ctx o.ingot).data
  let p := if o.kind = 1 then 0 else o.off + j
  (upto 128).map fun n => getBytes d (64 * (128 * p + n)) 64

/-- Segments of a row block (R232). -/
def segments (wc : Nat) : Nat := if wc = 3 then 0 else 12 / 2 ^ wc

/-- The zero-block bits of row block `r` of a tile (R194, R232). -/
def gatesOf (t : Tile) (r : Nat) : Nat := t.bitmap.toNat / 2 ^ (12 * r) % 2 ^ 12

/-- A step is skipped (R232). -/
def stepSkipped (t : Tile) (gates : Nat) (lines : List Bytes) : Bool :=
  (t.wc != 3 && (upto (segments t.wc)).all fun c => bitOf gates c) || lines.all fun l => byteAt l 0 == 0

/-- Change the operations of a caster's sequencer. -/
def State.mapSeq (s : State) (t g : Nat) (f : SeqOp → SeqOp) : State :=
  s.mapGang t g fun x => { x with seq := x.seq.map f }

/-- Change one of them. -/
def State.mapSeqOp (s : State) (t g id : Nat) (f : SeqOp → SeqOp) : State := s.mapSeq t g fun o => if o.opId = id then f o else o

/-- The last token of an operation has returned (R198, R234). -/
def State.endSeq (s : State) (g : Gang) (o : SeqOp) : State :=
  let s := s.mapGang g.task g.index fun x =>
    { x with seq := x.seq.filter (·.opId != o.opId), casterTl := x.casterTl.perform o.number }
  let m : Mould := g.moulds.get {} (32 + o.bank)
  let s : State := if !o.last then s
    else if m.state = MouldState.filling then s.setMouldOf g.task g.index g.cluster (32 + o.bank) (m.enter .full)
    else { s with imprecise := s.imprecise ++ [{ wave := .caster g.task g.index, path := 0, code := 0x41, pc := o.pc }] }
  let ctx := ((s.task? g.task).map (·.ctx)).getD 0
  let s := if o.kind = 0 then s.freeIngot ctx o.ingot else s
  (s.mapOp o.opId fun p => { p with engine := false, ended := true }).completeOp o.opId

/-- Count a step of a crucible (R271). -/
def State.countStep (s : State) (c k : Nat) (skipped : Bool) : State :=
  let bump := fun (l : Nats) => setNth l k (nth 0 l k + 1)
  s.mapCluster c fun x => { x with counters := if skipped
    then { x.counters with stepsSkipped := bump x.counters.stepsSkipped }
    else { x.counters with stepsTaken := bump x.counters.stepsTaken } }

/-- Change a crucible of a cluster. -/
def State.mapCrucible (s : State) (c k : Nat) (f : Crucible → Crucible) : State :=
  s.mapCluster c fun x => { x with crucibles := setNth x.crucibles k (f (nth {} x.crucibles k)) }

/-- A crucible of a cluster. -/
def State.crucible (s : State) (c k : Nat) : Crucible := nth {} (s.cluster c).crucibles k

/-- The sequencer queues a gang's steps: it is in its place, and nothing asks it or its caster thread to stop (R237). -/
def Gang.steps (g : Gang) : Bool :=
  g.resident && g.kill.isNone && !g.halted && (g.caster.path 0).state != .halted && g.chosen == [] && g.saved.isNone

/-- The check that an operation makes when it goes on after a stop (R238, R242); a fault of it is precise at the operation, of
which no step is taken until it is handled. -/
def State.resumeSeq (s : State) (x : Gang) (ctx : Nat) (o : SeqOp) : State :=
  if o.checked ∨ o.faulted then s
  else if o.kind = 1 then
    s.mapSeqOp x.task x.index o.opId fun o => { o with checked := true, plane := transientPlane x.tiles o.btile }
  else
    match s.checkIngot ctx o.handle.toNat o.off o.count (nth ({} : Tile) x.tiles o.tile).wc x.cluster (x.reload.contains (o.ingot, true)) with
    | .run =>
      (s.mapSeqOp x.task x.index o.opId fun o => { o with checked := true }).mapGang x.task x.index fun y =>
        { y with reload := y.reload.filter (·.1 != o.ingot) }
    | .wait => s
    | .reload => s.askReload x.task x.index o.ingot
    | .fault c =>
      if (x.caster.path 0).wait = .fault then s
      else
        let t := (s.unask x.task x.index o.ingot).takeFaultAt (.caster x.task x.index) 0 o.pc { code := c }
        if (t.pathAt (.caster x.task x.index, 0)).wait = .fault then t.mapSeqOp x.task x.index o.opId fun o => { o with faulted := true }
        else t

/-- The gangs that have an operation on crucible `k` of a cluster, the thread served last coming last (R235). -/
def State.crucibleGangs (s : State) (c k : Nat) : List Gang :=
  let last := (s.crucible c k).lastThread
  let mine := s.gangs.filter fun g => g.cluster == c && g.steps && (g.seqOn k).isSome
  (upto 4).flatMap fun i => mine.filter fun g => g.thread == (last + 1 + i) % 4

/-- Every operation of the crucible that has been stopped is checked again. -/
def State.resumeSeqs (s : State) (c k : Nat) : State :=
  (s.crucibleGangs c k).foldl (fun s x => match x.seqOn k with
    | some o => s.resumeSeq x (((s.task? x.task).map (·.ctx)).getD 0) o
    | none => s) s

/-- A descriptor of a step queue names a step that its operation has not taken back. -/
def State.stepLive (s : State) (c k : Nat) (d : StepDesc) : Bool :=
  match s.gang? d.task d.gang with
  | none => false
  | some g => g.cluster == c && g.resident && (g.seqOn k).any fun o =>
      o.opId == d.opId && decide (o.step ≤ d.step) && decide (d.step < o.queued)

/-- The next step of the next thread is queued (R235, R400): gating and skipping are decided by the bitmap as it stands now. -/
def State.queueStep (s : State) (c k : Nat) : Option State :=
  if 4 ≤ (s.crucible c k).queue.length then none
  else ((s.crucibleGangs c k).findSome? fun x => ((x.seqOn k).filter fun o =>
      o.checked && !o.faulted && decide (o.queued < o.blocks * o.count)).map fun o => (x, o)).map fun (x, o) =>
    let a : Tile := nth {} x.tiles (o.tile + o.queued / max o.blocks 1)
    let r := o.queued % max o.blocks 1
    let lines := s.planeLines (((s.task? x.task).map (·.ctx)).getD 0) o (o.queued / max o.blocks 1)
    let d : StepDesc := { task := x.task, gang := x.index, opId := o.opId, step := o.queued, gates := gatesOf a r
                          skip := stepSkipped a (gatesOf a r) lines }
    (s.mapCrucible c k fun y => { y with lastThread := x.thread, queue := y.queue ++ [d] }).mapSeqOp x.task x.index o.opId fun o =>
      { o with queued := o.queued + 1 }

/-- The step queue is filled. -/
def State.fillSteps (c k : Nat) : Nat → State → State
  | 0, s => s
  | fuel + 1, s => match s.queueStep c k with
    | some t => t.fillSteps c k fuel
    | none => s

/-- The step of a descriptor enters the bank (R161, R230). A step is one exact sum and one rounding, steps are taken by their
index in an operation and operations in the order of the sequencer, so that no bit of a bank depends on timing, skipping or a
stop (R163). -/
def State.sumStep (s : State) (x : Gang) (o : SeqOp) (d : StepDesc) : State :=
  let j := d.step / max o.blocks 1
  let r := d.step % max o.blocks 1
  let a : Tile := nth {} x.tiles (o.tile + j)
  let plane := (s.planeLines (((s.task? x.task).map (·.ctx)).getD 0) o j).map lineVals
  let bank := (upto 8).foldl (fun b i => stepRow a d.gates (8 * r + i) plane b) (nth ({} : Bank) x.banks o.bank)
  s.mapGang x.task x.index fun y => { y with banks := setNth y.banks o.bank bank }

/-- The step of a descriptor is completed, or counted where it is skipped; the last one ends its operation. -/
def State.takeStep (s : State) (c k : Nat) (d : StepDesc) : State :=
  match s.gang? d.task d.gang with
  | none => s
  | some x => match x.seq.find? (·.opId == d.opId) with
    | none => s
    | some o =>
      let s := (if d.skip then s else s.sumStep x o d).countStep c k d.skip
      let s := s.mapSeqOp x.task x.index o.opId fun o => { o with step := d.step + 1 }
      if o.blocks * o.count ≤ d.step + 1 then s.endSeq x o else s

/-- Take descriptors from the step queue until one has run in the array, or none is left (R232, R233). -/
def State.stepCrucible (c k : Nat) : Nat → State → State
  | 0, s => s
  | fuel + 1, s =>
    let s := s.mapCrucible c k fun y => { y with queue := y.queue.filter (s.stepLive c k) }
    let s := s.fillSteps c k 4
    match (s.crucible c k).queue with
    | [] => s
    | d :: rest =>
      let s := (s.mapCrucible c k fun y => { y with queue := rest }).takeStep c k d
      if d.skip then s.stepCrucible c k fuel else s

/-- STEP_TOKEN (R233, R235). -/
def execStepToken (c k : Nat) (s : State) : Result := .next ((s.resumeSeqs c k).stepCrucible c k 513)

/-- CRUCIBLE_STOP (R237): at a step boundary the descriptors of a gang that is to stop leave the step queues, and its operations
are checked when they go on. -/
def execCrucibleStop (t g : Nat) (s : State) : Result :=
  .next (match s.gang? t g with
    | none => s
    | some x => if x.steps then s else s.mapSeq t g SeqOp.stop)

/-! ### Loads and reloads (R241, R243, R406) -/

/-- A reload fails (R243): the ingot is COLD without a source and the gang is killed, scrubbed and relaunched. The manual names
no fault code for the kill by a reload that finds no planes (log 52). -/
def State.failReload (s : State) (t g ctx i code : Nat) : State :=
  let s := s.mapIngot ctx i fun x => { x.cooled with src := none }
  (s.mapGang t g fun x => { x.scrub with reload := [] }).relaunch t g code (reload := true)

/-- A reload onto a cluster moves the ingot to LOADING (R241, R242): it has a source, and it is COLD, STALE, or held elsewhere. -/
def Ingot.reloads (v : Ingot) (c : Nat) : Bool :=
  v.src.isSome && (v.state == .cold || v.state == .stale || (v.state == .resident && (v.place.map (·.1)) != some c))

/-- INGOT_RELOAD (R243): a reload that a gang's MMA needs starts on planes of its cluster. -/
def execIngotReload (t g : Nat) (s : State) : Result :=
  .next (match s.gang? t g, s.task? t with
    | some x, some k =>
      match x.reload.find? (fun r => !r.2 && (s.ingot k.ctx r.1).reloads x.cluster) with
      | some (i, _) =>
        if !x.steps then s
        else match s.planesHere t g x.cluster k.ctx i with
          | none => ({ s with fresh := s.fresh + 1 } : State).failReload t g k.ctx i (Config.freeByte s.fresh).toNat
          | some s' => s'.mapIngot k.ctx i fun y => { y with state := .loading, load := some (t, g, 0, 0, 0), loadStale := false }
      | none => s
    | _, _ => s)

/-- The decoded lines of packets that fill a source range (R406): the lines, or what stops the load. -/
def loadPackets (bs : Bytes) (va : Nat) : Nat → Nat → List Bytes → Except Stop (List Bytes)
  | 0, _, acc => .ok acc
  | fuel + 1, pos, acc =>
    if bs.length ≤ pos then .ok acc
    else match readPacket (bs.drop pos) with
      | .error c => .error (c, va + pos)
      | .ok (ls, size) => loadPackets bs va fuel (pos + size) (acc ++ ls)

/-- The lines of an ingot's source (R406). -/
def State.sourceLines (s : State) (w : Who) (g : Ingot) : Except Stop (List Bytes) :=
  match g.src with
  | none => .error (0x10, 0)
  | some (a, n, packed) =>
    let va := a.toNat
    if va % 64 ≠ 0 then .error (0x12, va)
    else match s.readUnits w (some true) va ((n + 7) / 8) with
      | .error f => .error f
      | .ok (bs, _) =>
        let ls : Except Stop (List Bytes) :=
          if packed then loadPackets (bs.take n) va (n + 1) 0 []
          else .ok (pieces 64 (n / 64 + 1) (bs.take n))
        match ls with
        | .error f => .error f
        | .ok ls =>
          match ls.zipIdx.findSome? fun (l, i) => match checkLine l with
            | some (c, _) => some (c, i)
            | none => if byteAt l 0 ≠ 0 ∧ lineClass (byteAt l 0) ≠ g.wc then some (0x20, i) else none with
          | some (c, i) => .error (c, if packed then va else va + 64 * i)
          | none => if ls.length = 128 * g.planes then .ok ls else .error (0x20, va)

/-- INGOT_LOAD_COMPLETE (R241, R406): the planes are written once no MMA uses the ingot. -/
def execIngotLoadComplete (ctx i : Nat) (s : State) : Result :=
  .next (
    let v := s.ingot ctx i
    match v.load with
    | none => s
    | some (t, g, pc, id, n) =>
      if s.ingotBusy ctx i then s
      else
        let w : Who := { ctx := ctx, gang := some (t, g), cluster := (v.next.orElse fun _ => v.place).map (·.1) }
        match s.sourceLines w v with
        | .error f =>
          if id = 0 then s.failReload t g ctx i f.1
          else
            let s := s.mapIngot ctx i fun x => { x.cooled with src := none }
            let s := s.mapGang t g fun x => { x with casterTl := { x.casterTl with fenced := true } }
            let s : State := { s with imprecise := s.imprecise ++
              [{ wave := .caster t g, path := 0, code := f.1, pc := pc, addr := BitVec.ofNat 64 f.2 }] }
            (s.mapOp id fun p => { p with engine := false, ended := true }).completeOp id
        | .ok ls =>
          let s := s.mapIngot ctx i fun x =>
            { x with state := if x.loadStale then .stale else .resident, data := putBytes [] 0 ls.flatten, load := none, loadStale := false
                     place := x.next.orElse fun _ => x.place, next := none }
          if id = 0 then s.mapGang t g fun x => { x with reload := x.reload.map fun r => if r.1 = i then (i, true) else r }
          else
            let s := s.mapGang t g fun x => { x with casterTl := x.casterTl.perform n }
            (s.mapOp id fun p => { p with engine := false, ended := true }).completeOp id)

end Sys2Proof.Machine
end

