-- ==== Sys2Proof/Machine/Sync.lean ====
section
/-! DEFINITION. Moulds, timelines, barriers, device launch and the runner's instructions, opcodes 0xC5–0xCE
(R415–R421). -/

namespace Sys2Proof.Machine

/-! ### Moulds (R415) -/

/-- MSET (R415): the claim at issue, the compare once the path's earlier accesses are performed. -/
def execMset (d : Opd) (m : Nat) (rel any phase : Bool) (f t : Nat) (s : State) : Result :=
  issue 0xC5 s fun e => do
    if (any && phase) || (rel && t != 0) then throw badField
    let dd ← e.stDst d 1 true
    if !(s.mouldExists e m) || (rel && decide (m < 40)) then throw badOperand
    if e.off then s.orderOnly e 4 0
    else if s.foreign e m then throw { code := 0x41 }
    else
      let x := s.mould e m
      let x := if x.owned then x else { x with owned := true, owner := s.ownerNo e }
      let s := s.setMould e m x
      if !(s.quiet e 4) then return .wait s .fence
      if x.state.code = f ∧ (any ∨ x.phase = phase) then
        let y := if rel then {} else x.enter (MouldState.ofCode t)
        goOn ((s.setMould e m y).write e (e.allWrites dd 1 0)) 0
      else goOn (s.write e (e.allWrites dd 1 1)) 0

/-- MSTAT (R415). -/
def execMstat (d : Opd) (m : Nat) (s : State) : Result :=
  issue 0xC6 s fun e => do
    let dd ← e.stDst d 1 true
    if !(s.mouldExists e m) then throw badOperand
    goOn (s.write e (e.allWrites dd 1 (s.mould e m).view)) 0

/-! ### Timelines (R416) -/

/-- Inside an open pass at the basic level, the instructions of R410 raise 0x50. -/
def State.passStop (s : State) (e : Env) : Except Flt Unit :=
  match s.dir? e.task, s.task? e.task with
  | some d, some k =>
    if s.insidePass e ∧ d.openSlot.isSome ∧ !k.limits.side then .error { code := 0x50 } else .ok ()
  | _, _ => .ok ()

/-- The next number of software timeline `i` is taken and, its release being performed, counts (R416, R223): the
state and the number, 0 on a fenced timeline (R37). -/
def State.signalNow (s : State) (c i : Nat) : State × Nat :=
  let t : Timeline := nth {} (((s.ctx? c).map (·.timelines)).getD []) i
  if t.fenced then (s, 0)
  else (s.mapTimeline c i fun x => (x.take).perform (x.taken + 1), t.taken + 1)

/-- The counters reach the numbers of signals whose release is performed (R416). -/
def State.performSignals (s : State) : State :=
  s.ops.foldl (fun s o => match o.release, o.signal with
    | some sc, some (c, i, n) =>
      if s.releaseDone o sc then (s.mapOp o.id fun o => { o with release := none }).mapTimeline c i (·.perform n) else s
    | _, _ => s) s

/-- A TLSIG on the context's own timeline takes its number and writes it at issue; the counter reaches it with the release
(R416). -/
def State.signalSoft (s : State) (e : Env) (i lits : Nat) (out : State → Nat → State) : Except Flt Out :=
  let t : Timeline := nth {} (((s.ctx? e.ctx).map (·.timelines)).getD []) i
  if t.fenced then goOn (out s 0) lits
  else
    let n := t.taken + 1
    let scope := max 4 e.scope
    let s' := (out ({ s with nextId := s.nextId + 1 } : State) n).mapTimeline e.ctx i Timeline.take
    let o : PendingOp := { e.op s with signal := some (e.ctx, i, n) }
    if s.quiet e scope then (s'.mapTimeline e.ctx i (·.perform n)).sent e o lits
    else s'.sent e { o with release := some scope } lits

/-- The number that a TLSIG takes on another package's timeline: two free words, since the counter is that package's (R416). -/
def State.farNumber (s : State) : Nat := (Config.freeWord s.fresh).toNat + 2 ^ 32 * (Config.freeWord (s.fresh + 1)).toNat

/-- A TLSIG on another package's timeline: its request leaves once its release is performed (R416). -/
def State.signalFar (s : State) (e : Env) (p i lits : Nat) (out : State → Nat → State) : Except Flt Out :=
  if (s.timeline e (.remote p i)).fenced then goOn (out s 0) lits
  else
    let o := e.op s
    let (s', q) := ({ out s s.farNumber with nextId := s.nextId + 1, fresh := s.fresh + 2 } : State).sendRequest
      { id := 0, since := 0, pkg := p, off := i, kind := .signal, data := leBytes 8 s.farNumber, opId := o.id }
    s'.sent e { o with remote := [q], release := if s.quiet e 5 then none else some 5 } lits

/-- The scope of a TLSIG's release: MODE.SCOPE widened to device scope, fabric scope for another package's timeline (R416). -/
def State.signalScope (s : State) (e : Env) (id : Nat) : Nat :=
  match s.tlRef e id with
  | some (.remote _ _) => 5
  | _ => max 4 e.scope

/-- TLSIG (R416). On a caster thread whose guard bit is clear its release alone remains (R294). -/
def execTlsig (d a : Opd) (s : State) : Result :=
  issue 0xC7 s fun e => e.held s (litsOf a 1) do
    let dd ← e.stDst d 2 true
    let (x, ls) ← e.slitSrc a e.lits
    if e.off then s.orderOnly e (s.signalScope e (e.read 1 (4 * e.low) x).1) (e.used ls)
    else
      let id ← e.readLow 1 x
      let r ← match s.tlRef e id with
        | some (.soft i) => pure (TlRef.soft i)
        | some (.remote p i) => pure (TlRef.remote p i)
        | _ => throw badOperand
      s.passStop e
      let out := fun (s : State) (n : Nat) => s.write e (e.allWrites dd 2 n)
      match r with
      | .soft i => s.signalSoft e i (e.used ls) out
      | .remote p i => s.signalFar e p i (e.used ls) out
      | _ => throw badOperand

/-- TLRD (R416). -/
def execTlrd (d a : Opd) (i : Bool) (s : State) : Result :=
  issue 0xC8 s fun e => do
    let dd ← e.stDst d 2 false
    let (x, ls) ← e.slitSrc a e.lits
    if e.off then goOn s (e.used ls)
    else
    let id ← e.readLow 1 x
    match s.tlRef e id with
    | none => throw badOperand
    | some r =>
      let t := s.timeline e r
      let v := if t.fenced then 2 ^ 64 - 1 else if i then t.taken else t.reached
      goOn (s.write e (e.allWrites dd 2 v)) (e.used ls)

/-! ### Barriers (R417, R418) -/

/-- Settle a barrier of the issuing gang. -/
def State.settleBarrier (s : State) (e : Env) (b : Nat) : State := s.mapGang e.task e.gang (·.settle b)

/-- The index of the issuing wave in its gang. -/
def Env.waveIx (e : Env) : Nat := refWave e.ref

/-- The issuing gang's barrier. -/
def State.barrier (s : State) (e : Env) (b : Nat) : Barrier := ((s.myGang e).map (·.barrier b)).getD {}

/-- Slices of the issuing wave that have counted at a barrier. -/
def State.counted (s : State) (e : Env) (b : Nat) : Nat := ((s.barrier e b).arrivals.get 0 e.waveIx).toNat

/-- Remember, or forget, the barrier at which the path's BAR waits. -/
def State.atBarrier (s : State) (e : Env) (b : Option Nat) : State := s.mapPath (e.ref, e.p) fun p => { p with barrier := b }

/-- BAR has arrived: it goes on once its slices' round has completed, be the barrier abandoned after that (R259, R418). -/
def State.awaitBarrier (s : State) (e : Env) (b : Nat) : Except Flt Out :=
  let s := s.settleBarrier e b
  if !(e.pathSlices.any (bitOf (s.counted e b))) then goOn ((s.atBarrier e none).acquired e e.scope) 0
  else if (s.barrier e b).abandoned then .ok (.stop ((s.atBarrier e none).takeFault e.ref e.p { code := 0x81 }))
  else .ok (.wait (s.atBarrier e (some b)) (.bar b))

/-- The checks of an arrival (R417, R259), and the barrier with the path's slices counted; where its release is not performed yet
the arrival waits for it, and the path's later writes with it (R216, R418). -/
def State.countIn (s : State) (e : Env) (b n : Nat) : Except Flt State :=
  let s := s.settleBarrier e b
  let x := s.barrier e b
  let waves := ((s.myGang e).map (·.waves.length)).getD 0
  if 15 < b ∨ n = 0 ∨ 64 < n ∨ waves < n then .error badOperand
  else if x.abandoned then .error { code := 0x81 }
  else if x.party.any (· != n) then .error badOperand
  else if e.pathSlices.any (bitOf (s.counted e b)) then .error badOperand
  else
    let sl := BitVec.ofNat 8 (maskOf e.pathSlices)
    let done := s.quiet e e.scope
    let held := if done then x.held else x.held.set 0 e.waveIx (x.held.get 0 e.waveIx ||| sl)
    let y := { x with party := some n, arrivals := x.arrivals.set 0 e.waveIx (x.arrivals.get 0 e.waveIx ||| sl), held := held }
    let t := (s.mapGang e.task e.gang fun g => { g with barriers := setNth g.barriers b y }).settleBarrier e b
    .ok (if done then t
      else { t with nextId := t.nextId + 1
                    ops := t.ops ++ [{ e.op t with orders := true, release := some e.scope, barrier := some b }] })

/-- BAR (R418). -/
def execBar (b n : Nat) (s : State) : Result :=
  issue 0xC9 s fun e =>
    if e.path.barrier = some b then s.awaitBarrier e b
    else do
      let s' ← s.countIn e b n
      s'.awaitBarrier e b

/-- BARA (R418). -/
def execBara (b n : Nat) (s : State) : Result :=
  issue 0xCA s fun e => do
    let s' ← s.countIn e b n
    goOn s' 0

/-- The issuing wave has an arrival pending at a barrier: it has arrived in the current round, or it will once the releases of its
arrival are performed (R418). -/
def State.arrivalPending (s : State) (e : Env) (b : Nat) : Bool :=
  let x := s.barrier e b
  x.arrived.contains e.waveIx || ((s.myGang e).map fun g => g.allCounted x e.waveIx).getD false

/-- BARW (R418): one that waits and whose round has completed before the mark was set is unaffected by it (R259). -/
def execBarw (d : Opd) (b : Nat) (s : State) : Result :=
  issue 0xCB s fun e => do
    let dd ← e.stDst d 1 true
    if 15 < b then throw badOperand
    let s := s.settleBarrier e b
    let pending := s.arrivalPending e b
    if (s.barrier e b).abandoned && (pending || e.path.wait != .barw b) then goOn (s.write e (e.allWrites dd 1 1)) 0
    else if pending then return .wait s (.barw b)
    else goOn ((s.write e (e.allWrites dd 1 0)).acquired e e.scope) 0

/-! ### Device launch and the runner (R419–R421) -/

/-- LAUNCH (R419). -/
def execLaunch (d a b : Opd) (s : State) : Result :=
  issue 0xCC s fun e => do
    let dd ← e.stDst d 2 true
    let (x, ls) ← e.pairSrc a true e.lits
    let (y, ls) ← e.slitSrc b ls
    let va ← e.readLow 2 x
    let q ← e.readLow 1 y
    if 63 < q then throw badOperand
    s.passStop e
    if va % 64 ≠ 0 then throw { code := 0x12, addr := BitVec.ofNat 64 va }
    match s.span e.who .load va 128 with
    | .error c => throw { code := c, addr := BitVec.ofNat 64 va }
    | .ok sp =>
      if s.accessHeld e [{ lane := 0xFF, va := va, sp := sp }] || !(s.quiet e 4) then return .wait s .fence
      let (s', st, id) := s.offerLaunch e.ctx q (s.readSpan e.who sp) none
      goOn (s'.deliver e false (e.allWrites dd 2 (st + id * 2 ^ 32))) (e.used ls)

/-- The graph, queue and index of a node of the issuing context, while its graph runs (R420). -/
def State.graphNode (s : State) (ctx va : Nat) : Option (Nat × Graph × Nat) :=
  match s.findNode ctx va with
  | none => none
  | some (q, i) => match (s.queue q).graph with
    | some g => if g.failed.isSome then none else some (q, g, i)
    | none => none

/-- The STATUS byte of a node, as it is or will be settled (R87). -/
def State.nodeStatus (s : State) (g : Graph) (i : Nat) : Nat :=
  match g.finished.find? (·.1 == i) with
  | some (_, st) => st
  | none => s.nodeField g i 3 1

/-- GSIG's effect and status (R420). -/
def State.signalNode (s : State) (ctx va : Nat) : State × Nat :=
  match s.graphNode ctx va with
  | none => (s, 5)
  | some (q, g, i) =>
    if s.nodeField g i 2 1 ≠ 2 ∨ !(bitOf (s.nodeField g i 0x1A 1) 0) then (s, 4)
    else if g.signalHeld.contains i then (s, 3)
    else match s.nodeStatus g i with
      | 0x10 => (s.endNode q i stDone, 0)
      | 0x00 =>
        let qq := s.queue q
        (s.setQueue q { qq with graph := some { g with signalHeld := g.signalHeld ++ [i] } }, 2)
      | _ => (s, 3)

/-- GSIG (R420). -/
def execGsig (d a : Opd) (s : State) : Result :=
  issue 0xCD s fun e => do
    let dd ← e.stDst d 1 true
    let (x, ls) ← e.pairSrc a true e.lits
    let va ← e.readLow 2 x
    s.passStop e
    if !(s.quiet e 4) then return .wait s .fence
    let (s', st) := s.signalNode e.ctx va
    goOn (s'.write e (e.allWrites dd 1 st)) (e.used ls)

/-- GADD's effect and status (R421): `p` the predecessor, `n` the successor. -/
def State.addEdge (s : State) (ctx p n : Nat) : State × Nat :=
  match s.graphNode ctx p, s.graphNode ctx n with
  | some (q, g, i), some (q', _, j) =>
    if q ≠ q' then (s, 3)
    else if s.nodeStatus g j ≠ 0 then (s, 2)
    else if s.nodeStatus g i = stDone ∨ s.nodeStatus g i = stQuenched then (s, 1)
    else
      let succ := s.nodeField g i 4 4
      let pred := s.nodeField g j 0 2
      if 2 ^ 20 ≤ succ ∨ 65535 ≤ pred then (s, 3)
      else
        let s := s.runnerWrite q ctx (g.addr j) (leBytes 2 (pred + 1))
        let s := s.runnerWrite q ctx (s.nodeField g i 8 8 + 4 * succ) (leBytes 4 j)
        (s.runnerWrite q ctx (g.addr i + 4) (leBytes 4 (succ + 1)), 0)
  | _, _ => (s, 3)

/-- GADD (R421). -/
def execGadd (d a b : Opd) (s : State) : Result :=
  issue 0xCE s fun e => do
    let dd ← e.stDst d 1 true
    let (x, ls) ← e.pairSrc a true e.lits
    let (y, ls) ← e.pairSrc b false ls
    let p ← e.readLow 2 x
    let n ← e.readLow 2 y
    s.passStop e
    let (s', st) := s.addEdge e.ctx p n
    goOn (s'.write e (e.allWrites dd 1 st)) (e.used ls)

end Sys2Proof.Machine
end

