-- ==== Sys2Proof/Machine/Place.lean ====
section
/-! DEFINITION. Placement (R59, R79–R85, R115, R136): what a cluster has free, the cluster and cores a gang gets,
and the gang as it stands once placed. -/

namespace Sys2Proof.Machine

/-! ### What a cluster has free (R83) -/

/-- Gangs resident on a cluster, some left out. -/
def State.residents (s : State) (c : Nat) (ign : List (Nat × Nat)) : List Gang :=
  s.gangs.filter fun g => g.cluster == c && (g.state == .placing || g.state == .running) && !(ign.contains (g.task, g.index))

/-- A field of a gang's task. -/
def State.ofTask (s : State) (g : Gang) (f : Task → Nat) : Nat := ((s.task? g.task).map f).getD 0

/-- Wave slots in use on core `k` of a cluster. -/
def State.slotsUsed (s : State) (l : List Gang) (k : Nat) : Nats :=
  l.flatMap fun g =>
    let w := max (s.ofTask g Task.waves) 1
    (upto g.slots.length).filterMap fun i => if g.core0 + i / w = k then some (nth 0 g.slots i) else none

/-- Register blocks in use on core `k` of a cluster. -/
def State.blocksUsed (s : State) (l : List Gang) (k : Nat) : Nat :=
  (l.map fun g => if g.core0 ≤ k ∧ k < g.core0 + s.ofTask g Task.groups
    then s.ofTask g Task.waves * s.ofTask g Task.blocks else 0).sum

/-- The wave slots that one group of a task would take on core `k`. -/
def State.coreFit (s : State) (l : List Gang) (t : Task) (k : Nat) : Option Nats :=
  let used := s.slotsUsed l k
  let free := (upto 16).filter fun i => !(used.contains i)
  if t.waves ≤ free.length ∧ s.blocksUsed l k + t.waves * t.blocks ≤ 192 then some (free.take t.waves) else none

/-- The lowest run of cores that fits a task's groups, with their wave slots in order of waves (R85). -/
def State.coresFit (s : State) (l : List Gang) (t : Task) : Option (Nat × Nats) :=
  (upto (5 - t.groups)).findSome? fun k =>
    let xs := (upto t.groups).filterMap fun g => s.coreFit l t (k + g)
    if xs.length = t.groups then some (k, xs.flatten) else none

/-- Physical banks for a gang: lowest free ones, a restored gang's in the crucibles they lay in (R122). -/
def pickBanks (free : Nats) : Nat → Nats → Nats
  | 0, _ => []
  | n + 1, prev =>
    match free with
    | [] => []
    | b0 :: _ =>
      let b := match prev with
        | p :: _ => (free.find? fun x => x / 4 == p / 4).getD b0
        | [] => b0
      b :: pickBanks (free.filter (· != b)) n (prev.drop 1)

/-- Distinct tasks of a list of gangs. -/
def tasksOf (l : List Gang) : Nats := (l.map (·.task)).eraseDups

/-- What the placement of a task on a cluster does to ingots (R244, R245): the ingots of its context counted into
the new reservation and those taken, or `none` where the planes cannot be had; `l` are the gangs resident there, without those
that `ign` leaves out. -/
def State.planePlan (s : State) (c : Nat) (l : List Gang) (ign : List (Nat × Nat)) (t : Task) : Option (Nats × List (Nat × Nat)) :=
  if (tasksOf l).contains t.id ∨ t.planes = 0 then some ([], [])
  else
    let res := tasksOf l
    let loose := (s.heldOn c).filter fun x => !(x.2.2.holder.any fun k => res.contains k)
    let (count, _, rest) := loose.foldl (fun (a : Nats × Nat × List (Nat × Nat × Ingot)) x =>
      if x.1 = t.ctx ∧ a.2.1 + x.2.2.planesOn c ≤ t.planes then (a.1 ++ [x.2.1], a.2.1 + x.2.2.planesOn c, a.2.2)
      else (a.1, a.2.1, a.2.2 ++ [x])) ([], 0, [])
    let reserved := (res.map fun k => ((s.task? k).map Task.planes).getD 0).sum
    let used := reserved + (rest.map fun x => x.2.2.planesOn c).sum
    let order := fun (k : Nat) => (rest.filter fun x => s.takeable c x.1 x.2.1 x.2.2 ign == some k).mergeSort
      fun a b => decide (a.2.2.lastUse ≤ b.2.2.lastUse)
    let (used, take) := (order 0 ++ order 1).foldl (fun (a : Nat × List (Nat × Nat)) x =>
      if a.1 + t.planes ≤ 1024 then a else (a.1 - x.2.2.planes, a.2 ++ [(x.1, x.2.1)])) (used, [])
    if used + t.planes ≤ 1024 then some (count, take) else none

/-- Planes reserved for a context over the package, with pinned ingots outside every reservation (R84, R245), as they are
without some gangs. -/
def State.reservedPlanes (s : State) (ctx : Nat) (ign : List (Nat × Nat) := []) : Nat :=
  let mine := (upto Config.clusters).map fun c =>
    ((tasksOf (s.residents c ign)).map fun t => match s.task? t with
      | some k => if k.ctx = ctx then k.planes else 0
      | none => 0).sum
  let loose := match s.ctx? ctx with
    | none => 0
    | some x => (x.ingots.map fun (_, g) => match g.place with
      | some (c, _, _) => if g.pin && !(g.holder.any fun t => s.residentBut ign t c) then g.planes else 0
      | none => 0).sum
  mine.sum + loose

/-- Pinned planes that a plan moves from outside every reservation into one. -/
def State.countedPinned (s : State) (ctx : Nat) (count : Nats) : Nat :=
  (count.map fun i => if (s.ingot ctx i).pin then (s.ingot ctx i).planes else 0).sum

/-- A place for a gang. -/
structure Fit where
  cluster : Nat
  core0 : Nat
  thread : Nat
  slots : Nats
  banks : Nats
  count : Nats
  take : List (Nat × Nat)
deriving DecidableEq, Repr

/-- Whether a restored gang's software-buffer moulds and shape slots are free on a cluster (R114, R197, R200). -/
def State.imageFits (s : State) (c core0 : Nat) (l : List Gang) (g : Gang) : Bool :=
  let k := s.cluster c
  (g.savedMoulds.all fun (m, _) => let x : Mould := k.moulds.get {} m; !(x.owned && l.any (·.thread == x.owner)))
    && (g.savedShapes.all fun (i, _) => match (k.shapes.get {} (32 * core0 + i)).owner with
      | some o => !(l.any fun y => (y.task, y.index) == o)
      | none => true)

/-- A cluster is open to placement (R83): in the mask, not fenced, not being evacuated or tested. -/
def State.openCluster (s : State) (c : Nat) : Bool :=
  bitOf s.clusterMask.toNat c && !(s.die (c / 32)).fenced && (s.cluster c).test.attempt.isNone
    && (s.cluster c).test.running.isNone

/-- The place that a gang of a task would get on a cluster with some gangs left out (R83, R85). -/
def State.fit (s : State) (c : Nat) (ign : List (Nat × Nat)) (t : Task) (g : Gang) : Option Fit :=
  let l := s.residents c ign
  if !(s.openCluster c) || (t.fillClass && !(s.cluster c).bubble.isOpen) then none
  else
    match (upto 4).find? fun i => l.all fun x => x.thread != i with
    | none => none
    | some th =>
      match s.coresFit l t, s.planePlan c l ign t with
      | some (k, slots), some (count, take) =>
        let tot := fun (f : Task → Nat) => (l.map fun x => s.ofTask x f).sum
        let used := l.flatMap (·.bankPhys)
        let free := (upto 8).filter fun b => !(used.contains b)
        if tot Task.scratch + t.scratch ≤ 4194304 ∧ tot Task.tiles + t.tiles ≤ 32 ∧ t.banks ≤ free.length
            ∧ s.imageFits c k l g then
          some { cluster := c, core0 := k, thread := th, slots := slots, banks := pickBanks free t.banks g.bankPhys,
                 count := count, take := take }
        else none
      | _, _ => none

/-- The placement keeps the context's reserved planes within the quota under which the task was launched (R68, R84), some gangs
left out. -/
def State.inQuota (s : State) (t : Task) (f : Fit) (ign : List (Nat × Nat) := []) : Bool :=
  let need := if s.residentBut ign t.id f.cluster then 0 else t.planes
  need == 0 || decide (s.reservedPlanes t.ctx ign + need ≤ t.quota + s.countedPinned t.ctx f.count)

/-- The better of two places (R85): higher allowance, fewer gangs; the earlier, which is the lower cluster, on a
further tie. -/
def State.betterFit (s : State) (a b : Fit) : Fit :=
  let key := fun (f : Fit) => (255 - (s.cluster f.cluster).allowance) * 8 + (s.residents f.cluster []).length
  if key b < key a then b else a

/-- Every place a gang could get now. -/
def State.fits (s : State) (t : Task) (g : Gang) : List Fit := s.maskedClusters.filterMap fun c => s.fit c [] t g

/-- The best of some places. -/
def State.chooseFit (s : State) (l : List Fit) : Option Fit :=
  l.foldl (fun a f => match a with
    | none => some f
    | some x => some (s.betterFit x f)) none

/-- The place the scheduler chooses (R83–R85). -/
def State.bestFit (s : State) (t : Task) (g : Gang) : Option Fit := s.chooseFit ((s.fits t g).filter fun f => s.inQuota t f)

/-! ### A gang in its place -/

/-- Scalar pair s0:1 as a launch gives it (R59). -/
def argRegs (args : Nat) : Table RegVal :=
  (Table.set {} ([] : Table RegVal) 0 { bits := wordOf args 0 }).set {} 1 { bits := wordOf args 1 }

/-- A wave at its start (R59, R123, R125). -/
def launchWave (t : Task) : Wave :=
  { slices := List.replicate 8 { regs := argRegs t.args }
    paths := { state := .run, pc := BitVec.ofNat 64 (t.waveEntry + 8), active := 0xFFFFFFFF, slices := 0xFF,
               ref := 0xFFFFFFFF } :: List.replicate 7 {} }

/-- A caster thread at its start: one live lane, or exited from placement onward without an entry (R135, R136). -/
def launchCaster (t : Task) : Wave :=
  let w : Wave :=
    { slices := { regs := argRegs t.args, enabled := 1, ended := 0xE } :: List.replicate 7 { enabled := 0, ended := 0xF }
      paths := { state := .run, pc := BitVec.ofNat 64 (t.casterEntry + 8), active := 1, slices := 1, ref := 1 }
        :: List.replicate 7 {} }
  if t.casterEntry = 0 then w.end_ else w

/-- A path as it resumes after an eviction: it fetches its line again, and a wait issues again (R321). -/
def Path.restored (p : Path) : Path :=
  if p.state = .blocked ∧ p.wait.stays = false then { p with buf := none, state := .run, wait := .none, atPp := false }
  else { p with buf := none }

/-- What PASS reads when a gang starts again (R117): the open pass, or the latest sealed one. -/
def State.passAt (s : State) (t : Nat) : Nat :=
  match s.dir? t with
  | none => 0
  | some d => if d.openSlot.isSome then d.pass else match d.latest with
    | some (_, v, _) => v
    | none => 0

/-- A gang in its place: started from its task record (R59), or restored from its image (R115). -/
def State.placedGang (s : State) (t : Task) (g : Gang) (f : Fit) : Gang :=
  let kept : List (EvictCause × Nat) := g.chosen.filter (·.1 == .ckpt)
  let g := { g with cluster := f.cluster, core0 := f.core0, thread := f.thread, slots := f.slots, bankPhys := f.banks
                    placedAt := s.now, lastPp := s.now, chosen := kept }
  match g.saved with
  | some _ =>
    { g with state := .running, saved := none, everPlaced := true
             waves := g.waves.map (·.mapPaths Path.restored), caster := g.caster.mapPaths Path.restored
             seq := g.seq.map SeqOp.stop }
  | none =>
    let x : Gang :=
      { g with state := .placing, waves := List.replicate (t.groups * t.waves) (launchWave t), caster := launchCaster t
               tiles := freshTiles t.tiles, banks := List.replicate t.banks {}
               scratch := [], scratchPoison := [], tags := [], moulds := [], ladle := List.replicate t.groups {}
               passNo := if g.everPlaced then s.passAt t.id else 0, everPlaced := true }
    if g.halted then x.halt else x

/-- The software-buffer moulds and shape slots of an image come back under the gang's new thread and cores (R114). -/
def State.restoreCluster (s : State) (g : Gang) (th core0 c : Nat) : State :=
  s.mapCluster c fun k =>
    { k with
      moulds := g.savedMoulds.foldl (fun t (m, x) => t.set {} m { x with owned := true, owner := th }) k.moulds
      shapes := g.savedShapes.foldl (fun t (i, x) => t.set {} (32 * core0 + i) x) k.shapes }

/-- A non-fill gang ends the idle interval of its cluster, which the allocator will observe (R94). -/
def Bubble.busy (b : Bubble) (now : Nat) : Bubble :=
  match b.idleFrom with
  | some t => { b with idleFrom := none, seen := some (t, now - t) }
  | none => b

/-- A cluster receives a gang: its cores' L1 caches serve it nothing stale, and the bubble allocator sees a non-fill one (R94,
R190). -/
def State.receive (s : State) (t : Task) (c : Nat) : State :=
  let s := (upto 4).foldl (fun (s : State) k => s.acquireL1 (4 * c + k) 5) s
  if t.fillClass then s else s.mapCluster c fun k => { k with bubble := k.bubble.busy s.now }

/-- Place a gang (R83–R85, R244, R245), whose record is made if this is its first placement. -/
def State.placeGang (s : State) (t : Task) (g : Gang) (f : Fit) : State :=
  let s := f.take.foldl (fun s (x, i) => s.takePlanes x i) s
  let s := f.count.foldl (fun s i => s.mapIngot t.ctx i fun x => { x with holder := some t.id }) s
  let x := { s.placedGang t g f with savedMoulds := [], savedShapes := [] }
  let s := if (s.gang? t.id g.index).isSome then s.setGang x else { s with gangs := s.gangs ++ [x] }
  let s := (s.restoreCluster g f.thread f.core0 f.cluster).receive t f.cluster
  s.mapTask t.id fun k => { k with nextGang := max k.nextGang (g.index + 1), lastPlaced := s.now, aged := false }

/-- The next WAITING gang of a task: the lowest one with a record, or the first that has none (R79). -/
def State.nextWaiting (s : State) (t : Task) : Option Gang :=
  let l := (s.gangsOf t.id).filter fun g => g.state == .waiting
  match l.foldl (fun (a : Option Gang) g => match a with
    | none => some g
    | some x => some (if g.index < x.index then g else x)) none with
  | some g => if g.index ≤ t.nextGang then some g
    else if t.nextGang < t.gangCount then some { task := t.id, index := t.nextGang } else some g
  | none =>
    if t.nextGang < t.gangCount then
      (match s.gang? t.id t.nextGang with
      | some _ => none
      | none => some { task := t.id, index := t.nextGang })
    else none

end Sys2Proof.Machine
end

