-- ==== Sys2Proof/Machine/Evict.lean ====
section
/-! DEFINITION. Eviction, migration and the images of gangs (R110–R116, R120): where a chosen gang stops, what is
saved with it, and what its registers hold when it returns. -/

namespace Sys2Proof.Machine

/-! ### Liveness at a pre-emption point (R113, R327) -/

/-- The liveness index that the LIVE at the start of a path's clause names. -/
def Path.liveIndex (p : Path) : Option Nat :=
  match p.buf with
  | none => none
  | some l => match decodeWord (l.word (wordIx p.pc + 1)).toNat with
    | .ok (.live i) => some i
    | _ => none

/-- The liveness entries of a wave's paths; `none` where one of them asks for a full save. -/
def State.waveEntries (s : State) (t : Task) (w : Wave) : Option (List Bytes) :=
  let ps := (upto 8).filter fun p => (w.path p).state != .free && w.pathSlices p != []
  let es := ps.map fun p => s.liveEntry t ((w.path p).liveIndex)
  if es.all Option.isSome then some (es.filterMap id) else none

/-- The indices below `n` that any of some entries names. -/
def pickAny (es : List Bytes) (off bytes n : Nat) : Nats :=
  (upto n).filter fun i => es.any fun b => bitOf (fieldAt b off bytes) i

/-! ### Undefined values (R113) -/

/-- A table whose keys in `ks` hold free values, drawn from `n` on, and whose other keys hold what they held. -/
def undefKeys {α : Type} [DecidableEq α] (d : α) (f : Nat → α) (n : Nat) (ks : Nats) (t : Table α) : Table α :=
  (ks.foldl (fun (a : Table α × Nat) k => (a.1.set d k (f a.2), a.2 + 1)) (t, n)).1

/-- A free register value. -/
def freeReg (n : Nat) : RegVal := { bits := Config.freeWord n }

/-- A free exact sum. -/
def freeSum (n : Nat) : XSum :=
  { S := BitVec.ofNat 320 (joinWords ((upto 10).map fun i => Config.freeWord (n + i)))
    E := BitVec.ofNat 16 (Config.freeWord (n + 10)).toNat }

/-- A tag entry that is not live: VALID = 0 and a free KEY; DIRTY and the reserved bits, which the device never sets, are the
program's (R191, R192). -/
def freeTag (n : Nat) (old : DWord) : DWord :=
  (BitVec.ofNat 64 (joinWords [Config.freeWord n, Config.freeWord (n + 1)]) &&& ~~~0x3FF) ||| (old &&& 0x3FE)

/-- Indices below `n` that are not in a list. -/
def outside (n : Nat) (l : Nats) : Nats := (upto n).filter fun i => !(l.contains i)

/-- A wave as it returns: registers that no entry names hold free values from draw `n` on (R113). -/
def Wave.forget (w : Wave) (t : Task) (es : List Bytes) (n : Nat) : Wave :=
  let vs := (outside (16 * t.blocks) (pickAny es 0 24 192)).flatMap fun r => (upto 32).map fun l => vkey r l
  let ss := outside 48 (pickAny es 0x18 6 48)
  let ps := (outside 16 (pickAny es 0x1E 2 16)).filter (· != 0)
  let xs := (outside 4 (pickAny es 0x25 1 4)).flatMap fun x => (upto 32).map fun l => 32 * x + l
  let a := n + vs.length
  let b := a + 8 * ss.length
  let c := b + ps.length
  { w with
    vregs := undefKeys {} freeReg n vs w.vregs
    slices := w.slices.zipIdx.map fun (x, i) => { x with regs := undefKeys {} freeReg (a + i * ss.length) ss x.regs }
    preds := undefKeys 0 Config.freeWord b ps w.preds
    xsums := undefKeys {} (fun i => freeSum (c + 11 * (i - c))) c xs w.xsums }

/-- Draws that `Wave.forget` may take. -/
def waveDraws : Nat := 192 * 32 + 8 * 48 + 16 + 11 * 128

/-- A tile of undefined contents: a legal control word and any rows. -/
def freeTile (n : Nat) : Tile :=
  let v := (Config.freeWord n).toNat
  let wc := v % 4
  let ctl := wc * 2 ^ 30 + (v / 4 % 64 + 1) * 2 ^ 16 + (v / 256 % classCount wc + 1)
  let t : Tile := { rows := undefKeys 0 Config.freeByte (n + 1) (upto 4096) [], ctl := BitVec.ofNat 32 ctl }
  { t with bitmap := t.zeroBlocks }

/-- A bank of undefined contents. -/
def freeBank (n : Nat) : Bank :=
  { elems := undefKeys 0 Config.freeWord n (upto 8192) []
    flags := BitVec.ofNat 9 (Config.freeWord (n + 8192)).toNat &&& (fIV ||| fOF ||| fUF ||| fNX) }

/-- The gang's tiles, banks and scratch as they return: those that no wave's entry names are undefined, and tag
entries of slots that no entry names are not valid (R113, R192). -/
def Gang.forget (g : Gang) (t : Task) (es : List Bytes) (n : Nat) : Gang :=
  let tiles := pickAny es 0x20 4 g.tiles.length
  let banks := pickAny es 0x24 1 g.banks.length
  let slots := t.scratch / 1024
  let live := es.flatMap fun b => let (f, k) := liveSlots (some b) slots; (upto k).map (f + ·)
  let dead := outside slots live
  let bytes := dead.flatMap fun i => (upto 1024).map (1024 * i + ·)
  let a := n + 4097 * g.tiles.length
  let b := a + 8193 * g.banks.length
  let c := b + bytes.length
  { g with
    tiles := g.tiles.zipIdx.map fun (x, i) => if tiles.contains i then x else freeTile (n + 4097 * i)
    banks := g.banks.zipIdx.map fun (x, i) => if banks.contains i then x else freeBank (a + 8193 * i)
    scratch := undefKeys 0 Config.freeByte b bytes g.scratch
    tags := dead.zipIdx.foldl (fun t (k, i) => t.set 0 k (freeTag (c + 2 * i) (t.get 0 k))) g.tags
    scratchPoison := g.scratchPoison.filter fun (l, _) => !(dead.contains (l / 16)) }

/-- The draws that a gang's image may take. -/
def Gang.draws (g : Gang) (t : Task) : Nat :=
  g.waves.length * waveDraws + 4097 * g.tiles.length + 8193 * g.banks.length + t.scratch + 2 * (t.scratch / 1024)

/-! ### Images (R112–R115) -/

/-- What each wave of a gang names as live (R113): nothing to name for one that has ended, `none` for one that is saved in
full, as every wave is in a forced save (R112). -/
def State.gangEntries (s : State) (t : Task) (g : Gang) (full : Bool) : List (Option (List Bytes)) :=
  g.waves.map fun w => if full then none else if w.finished then some [] else s.waveEntries t w

/-- A gang with what it owns on its cluster noted, as its image has it (R114). -/
def State.owning (s : State) (g : Gang) : Gang :=
  let k := s.cluster g.cluster
  let mine : List (Nat × Mould) := k.moulds.filter fun (_, m) => m.owned && m.owner == g.thread
  let shp : List (Nat × ShapeSlot) := k.shapes.filter fun (_, x) => x.owner == some (g.task, g.index)
  { g with savedMoulds := mine, savedShapes := shp.map fun (i, x) => (i - 32 * g.core0, x) }

/-- The image of a gang as it returns (R113, R114): at a pre-emption point each wave by its liveness entries, otherwise, or where
an entry asks for it, in full; its tiles, banks and scratch are the union. Answers the image and the state with its draws
counted. -/
def State.image (s : State) (t : Task) (g : Gang) (full : Bool) : Gang × State :=
  let g := s.owning g
  let es := s.gangEntries t g full
  let n := s.fresh
  let ws := (g.waves.zip es).zipIdx.map fun ((w, e), i) => match e with
    | some l => if w.finished then w else w.forget t l (n + i * waveDraws)
    | none => w
  let whole := es.any Option.isNone
  let g' : Gang := { g with waves := ws }
  let g' := if whole then g' else g'.forget t (es.filterMap id).flatten (n + g.waves.length * waveDraws)
  ({ g' with saved := some whole }, { s with fresh := s.fresh + g.draws t })

/-! ### Where a chosen gang stops (R111, R112, R116) -/

/-- No path of a wave is inside an access. -/
def State.atBoundary (s : State) (w : Wave) : Bool :=
  w.paths.all fun p => match p.wait with
    | .op id => (s.op? id).all s.opReady
    | _ => true

/-- The caster thread of a gang is at an instruction boundary, or inside an MMA or MMAT that has stopped at a step boundary (R111,
R237). -/
def State.casterStopped (s : State) (g : Gang) : Bool :=
  g.seq.all (fun o => !o.checked) && g.caster.paths.all fun p => match p.wait with
    | .op id => (s.op? id).all s.opReady || g.seq.any (·.opId == id)
    | _ => true

/-- The operations of a gang's waves and its ladle queues are complete (R111). -/
def State.gangQuiet (s : State) (g : Gang) : Bool :=
  g.ladle.all (fun q => q.ops == []) && s.ops.all fun o => match o.wave with
    | .user t i _ => !(t == g.task && i == g.index) || o.ask
    | _ => true

/-- Every wave has ended or has stopped with all its paths at a pre-emption point. -/
def Gang.atPp (g : Gang) : Bool :=
  g.waves.all fun w => w.finished || (upto 8).all fun p =>
    let x := w.path p
    x.state == .free || w.pathSlices p == [] || (x.atPp && x.state == .blocked)

/-- Send a gang back to WAITING with its image (R115); a checkpoint that waits for it finds the image, or the gang in its next place
(R118). -/
def State.evict (s : State) (t : Task) (g : Gang) (full : Bool) : State :=
  let (x, s) := s.image t g full
  (s.leave g).setGang { x with state := .waiting, chosen := x.chosen.filter (·.1 == .ckpt), slots := [] }

/-- A gang chosen for a checkpoint is taken: it stays in its place, stopped, until the image is written (R118). -/
def State.takeForCkpt (s : State) (t : Task) (g : Gang) (full : Bool) : State :=
  s.setGang { g with saved := some ((s.gangEntries t g full).any Option.isNone) }

/-- A gang of an idempotent task is never saved (R116): it starts again from its task record, where its seal bit and grade stand
(R424); a halt stays in force. -/
def State.restartChosen (s : State) (g : Gang) : State :=
  (s.requeueGang g).mapGang g.task g.index fun x => { x with halted := g.halted, sealedBit := g.sealedBit, grade := g.grade }

/-- A migrated gang goes only when another cluster is eligible for it (R83, R99, R100). -/
def State.canMove (s : State) (t : Task) (g : Gang) : Bool :=
  let ign := [(g.task, g.index)]
  s.maskedClusters.any fun c => c != g.cluster && (s.fit c ign t (s.owning g)).any fun f => s.inQuota t f ign

/-- A gang chosen for a test can leave its cluster: another one is eligible for it, or it is an idempotent task's and has no image
to take anywhere (R99, R100, R116). -/
def State.testLeaves (s : State) (t : Task) (g : Gang) : Bool := !g.halted && (s.canMove t g || (t.idempotent && !t.persistent))

/-- A gang is chosen for a cause. -/
def Gang.chosenFor (g : Gang) (c : EvictCause) : Bool := g.chosen.any fun x => x.1 == c

/-- A gang is to leave its cluster now (R110): it has been chosen for eviction, or for a test for which it can leave. -/
def State.leaves (s : State) (t : Task) (g : Gang) : Bool :=
  g.chosenFor .priority || g.chosenFor .bubble || g.chosenFor .slice || (g.chosenFor .test && s.testLeaves t g)

/-- A chosen gang may be saved at all: it is in its place, nothing ends it and it is not taken already; its operations and the
ladle's are complete and its caster has stopped (R111). -/
def State.savable (s : State) (t : Task) (g : Gang) : Bool :=
  g.chosen != [] && g.resident && g.kill.isNone && t.quench.isNone && g.saved.isNone && s.gangQuiet g && s.casterStopped g

/-- PREEMPTION_POINT_SAVE (R111, R113, R116, R118, R120). -/
def State.ppSave (s : State) (t g : Nat) : State :=
  match s.gang? t g, s.task? t with
  | some x, some k =>
    if !(s.savable k x) then s
    else if k.idempotent then (if x.waves.all s.atBoundary && s.faultFree x && s.leaves k x then s.restartChosen x else s)
    else if !x.atPp ∨ x.halted then s
    else if s.leaves k x then s.evict k x false
    else if x.chosenFor .ckpt then s.takeForCkpt k x false
    else s
  | _, _ => s

/-- PREEMPTION_POINT_SAVE (R111). -/
def execPreemptionPointSave (t g : Nat) (s : State) : Result := .next (s.ppSave t g)

/-- A choice that stands for 20 µs asks for the forced full save (R112); one for a test never does (R99). -/
def Gang.forceDue (g : Gang) (now : Nat) (c : EvictCause → Bool) : Bool :=
  g.chosen.any fun x => c x.1 && x.1 != .test && decide (x.2 + 20000 ≤ now)

/-- FORCED_FULL_SAVE (R112, R120): 20 µs after the choice. -/
def State.forcedSave (s : State) (t g : Nat) : State :=
  match s.gang? t g, s.task? t with
  | some x, some k =>
    if !(s.savable k x) ∨ k.idempotent ∨ !(x.waves.all s.atBoundary) then s
    else if x.forceDue s.now (· != .ckpt) then s.evict k x true
    else if x.forceDue s.now fun _ => true then s.takeForCkpt k x true
    else s
  | _, _ => s

/-- FORCED_FULL_SAVE (R112). -/
def execForcedFullSave (t g : Nat) (s : State) : Result := .next (s.forcedSave t g)

/-! ### Who is chosen (R95, R110) -/

/-- Choose a resident gang for a cause: a choice that stands for it already keeps its time. -/
def State.choose (s : State) (cause : EvictCause) (g : Gang) : State :=
  if g.chosenFor cause ∨ !g.resident then s
  else s.setGang { g with chosen := g.chosen ++ [(cause, s.now)] }

/-- TIME_SLICE_EXPIRY (R110): every gang resident 4 ms while a gang of its class waits with no eligible cluster;
persistent tasks' gangs are never chosen. -/
def execTimeSliceExpiry (s : State) : Result :=
  let stuck := fun (c : Nat) => s.tasks.any fun t => t.status == 0 && t.quench.isNone && t.kill.isNone && t.cls == c &&
    (match s.nextWaiting t with
    | some g => (s.bestFit t g).isNone
    | none => false)
  let due := s.gangs.filter fun g => g.resident && decide (g.placedAt + 4000000 ≤ s.now) && !(g.chosenFor .slice)
    && (match s.task? g.task with
      | some k => !k.persistent && stuck k.cls
      | none => false)
  .next (due.foldl (fun s g => s.choose .slice g) s)

/-- A bubble slot closes (R95): its fill gangs are evicted, and a predicted slot is spent. -/
def State.closeBubble (s : State) (c : Nat) : State :=
  let s := s.mapCluster c fun k => { k with bubble := { k.bubble with isOpen := false, valid := false } }
  let fill := (s.residents c []).filter fun g => ((s.task? g.task).map Task.fillClass).getD false
  fill.foldl (fun s g => s.choose .bubble g) s

/-- BUBBLE_SLOT_CLOSE (R95): every open slot whose time is over. -/
def execBubbleSlotClose (s : State) : Result :=
  .next ((upto Config.clusters).foldl (fun s c =>
    let b := (s.cluster c).bubble
    if b.isOpen ∧ b.start + b.len ≤ s.now then s.closeBubble c else s) s)

/-- BUBBLE_SLOT_OPEN (R95): every valid slot whose start has come and whose end has not. -/
def execBubbleSlotOpen (s : State) : Result :=
  .next ((upto Config.clusters).foldl (fun s c =>
    let b := (s.cluster c).bubble
    if b.valid ∧ !b.isOpen ∧ b.start ≤ s.now ∧ s.now < b.start + b.len then
      s.mapCluster c fun k => { k with bubble := { k.bubble with isOpen := true } }
    else s) s)

/-- Whether a list of numbers agree within `p` percent: their spread is at most `p` percent of the lowest. What the percentage is
of, the manual does not say; the choice is the model's (log 143). -/
def agree (p : Nat) (l : Nats) : Bool :=
  match l with
  | [] => true
  | x :: t => let lo := t.foldl min x; let hi := t.foldl max x; decide ((hi - lo) * 100 ≤ p * lo)

/-- An idle interval is observed (R94): with eight of agreeing periods and lengths behind it, the next slot is published. The
next beginning that it predicts is the last one plus the mean of the seven periods, a choice of the model's (log 143). -/
def Bubble.observe (b : Bubble) (start len : Nat) : Bubble :=
  if len < 20000 then b
  else
    let idles := (b.idles ++ [(start, len)]).drop ((b.idles.length + 1) - 8)
    let starts := idles.map (·.1)
    let periods := (starts.zip (starts.drop 1)).map fun x => x.2 - x.1
    let b : Bubble := { b with idles := idles }
    let ok := decide (idles.length = 8) && agree 2 periods && agree 10 (idles.map (·.2))
    let short := (idles.map (·.2)).foldl min len
    let period := (nth 0 starts 7 - nth 0 starts 0) / 7
    if b.host ∨ b.isOpen ∨ !ok then b else { b with start := start + period, len := short - 5000, valid := true }

/-- SLOT_PREDICTION (R94): the idle interval that the cluster has seen end is observed. -/
def execSlotPrediction (c start len : Nat) (s : State) : Result :=
  .next (s.mapCluster c fun k =>
    let b := k.bubble
    if b.seen = some (start, len) then { k with bubble := ({ b with seen := none } : Bubble).observe start len } else k)

end Sys2Proof.Machine
end

