-- ==== Sys2Proof/Machine/System.lean ====
section
/-! DEFINITION. Anytime passes and system, opcodes 0xD0–0xDA (R422–R435). -/

namespace Sys2Proof.Machine

/-! ### Passes (R424–R426) -/

/-- The path's marker that its POUR has arrived. -/
def atPour : Nat := 16
/-- The path's marker that its SEAL has arrived. -/
def atSeal : Nat := 17

/-- The version directory of the issuing wave's anytime task; 0x01 otherwise (R422). -/
def State.passDir (s : State) (e : Env) : Except Flt (Task × Directory × Gang) :=
  if e.handler then .error badField
  else match s.task? e.task, s.dir? e.task, s.myGang e with
    | some k, some d, some g => if k.anytime then .ok (k, d, g) else .error badField
    | _, _, _ => .error badField

/-- A wave has arrived when each of its live slices has (R130). -/
def Wave.allIn (w : Wave) (m : BitVec 8) : Bool := w.liveSlices.all fun i => bitOf m.toNat i

/-- The lowest FREE slot of a directory. -/
def Directory.freeSlot (d : Directory) : Option Nat := (upto d.slots.length).find? fun i => (nth {} d.slots i).state == .free

/-- A gang that has arrived at POUR joins the open pass, opening it if it is the first (R424); the state stays when it
must wait. -/
def State.joinPass (s : State) (t g : Nat) : State :=
  match s.gang? t g, s.dir? t with
  | some x, some d =>
    if !(x.waves.all fun w => w.finished || w.allIn w.pourMask) then s
    else
      let join := fun (s : State) (d : Directory) (i : Nat) =>
        s.mapGang t g fun y =>
          let ws : List Wave := y.waves.map fun w => { w with pourMask := 0 }
          { y with waves := ws, joined := true, passNo := d.pass
                   slotBase := d.base + BitVec.ofNat 64 (i * d.slotBytes) }
      match d.openSlot with
      | some i => if x.sealedBit then s else join s d i
      | none =>
        match d.freeSlot with
        | none => s
        | some i =>
          let d' := { d with pass := d.pass + 1, openSlot := some i
                             slots := setNth d.slots i { nth {} d.slots i with state := .filling } }
          join ((s.mapDir t fun _ => d').forgetTrail d.ctx (d.base.toNat + i * d.slotBytes) (d.slotBytes / 64)) d' i
  | _, _ => s

/-- The issuing wave. -/
def State.myWave (s : State) (e : Env) : Wave := (s.wave? e.ref).getD {}

/-- The path's slices as a mask. -/
def Env.sliceMask (e : Env) : BitVec 8 := BitVec.ofNat 8 (maskOf e.pathSlices)

/-- Mark, or unmark, the path as arrived. -/
def State.mark (s : State) (e : Env) (b : Option Nat) : State := s.mapPath (e.ref, e.p) fun p => { p with barrier := b }

/-- POUR (R424). -/
def execPour (d : Opd) (s : State) : Result :=
  issue 0xD0 s fun e => do
    let _ ← s.passDir e
    let dd ← e.stDst d 2 false
    let s := if e.path.barrier = some atPour then s
      else (s.resumeWave e.ref fun w => { w with pourMask := w.pourMask ||| e.sliceMask }).mark e (some atPour)
    let s := s.joinPass e.task e.gang
    if (s.myWave e).pourMask &&& e.sliceMask ≠ 0 then return .wait s .pour
    let base := ((s.myGang e).map (·.slotBase)).getD 0
    let s := (s.mark e none).mapPath (e.ref, e.p) fun p => { p with inPass := true }
    goOn ((s.acquired e 5).write e (e.allWrites dd 2 base.toNat)) 0

/-- Nothing of a queue runs any more: its operations are performed, or it has stopped behind a fence (R37, R248). -/
def LadleQueue.still (q : LadleQueue) : Bool := q.ops == [] || (q.tl.fenced && q.stopped.isSome)

/-- Every write of a gang that precedes its SEALs is performed, at fabric scope, its queues' ladle operations among them
(R227, R425). -/
def State.gangWritten (s : State) (g : Gang) : Bool :=
  g.ladle.all LadleQueue.still &&
    s.ops.all fun o => (o.isLoad && !o.atomic) || o.ended || refGang o.wave != some (g.task, g.index)
      || (o.cxl == [] && o.remote == [] && o.held == [])

/-- The pass seals as one step at the task record (R425). -/
def State.sealPass (s : State) (t : Nat) : State :=
  match s.task? t, s.dir? t with
  | some k, some d =>
    let gs := s.gangsOf t
    match d.openSlot with
    | none => s
    | some i =>
      if gs.length ≠ k.gangCount ∨ !(gs.all (·.sealedBit)) then s
      else
        let grade := (leastOf (gs.map (·.grade))).getD 0
        let retired : List VSlot := match d.latest with
          | none => d.slots
          | some (j, _, _) =>
            let x : VSlot := nth {} d.slots j
            setNth d.slots j { x with state := if x.pins = 0 then .free else .draining }
        let d' := { d with
          slots := setNth retired i { nth {} retired i with state := .full, version := d.pass }
          latest := some (i, d.pass, grade), openSlot := none }
        let s := s.mapDir t fun _ => d'
        { s with gangs := s.gangs.map fun g => if g.task == t then { g with sealedBit := false, joined := false } else g }
  | _, _ => s

/-- A gang whose waves have all arrived at SEAL, and whose writes are performed, sets its seal bit (R425). -/
def State.sealGang (s : State) (t g : Nat) : State :=
  match s.gang? t g with
  | none => s
  | some x =>
    if !(x.waves.all fun w => w.finished || w.allIn w.sealMask) || !(s.gangWritten x) then s
    else
      let grade := (leastOf (x.waves.filterMap (·.sealGrade))).getD 0
      let ws : List Wave := x.waves.map fun w => { w with sealMask := 0, sealGrade := none }
      (s.setGang { x with waves := ws, sealedBit := true, grade := grade }).sealPass t

/-- SEAL (R425). -/
def execSeal (a : Opd) (s : State) : Result :=
  issue 0xD1 s fun e => do
    let (k, d, g) ← s.passDir e
    let (x, ls) ← e.slitSrc a e.lits
    let arrived := e.path.barrier == some atSeal
    let grade ← if arrived then .ok 0 else e.readLow 1 x
    if !arrived && (!g.joined || g.sealedBit || d.openSlot.isNone) then throw badField
    let low := match d.latest with
      | some (_, _, v) => !k.limits.lower && decide (grade < v)
      | none => false
    if !arrived && low then throw { code := 0x51 }
    let s := if arrived then s
      else
        let s := s.resumeWave e.ref fun w =>
          { w with sealMask := w.sealMask ||| e.sliceMask, sealGrade := some (min grade (w.sealGrade.getD grade)) }
        (s.mark e (some atSeal)).mapPath (e.ref, e.p) fun p => { p with inPass := false }
    let s := if (s.myWave e).sealMask &&& e.sliceMask = 0 then s else s.sealGang e.task e.gang
    if (s.myWave e).sealMask &&& e.sliceMask ≠ 0 then return .wait s .seal
    goOn (s.mark e none) (e.used ls)

/-- An STQ or a TST that a path stands at, in the middle of which a quench may find it (R107). -/
def cuttable (i : Instr) (s : State) : Option Result :=
  match i with
  | .stq d a b => some (execStq d a b s)
  | .tst t a b => some (execTst t a b s)
  | _ => none

/-- A path of a quenched task is, where the device so chooses, in the middle of the store that it stands at (R107, R229): part of
it is performed, and a fault of it is not raised (R109). -/
def State.cutPath (s : State) (x : WaveRef × Nat) : State :=
  let p := s.pathAt x
  match p.meets with
  | none => s
  | some i =>
    match cuttable i { s with cur := some x, cut := true, fresh := s.fresh + 1 } with
    | some (.next t) =>
      if p.state = .run ∧ p.clause.isSome ∧ Config.freeChoice s.fresh ∧ (t.pathAt x).wait ≠ .fault then { t with cur := none, cut := false }
      else s
    | _ => s

/-- The stores that a quench of a task cuts. -/
def State.cutWaves (s : State) (t : Nat) : State :=
  ((s.gangsOf t).filter fun g => g.resident && g.kill.isNone && !g.halted && g.saved.isNone).foldl (fun s g =>
    (upto g.waves.length).foldl (fun s i => (upto 8).foldl (fun s p => s.cutPath (.user t g.index i, p)) s) s) s

/-- A quench reaches a task (R107). -/
def State.quench (s : State) (t status code : Nat) : State :=
  if (s.task? t).any fun k => k.status == 0 && k.quench.isNone then (s.cutWaves t).startQuench t status code else s

/-- DONE (R426, R109): the quench steps with status DONE. -/
def execDoneTask (s : State) : Result :=
  issue 0xD5 s fun e => do
    let (_, _, _) ← s.passDir e
    return .stop (s.quench e.task stDone 0)

/-! ### Reading versions (R423, R427–R430) -/

/-- A task reference: a task of this package in the issuing context, or of another package. -/
inductive TaskRef where
  | here (t : Nat)
  | there (pkg t : Nat)
deriving DecidableEq, Repr

/-- A tref field: a scalar pair, or ZERO (R422). -/
def Env.trefSrc (e : Env) (o : Opd) : Except Flt (Option Src) :=
  match o with
  | .zero => .ok none
  | .s _ => (e.src o 2 []).map fun x => some x.1
  | _ => .error badOperand

/-- Read a task reference pair; ZERO names the issuing task (R422, R423). -/
def State.tref (s : State) (e : Env) (o : Option Src) : Except Flt TaskRef :=
  match o with
  | none => .ok (.here e.task)
  | some x => do
    let v ← e.readLow 2 x
    let hi := v / 2 ^ 32
    let rem := bitOf hi 31
    let pkg := bitsOf hi 9 0
    if bitsOf hi 30 10 ≠ 0 ∨ (!rem ∧ pkg ≠ 0) then throw badOperand
    .ok (if rem ∧ pkg ≠ s.ownId then .there pkg (v % 2 ^ 32) else .here (v % 2 ^ 32))

/-- The directory of a task of the issuing context. -/
def State.versionDir (s : State) (ctx t : Nat) : Option Directory := (s.dir? t).filter fun d => d.ctx == ctx

/-- Words as bytes. -/
def wordBytesOf (l : Nats) : Bytes := l.flatMap (leBytes 4)

/-- The first register of a destination. -/
def Dst.reg? : Dst → Option Nat
  | .vec r => some r
  | .sca r => some r
  | .none => Option.none

/-- The answer of another package that names a fenced package or one that the domain does not name (R423). -/
def State.knownAnswer (s : State) (pkg : Nat) (fenced unknown : Nats) : Option Nats :=
  if s.fencedPkgs.contains pkg then some fenced else if s.packages.contains pkg then none else some unknown

/-- Send a question about a task to another package (R423): the operation that awaits the reply, which fills `n` registers of
`dd`, and which a package that is fenced meanwhile answers with `fenced`. -/
def State.ask (s : State) (e : Env) (pkg : Nat) (q : RemoteKind) (dd : Dst) (n : Nat) (fenced : Nats) (waits : Bool) : State × Nat :=
  let id := s.nextId
  let fill := dd.reg?.map fun r => ({ vector := false, reg := r, bytes := 4 * n, units := e.pathSlices, data := [] } : Fill)
  let (s', r) := ({ s with nextId := id + 1 } : State).sendRequest
    { id := 0, since := 0, pkg := pkg, off := 0, kind := q, data := wordBytesOf fenced, opId := id }
  ({ s' with ops := s'.ops ++ [{ e.op s with fill := fill, remote := [r], isLoad := true, ask := waits }] }, id)

/-- Write the words of an answer. -/
def State.answerWords (s : State) (e : Env) (dd : Dst) (n : Nat) (l : Nats) : State :=
  s.write e (e.allWrites dd n (joinWords (l.map fun v => BitVec.ofNat 32 v)))

/-- Ask another package about a task, and hold the path until the reply is there (R428, R430). -/
def State.askPackage (s : State) (e : Env) (pkg : Nat) (q : RemoteKind) (dd : Dst) (n lits : Nat) (fenced unknown : Nats) : Except Flt Out :=
  match s.knownAnswer pkg fenced unknown with
  | some l => goOn (s.answerWords e dd n l) lits
  | none => let (s, id) := s.ask e pkg q dd n fenced false; .ok (.wait s (.op id))

/-- ACQV of a task on another package (R423, R427): the path waits as it does for one of this package, at an instruction
boundary, and issues again until the reply is there. -/
def State.acquireThere (s : State) (e : Env) (pkg : Nat) (q : RemoteKind) (dd : Dst) (lits : Nat) (fenced unknown : Nats) : Except Flt Out :=
  match s.ops.find? fun o => o.ask && o.wave == e.ref && o.path == e.p && o.pc == e.pc with
  | some o => if o.ready then goOn ((s.completeOp o.id).acquired e 5) lits else .ok (.wait s .acqv)
  | none => match s.knownAnswer pkg fenced unknown with
    | some l => goOn (s.answerWords e dd 6 l) lits
    | none => .ok (.wait (s.ask e pkg q dd 6 fenced true).1 .acqv)

/-- What ACQV decides about a directory (R427): the state and the six words, or `none` while it waits. -/
def State.acquire (s : State) (d : Directory) (least : Nat) : Option (State × Nats) :=
  let none32 := 0xFFFFFFFF
  match d.latest with
  | some (i, v, g) =>
    let x : VSlot := nth {} d.slots i
    if least ≤ g then
      if x.pins = 65535 then some (s, [3, v, g, none32, 0, 0])
      else
        let base := d.base.toNat + i * d.slotBytes
        some (s.mapDir d.task fun y => { y with slots := setNth y.slots i { x with pins := x.pins + 1 } },
          [0, v, g, i, base % 2 ^ 32, base / 2 ^ 32])
    else if d.status ≠ 0 then some (s, [1, v, g, none32, 0, 0])
    else none
  | none => if d.status ≠ 0 then some (s, [1, none32, 0, none32, 0, 0]) else none

/-- What ACQV finds of a task of a context here (R427), or `none` while it waits. -/
def State.acqvHere (s : State) (ctx t least : Nat) : Option (State × Nats) :=
  match s.versionDir ctx t with
  | none => some (s, [2, 0xFFFFFFFF, 0, 0xFFFFFFFF, 0, 0])
  | some v => s.acquire v least

/-- The register words of a list as one number. -/
def numberOf (l : Nats) : Nat := joinWords (l.map fun v => BitVec.ofNat 32 v)

/-- ACQV (R427). -/
def execAcqv (d a b : Opd) (s : State) : Result :=
  issue 0xD2 s fun e => do
    let r ← groupSrc d 8
    let dd : Dst := match r with
      | .sca k => .sca k
      | _ => .none
    let x ← e.trefSrc a
    let (y, ls) ← e.slitSrc b e.lits
    let t ← s.tref e x
    let least ← e.readLow 1 y
    let out := fun (s : State) (l : Nats) => goOn (s.write e (e.allWrites dd 6 (numberOf l))) (e.used ls)
    match t with
    | .there pkg t =>
      s.acquireThere e pkg (.version 0 e.ctx t least) dd (e.used ls) [4, 0xFFFFFFFF, 0, 0xFFFFFFFF, 0, 0] [2, 0xFFFFFFFF, 0, 0xFFFFFFFF, 0, 0]
    | .here t =>
      match s.acqvHere e.ctx t least with
      | some (s', l) => out (if nth 0 l 0 = 0 then s'.acquired e 5 else s') l
      | none => return .wait s .acqv

/-- The slot of a version that RELV may release (R428). -/
def Directory.pinned (d : Directory) (v : Nat) : Option Nat :=
  (upto d.slots.length).find? fun i =>
    let x : VSlot := nth {} d.slots i
    (x.state == .full || x.state == .draining) && x.version == v && x.pins != 0

/-- One pin less; a drained slot becomes FREE (R428). -/
def VSlot.release (x : VSlot) : VSlot :=
  { x with pins := x.pins - 1, state := if x.state = .draining ∧ x.pins = 1 then .free else x.state }

/-- RELV of a version of a task of a context here (R428): what it leaves and its status. -/
def State.relvHere (s : State) (ctx t ver : Nat) : State × Nat :=
  match s.versionDir ctx t with
  | none => (s, 2)
  | some v => match v.pinned ver with
    | none => (s, 1)
    | some i => (s.mapDir t fun y => { y with slots := setNth y.slots i (nth {} y.slots i).release }, 0)

/-- RELV (R428). -/
def execRelv (d a b : Opd) (s : State) : Result :=
  issue 0xD3 s fun e => e.held s (litsOf b 1) do
    let dd ← e.stDst d 1 true
    let x ← e.trefSrc a
    let (y, ls) ← e.slitSrc b e.lits
    let t ← s.tref e x
    let ver ← e.readLow 1 y
    let out := fun (s : State) (st : Nat) => goOn (s.write e (e.allWrites dd 1 st)) (e.used ls)
    if !(s.quiet e 5) then return .wait s .relv
    match t with
    | .there pkg t => s.askPackage e pkg (.version 1 e.ctx t ver) dd 1 (e.used ls) [2] [2]
    | .here t =>
      let (s, st) := s.relvHere e.ctx t ver
      out s st

/-- The word of D + 3 (R430). -/
def Directory.word (d : Directory) (status : Nat) : Nat :=
  (match d.openSlot with
    | some i => 2 ^ 31 + i * 2 ^ 28
    | none => 0)
  + (match d.latest with
    | some (i, _, _) => 2 ^ 27 + i * 2 ^ 24
    | none => 0)
  + status * 2 ^ 16 + ((upto d.slots.length).map fun i => (nth ({} : VSlot) d.slots i).state.code * 4 ^ i).sum

/-- What VSTAT reads of a task (R430). -/
def State.vstatWords (s : State) (ctx t : Nat) : Nats :=
  match s.versionDir ctx t with
  | some d => match d.latest with
    | some (_, v, g) => [v, g, d.pass, d.word d.status]
    | none => [0xFFFFFFFF, 0, d.pass, d.word d.status]
  | none => match s.task? t with
    | some k => if k.ctx = ctx ∧ !k.notified then [0xFFFFFFFF, 0, 0, k.status * 2 ^ 16] else [0xFFFFFFFF, 0, 0, 0xFF0000]
    | none => [0xFFFFFFFF, 0, 0, 0xFF0000]

/-- VSTAT (R430). -/
def execVstat (d a : Opd) (s : State) : Result :=
  issue 0xD4 s fun e => e.held s 0 do
    let r ← groupSrc d 4
    let dd : Dst := match r with
      | .sca k => .sca k
      | _ => .none
    let x ← e.trefSrc a
    let t ← s.tref e x
    match t with
    | .there pkg t => s.askPackage e pkg (.version 2 e.ctx t 0) dd 4 0 [0xFFFFFFFF, 0, 0, 0xFF0000] [0xFFFFFFFF, 0, 0, 0xFF0000]
    | .here t => goOn (s.write e (e.allWrites dd 4 (numberOf (s.vstatWords e.ctx t)))) 0

/-! ### Mailbox and markers (R431, R432) -/

/-- MBOX with B = 0x00: an EVENT of kind 5 (R431). -/
def State.programMessage (s : State) (e : Env) (quad : Nat) : State × Nat :=
  if ((s.ctx? e.ctx).bind (·.session)).isNone then (s, 1)
  else
    let pay := leBytes 1 5 ++ leBytes 7 0 ++ leBytes 8 e.pc.toNat ++ leBytes 4 e.task ++ leBytes 4 e.gang ++ leBytes 8 0
      ++ leBytes 16 quad
    (s.event e.ctx (s.header e.ref e.p) pay, 0)

/-- MBOX with B = 0x01: a message of a handler wave (R431). -/
def State.rawMessage (s : State) (ctx : Nat) (m : Bytes) : State × Nat :=
  let ty := byteAt m 0
  if ty = 0x40 then
    (if ((s.ctx? ctx).bind (·.session)).isNone then (s, 1) else (s.ringPut ctx m, 0))
  else if 0x81 ≤ ty ∧ ty ≤ 0x8A then
    match (s.ctx? ctx).map (·.mailbox) with
    | some (q :: _) =>
      ((s.mapCtx ctx fun k => { k with mailbox := k.mailbox.drop 1 }).sendRecord ctx 0 q.notify m true, 0)
    | _ => (s, 1)
  else (s, 2)

/-- MBOX (R431). -/
def execMbox (d a : Opd) (r : Bool) (s : State) : Result :=
  issue 0xD6 s fun e => do
    if r && !e.handler then throw { code := 0x05 }
    let dd ← e.stDst d 1 true
    let put := fun (s : State) (st lits : Nat) => goOn (s.write e (e.allWrites dd 1 st)) lits
    if r then
      let (x, ls) ← e.pairSrc a true e.lits
      let va ← e.readLow 2 x
      if va % 64 ≠ 0 then throw { code := 0x12, addr := BitVec.ofNat 64 va }
      match s.span e.who .load va 64 with
      | .error c => throw { code := c, addr := BitVec.ofNat 64 va }
      | .ok sp =>
        if !(s.quiet e 5) then return .wait s .fence
        let (s', st) := s.rawMessage e.ctx (s.readSpan e.who sp)
        put s' st (e.used ls)
    else
      let x ← groupSrc a 4
      let q ← e.readLow 4 x
      if !(s.quiet e 5) then return .wait s .fence
      let (s', st) := s.programMessage e q
      put s' st 0

/-- Write a profiling record, or drop and count it (R271). -/
def State.profPut (s : State) (ctx : Nat) (bs : Bytes) : State :=
  let p : Prof := s.profs.get {} ctx
  let dropped := { s with profs := s.profs.set {} ctx { p with drop := min (p.drop + 1) 0xFFFF } }
  let i := p.written % max p.size 1
  if p.size = 0 ∨ p.full.contains i then dropped
  else match s.agentPut { ctx := ctx } (p.buffer.toNat + 128 * i) bs with
    | .ok s' => { s' with profs := s'.profs.set {} ctx { p with written := p.written + 1, full := p.full ++ [i] } }
    | .error _ => dropped

/-- PMARK (R432). -/
def execPmark (m : Nat) (s : State) : Result :=
  issue 0xD7 s fun e =>
    if !(s.profs.get {} e.ctx).en then goOn s 0
    else
      let slot := match e.ref with
        | .handler _ => 16
        | _ => nth 0 (((s.myGang e).map (·.slots)).getD []) (refWave e.ref)
      goOn (s.profPut e.ctx (leBytes 8 s.now ++ leBytes 2 0xFFFF ++ leBytes 2 m ++ leBytes 4 e.task ++ leBytes 8 e.pc.toNat
        ++ leBytes 1 e.group ++ leBytes 1 e.p ++ leBytes 1 slot ++ leBytes 101 0)) 0

/-! ### Privileged control (R433–R435) -/

/-- The gangs of a context. -/
def State.ctxGangs (s : State) (c : Nat) : List Gang :=
  s.gangs.filter fun g => ((s.task? g.task).map (·.ctx)) == some c

/-- A gang's task is idempotent: it has no image (R116). -/
def State.imageless (s : State) (g : Gang) : Bool := ((s.task? g.task).map Task.idempotent).getD true

/-- Choose the gangs of a context for a checkpoint: the resident ones, and those WAITING with an image, which is theirs wherever
they are placed meanwhile (R118). -/
def State.chooseCkpt (s : State) (c : Nat) : State :=
  ((s.ctxGangs c).filter fun g => !(s.imageless g)).foldl (fun s g =>
    if g.state = .waiting ∧ g.saved.isSome ∧ !(g.chosenFor .ckpt) then s.setGang { g with chosen := g.chosen ++ [(.ckpt, s.now)] }
    else s.choose .ckpt g) s

/-- A gang that has been chosen for a checkpoint and is not yet taken. -/
def Gang.untaken (g : Gang) : Bool :=
  g.resident && g.chosenFor .ckpt && g.saved.isNone && g.kill.isNone

/-- The gangs of a checkpoint's image: those taken and those WAITING with one (R118). -/
def State.ckptGangs (s : State) (c : Nat) : List Gang :=
  (s.ctxGangs c).filter fun g => g.saved.isSome && g.state != .retired

/-- A gang's record in a checkpoint image (R118). -/
def State.ckptRecord (s : State) (gen : Nat) (g : Gang) : Bytes :=
  let body := Config.checkpointBody g.task g.index gen
  let f := fun (h : Task → Nat) => leBytes 1 (s.ofTask g h)
  leBytes 4 g.task ++ leBytes 4 g.index ++ f Task.groups ++ f Task.waves ++ f Task.blocks
    ++ leBytes 1 ((g.saved == some true).toNat) ++ leBytes 8 (32 + body.length) ++ leBytes 12 0 ++ body

/-- A checkpoint image (R118): its CRC is over the whole image with the field read as zero. -/
def State.ckptImage (s : State) (c gen : Nat) (gs : List Gang) : Bytes :=
  let recs := gs.flatMap (s.ckptRecord gen)
  let head := leBytes 4 0x4B434C4D ++ leBytes 2 1 ++ leBytes 1 c ++ leBytes 1 0 ++ leBytes 8 gen ++ leBytes 8 s.now
    ++ leBytes 4 gs.length ++ leBytes 4 0 ++ leBytes 8 (64 + recs.length)
  let tail := leBytes 20 0 ++ recs
  head ++ leBytes 4 (crc32c (head ++ leBytes 4 0 ++ tail)) ++ tail

/-- The gangs taken for a checkpoint go on (R118, R433). -/
def State.resumeTaken (s : State) (c : Nat) : State :=
  (s.ctxGangs c).foldl (fun s g =>
    if g.chosenFor .ckpt then
      s.setGang { g with chosen := g.chosen.filter (·.1 != .ckpt), saved := if g.resident then none else g.saved }
    else s) s

/-- The operations of a gang's matrix operations, which its image holds with them (R114). -/
def State.seqOps (s : State) (g : Gang) : List PendingOp := s.ops.filter fun o => g.seq.any (·.opId == o.id)

/-- The images of gangs as they return, draws counted. -/
def State.snapshots (s : State) : List Gang → State × List GangImage
  | [] => (s, [])
  | g :: t =>
    let ops := s.seqOps g
    match g.state, s.task? g.task with
    | .waiting, _ => let (s, l) := s.snapshots t; (s, { gang := g, ops := ops } :: l)
    | _, none => let (s, l) := s.snapshots t; (s, { gang := g, ops := ops } :: l)
    | _, some k =>
      let (x, s) := s.image k g (g.halted || !g.atPp)
      let (s, l) := s.snapshots t
      (s, { gang := x, ops := ops } :: l)

/-- Store an image in 64-byte pieces: the state, or the fault of the first piece that has one. -/
def State.putPieces (s : State) (w : Who) (va : Nat) : List Bytes → State × Option Nat
  | [] => (s, none)
  | b :: t =>
    match s.agentPut w va b with
    | .error c => (s, some c)
    | .ok s' => s'.putPieces w (va + b.length) t

/-- Free bytes, counted. -/
def State.freeBytes (s : State) (n : Nat) : State × Bytes :=
  ({ s with fresh := s.fresh + n }, (upto n).map fun i => Config.freeByte (s.fresh + i))

/-- Write the image once every chosen gang is taken: the state, status and generation (R118, R433). -/
def State.writeCkpt (s : State) (e : Env) (va cap : Nat) : State × Nat × Nat :=
  let gen := ((s.ctx? e.ctx).map (·.generation)).getD 0 + 1
  let gs := s.ckptGangs e.ctx
  let img := s.ckptImage e.ctx gen gs
  if cap < img.length then
    let (s, junk) := s.freeBytes cap
    ((s.putPieces e.who va (pieces 64 junk.length junk)).1, 1, gen - 1)
  else
    match s.putPieces e.who va (pieces 64 img.length img) with
    | (s, some _) => (s, 2, gen - 1)
    | (s, none) =>
      let (s, snaps) := s.snapshots gs
      (s.mapCtx e.ctx fun k => { k with generation := gen, checkpoint := some (BitVec.ofNat 64 va, img.length, gen, snaps) }, 0, gen)

/-- CKPT (R433). -/
def execCkpt (d a b : Opd) (s : State) : Result :=
  issue 0xD8 s fun e => do
    let dd ← e.stDst d 2 false
    let (x, ls) ← e.pairSrc a true e.lits
    let (y, ls) ← e.slitSrc b ls
    let va ← e.readLow 2 x
    let cap ← e.readLow 1 y
    if va % 64 ≠ 0 then throw { code := 0x12, addr := BitVec.ofNat 64 va }
    let out := fun (s : State) (st gen : Nat) => goOn (s.write e (e.allWrites dd 2 (st + gen % 2 ^ 32 * 2 ^ 32))) (e.used ls)
    match s.ctx? e.ctx with
    | none => out s 2 0
    | some c =>
      let mine := e.path.wait == .privileged
      if c.ckptBusy && !mine then out s 3 c.generation
      else
        let s := if mine then s else (s.chooseCkpt e.ctx).mapCtx e.ctx fun k => { k with ckptBusy := true }
        if (s.ctxGangs e.ctx).any Gang.untaken then return .wait s .privileged
        let (s, st, gen) := s.writeCkpt e va (65536 * cap)
        out ((s.resumeTaken e.ctx).mapCtx e.ctx fun k => { k with ckptBusy := false }) st gen

/-- The task and gang of an operand pair, in the handler's context: the gang, made WAITING where the task has not
placed it yet (R79, R434). -/
def State.gangNamed (s : State) (ctx v : Nat) : Option Gang :=
  match s.task? (v % 2 ^ 32) with
  | none => none
  | some k =>
    let i := v / 2 ^ 32
    if k.ctx ≠ ctx ∨ k.status ≠ 0 then none
    else match s.gang? k.id i with
      | some g => if g.state = .retired then none else some g
      | none => if i < k.gangCount ∧ k.quench.isNone ∧ k.kill.isNone then some { task := k.id, index := i } else none

/-- Every wave and the caster thread of a gang count as stopped (R434, R461). -/
def State.gangStopped (s : State) (g : Gang) : Bool :=
  g.waves.all (fun w => s.atBoundary w && w.paths.all fun p => p.state == .free || p.state == .halted || p.wait == .fault)
    && s.casterStopped g

/-- Halt a gang, or record the halt in its image (R120, R434). -/
def State.haltNamed (s : State) (g : Gang) : State :=
  if g.state = .waiting then
    let x := g.halt
    if (s.gang? g.task g.index).isSome then s.setGang x else { s with gangs := s.gangs ++ [x] }
  else s.haltGang g.task g.index

/-- HALTB (R434). -/
def execHaltb (d a : Opd) (s : State) : Result :=
  issue 0xD9 s fun e => do
    let dd ← e.stDst d 1 true
    let (x, ls) ← e.pairSrc a true e.lits
    let v ← e.readLow 2 x
    let out := fun (s : State) (st : Nat) => goOn (s.write e (e.allWrites dd 1 st)) (e.used ls)
    match s.gangNamed e.ctx v with
    | none => out s 1
    | some g =>
      let s := s.haltNamed g
      if g.state = .waiting then out s 2
      else if s.gangStopped ((s.gang? g.task g.index).getD g) then
        out (s.mayEvent e.ctx (s.header (.user g.task g.index 0) 0)
          (eventPayload 2 0 (s.pathAt (.user g.task g.index 0, 0)).pc.toNat 0)) 0
      else return .wait s .privileged

/-- The parts of a scrub (R435): tile and bank moulds become FREE with phase 0. -/
def Gang.scrubParts (g : Gang) (scratch banks tiles : Bool) : Gang :=
  if !(scratch || banks || tiles) then g
  else
    let g := if tiles then { g with tiles := freshTiles g.tiles.length } else g
    let g := if banks then { g with banks := List.replicate g.banks.length {} } else g
    let g := if scratch then { g with scratch := [], scratchPoison := [], tags := [] } else g
    { g with moulds := [] }

/-- SCRUB (R435). -/
def execScrub (d a : Opd) (x y z : Bool) (s : State) : Result :=
  issue 0xDA s fun e => do
    let dd ← e.stDst d 1 true
    let (o, ls) ← e.pairSrc a true e.lits
    let v ← e.readLow 2 o
    let out := fun (s : State) (st : Nat) => goOn (s.write e (e.allWrites dd 1 st)) (e.used ls)
    match (s.gangNamed e.ctx v).bind fun g => s.gang? g.task g.index with
    | none => out s 2
    | some g =>
      if !g.halted then out s 1
      else if !(g.ladle.all LadleQueue.still) then return .wait s .privileged
      else out (s.setGang (g.scrubParts x y z)) 0

end Sys2Proof.Machine
end

