-- ==== Sys2Proof/Machine/Sched.lean ====
section
/-! DEFINITION. The scheduler (R80–R85, R95, R110), in-field tests (R99–R102), and the limits and quench of anytime
tasks (R105–R109). -/

namespace Sys2Proof.Machine

/-! ### The order of service (R80, R81) -/

/-- The class in which a task is tried (R81). -/
def Task.tried (t : Task) : Nat := if t.aged then 0 else t.cls

/-- A queue's charge with what its resident gangs have run up so far (R80). -/
def State.chargeNow (s : State) (q : Nat) : Nat :=
  let mine := fun (g : Gang) => (s.task? g.task).any fun k => k.queue == q && (s.queue q).bound == some k.ctx
  (s.queue q).charge + ((s.gangs.filter fun g => g.resident && mine g).map fun g => s.runUp g (s.queue q)).sum

/-- Task `a` is tried before task `b`; tasks that tie stay in the order of their starts (R80, R81). -/
def State.triedBefore (s : State) (a b : Task) : Bool :=
  let wa := (s.queue a.queue).weight
  let wb := (s.queue b.queue).weight
  if a.tried ≠ b.tried then decide (a.tried < b.tried)
  else if a.aged || b.aged then decide (a.startedAt < b.startedAt)
  else if wa ≠ 0 ∧ wb = 0 then true
  else if wa = 0 ∨ wb = 0 then decide (wa = wb ∧ a.startedAt < b.startedAt)
  else decide (s.chargeNow a.queue * wb < s.chargeNow b.queue * wa)

/-- Insert a task behind those tried no later than it. -/
def State.insertTask (s : State) (t : Task) : List Task → List Task
  | [] => [t]
  | x :: l => if s.triedBefore t x then t :: x :: l else x :: s.insertTask t l

/-- Tasks with a WAITING gang, in the order in which they are tried (R80, R81). -/
def State.tryOrder (s : State) : List Task :=
  (s.tasks.filter fun t => t.status == 0 && t.kill.isNone && t.quench.isNone && (s.nextWaiting t).isSome).foldl
    (fun l t => s.insertTask t l) []

/-- A persistent task that is the first one tried in its class holds placement back from now on, until it is admitted (R82). -/
def State.holdBack (s : State) : State :=
  let l := s.tryOrder
  let first := fun (t : Task) => (l.find? fun x => x.tried == t.tried).any fun x => x.id == t.id
  (l.filter fun t => t.persistent && t.heldSince.isNone && first t).foldl
    (fun s t => s.mapTask t.id fun x => { x with heldSince := some s.now }) s

/-- A task's gangs are not newly placed while a persistent task holds placement back (R82): those of its class and of the lower
ones, and after 10 ms any others too. Of two that hold, the earlier holds back the other. A task's class here is that of R58,
aged or not: the rule does not say which one counts, and the choice is the model's (log 142). -/
def State.heldBack (s : State) (k : Task) : Bool :=
  s.tasks.any fun h => h.id != k.id && h.status == 0 && h.kill.isNone && h.quench.isNone && (match h.heldSince with
    | none => false
    | some t => (decide (h.cls ≤ k.cls) || decide (t + 10000000 ≤ s.now))
        && (match k.heldSince with
          | none => true
          | some u => decide (t < u) || (t == u && decide (h.id < k.id))))

/-! ### Placing -/

/-- A non-fill gang placed inside an open bubble slot closes it (R94, R95). -/
def State.placeAt (s : State) (t : Task) (g : Gang) (f : Fit) : State :=
  let s' := s.placeGang t g f
  if !t.fillClass && (s.cluster f.cluster).bubble.isOpen then s'.closeBubble f.cluster else s'

/-- Place WAITING gangs of a task, up to `n` of them, each on a cluster that is eligible for it: the state, and the gang that
finds no such cluster, if one does not. -/
def State.placeNext (s : State) (t : Nat) : Nat → State × Option Gang
  | 0 => (s, none)
  | n + 1 =>
    match s.task? t with
    | none => (s, none)
    | some k => match s.nextWaiting k with
      | none => (s, none)
      | some g => match s.bestFit k g with
        | none => (s, some g)
        | some f => (s.placeAt k g f).placeNext t n

/-- The placements of a task that are tried in one step: one gang's, or those of all gangs of a persistent task, whose clusters'
caster threads bound them (R82, R83). -/
def State.tryTask (s : State) (k : Task) : State × Option Gang :=
  s.placeNext k.id (if k.persistent then 4 * Config.clusters + 1 else 1)

/-- The planes that all gangs of a task reserve at the least: on as few clusters as can hold them (R57). -/
def Task.leastPlanes (t : Task) : Nat :=
  let room := clusterRoom t.groups t.waves t.blocks t.scratch t.tiles t.banks t.planes
  t.planes * ((t.gangCount + room - 1) / max room 1)

/-- Admit a persistent task when all its gangs fit at once (R82); one whose reservation can never keep to its quota is killed
(R57, R84). -/
def State.admitPersistent (s : State) (k : Task) : Option State :=
  if k.quota < k.leastPlanes then some (s.endTask k.id stKilled 0)
  else match s.tryTask k with
    | (u, none) => some (u.mapTask k.id fun x => { x with heldSince := none })
    | _ => none

/-- The open bubble slot whose fill gangs stand in the way of a non-fill gang (R95). -/
def State.bubbleInWay (s : State) (t : Task) (g : Gang) : Option Nat :=
  if t.fillClass then none
  else s.maskedClusters.find? fun c =>
    (s.cluster c).bubble.isOpen &&
      (let ign := ((s.residents c []).filter fun x => ((s.task? x.task).map Task.fillClass).getD false).map fun x => (x.task, x.index)
       (s.fit c ign t g).any fun f => s.inQuota t f ign)

/-- The clusters that the non-fill gangs of a task want: those they would be placed on now, and one whose slot's fill gangs stand
in their way (R95). -/
def State.wants (s : State) (t : Task) : Nats :=
  if t.fillClass ∨ s.heldBack t then []
  else
    let (u, g) := s.tryTask t
    ((u.gangsOf t.id).filter fun x => x.resident && !((s.gang? x.task x.index).any Gang.resident)).map (·.cluster)
      ++ (g.bind (u.bubbleInWay t)).toList

/-- The place that the next gang of a task gets: a fill gang none that a waiting non-fill gang wants (R95). -/
def State.placeFor (s : State) (k : Task) (g : Gang) : Option Fit :=
  match s.bestFit k g with
  | none => none
  | some f =>
    if k.fillClass then
      let wanted := s.tryOrder.flatMap s.wants
      s.chooseFit ((s.fits k g).filter fun x => s.inQuota k x && !(wanted.contains x.cluster))
    else some f

/-- Try tasks in order. -/
def State.tryPlace (s : State) : List Task → Option State
  | [] => none
  | k :: l =>
    let here := if s.heldBack k then none
      else if k.persistent then s.admitPersistent k
      else (s.nextWaiting k).bind fun g => (s.placeFor k g).map fun f => s.placeAt k g f
    here.orElse fun _ => s.tryPlace l

/-! ### Choosing whom to evict (R110) -/

/-- Every selection from a list. -/
def selections {α : Type} : List α → List (List α)
  | [] => [[]]
  | x :: l => let r := selections l; r ++ r.map (x :: ·)

/-- The order among selections of gangs: fewest, then lower classes, then most recently placed (R110). -/
def State.evictKey (s : State) (l : List Gang) : Nat × Nat × Nat :=
  (l.length, (l.map fun g => 3 - s.ofTask g Task.cls).sum, (l.map fun g => s.now - g.placedAt).sum)

/-- A key is smaller. -/
def keyLess (a b : Nat × Nat × Nat) : Bool :=
  decide (a.1 < b.1) || (a.1 == b.1 && (decide (a.2.1 < b.2.1) || (a.2.1 == b.2.1 && decide (a.2.2 < b.2.2))))

/-- The gangs of lower classes on one cluster whose eviction makes it eligible for a gang. -/
def State.evictSet (s : State) (t : Task) (g : Gang) : Option (List Gang) :=
  (s.maskedClusters.flatMap fun c =>
    let l := (s.residents c []).filter fun x => match s.task? x.task with
      | some k => !k.persistent && decide (t.cls < k.cls)
      | none => false
    (selections l).filter fun x =>
      let ign := x.map fun y => (y.task, y.index)
      x != [] && ((s.fit c ign t g).any fun f => s.inQuota t f ign)).foldl
      (fun (a : Option (List Gang)) x => match a with
      | none => some x
      | some y => some (if keyLess (s.evictKey x) (s.evictKey y) then x else y)) none

/-- The gangs that leave their places already. -/
def State.leaving (s : State) : List (Nat × Nat) :=
  (s.gangs.filter fun g => g.resident && (g.chosenFor .priority || g.chosenFor .bubble || g.chosenFor .slice)).map
    fun g => (g.task, g.index)

/-- A gang finds room as soon as the gangs that leave have left. -/
def State.roomComes (s : State) (t : Task) (g : Gang) : Bool :=
  let ign := s.leaving
  s.maskedClusters.any fun c => (s.fit c ign t g).any fun f => s.inQuota t f ign

/-- Make room for the first task with a gang that has no eligible cluster and for which no room comes yet (R95, R110). -/
def State.makeRoom (s : State) : List Task → State
  | [] => s
  | k :: l =>
    match s.tryTask k with
    | (_, none) => s.makeRoom l
    | (u, some g) =>
      if s.heldBack k ∨ u.roomComes k g then s.makeRoom l
      else match u.bubbleInWay k g with
        | some c => s.closeBubble c
        | none => match u.evictSet k g with
          | some gs => gs.foldl (fun s x => s.choose .priority x) s
          | none => s.makeRoom l

/-- GANG_PLACEMENT (R80–R85, R110): one placement, or, with none possible, the choice of gangs to evict. -/
def State.schedule (s : State) : State :=
  let s := s.holdBack
  let l := s.tryOrder
  match s.tryPlace l with
  | some s' => s'
  | none => s.makeRoom l

/-- GANG_PLACEMENT (R83). -/
def execGangPlacement (s : State) : Result := .next s.schedule

/-- AGEING (R81): every started task without a placement for 10 ms. -/
def execAgeing (s : State) : Result :=
  let old := fun (t : Task) => if t.status = 0 ∧ t.lastPlaced + 10000000 ≤ s.now ∧ (s.nextWaiting t).isSome then { t with aged := true } else t
  .next { s with tasks := s.tasks.map old }

/-! ### In-field tests (R99–R102) -/

/-- The length of a test interval in ns. -/
def State.interval (s : State) : Nat := s.testInterval * 3600000000000

/-- TEST_ATTEMPT (R99): a due attempt begins, or the test begins on a cluster that has become empty. -/
def State.testAttempt (s : State) (c : Nat) : State :=
  let t := (s.cluster c).test
  if t.running.isSome then s
  else if t.attempt.isSome then
    if s.residents c [] = [] then s.mapCluster c fun k => { k with test := { k.test with running := some s.now } } else s
  else if s.now < t.nextAt then s
  else (if t.untested then s.mapCluster c fun k => { k with test := { k.test with defer := 0 } } else s).beginAttempt c

/-- TEST_ATTEMPT (R99). -/
def execTestAttempt (c : Nat) (s : State) : Result := .next (if c < Config.clusters then s.testAttempt c else s)

/-- TEST_COMPLETE (R99, R102): 3 ms after the test began. -/
def execTestComplete (c : Nat) (pass : Bool) (s : State) : Result :=
  .next (match (s.cluster c).test.running with
    | none => s
    | some t0 =>
      if s.now < t0 + 3000000 then s
      else
        let s := s.mapCluster c fun k =>
          let t : ClusterTest := { k.test with attempt := none, running := none, nextAt := s.now + s.interval }
          { k with test := if pass then { t with untested := false, defer := 0, lastPass := s.now } else { t with failed := true } }
        if pass then s else { s with clusterMask := s.clusterMask &&& ~~~(BitVec.ofNat 128 (2 ^ c)) })

/-- Defer the attempt of a cluster (R100). -/
def State.deferTest (s : State) (c : Nat) : State :=
  let s := s.mapCluster c fun k =>
    let n := k.test.defer + 1
    let last := decide (3 ≤ n)
    { k with test := { k.test with attempt := none, defer := min n 3, untested := k.test.untested || last
                                   nextAt := s.now + (if last then s.interval else 1000000000) } }
  let back := fun (g : Gang) => if g.cluster = c then { g with chosen := g.chosen.filter (·.1 != .test) } else g
  { s with gangs := s.gangs.map back }

/-- TEST_DEFERRAL (R100): every attempt whose cluster is not empty after 100 ms. -/
def execTestDeferral (s : State) : Result :=
  .next ((upto Config.clusters).foldl (fun s c =>
    match (s.cluster c).test.attempt with
    | some t0 => if t0 + 100000000 ≤ s.now ∧ (s.cluster c).test.running.isNone ∧ s.residents c [] ≠ [] then s.deferTest c else s
    | none => s) s)

/-- A path of a gang that stands at an instruction boundary: lowest wave, then lowest path. -/
def Gang.boundaryPath (g : Gang) : Option (WaveRef × Nat) :=
  (upto g.waves.length).findSome? fun i =>
    let w : Wave := nth {} g.waves i
    ((upto 8).find? fun p =>
      let x := w.path p
      (x.state == .run || x.state == .blocked || x.state == .regang) && !x.wait.stays && w.pathSlices p != []).map
        fun p => (.user g.task g.index i, p)

/-- EVACUATION_WATCHDOG (R101): every gang that has run 1 ms of its own time during its cluster's evacuation without a
pre-emption point; time in which it is halted is not its own. -/
def execEvacuationWatchdog (s : State) : Result :=
  let due := s.gangs.filter fun g =>
    g.resident && !g.halted && g.saved.isNone && g.kill.isNone && (s.cluster g.cluster).test.attempt.isSome
      && decide (g.lastPp + 1000000 ≤ s.now) && !g.atPp
  .next (due.foldl (fun s g => match g.boundaryPath with
    | none => s
    | some (r, p) => (s.takeFault r p { code := 0x80 }).mapGang g.task g.index fun x => { x with lastPp := s.now }) s)

/-! ### Limits and the quench (R105–R109) -/

/-- TIME_LIMIT_CROSSING (R105): every anytime task whose elapsed time has reached its limit. -/
def execTimeLimitCrossing (s : State) : Result :=
  let due := s.tasks.filter fun t =>
    t.status == 0 && t.anytime && t.timeLimit != 0 && t.firstIssue.isSome && decide (t.timeLimit ≤ t.elapsed s.now)
  .next (due.foldl (fun s t => s.quench t.id stQuenched 0) s)

/-- ENERGY_SAMPLE (R105): energy drawn for a task since the last sample, in µJ. -/
def execEnergySample (t uj : Nat) (s : State) : Result :=
  .next (match s.task? t with
    | none => s
    | some k =>
      if k.status ≠ 0 then s
      else
        let s := s.mapTask t fun x => { x with energy := x.energy + uj }
        if k.anytime ∧ k.energyLimit ≠ 0 ∧ k.energyLimit ≤ k.energy + uj then s.quench t stQuenched 0 else s)

/-- Steps 5 to 8 of the quench (R107, R109). -/
def State.endQuench (s : State) (t : Nat) : State :=
  match s.task? t with
  | none => s
  | some k =>
    match k.quench with
    | none => s
    | some (st, code) =>
      if s.writesOpen t then s
      else
        let s := ((s.cutOps t).undefineOpen t).mapDir t Directory.dropOpen
        let s := (s.gangsOf t).foldl (fun s g => if g.state = .retired then s else s.retireGang g) s
        s.finishTask t st code

/-- QUENCH_COMPLETE (R107). -/
def execQuenchComplete (t : Nat) (s : State) : Result := .next (s.endQuench t)

end Sys2Proof.Machine
end

