-- ==== Sys2Proof/Machine/Runner.lean ====
section
/-! DEFINITION. The start of packets (R51, R53–R55, R78) and the runner (R87–R92). -/

namespace Sys2Proof.Machine

/-! ### Waits (R54) -/

/-- A WAIT completes; unless it is DONE every packet pending behind it is abandoned (R54). -/
def State.endWait (s : State) (q st : Nat) : State :=
  let qq := s.queue q
  match qq.waiting with
  | none => s
  | some (p, _) =>
    let s := (s.setQueue q { qq with waiting := none }).packetDone p st 0
    if st = stDone then s else s.abandonQueue q

/-- The timeline that a WAIT watches, and its value. -/
def State.waitTimeline (s : State) (p : Packet) : Timeline :=
  match s.ctx? p.ctx with
  | some c => nth {} c.timelines (fieldAt p.body 0 2)
  | none => { fenced := true }

/-- Complete the WAIT of a queue when its timeline is fenced or has reached its value (R54). -/
def State.pollWait (s : State) (q : Nat) : State :=
  match (s.queue q).waiting with
  | none => s
  | some (p, _) =>
    let t := s.waitTimeline p
    if t.fenced then s.endWait q stFenced
    else if fieldAt p.body 8 8 ≤ t.reached then s.endWait q stDone
    else s

/-- The end of a started WAIT's timeout, when it has one (R54). -/
def waitEnd (p : Packet) (t0 : Nat) : Option Nat := if fieldAt p.body 16 8 = 0 then none else some (t0 + fieldAt p.body 16 8)

/-- A WAIT whose timeout elapses before its timeline is reached or fenced completes TIMEOUT (R54). -/
def State.waitOver (s : State) (q : Nat) : State :=
  let s := s.pollWait q
  match (s.queue q).waiting with
  | some (p, t0) => if (waitEnd p t0).any fun t => decide (t ≤ s.now) then s.endWait q stTimeout else s
  | none => s

/-- Every started WAIT that can complete does, as soon as it can (R54). -/
def State.settleWaits (s : State) : State :=
  ((s.queues.filter fun q => q.2.waiting.isSome).map (·.1)).foldl State.waitOver s

/-- WAIT_TIMEOUT (R54). -/
def execWaitTimeout (s : State) : Result := .next s.settleWaits

/-! ### Signals (R53) -/

/-- RESET of a software timeline (R53): waits on it return fenced, its count restarts, its fence is cleared. -/
def State.resetTimeline (s : State) (c i : Nat) : State :=
  let qs := (upto 64).filter fun q => match (s.queue q).waiting with
    | some (p, _) => p.ctx == c && fieldAt p.body 0 2 == i
    | none => false
  let s := qs.foldl (fun s q => s.endWait q stFenced) s
  let s := s.mapTimeline c i fun t => { resets := t.resets + 1 }
  let cut := fun (o : PendingOp) => match o.signal with
    | some (a, b, _) => if a = c ∧ b = i then { o with signal := none, ended := true } else o
    | none => o
  { s with ops := s.ops.map cut }

/-- SIGNAL starts and completes at once (R51, R53). -/
def State.startSignal (s : State) (p : Packet) : State :=
  let i := fieldAt p.body 0 2
  if bitOf (fieldAt p.body 2 1) 0 then (s.resetTimeline p.ctx i).packetDone p stDone 0
  else
    let r : Timeline := nth {} (((s.ctx? p.ctx).map (·.timelines)).getD []) i
    let (s, n) := s.signalNow p.ctx i
    s.packetDone p stDone n (if n = 0 then none else some (i, n, r.resets))

/-! ### Launches (R60, R78, R429) -/

/-- The completed directory without pins that gives way to a new one: the oldest completed (R429). -/
def State.oldDir (s : State) : Option Nat :=
  ((s.dirs.filter fun d => d.status != 0 && d.slots.all (·.pins == 0)).foldl (fun (a : Option Directory) d => match a with
    | none => some d
    | some x => some (if d.completedAt < x.completedAt then d else x)) none).map (·.task)

/-- A place for a new version directory (R429). -/
def State.dirPlace (s : State) : Option State :=
  if s.dirs.length < 256 then some s
  else s.oldDir.map fun t => { s with dirs := s.dirs.filter (·.task != t) }

/-- Make the task record of a LAUNCH (R58, R60, R69, R78); `none` while it must wait at the head of its queue. -/
def State.startLaunch (s : State) (q : Nat) (p : Packet) : Option State :=
  if 1024 ≤ (s.tasks.filter fun t => !t.notified).length then none
  else
    let t : Task := { id := p.taskId, ctx := p.ctx, queue := q, tag := p.tag, notify := p.notify, packet := p.body,
                      limits := p.limits, cls := p.cls, quota := p.quota, node := p.node, startedAt := s.now, lastPlaced := s.now }
    match (if t.anytime then s.dirPlace else some s) with
    | none => none
    | some s =>
      let tl : Timeline := nth {} (((s.ctx? p.ctx).map (·.timelines)).getD []) t.timeline
      let take := decide (t.timeline < 16) && !tl.fenced
      let s := if take then s.mapTimeline p.ctx t.timeline Timeline.take else s
      let t := { t with tlNumber := if take then tl.taken + 1 else 0, tlResets := tl.resets }
      let ds : List Directory := if t.anytime then s.dirs ++ [{ task := t.id, ctx := t.ctx, slots := List.replicate t.slotCount {}, base := BitVec.ofNat 64 t.region, slotBytes := t.slotBytes }] else s.dirs
      let s : State := { s with tasks := (s.tasks.filter fun x => x.id != t.id) ++ [t], dirs := ds,
                                gangs := s.gangs.filter fun g => g.task != t.id }
      some (s.setQueue q { s.queue q with live := (s.queue q).live ++ [t.id] })

/-! ### Graphs (R55, R87–R92) -/

/-- Read `n` 32-bit words for the runner. -/
def State.runnerWords (s : State) (ctx va n : Nat) : Option Nats :=
  let l := (upto n).map fun i => (s.runnerRead ctx (va + 4 * i) 4).map leNat
  if l.all Option.isSome then some (l.filterMap id) else none

/-- GRAPH starts (R55, R89): every entry node is READY and queued, whatever its PRED. -/
def State.startGraph (s : State) (q : Nat) (p : Packet) : State :=
  let f := fieldAt p.body
  match s.runnerWords p.ctx (f 16 8) (f 12 4) with
  | none => s.packetDone p stFaulted 0 none 0x10
  | some es =>
    let g : Graph := { packet := p, ctx := p.ctx, nodes := BitVec.ofNat 64 (f 0 8), count := f 8 4, ready := es }
    let s := es.foldl (fun s i => if i < g.count then s.setNodeStatus q g i 0x10 else s) s
    s.setQueue q { s.queue q with graph := some g }

/-- Nothing that the completed tasks and the graph of a queue have issued is outstanding, and no fault of theirs, nor its
FAULTED_AFTER record, is on its way (R53, R64). -/
def State.queuePerformed (s : State) (q : Nat) : Bool :=
  let mine := fun (w : WaveRef) => (refGang w).any fun x => (s.task? x.1).any fun k => k.queue == q
  let after := fun (t : Nat) => (s.task? t).any fun k => k.queue == q && k.faultedAfter
  s.ops.all (fun o => !(mine o.wave || o.node.map (·.1) == some q) || o.isLoad || (o.cxl == [] && o.remote == [] && o.held == []))
    && s.imprecise.all (fun m => !(mine m.wave)) && s.notices.all (fun x => !(x.after && after x.task))
    && s.remote.all fun r => match r.kind with
      | .notify _ t _ => !(after t)
      | _ => true

/-- The packet at the head of a queue may start (R51): an ORDERED SIGNAL, a release at fabric scope of what the earlier packets
performed, once all of that is performed (R53). -/
def State.mayStart (s : State) (q : Nat) (p : Packet) : Bool :=
  let x := s.queue q
  x.waiting.isNone && (!p.ordered || (x.live == [] && x.graph.isNone)) && (p.kind != 2 || x.graph.isNone)
    && (p.kind != 3 || !p.ordered || s.queuePerformed q)

/-- PACKET_START (R51): a WAIT that has started completes when it can; otherwise the head packet starts. -/
def State.startPacket (s : State) (q : Nat) : State :=
  let qq := s.queue q
  if qq.waiting.isSome then s.pollWait q
  else match qq.pending with
    | [] => s
    | p :: rest =>
      if !(s.mayStart q p) then s
      else
        let s' := s.setQueue q { qq with pending := rest }
        match p.kind with
        | 1 => (s'.startLaunch q p).getD s
        | 2 => s'.startGraph q p
        | 3 => s'.startSignal p
        | _ => (s'.setQueue q { s'.queue q with waiting := some (p, s.now) }).pollWait q

/-- PACKET_START (R51). -/
def execPacketStart (q : Nat) (s : State) : Result := .next (if q < 64 then s.startPacket q else s)

/-- Change the graph of a queue. -/
def State.mapGraph (s : State) (q : Nat) (f : Graph → Graph) : State :=
  s.setQueue q { s.queue q with graph := (s.queue q).graph.map f }

/-- A WAITSIG node that waits for its GSIG (R88). -/
def State.awaitsSignal (s : State) (g : Graph) (i : Nat) : Bool :=
  s.nodeLegal g i && s.nodeField g i 2 1 == 2 && bitOf (s.nodeField g i 0x1A 1) 0 && !(g.signalHeld.contains i)

/-- The payload of a signal node is legal (R88). -/
def signalPayload (b : Bytes) : Bool := (decide (fieldAt b 0 2 < 16) || fieldAt b 0 2 == 0xFFFF) && decide (fieldAt b 2 6 = 0)

/-- The payload of a copy node is legal (R88). -/
def copyPayload (b : Bytes) : Bool :=
  decide (fieldAt b 16 4 ≠ 0) && decide (fieldAt b 16 4 % 64 = 0) && decide (fieldAt b 20 4 < 2) && decide (fieldAt b 24 8 = 0)

/-- The die that holds the destination of a copy (R88): die 0 for one that no die of the package holds, which the manual does not
say. -/
def State.copyDie (s : State) (ctx va : Nat) : Nat :=
  match s.span (agentOf ctx) .store va 1 with
  | .ok sp => match sp.parts with
    | (.mem off, _) :: _ => dieOf off
    | _ => 0
  | .error _ => 0

/-- The copy of a copy node is given to the ladle of the lowest-numbered cluster of its destination's die, on the runner's
timeline for that die (R88). -/
def State.beginCopy (s : State) (q i : Nat) (ctx : Nat) (b : Bytes) : State :=
  let d := s.copyDie ctx (fieldAt b 8 8)
  let o : LadleOp := {
    n := (s.die d).runner.taken + 1, kind := .copy, x := fieldAt b 20 4 == 1, slot := none, mould := none, pc := 0
    wave := .user 0 0 0, path := 0, inPass := false, opId := s.nextId, begun := true
    desc := [fieldAt b 8 4, fieldAt b 12 4, fieldAt b 0 4, fieldAt b 4 4, 0, 0, fieldAt b 16 4] }
  let p : PendingOp := { id := s.nextId, wave := .user 0 0 0, path := 0, pc := 0, flag := none, engine := true, node := some (q, i) }
  let s := s.mapDie d fun x => { x with runner := x.runner.take }
  ({ s with ops := s.ops ++ [p], nextId := s.nextId + 1 } : State).mapGraph q fun g => { g with copies := g.copies ++ [(i, 32 * d, o)] }

/-- A copy has ended: its number counts, or fences the runner's timeline when its target was fenced (R37), and its node ends
with a status. -/
def State.endCopy (s : State) (q i c st code : Nat) (o : LadleOp) (fence : Bool) : State :=
  let s := (s.mapDie (c / 32) fun d =>
      { d with runner := if fence then { d.runner with fenced := true } else d.runner.perform o.n }).mapGraph q fun g =>
    { g with copies := g.copies.filter (·.1 != i) }
  ({ s with ops := s.ops.filter (·.id != o.opId) } : State).endNode q i st code

/-- The next line or packet of a copy when the ladle serves its queue (R246); at its end, or at a fault that stops it, its writes
are awaited, and the fault or an error of one of them fails the node (R53, R88, R92). -/
def State.runCopy (s : State) (q i c : Nat) (o : LadleOp) (g : Graph) : State :=
  let len := nth 0 o.desc 6
  let settle := fun (s : State) (o : LadleOp) =>
    let bad := (s.op? o.opId).any fun p => p.failed != []
    if s.opWaits o.opId then s
    else match o.stop with
      | some (code, va) => s.endCopy q i c stFaulted code o (bad || (code == 0x10 && s.targetFenced (agentOf g.ctx) va))
      | none => s.endCopy q i c (if bad then stFaulted else stDone) (if bad then 0x10 else 0) o bad
  if len ≤ o.pos ∨ o.stop.isSome then settle s o
  else if !(s.ladleTurn c (16 + q)) then s
  else
    let w := Work.line (agentOf g.ctx) o 64 (o.work s)
    let o' := { o.after w with stop := w.stop }
    let s := ((w.s.mapGraph q fun g => { g with copies := g.copies.map fun x => if x.1 = i then (i, c, o') else x }).noteSent o w).ladleServed
      c (16 + q) w.moved (o.x || decide (len ≤ w.pos))
    if len ≤ w.pos ∨ w.stop.isSome then settle s o' else s

/-- Start node `i` (R88, R89); `none` where it cannot start now: a launch node whose queue is full stays READY. -/
def State.startNode (s : State) (q i : Nat) (g : Graph) : Option State :=
  let begin := fun (s : State) =>
    (s.setNodeStatus q g i 0x11).mapGraph q fun g => { g with ready := g.ready.filter (· != i), running := g.running ++ [i] }
  let fail := fun (s : State) => some ((begin s).endNode q i stFaulted)
  if !(s.nodeLegal g i) then
    some ((s.mapGraph q fun g => { g with ready := g.ready.filter (· != i), running := g.running ++ [i] }).endNode q i stFaulted)
  else
    let kind := s.nodeField g i 2 1
    let pay := s.nodeField g i 0x10 8
    match s.runnerRead g.ctx pay (if kind = 0 then 128 else if kind = 1 then 32 else 8) with
    | none => fail s
    | some b =>
      match kind with
      | 0 =>
        let (s', st, _) := s.offerLaunch g.ctx (s.nodeField g i 0x18 2) b (some (q, i))
        if st = 0 then some (begin s') else if st = hsQueueFull then none else fail s
      | 1 => if copyPayload b then some ((begin s).beginCopy q i g.ctx b) else fail s
      | _ => if signalPayload b then some ((begin s).endNode q i stDone) else fail s

/-- NODE_START (R88, R89): the first READY node in queue order that can start. -/
def execNodeStart (q : Nat) (s : State) : Result :=
  .next (match (s.queue q).graph with
    | none => s
    | some g =>
      if g.failed.isSome then s
      else ((g.ready.filter fun i => !(s.awaitsSignal g i) && !(g.finished.any (·.1 == i))).findSome? fun i => s.startNode q i g).getD s)

/-- A successor loses one predecessor, and is READY when none is left (R89). -/
def State.decrement (s : State) (q j : Nat) : State :=
  match (s.queue q).graph with
  | none => s
  | some g =>
    let p := (s.nodeField g j 0 2 + 65535) % 65536
    let s := s.runnerWrite q g.ctx (g.addr j) (leBytes 2 p)
    if p = 0 then (s.setNodeStatus q g j 0x10).mapGraph q fun g => { g with ready := g.ready ++ [j] } else s

/-- The graph fails with this status, the first that failed (R92): READY nodes are abandoned. -/
def State.failGraph (s : State) (q st : Nat) (g : Graph) : State :=
  let s := g.ready.foldl (fun s i => if i < g.count then s.setNodeStatus q g i stAbandoned else s) s
  s.mapGraph q fun g => { g with ready := [], failed := g.failed.orElse fun _ => some (st, 0) }

/-- A graph with nothing left completes (R55, R92). -/
def State.settleGraph (s : State) (q : Nat) : State :=
  match (s.queue q).graph with
  | none => s
  | some g =>
    let outcome := match g.failed with
      | some x => if g.running = [] ∧ g.finished = [] then some x else none
      | none => if g.done.length = g.count then some (stDone, 0) else none
    match outcome with
    | none => s
    | some (st, code) =>
      (s.setQueue q { s.queue q with graph := none }).packetDone g.packet st 0 none (if st = stFaulted then code else 0)

/-- The effects of a node that has ended (R87–R90, R92). One that completes DONE after its graph has failed loses no predecessor for
its successors: R92 speaks of the failed node's alone, and the choice is the model's (log 137). -/
def State.completeNode (s : State) (q i st : Nat) (g : Graph) : State :=
  let kind := s.nodeField g i 2 1
  let succ := s.runnerWords g.ctx (s.nodeField g i 8 8) (s.nodeField g i 4 4)
  let pay := s.runnerRead g.ctx (s.nodeField g i 0x10 8) 8
  let ok := st = stDone ∨ st = stQuenched
  let st := if ok ∧ (!(s.nodeLegal g i) || (match succ with
      | some l => l.any fun j => decide (g.count ≤ j)
      | none => true) || (kind == 2 && !(pay.any signalPayload))) then stFaulted else st
  let s := if i < g.count then s.setNodeStatus q g i st else s
  let s := s.mapGraph q fun g =>
    { g with finished := g.finished.filter (·.1 != i), running := g.running.filter (· != i), ready := g.ready.filter (· != i),
             signalHeld := g.signalHeld.filter (· != i), done := if g.done.contains i then g.done else g.done ++ [i] }
  if st = stDone ∨ st = stQuenched then
    let s := match kind, pay with
      | 2, some b => if fieldAt b 0 2 < 16 then (s.signalNow g.ctx (fieldAt b 0 2)).1 else s
      | _, _ => s
    if g.failed.isSome then s else (succ.getD []).foldl (fun s j => s.decrement q j) s
  else s.failGraph q st { g with ready := g.ready.filter (· != i) }

/-- NODE_COMPLETE (R88, R89, R92): a copy goes on, and a node that has ended has its effects. -/
def execNodeComplete (q node : Nat) (s : State) : Result :=
  .next (match (s.queue q).graph with
    | none => s
    | some g => match g.finished.find? (·.1 == node) with
      | none => match g.copies.find? (·.1 == node) with
        | some (i, c, o) => s.runCopy q i c o g
        | none => s
      | some (i, st) => (s.completeNode q i st g).settleGraph q)

end Sys2Proof.Machine
end

