-- ==== Sys2Proof/Machine/Handling.lean ====
section
/-! DEFINITION. What the device does between instructions: clause headers and refused words (R278, R281, R283, R285,
R296), fetch lines and page walks, completions (R282), the delivery of faults (R250–R256, R461), watchdogs, the patrol
scrub and the profiling tick. -/

namespace Sys2Proof.Machine

/-! ### Clause headers (R278, R281, R283, R285) -/

/-- Whether a header at word `k` of a line may be decoded (R281). -/
def headerOk (l : LineBuf) (k w : Nat) : Bool :=
  let h := decodeHeader w
  let words := (upto h.len).map fun i => l.kind (k + 1 + i)
  h.reserved == 0 && decide (1 ≤ h.len) && decide (h.len ≤ 29) && decide (k + h.len ≤ 31)
    && (!h.av || decide (h.fa < 12)) && (!h.bv || decide (h.fb < 12)) && words.all (fun x => x == 0 || x == 2)
    && (!h.pp || (match decodeWord (l.word (k + 1)).toNat with
      | .ok (.live _) => l.kind (k + 1) == 0
      | _ => false))

/-- A halt that pends with a handler wave is taken at its clause boundary (R263, R264). -/
def State.handlerHalts (s : State) (e : Env) : Bool :=
  let k := s.core e.core
  e.handler && (k.haltPending || k.haltPath.isSome) && !k.hmask

/-- A gang that has been chosen stops here, before LIVE (R111, R285): never at the header of an idempotent task's
clause, which stops at any boundary (R116). -/
def State.stopsAtPp (s : State) (e : Env) : Bool :=
  !e.caster && !e.handler && (match s.myGang e, s.task? e.task with
    | some g, some k => g.chosen.any fun c => !k.idempotent || c.1 == .ckpt
    | _, _ => false)

/-- A path reaches a clause header (R281, R283, R285). -/
def State.header? (s : State) (e : Env) (w : Nat) : State :=
  let l : LineBuf := e.path.buf.getD { base := BitVec.ofNat 64 (e.pc.toNat / 128 * 128), words := [] }
  let k := wordIx e.pc
  let h := decodeHeader w
  let hold := fun (s : State) (pp : Bool) => s.mapPath (e.ref, e.p) fun p =>
    { p with state := .blocked, wait := .header, waitSince := if p.wait = .none then s.now else p.waitSince, atPp := pp }
  if !(headerOk l k w) then s.takeFault e.ref e.p { code := 0x01 }
  else if s.handlerHalts e then
    (s.setCore e.core { s.core e.core with haltPending := false, haltPath := none }).mapPath (e.ref, e.p) Path.halt
  else if e.pathSlices.any (fun i => ((e.w.slice i).flags &&& BitVec.ofNat 12 h.wait) != 0) then hold s false
  else
    let s := if h.pp then s.mapGang e.task e.gang fun g => { g with lastPp := s.now } else s
    if h.pp && s.stopsAtPp e then hold s true
    else s.mapPath (e.ref, e.p) fun p =>
      { p with state := .run, wait := .none, atPp := false, pc := p.pc + 4
               clause := some { last := k + h.len, fa := if h.av then some h.fa else none, fb := if h.bv then some h.fb else none } }

/-- CLAUSE_HEADER (R281). -/
def execClauseHeader (w : Nat) (s : State) : Result :=
  match s.cur with
  | none => .fault .noIssuer
  | some (r, p) => match s.env? r p with
    | none => .fault .noIssuer
    | some e => .next (s.header? e w)

/-- Whether an opcode is assigned (R295, R296). -/
def assignedOp (op : Nat) : Bool :=
  decide (op ≤ 0x1B) || (decide (0x20 ≤ op) && decide (op ≤ 0x3D)) || (decide (0x40 ≤ op) && decide (op ≤ 0x56))
    || (decide (0x60 ≤ op) && decide (op ≤ 0x6A)) || (decide (0x70 ≤ op) && decide (op ≤ 0x79))
    || (decide (0x80 ≤ op) && decide (op ≤ 0xA2)) || (decide (0xB0 ≤ op) && decide (op ≤ 0xDA))

/-- The word at a path's PC is an instruction of the clause it is inside. -/
def Env.inClause (e : Env) : Bool :=
  match e.path.buf, e.path.clause with
  | some l, some c => decide (wordIx e.pc ≤ c.last) && l.kind (wordIx e.pc) == 0
  | _, _ => false

/-- A word writes a privileged state register (R298). -/
def privilegedSets (w : Nat) : Bool := w / 2 ^ 24 % 256 == 0x14 && (w % 256 == 13 || w % 256 == 14)

/-- The fault of a word that is not decoded (R275, R278, R286, R290, R296): for an assigned opcode with a reserved field,
privilege and the ladle right come first. -/
def Env.undecoded (e : Env) (w : Nat) : Flt :=
  let op := w / 2 ^ 24 % 256
  if !(e.inClause && assignedOp op) then badField
  else match e.refuse op with
    | some f => f
    | none => if privilegedSets w && !e.handler then { code := 0x05 } else badField

/-- UNASSIGNED_OPCODE (R296). -/
def execUnassignedOpcode (w : Nat) (s : State) : Result :=
  match s.cur with
  | none => .fault .noIssuer
  | some (r, p) => match s.env? r p with
    | none => .fault .noIssuer
    | some e => .next (s.takeFault r p (e.undecoded w))

/-! ### Fetch, walks and completions -/

/-- One more SLIP for a stream and its cluster (R104, R140). -/
def State.slip (s : State) (e : Env) : State :=
  (s.resumeWave e.ref fun w => { w with slip := (w.slip + 1) % 2 ^ 32 }).mapCluster e.cluster fun c =>
    { c with counters := { c.counters with slip := c.counters.slip + 1 } }

/-- A path has its line: outside a clause a fill word sends it on to the first word that is not fill (R278). -/
def Path.arrive (p : Path) (l : LineBuf) : Path :=
  { p with buf := some l, pc := if p.clause.isNone && l.kind (wordIx p.pc) == 3 then l.after (wordIx p.pc) else p.pc }

/-- The line at a path's PC comes back (R140, R276, R277, R278). -/
def State.fetchReturn (s : State) (e : Env) : State :=
  let base : DWord := BitVec.ofNat 64 (e.pc.toNat / 128 * 128)
  let hit := (s.cluster e.cluster).icache.any fun x => x.ctx == e.ctx && x.line.base == base
  let s := if hit then s else (s.slip e).holdPage e.who e.pc.toNat
  match s.fetchLine e.who e.pc with
  | .error c => s.takeFault e.ref e.p { code := 0x04, addr := e.pc, cause := c }
  | .ok l => ((if hit then s else s.cacheLine e.cluster e.ctx l).mapPath (e.ref, e.p) fun p => p.arrive l)

/-- A path's fetch buffer does not hold the word it executes next. -/
def Path.needsLine (p : Path) : Bool :=
  match p.buf with
  | some l => !(l.holds p.pc)
  | none => true

/-- FETCH_LINE_RETURN (R140). -/
def execFetchLineReturn (w : WaveRef) (p : Nat) (s : State) : Result :=
  .next (match s.env? w p with
    | none => s
    | some e => if e.path.state = .free ∨ e.path.state = .halted ∨ e.path.wait = .fault ∨ !e.path.needsLine then s
      else s.fetchReturn e)

/-- PAGE_WALK (R179–R182, R186): a walk on a cluster that no access of the model stands behind; one that finds a fault caches
nothing. -/
def State.pageWalk (s : State) (c ctx va : Nat) : State := s.holdPage { ctx := ctx, cluster := some c } va

/-- PAGE_WALK (R186). -/
def execPageWalk (c ctx : Nat) (va : DWord) (s : State) : Result :=
  .next (if c < Config.clusters ∧ va.toNat < aperture then s.pageWalk c ctx va.toNat else s)

/-- A load whose path waits to begin its next lanes (R215). -/
def State.partHeld (s : State) (o : PendingOp) : Bool := o.part && !o.atomic && (s.pathAt (o.wave, o.path)).wait == .op o.id

/-- OPERATION_COMPLETE (R282, R284). -/
def execOperationComplete (id : Nat) (s : State) : Result :=
  .next (match s.op? id with
    | none => s
    | some o => if s.opReady o && !o.ask && !(s.partHeld o) then s.completeOp id else s)

/-! ### Every stream -/

/-- Every stream of the device: the waves and caster threads of resident gangs, and the handler waves. -/
def State.streams (s : State) : List WaveRef :=
  (s.gangs.filter fun g => g.state == .placing || g.state == .running).flatMap Gang.refs
    ++ (s.cores.filter fun c => c.2.wave.isSome).map fun c => .handler c.1

/-- Every path that is not FREE. -/
def State.allPaths (s : State) : List (WaveRef × Nat) := s.streams.flatMap s.pathsOf

/-- The instruction that a path stands at, from its fetch buffer. -/
def Path.instr? (p : Path) : Option Instr :=
  match p.buf with
  | none => none
  | some l => if l.holds p.pc then (match decodeWord (l.word (wordIx p.pc)).toNat with
      | .ok i => some i
      | .error _ => none) else none

/-- A WAITT with a timeout tests its outcomes (R319). -/
def State.pollWaitt (s : State) (x : WaveRef × Nat) : State :=
  match (s.pathAt x).wait.ends?, (s.pathAt x).instr? with
  | some _, some (.waitt d a b) =>
    match execWaitt d a b { s with cur := some x } with
    | .next s' => { s'.resumeWave x.1 Wave.endStep with cur := s.cur }
    | _ => s
  | _, _ => s

/-- The ends of the timeouts of WAITTs that wait (R319). -/
def State.waittEnds (s : State) : Nats := s.allPaths.filterMap fun x => (s.pathAt x).wait.ends?

/-- A path whose WAITT's timeout has elapsed. -/
def State.waittOver (s : State) (x : WaveRef × Nat) : Bool :=
  match (s.pathAt x).wait.ends? with
  | some t => decide (t ≤ s.now)
  | none => false

/-- The WAITTs whose timeouts have elapsed end (R319). -/
def State.endWaitts (s : State) : State := (s.allPaths.filter s.waittOver).foldl State.pollWaitt s

/-- WAITT_TIMEOUT (R319): every WAITT whose timeout has elapsed. -/
def execWaittTimeout (s : State) : Result := .next (s.allPaths.foldl State.pollWaitt s)

/-! ### Faults (R250–R256) -/

/-- The monitor holds the gangs of a record's context (R253, R461). -/
def State.held? (s : State) (c : Nat) : Bool :=
  match s.ctx? c with
  | some k => k.debuggable && k.session.isSome
  | none => false

/-- What the resident handler does with the record that a core serves (R250, R461). -/
def State.residentHandler (s : State) (c : Nat) : State :=
  let k := s.core c
  let cur : Option (Nat × FaultRec) := k.current.bind fun i => (k.records.get none i).map fun r => (i, r)
  match cur with
  | none => s.returnFromFault c
  | some (i, r) =>
    let ctx := ((s.task? r.task).map (·.ctx)).getD 64
    if !(s.held? ctx) then s.returnFromFault c
    else
      let s := match refGang r.wave with
        | some (t, g) => match s.gang? t g with
          | some x => if x.state = GangState.running ∨ x.state = GangState.placing then s.haltGang t g else s
          | none => s
        | none => s
      let s := s.event ctx (s.header r.wave r.pathIx) (eventPayload 1 r.code r.pc.toNat r.addr.toNat)
      let k := s.core c
      let recs := k.records.update none i fun x => x.map fun (q : FaultRec) => { q with disposition := 5 }
      (s.setCore c { k with records := recs }).returnFromFault c

/-- Accesses of earlier instructions, in the program order of a slice of the path, that a precise fault's handler waits for
(R188). -/
def State.inFlight (s : State) (r : FaultRec) : Bool :=
  !r.imprecise && (s.outstanding r.wave).any fun o =>
    !o.engine && !o.ended && !o.ask && (o.cxl != [] || o.remote != [])
      && (o.slices &&& r.path.slices) != 0

/-- A breakpoint's record reaches its handler (R267): whether the monitor writes an EVENT of kind 3 is the device's free choice. -/
def State.noteBreak (s : State) (r : FaultRec) : State :=
  if r.code = 0x72 then
    s.mayEvent (((s.task? r.task).map (·.ctx)).getD 64) (s.header r.wave r.pathIx) (eventPayload 3 r.code r.pc.toNat r.addr.toNat)
  else s

/-- FAULT_DELIVERY (R252, R253): the core's next record is served, by the resident handler at the basic level and
otherwise by the handler wave that starts here. -/
def State.deliverFault (s : State) (c : Nat) : State :=
  let k := s.core c
  match k.current, k.queue.head?.bind fun i => k.records.get none i with
  | some _, _ => s
  | none, none => if k.queue = [] then s else s.setCore c { k with queue := k.queue.drop 1 }
  | none, some r =>
    if s.inFlight r then s
    else
      let s := (s.serve c).noteBreak r
      if s.handlerEntry.toNat = Config.residentEntry then s.residentHandler c else s

/-- FAULT_DELIVERY (R252). -/
def execFaultDelivery (core : Nat) (s : State) : Result := .next (if core < 512 then s.deliverFault core else s)

/-- The second record of a task that has completed, behind its notify record (R64); a destroyed task has none. -/
def State.faultedAfter (s : State) (t code : Nat) : State :=
  match s.task? t with
  | none => s
  | some k =>
    match k.notify with
    | none => s
    | some a =>
      if k.status = 0 ∨ k.gone ∨ k.faultedAfter then s
      else
        let (v, g) := s.sealedOf t
        (s.mapTask t fun x => { x with faultedAfter := true }).notify
          { ctx := k.ctx, task := t, addr := a, bytes := notifyRecord k.tag 1 stFaultedAfter code k.tlNumber v g t
            timeline := if k.tlNumber = 0 then none else some (k.timeline, k.tlNumber, k.tlResets), after := true }

/-- A fault attributed to a gang that is RETIRED (R256): DONE becomes FAULTED. -/
def State.lateFault (s : State) (m : Imprecise) : State :=
  match refGang m.wave with
  | none => s
  | some (t, g) =>
    let s := s.faultedAfter t m.code
    s.mapGang t g fun x => if x.state = .retired ∧ x.status = stDone then { x with status := stFaulted, code := m.code } else x

/-- Where an imprecise fault meets its wave: its path, or the lowest live one once that has joined another. -/
def State.impreciseAt (s : State) (m : Imprecise) : Nat :=
  match s.wave? m.wave with
  | none => m.path
  | some w => if (w.path m.path).state = .free then lowest m.path w.livePaths else m.path

/-- IMPRECISE_FAULT (R254, R256): at the wave's next instruction boundary, after any precise fault it is held at. A
ladle operation that has stopped at a fault keeps no path waiting (R282). -/
def State.deliverImprecise (s : State) (w : WaveRef) (p : Nat) : State :=
  match s.imprecise.find? fun m => m.wave == w && m.path == p with
  | none => s
  | some m =>
    let q := s.impreciseAt m
    let x := s.pathAt (w, q)
    let inside : Bool := match x.wait with
      | .op id => !(m.ladle && (s.op? id).any (·.engine))
      | .fault => true
      | _ => false
    if inside then s
    else
      let s := { s with imprecise := s.imprecise.erase m }
      (s.takeImprecise { m with path := q }).lateFault m

/-- IMPRECISE_FAULT (R256). -/
def execImpreciseFault (w : WaveRef) (p : Nat) (s : State) : Result := .next (s.deliverImprecise w p)

/-- HANG_WATCHDOG (R265): every wave that has waited longer than HANG_LIMIT. -/
def execHangWatchdog (s : State) : Result :=
  .next (if s.hangLimit = 0 then s
    else (s.allPaths.filter fun x => !(refCaster x.1)).foldl (fun s x =>
      let p := s.pathAt x
      if p.state = .blocked ∧ p.wait.watched ∧ p.waitSince + 1000000 * s.hangLimit < s.now
      then s.takeFault x.1 x.2 { code := 0x80 } else s) s)

/-- HMASK_CLEAR (R264): 10 µs after MASK was set. -/
def execHmaskClear (s : State) : Result :=
  .next ((s.cores.map (·.1)).foldl (fun s c =>
    let k := s.core c
    if k.hmask ∧ k.hmaskAt + 10000 ≤ s.now then s.setCore c { k with hmask := false } else s) s)

/-- UNCORRECTABLE_ERROR (R257). -/
def execUncorrectableError (w : WaveRef) (k : RegClass) (r lane : Nat) (s : State) : Result :=
  .next (match s.env? w 0 with
    | none => s
    | some e => s.resumeWave w fun x =>
      match k with
      | .vector => if r < 16 * e.blocks ∧ lane < 32 then x.setV r lane { x.getV r lane with poison := true } else x
      | .scalar => if r < 48 ∧ lane < 8 then x.setS r lane { x.getS r lane with poison := true } else x
      | .exactSum => if r < 4 ∧ lane < 32 then x.setX r lane { x.getX r lane with poison := true } else x)

/-! ### Background work -/

/-- The patrol's rate (R206, R208): log2 of mT × mE. -/
def Die.patrolRate (d : Die) (now : Nat) : Nat :=
  (if d.band = 0 then 0 else if d.band = 1 then 1 else 2) + (if 64 * 64 < (d.recent now).length then 1 else 0)

/-- The window of 10 µs that a device time lies in ends here (R207). -/
def windowEnd (now : Nat) : Nat := (now / 10000 + 1) * 10000

/-- What a scrub of a line that ends so leaves of its die's counts (R206, R208). -/
def Die.scrubbed (x : Die) (now line : Nat) (outcome : ScrubOutcome) : Die :=
  let x : Die := { x with scrubLine := line, yield := false }
  let x : Die := match outcome with
    | .corrected => { x with corrected := x.recent now ++ [now], counted := x.counted ++ [now] }
    | .uncorrectable => { x with poisonCount := min (x.poisonCount + 1) 0xFFF }
    | _ => x
  { x with rate := x.patrolRate now }

/-- PATROL_SCRUB (R206–R208): one line of a die is read, or the scrub yields a window of 10 µs, in which it issues no read. -/
def execPatrolScrub (d line : Nat) (outcome : ScrubOutcome) (s : State) : Result :=
  .next (if 3 < d ∨ 2 ^ 30 ≤ line ∨ (s.die d).fenced then s
    else match outcome with
      | .yielded => s.mapDie d fun x => { x with yield := true, yieldUntil := windowEnd s.now }
      | _ =>
        if s.now < (s.die d).yieldUntil then s
        else
          let s := s.mapDie d fun x => x.scrubbed s.now line outcome
          if outcome = .uncorrectable then { s with poison := s.poison.set false (d * 2 ^ 30 + line) true } else s)

/-- One sampled path of a core for a tick record (R271): 8 bytes. -/
def State.samplePath (s : State) (ctx c k : Nat) : Bytes :=
  let gs := (s.residents c []).filter fun g => ((s.task? g.task).map (·.ctx)) == some ctx
  let ps := (gs.flatMap fun g => (upto g.waves.length).map fun i => WaveRef.user g.task g.index i).filter
    fun r => s.coreOf r == 4 * c + k
  match (ps.flatMap s.pathsOf) with
  | [] => leBytes 8 0
  | x :: _ =>
    let (t, g) := (refGang x.1).getD (0, 0)
    let slot := nth 0 (((s.gang? t g).map (·.slots)).getD []) (refWave x.1)
    let per := max (((s.task? t).map Task.waves).getD 1) 1
    leBytes 4 (s.pathAt x).pc.toNat ++ leBytes 1 (refWave x.1 / per) ++ leBytes 1 x.2 ++ leBytes 1 slot ++ leBytes 1 0

/-- Free words, counted. -/
def State.freeWords (s : State) (n : Nat) : State × Bytes :=
  ({ s with fresh := s.fresh + n }, (upto n).flatMap fun i => leBytes 4 (Config.freeWord (s.fresh + i)).toNat)

/-- What counters have counted since they stood so (R271). -/
def Counters.since (k b : Counters) : Counters :=
  let sub := fun (x y : Nats) => x.zipIdx.map fun (v, i) => v - nth 0 y i
  { issue := sub k.issue b.issue, stepsTaken := sub k.stepsTaken b.stepsTaken, stepsSkipped := sub k.stepsSkipped b.stepsSkipped
    ladleBytes := k.ladleBytes - b.ladleBytes, slip := k.slip - b.slip }

/-- A cluster's record at a tick (R271): the model keeps no time below an instruction, so cycle counts are free. -/
def State.tickRecord (s : State) (ctx c tick : Nat) : State × Bytes :=
  let k := (s.cluster c).counters.since ((s.profs.get ({} : Prof) ctx).base.get {} c)
  let (s, cyc) := s.freeWords 12
  let (s, thr) := s.freeWords 1
  (s, leBytes 8 tick ++ leBytes 2 c ++ leBytes 6 0 ++ cyc ++ k.stepsTaken.flatMap (leBytes 4) ++ k.stepsSkipped.flatMap (leBytes 4)
    ++ leBytes 8 k.ladleBytes ++ leBytes 4 k.slip ++ thr ++ (upto 4).flatMap (s.samplePath ctx c))

/-- The tick of one context: every cluster that runs a gang of it latches (R270, R271). -/
def State.tick (s : State) (ctx : Nat) : State :=
  let p : Prof := s.profs.get {} ctx
  let n := s.now / 2 ^ p.k
  if !p.en ∨ p.k < 10 ∨ 24 < p.k ∨ n = p.lastTick then s
  else
    let s := { s with profs := s.profs.set {} ctx { p with lastTick := n } }
    let s := (upto Config.clusters).foldl (fun s c =>
      if (s.residents c []).any fun g => ((s.task? g.task).map (·.ctx)) == some ctx then
        let (s, bs) := s.tickRecord ctx c n
        s.profPut ctx bs
      else s) s
    { s with profs := s.profs.update {} ctx fun p => { p with base := s.clusters.map fun (c, k) => (c, k.counters) } }

/-- PROFILE_TICK (R271). -/
def execProfileTick (s : State) : Result := .next ((s.profs.map (·.1)).foldl State.tick s)

end Sys2Proof.Machine
end

