-- ==== Sys2Proof/Machine/Home.lean ====
section
/-! DEFINITION. The receiving side of the fabric: the accesses of other endpoints performed at their home (R18, R28–R30, R32,
R423), and what a flit delivers (R25, R33, R36). -/

namespace Sys2Proof.Machine

/-- An access to memory that exists and is not fenced (R28, R36). -/
def State.homeOk (s : State) (off n : Nat) : Bool :=
  decide (1 ≤ n) && s.hasMemory off && s.hasMemory (off + n - 1) && !(s.fencedAt off)

/-- An access aimed at the management space of this package. -/
def accessMgmt (a : RemoteAccess) : Option Nat := if isMgmt (accessRange a).1 then some ((accessRange a).1 - mgmtBase) else none

/-- An access of another endpoint to the management space (R29, R30): another package has checked that its code is privileged, and
its requests have the rights of a privileged host. AXSUM finds no cell there: it is MALFORMED, which is the model's choice (log
135). -/
def State.performMgmt (s : State) (src off : Nat) (a : RemoteAccess) : State :=
  match a with
  | .load _ n => s.hostRead off n
  | .store _ data =>
    let t := s.regWrite src off data.length (leNat data)
    t.answer t.hostStatus []
  | .atomic _ op w sgn b =>
    let (old, t) := s.atomicMgmt src op w sgn off b
    t.answer t.hostStatus (leBytes (w / 8) old)
  | _ => s.answer hsMalformed []

/-- An access gets no answer at all: one that firmware does not answer in recovery (R17), or one from no endpoint of the domain. -/
def State.silent (s : State) (src : Nat) (a : RemoteAccess) : Bool :=
  (s.start.ready && !(s.endpoint src)) || (match accessMgmt a, a with
    | some _, .load _ _ => false
    | some off, _ => s.unanswered off
    | none, _ => false)

/-- What this package answers about a task (R423, R427, R428, R430), or `none` while an ACQV waits. -/
def State.versionHere (s : State) (what ctx task x : Nat) : Option (State × Nats) :=
  match what with
  | 0 => s.acqvHere ctx task x
  | 1 => some ((s.relvHere ctx task x).1, [(s.relvHere ctx task x).2])
  | _ => some (s, s.vstatWords ctx task)

/-- An access of another endpoint waits at its home. -/
def State.waitHome (s : State) (src : Nat) (number port : Option Nat) (a : RemoteAccess) : State :=
  { s with homeOps := s.homeOps ++ [{ id := s.nextId, src := src, request := number, port := port, access := a }]
           nextId := s.nextId + 1 }

/-- The ACQVs of other packages that a version has come for are answered (R427). -/
def State.answerHome (s : State) : State :=
  s.homeOps.foldl (fun s o => match o.port, o.access with
    | none, .version what ctx task x => match s.versionHere what ctx task x with
      | some (t, l) =>
        (({ t with homeOps := t.homeOps.filter (·.id != o.id) } : State).answer hsAccepted (wordBytesOf l)).replyTo o.src o.request
      | none => s
    | _, _ => s) s

/-- An access of another endpoint at its home (R32): before READY memory refuses it with the queue-full status (R18), one to no
memory or to a fenced die or port completes with an error (R28, R36), and one to a CXL window is completed by the port's expander
(R41). Its completion goes back to the endpoint, by a flit to the request that a flit brought. -/
def State.performAt (s : State) (src : Nat) (a : RemoteAccess) (number : Option Nat) : State :=
  let (off, n) := accessRange a
  if s.silent src a then s
  else match accessMgmt a with
    | some o => (s.performMgmt src o a).replyTo src number
    | none =>
      if !s.start.ready then (s.answer hsQueueFull []).replyTo src number
      else match a with
        | .version what ctx task x => match s.versionHere what ctx task x with
          | some (t, l) => (t.answer hsAccepted (wordBytesOf l)).replyTo src number
          | none => s.waitHome src number none a
        | _ =>
          if !(s.homeOk off n) then (s.answer homeError []).replyTo src number
          else if off < 2 ^ 40 then (s.performMem a).replyTo src number
          else s.waitHome src number (some (dieOf off)) a

/-- REMOTE_REQUEST (R32). -/
def execRemoteRequest (src : Nat) (req : RemoteAccess) (s : State) : Result := .next (s.performAt src req none)

/-! ### Flits -/

/-- The request that a transaction header and its data stand for: kind, id, source, offset and the terms after them are the
header's (R25). -/
def accessOf (f : Nats) (data : Bytes) : Option RemoteAccess :=
  let off := nth 0 f 3
  match nth 0 f 0 with
  | 1 => some (.load off (nth 0 f 5))
  | 2 => some (.store off data)
  | 3 => some (.atomic off (nth 0 f 5) (nth 0 f 6) (nth 0 f 7 != 0) (leNat data))
  | 4 => some (.axsum off (if nth 0 f 5 = 0 then none else some (nth 0 f 5, nth 0 f 6)) (BitVec.ofNat 320 (fieldAt data 0 40)) (BitVec.ofNat 16 (fieldAt data 40 2))
      (BitVec.ofNat 16 (fieldAt data 42 2)))
  | 6 => some (.version (nth 0 f 5) (nth 0 f 6) (nth 0 f 7) (nth 0 f 8))
  | _ => none

/-- One transaction: an access of another endpoint, or the completion of a request of this package. -/
def State.transact (s : State) (f : Nats) (data : Bytes) : State :=
  let id := nth 0 f 1
  let src := nth 0 f 2
  if nth 0 f 0 = 7 then s.acknowledge id (nth 0 f 3) data
  else match accessOf f data with
    | some a => s.performAt src a (some id)
    | none => s

/-- The transactions of a payload in their order (R25): a 16-byte header each, and the 0 to 64 data bytes that it names. -/
def State.transactAll (s : State) : Nat → Bytes → State
  | 0, _ => s
  | fuel + 1, bs =>
    if bs.length < 16 then s
    else
      let f := Config.headerFields (bs.take 16)
      let n := min (nth 0 f 4) 64
      (s.transact f ((bs.drop 16).take n)).transactAll fuel (bs.drop (16 + n))

/-- What a notice's payload names. -/
def noticeOf (f : Nats) : FenceTarget :=
  match nth 0 f 0 with
  | 0 => .link (nth 0 f 1) (nth 0 f 2)
  | 1 => .die (nth 0 f 1) (nth 0 f 2)
  | _ => .package (nth 0 f 1)

/-- What a flit taken in sequence does, by its kind (R25): idle flits and reserved kinds nothing. -/
def State.takeFlit (s : State) (kind : Nat) (payload : Bytes) : State :=
  match kind with
  | 1 => s.transactAll 7 payload
  | 2 => s.noticed (noticeOf (Config.headerFields payload))
  | _ => s

/-- TRANSACTION_FLIT (R25, R26). -/
def execTransactionFlit (link : Nat) (flit : Bytes) (s : State) : Result :=
  .next (
    let (l, got) := (s.link link).receive s.now flit
    let s := s.mapLink link fun _ => l
    match got with
    | some (kind, payload) => s.takeFlit kind payload
    | none => s)

end Sys2Proof.Machine
end

