-- ==== Sys2Proof/Machine/Lanes.lean ====
section
/-! DEFINITION. The lane network, opcodes 0x70–0x79 (R131–R134, R352–R354, R368–R374). -/

namespace Sys2Proof.Machine

/-- Segment size S (R131). -/
def Env.seg (e : Env) : Nat := 2 ^ e.w.partn

/-- base(L) (R368). -/
def Env.base (e : Env) (L : Nat) : Nat := e.seg * (L / e.seg)

/-- The active lanes of L's segment, rising. -/
def Env.mates (e : Env) (L : Nat) : Nats := e.lanes.filter fun j => j / e.seg == L / e.seg

/-- The moving lane instructions (R369): lane L takes A of lane `j L`, or 0 when that lane is not active;
poison travels with the value, and with the index that picks it (R257). -/
def lanePick (e : Env) (s : State) (dd : Dst) (n : Nat) (x : Src) (lits : Nat) (j : Nat → Nat × Bool) : Except Flt Out :=
  goOn (s.write e (e.lanes.flatMap fun L =>
    let (k, q) := j L
    if e.lanes.contains k then
      let (v, p) := e.read n k x
      dd.writes n L v (p || q)
    else dd.writes n L 0 q)) lits

/-- SHFL and SHFX (R369): index or mask from B. -/
def shuffleOp (op : Nat) (d a b : Opd) (f : Env → Nat → Nat → Nat) (s : State) : Result :=
  issue op s fun e => do
    let t ← e.lowType fun _ => true
    let n := t.opWidth / 32
    let dd ← e.vecDst d n
    let (x, ls) ← e.src a n e.lits
    let (y, ls) ← e.src b 1 ls
    lanePick e s dd n x (e.used ls) fun L => (f e L (e.read 1 L y).1, (e.read 1 L y).2)

/-- SHFL (R369). -/
def execShfl (d a b : Opd) (s : State) : Result :=
  shuffleOp 0x70 d a b (fun e L v => e.base L + v % e.seg) s

/-- SHFX (R369). -/
def execShfx (d a b : Opd) (s : State) : Result :=
  shuffleOp 0x71 d a b (fun e L v => e.base L + Nat.xor (L % e.seg) (v % e.seg)) s

/-- BCAST (R369). -/
def execBcast (d a : Opd) (b : Nat) (s : State) : Result :=
  issue 0x79 s fun e => do
    let t ← e.lowType fun _ => true
    let n := t.opWidth / 32
    if e.seg ≤ b then throw badOperand
    let dd ← e.vecDst d n
    let (x, ls) ← e.src a n e.lits
    lanePick e s dd n x (e.used ls) fun L => (e.base L + b, false)

/-- The register of the lane at a chain position, when the neighbour is there to read (R133, R134). -/
def neighbour (s : State) (e : Env) (r n : Nat) (pos : Int) : Option (List RegVal) :=
  let total := e.groups * e.waves
  if pos < 0 then none
  else
    let k := pos.toNat / 32
    let L := pos.toNat % 32
    let own := e.group * e.waves + e.wave
    if total ≤ k then none
    else if k = own then
      if e.lanes.contains L then some ((upto n).map fun i => e.w.getV (r + i) L) else none
    else match s.wave? (.user e.task e.gang k) with
      | none => none
      | some w =>
        if e.handler || (w.slice (L / 4)).exited then none else some ((upto n).map fun i => w.getV (r + i) L)

/-- NBR (R133, R370): a lane whose neighbour is absent, inactive or exited keeps D. -/
def execNbr (d a : Opd) (next : Bool) (dist : Nat) (s : State) : Result :=
  issue 0x72 s fun e => do
    let t ← e.lowType fun _ => true
    let n := t.opWidth / 32
    if dist = 0 then throw badOperand
    let dd ← e.vecDst d n
    let r ← e.vecReg a n
    if r % n ≠ 0 then throw badOperand
    goOn (s.write e (e.lanes.flatMap fun L =>
      let pos : Int := ((e.group * e.waves + e.wave) * 32 + L : Nat)
      match neighbour s e r n (if next then pos + dist else pos - dist) with
      | some vs => dd.writes n L (joinWords (vs.map (·.bits))) (vs.any (·.poison))
      | none => [])) 0

/-- The mask of a segment (R371): bit (L mod S) of each of its active lanes where the predicate holds. -/
def Env.ballot (e : Env) (p : Word) (L : Nat) : Nat :=
  maskOf (((e.mates L).filter fun j => bitOf p.toNat j).map fun j => j % e.seg)

/-- BALLOT (R371). -/
def execBallot (d : Opd) (p : PredF) (s : State) : Result :=
  issue 0x73 s fun e => do
    let dd ← e.dst d 1
    checkPred p true
    let m := e.w.predF p
    goOn (s.write e ((e.units dd.isVec).flatMap fun L => dd.writes 1 L (e.ballot m L) false)) 0

/-- VOTE (R371). -/
def execVote (p q : PredF) (md : Nat) (s : State) : Result :=
  issue 0x74 s fun e => do
    if 2 < md then throw badField
    checkPred p false
    checkPred q true
    let m := (e.w.predF q).toNat
    let vote := fun L =>
      let bs := (e.mates L).map fun j => bitOf m j
      match md with
      | 0 => bs.all id
      | 1 => bs.any id
      | _ => bs.all id || bs.all (!·)
    goOn (s.setWave e.ref (e.w.setPred p.idx e.active (laneMask (e.lanes.filter vote)))) 0

/-- A reduction of integer elements (R372): the exact add fitted, min, max, or bits. -/
def reduceInt (t : ETy) (m : BitVec 24) (op : Nat) (vs : Nats) : Nat × Flags :=
  let ys := vs.map t.int
  match op, ys with
  | 0, _ => fitT t m ys.sum
  | 1, y :: l => (truncInt t.width (l.foldl min y), 0)
  | 2, y :: l => (truncInt t.width (l.foldl max y), 0)
  | 3, _ => (vs.foldl (· &&& ·) (2 ^ t.width - 1), 0)
  | 4, _ => (vs.foldl (· ||| ·) 0, 0)
  | 5, _ => (vs.foldl Nat.xor 0, 0)
  -- the identities of R373, for the lowest lane of an exclusive scan
  | 1, [] => (truncInt t.width (satInt t.width (t.intSigned == some true) 1), 0)
  | _, _ => (truncInt t.width (satInt t.width (t.intSigned == some true) (-1)), 0)

/-- A reduction of float elements (R372): the exact add rounded once, min or max. -/
def reduceFlt (t : ETy) (m : BitVec 24) (r : Rnd) (op : Nat) (vs : Nats) : Nat × Flags :=
  let xs := vs.map (t.ffmt.read (modeDN m))
  match op, xs with
  | 0, _ =>
    let (v, f) := sumVals r xs
    let (c, g) := t.ffmt.roundVal r (modeSAT m) (modeDN m) v
    (c, f ||| g)
  | 1, x :: l => ((t.ffmt.roundVal .rne false (modeDN m) (l.foldl FVal.min (x.min x))).1, orFlags (xs.map FVal.iv))
  | _, x :: l => ((t.ffmt.roundVal .rne false (modeDN m) (l.foldl FVal.max (x.max x))).1, orFlags (xs.map FVal.iv))
  | 1, [] => ((t.ffmt.roundVal .rne false false (.inf false)).1, 0)
  | _, [] => ((t.ffmt.roundVal .rne false false (.inf true)).1, 0)

/-- A reduction of one element over chosen lanes, in lane L (R372, R373). -/
def reduceAt (t : ETy) (m : BitVec 24) (op L i : Nat) (vs : Nats) : Nat × Flags :=
  if t.isInt then reduceInt t m op vs else reduceFlt t m (rndAt t m L i) op vs

/-- The reductions and scans (R372, R373): `members L` gives the lanes that enter lane L's result. -/
def reduceOp (op : Nat) (accept : ETy → Bool) (ops : ETy → Nat) (d a : Opd) (k : Nat) (members : Env → Nat → Nats)
    (s : State) : Result :=
  issue op s fun e => do
    let t ← e.lowType accept
    if ops t ≤ k then throw badField
    let n := t.opWidth / 32
    let dd ← e.vecDst d n
    let (x, ls) ← e.src a n e.lits
    e.checkPoison e.lanes [(x, n)]
    let m := e.mode e.low
    let rs := e.lanes.map fun L =>
      let es := (upto t.count).map fun i =>
        reduceAt t m k L i ((members e L).map fun j => elemOf t.width (e.read n j x).1 i)
      (L, packElems t.width (es.map (·.1)), orFlags (es.map (·.2)))
    goOn (s.write e (rs.flatMap (fun r => dd.writes n r.1 r.2.1 false) ++ [.sticky (orFlags (rs.map (·.2.2)))]))
      (e.used ls)

/-- REDI (R372). -/
def execRedi (d a : Opd) (op : Nat) (s : State) : Result :=
  reduceOp 0x75 ETy.isInt (fun _ => 6) d a op Env.mates s

/-- REDF (R372). -/
def execRedf (d a : Opd) (op : Nat) (s : State) : Result :=
  reduceOp 0x76 ETy.isFloat (fun _ => 3) d a op Env.mates s

/-- SCAN (R373). -/
def execScan (d a : Opd) (excl : Bool) (op : Nat) (s : State) : Result :=
  reduceOp 0x78 (fun t => t.isInt || t.isFloat) (fun t => if t.isInt then 6 else 3) d a op
    (fun e L => (e.mates L).filter fun j => if excl then decide (j < L) else decide (j ≤ L)) s

/-- XRED (R374): onto the anchor of the lowest active lane of each segment. -/
def execXred (x y : Nat) (s : State) : Result :=
  issue 0x77 s fun e => do
    if noSum x || noSum y then throw badField
    let x ← xField x
    let y ← xField y
    e.sumPoison [y]
    let rs := e.lanes.map fun L =>
      let ms := e.mates L
      let z : XSum := { S := 0, E := (e.w.getX y (lowest L ms)).E }
      (L, ms.foldl (fun (a : XSum × Flags) j => let (v, f) := a.1.addSum (e.w.getX y j); (v, a.2 ||| f)) (z, 0))
    let w := rs.foldl (fun w r => w.setX x r.1 r.2.1) e.w
    goOn (s.setWave e.ref (w.orSticky e.p (orFlags (rs.map (·.2.2))))) 0

end Sys2Proof.Machine
end

