-- ==== Sys2Proof/Machine/Dispatch.lean ====
section
/-! DEFINITION. One arm per constructor of Instr: each calls its meaning. -/

namespace Sys2Proof.Machine

/-- What an instruction word or a step of the device does. -/
def exec (i : Instr) (s : State) : Host.Outcome State Fault Refusal :=
  match i with
  | .powerOn r => Sys2Proof.Machine.execPowerOn r s
  | .coldStart ep r => Sys2Proof.Machine.execColdStart ep r s
  | .warmStart ep bist r => Sys2Proof.Machine.execWarmStart ep bist r s
  | .fencedDieCooled r => Sys2Proof.Machine.execFencedDieCooled r s
  | .recoveryWindowWrite ep off data => Sys2Proof.Machine.execRecoveryWindowWrite ep off data s
  | .recover ep => Sys2Proof.Machine.execRecover ep s
  | .recoveryCheckDone r => Sys2Proof.Machine.execRecoveryCheckDone r s
  | .minup ep => Sys2Proof.Machine.execMinup ep s
  | .attGo ep ctx => Sys2Proof.Machine.execAttGo ep ctx s
  | .tokenCheck ep => Sys2Proof.Machine.execTokenCheck ep s
  | .tlbinv ep v => Sys2Proof.Machine.execTlbinv ep v s
  | .routeTableWrite ep id mask => Sys2Proof.Machine.execRouteTableWrite ep id mask s
  | .testRequest ep c => Sys2Proof.Machine.execTestRequest ep c s
  | .registerWrite ep off size v => Sys2Proof.Machine.execRegisterWrite ep off size v s
  | .stagingWrite ep win off data => Sys2Proof.Machine.execStagingWrite ep win off data s
  | .hostLaunch ep win len => Sys2Proof.Machine.execHostLaunch ep win len s
  | .hostGraph ep win len => Sys2Proof.Machine.execHostGraph ep win len s
  | .hostSignal ep win len => Sys2Proof.Machine.execHostSignal ep win len s
  | .hostWait ep win len => Sys2Proof.Machine.execHostWait ep win len s
  | .create ep win len => Sys2Proof.Machine.execCreate ep win len s
  | .destroy ep win len => Sys2Proof.Machine.execDestroy ep win len s
  | .bindQueue ep win len => Sys2Proof.Machine.execBindQueue ep win len s
  | .unbindQueue ep win len => Sys2Proof.Machine.execUnbindQueue ep win len s
  | .quota ep win len => Sys2Proof.Machine.execQuota ep win len s
  | .limits ep win len => Sys2Proof.Machine.execLimits ep win len s
  | .monHalt ep win len => Sys2Proof.Machine.execMonHalt ep win len s
  | .monResume ep win len => Sys2Proof.Machine.execMonResume ep win len s
  | .monStep ep win len => Sys2Proof.Machine.execMonStep ep win len s
  | .monReadreg ep win len => Sys2Proof.Machine.execMonReadreg ep win len s
  | .monWritereg ep win len => Sys2Proof.Machine.execMonWritereg ep win len s
  | .monReadmem ep win len => Sys2Proof.Machine.execMonReadmem ep win len s
  | .monSetbp ep win len => Sys2Proof.Machine.execMonSetbp ep win len s
  | .monDump ep win len => Sys2Proof.Machine.execMonDump ep win len s
  | .monOpen ep win len => Sys2Proof.Machine.execMonOpen ep win len s
  | .monClose ep win len => Sys2Proof.Machine.execMonClose ep win len s
  | .packetStart q => Sys2Proof.Machine.execPacketStart q s
  | .preemptionPointSave t g => Sys2Proof.Machine.execPreemptionPointSave t g s
  | .forcedFullSave t g => Sys2Proof.Machine.execForcedFullSave t g s
  | .gangRetire t g => Sys2Proof.Machine.execGangRetire t g s
  | .nodeStart q => Sys2Proof.Machine.execNodeStart q s
  | .nodeComplete q node => Sys2Proof.Machine.execNodeComplete q node s
  | .slotPrediction c start len => Sys2Proof.Machine.execSlotPrediction c start len s
  | .sensorSample dram junction => Sys2Proof.Machine.execSensorSample dram junction s
  | .refreshCommand d => Sys2Proof.Machine.execRefreshCommand d s
  | .dieFence d => Sys2Proof.Machine.execDieFence d s
  | .powerLimit watts n term => Sys2Proof.Machine.execPowerLimit watts n term s
  | .testAttempt c => Sys2Proof.Machine.execTestAttempt c s
  | .testComplete c pass => Sys2Proof.Machine.execTestComplete c pass s
  | .energySample t uj => Sys2Proof.Machine.execEnergySample t uj s
  | .quenchComplete t => Sys2Proof.Machine.execQuenchComplete t s
  | .stepToken c k => Sys2Proof.Machine.execStepToken c k s
  | .crucibleStop t g => Sys2Proof.Machine.execCrucibleStop t g s
  | .ingotReload t g => Sys2Proof.Machine.execIngotReload t g s
  | .ingotLoadComplete ctx idx => Sys2Proof.Machine.execIngotLoadComplete ctx idx s
  | .ladleOpBegin t g grp => Sys2Proof.Machine.execLadleOpBegin t g grp s
  | .ladleOpPerformed t g grp n => Sys2Proof.Machine.execLadleOpPerformed t g grp n s
  | .operationComplete id => Sys2Proof.Machine.execOperationComplete id s
  | .pageWalk c ctx va => Sys2Proof.Machine.execPageWalk c ctx va s
  | .fetchLineReturn w p => Sys2Proof.Machine.execFetchLineReturn w p s
  | .remoteRequest src req => Sys2Proof.Machine.execRemoteRequest src req s
  | .remoteAcknowledgement id reply => Sys2Proof.Machine.execRemoteAcknowledgement id reply s
  | .cxlCompletion id reply => Sys2Proof.Machine.execCxlCompletion id reply s
  | .transactionFlit link flit => Sys2Proof.Machine.execTransactionFlit link flit s
  | .idleFlit link => Sys2Proof.Machine.execIdleFlit link s
  | .flitResendRequest link seq => Sys2Proof.Machine.execFlitResendRequest link seq s
  | .fenceNotice target => Sys2Proof.Machine.execFenceNotice target s
  | .retrainRequest link => Sys2Proof.Machine.execRetrainRequest link s
  | .linkIdleTimeout link => Sys2Proof.Machine.execLinkIdleTimeout link s
  | .retrainComplete link => Sys2Proof.Machine.execRetrainComplete link s
  | .cxlPortFence p => Sys2Proof.Machine.execCxlPortFence p s
  | .patrolScrub d line outcome => Sys2Proof.Machine.execPatrolScrub d line outcome s
  | .faultDelivery core => Sys2Proof.Machine.execFaultDelivery core s
  | .impreciseFault w p => Sys2Proof.Machine.execImpreciseFault w p s
  | .mode m => Sys2Proof.Machine.execMode m s
  | .bra b => Sys2Proof.Machine.execBra b s
  | .brp p b => Sys2Proof.Machine.execBrp p b s
  | .brs z a b => Sys2Proof.Machine.execBrs z a b s
  | .call d b => Sys2Proof.Machine.execCall d b s
  | .ret a => Sys2Proof.Machine.execRet a s
  | .waitf mask => Sys2Proof.Machine.execWaitf mask s
  | .waitt d a b => Sys2Proof.Machine.execWaitt d a b s
  | .waitm m any phase st => Sys2Proof.Machine.execWaitm m any phase st s
  | .prefi a n => Sys2Proof.Machine.execPrefi a n s
  | .elect p => Sys2Proof.Machine.execElect p s
  | .gets d arg num => Sys2Proof.Machine.execGets d arg num s
  | .sets a num => Sys2Proof.Machine.execSets a num s
  | .live ix => Sys2Proof.Machine.execLive ix s
  | .trap c => Sys2Proof.Machine.execTrap c s
  | .partn l => Sys2Proof.Machine.execPartn l s
  | .brx n a b => Sys2Proof.Machine.execBrx n a b s
  | .iadd d a b => Sys2Proof.Machine.execIadd d a b s
  | .isub d a b => Sys2Proof.Machine.execIsub d a b s
  | .imul d a b => Sys2Proof.Machine.execImul d a b s
  | .imulh d a b => Sys2Proof.Machine.execImulh d a b s
  | .imad d a b => Sys2Proof.Machine.execImad d a b s
  | .iaddc d a b => Sys2Proof.Machine.execIaddc d a b s
  | .isubb d a b => Sys2Proof.Machine.execIsubb d a b s
  | .iabs d a => Sys2Proof.Machine.execIabs d a s
  | .imin d a b => Sys2Proof.Machine.execImin d a b s
  | .imax d a b => Sys2Proof.Machine.execImax d a b s
  | .andOp d a b => Sys2Proof.Machine.execAndOp d a b s
  | .orOp d a b => Sys2Proof.Machine.execOrOp d a b s
  | .xorOp d a b => Sys2Proof.Machine.execXorOp d a b s
  | .andn d a b => Sys2Proof.Machine.execAndn d a b s
  | .shl d a b => Sys2Proof.Machine.execShl d a b s
  | .shr d a b => Sys2Proof.Machine.execShr d a b s
  | .sra d a b => Sys2Proof.Machine.execSra d a b s
  | .rotl d a b => Sys2Proof.Machine.execRotl d a b s
  | .bfe d a b => Sys2Proof.Machine.execBfe d a b s
  | .bfi d a b => Sys2Proof.Machine.execBfi d a b s
  | .popc d a => Sys2Proof.Machine.execPopc d a s
  | .clz d a => Sys2Proof.Machine.execClz d a s
  | .brev d a => Sys2Proof.Machine.execBrev d a s
  | .icmp cond p a b => Sys2Proof.Machine.execIcmp cond p a b s
  | .sel d a b => Sys2Proof.Machine.execSel d a b s
  | .mov d a => Sys2Proof.Machine.execMov d a s
  | .idiv d a b => Sys2Proof.Machine.execIdiv d a b s
  | .irem d a b => Sys2Proof.Machine.execIrem d a b s
  | .pmov d a p => Sys2Proof.Machine.execPmov d a p s
  | .plop o d a b => Sys2Proof.Machine.execPlop o d a b s
  | .fadd d a b => Sys2Proof.Machine.execFadd d a b s
  | .fsub d a b => Sys2Proof.Machine.execFsub d a b s
  | .fmul d a b => Sys2Proof.Machine.execFmul d a b s
  | .ffma d a b => Sys2Proof.Machine.execFfma d a b s
  | .ffms d a b => Sys2Proof.Machine.execFfms d a b s
  | .fmin d a b => Sys2Proof.Machine.execFmin d a b s
  | .fmax d a b => Sys2Proof.Machine.execFmax d a b s
  | .fabs d a => Sys2Proof.Machine.execFabs d a s
  | .fneg d a => Sys2Proof.Machine.execFneg d a s
  | .fcmp cond p a b => Sys2Proof.Machine.execFcmp cond p a b s
  | .fclass d a => Sys2Proof.Machine.execFclass d a s
  | .fscale d a b => Sys2Proof.Machine.execFscale d a b s
  | .frnd d a => Sys2Proof.Machine.execFrnd d a s
  | .frcp d a => Sys2Proof.Machine.execFrcp d a s
  | .frsq d a => Sys2Proof.Machine.execFrsq d a s
  | .fsqrt d a => Sys2Proof.Machine.execFsqrt d a s
  | .fdiv d a b => Sys2Proof.Machine.execFdiv d a b s
  | .fexp2 d a => Sys2Proof.Machine.execFexp2 d a s
  | .flog2 d a => Sys2Proof.Machine.execFlog2 d a s
  | .fsin d a => Sys2Proof.Machine.execFsin d a s
  | .fcos d a => Sys2Proof.Machine.execFcos d a s
  | .ftanh d a => Sys2Proof.Machine.execFtanh d a s
  | .fdot2 d a b => Sys2Proof.Machine.execFdot2 d a b s
  | .cvt d a p t => Sys2Proof.Machine.execCvt d a p t s
  | .cvtr d a p t => Sys2Proof.Machine.execCvtr d a p t s
  | .qhad d a b => Sys2Proof.Machine.execQhad d a b s
  | .form d a h c => Sys2Proof.Machine.execForm d a h c s
  | .unform d a h k => Sys2Proof.Machine.execUnform d a h k s
  | .xclr x a => Sys2Proof.Machine.execXclr x a s
  | .xadd x a sl y => Sys2Proof.Machine.execXadd x a sl y s
  | .xmad x a b => Sys2Proof.Machine.execXmad x a b s
  | .xrnd d x e => Sys2Proof.Machine.execXrnd d x e s
  | .xmov d a r w => Sys2Proof.Machine.execXmov d a r w s
  | .kgen d a => Sys2Proof.Machine.execKgen d a s
  | .shfl d a b => Sys2Proof.Machine.execShfl d a b s
  | .shfx d a b => Sys2Proof.Machine.execShfx d a b s
  | .nbr d a r n => Sys2Proof.Machine.execNbr d a r n s
  | .ballot d p => Sys2Proof.Machine.execBallot d p s
  | .vote p q md => Sys2Proof.Machine.execVote p q md s
  | .redi d a op => Sys2Proof.Machine.execRedi d a op s
  | .redf d a op => Sys2Proof.Machine.execRedf d a op s
  | .xred x y => Sys2Proof.Machine.execXred x y s
  | .scan d a e op => Sys2Proof.Machine.execScan d a e op s
  | .bcast d a n => Sys2Proof.Machine.execBcast d a n s
  | .ldb d a b => Sys2Proof.Machine.execLdb d a b s
  | .ldsb d a b => Sys2Proof.Machine.execLdsb d a b s
  | .ldh d a b => Sys2Proof.Machine.execLdh d a b s
  | .ldsh d a b => Sys2Proof.Machine.execLdsh d a b s
  | .ldw d a b => Sys2Proof.Machine.execLdw d a b s
  | .ldd d a b => Sys2Proof.Machine.execLdd d a b s
  | .ldq d a b => Sys2Proof.Machine.execLdq d a b s
  | .stb d a b => Sys2Proof.Machine.execStb d a b s
  | .sth d a b => Sys2Proof.Machine.execSth d a b s
  | .stw d a b => Sys2Proof.Machine.execStw d a b s
  | .std d a b => Sys2Proof.Machine.execStd d a b s
  | .stq d a b => Sys2Proof.Machine.execStq d a b s
  | .ldaw d a b => Sys2Proof.Machine.execLdaw d a b s
  | .ldad d a b => Sys2Proof.Machine.execLdad d a b s
  | .stlw d a b => Sys2Proof.Machine.execStlw d a b s
  | .stld d a b => Sys2Proof.Machine.execStld d a b s
  | .aadd d a b => Sys2Proof.Machine.execAadd d a b s
  | .amin d a b => Sys2Proof.Machine.execAmin d a b s
  | .amax d a b => Sys2Proof.Machine.execAmax d a b s
  | .aand d a b => Sys2Proof.Machine.execAand d a b s
  | .aor d a b => Sys2Proof.Machine.execAor d a b s
  | .axor d a b => Sys2Proof.Machine.execAxor d a b s
  | .axch d a b => Sys2Proof.Machine.execAxch d a b s
  | .acas d a b => Sys2Proof.Machine.execAcas d a b s
  | .afadd d a b => Sys2Proof.Machine.execAfadd d a b s
  | .axsum d a x => Sys2Proof.Machine.execAxsum d a x s
  | .ainc d a b => Sys2Proof.Machine.execAinc d a b s
  | .tagl d a => Sys2Proof.Machine.execTagl d a s
  | .tags a b => Sys2Proof.Machine.execTags a b s
  | .tagi d a => Sys2Proof.Machine.execTagi d a s
  | .cflush a b => Sys2Proof.Machine.execCflush a b s
  | .pref h a b => Sys2Proof.Machine.execPref h a b s
  | .ldfe d a b => Sys2Proof.Machine.execLdfe d a b s
  | .tcfg t a => Sys2Proof.Machine.execTcfg t a s
  | .tld t a b => Sys2Proof.Machine.execTld t a b s
  | .tst t a b => Sys2Proof.Machine.execTst t a b s
  | .twr t a h r => Sys2Proof.Machine.execTwr t a h r s
  | .trd d t h r => Sys2Proof.Machine.execTrd d t h r s
  | .tzero t => Sys2Proof.Machine.execTzero t s
  | .mma l k t b => Sys2Proof.Machine.execMma l k t b s
  | .mmat l k t u p => Sys2Proof.Machine.execMmat l k t u p s
  | .ard d q k b => Sys2Proof.Machine.execArd d q k b s
  | .aclr k => Sys2Proof.Machine.execAclr k s
  | .igalloc d a => Sys2Proof.Machine.execIgalloc d a s
  | .igload d a b => Sys2Proof.Machine.execIgload d a b s
  | .igpin a => Sys2Proof.Machine.execIgpin a s
  | .igunpin a => Sys2Proof.Machine.execIgunpin a s
  | .igrevoke a => Sys2Proof.Machine.execIgrevoke a s
  | .igstat d a => Sys2Proof.Machine.execIgstat d a s
  | .lcopy d a v x w sl => Sys2Proof.Machine.execLcopy d a v x w sl s
  | .lgath d a v w sl => Sys2Proof.Machine.execLgath d a v w sl s
  | .lscat d a v w sl => Sys2Proof.Machine.execLscat d a v w sl s
  | .lfill d a v x w sl => Sys2Proof.Machine.execLfill d a v x w sl s
  | .shld sl a => Sys2Proof.Machine.execShld sl a s
  | .mset d m l y h f t => Sys2Proof.Machine.execMset d m l y h f t s
  | .mstat d m => Sys2Proof.Machine.execMstat d m s
  | .tlsig d a => Sys2Proof.Machine.execTlsig d a s
  | .tlrd d a ix => Sys2Proof.Machine.execTlrd d a ix s
  | .bar a n => Sys2Proof.Machine.execBar a n s
  | .bara a n => Sys2Proof.Machine.execBara a n s
  | .barw d a => Sys2Proof.Machine.execBarw d a s
  | .launch d a b => Sys2Proof.Machine.execLaunch d a b s
  | .gsig d a => Sys2Proof.Machine.execGsig d a s
  | .gadd d a b => Sys2Proof.Machine.execGadd d a b s
  | .shev sl => Sys2Proof.Machine.execShev sl s
  | .pour d => Sys2Proof.Machine.execPour d s
  | .seal a => Sys2Proof.Machine.execSeal a s
  | .acqv d a b => Sys2Proof.Machine.execAcqv d a b s
  | .relv d a b => Sys2Proof.Machine.execRelv d a b s
  | .vstat d a => Sys2Proof.Machine.execVstat d a s
  | .mbox d a r => Sys2Proof.Machine.execMbox d a r s
  | .pmark m => Sys2Proof.Machine.execPmark m s
  | .ckpt d a b => Sys2Proof.Machine.execCkpt d a b s
  | .haltb d a => Sys2Proof.Machine.execHaltb d a s
  | .scrub d a x y z => Sys2Proof.Machine.execScrub d a x y z s
  | .clauseHeader w => Sys2Proof.Machine.execClauseHeader w s
  | .unassignedOpcode w => Sys2Proof.Machine.execUnassignedOpcode w s
  | .uncorrectableError w k r lane => Sys2Proof.Machine.execUncorrectableError w k r lane s
  | .fuseWriteDone => Sys2Proof.Machine.execFuseWriteDone s
  | .reportReady => Sys2Proof.Machine.execReportReady s
  | .tlbinvDone => Sys2Proof.Machine.execTlbinvDone s
  | .stagingAreaTimeout => Sys2Proof.Machine.execStagingAreaTimeout s
  | .waitTimeout => Sys2Proof.Machine.execWaitTimeout s
  | .gangPlacement => Sys2Proof.Machine.execGangPlacement s
  | .ageing => Sys2Proof.Machine.execAgeing s
  | .timeSliceExpiry => Sys2Proof.Machine.execTimeSliceExpiry s
  | .notifyTimeout => Sys2Proof.Machine.execNotifyTimeout s
  | .bubbleSlotOpen => Sys2Proof.Machine.execBubbleSlotOpen s
  | .bubbleSlotClose => Sys2Proof.Machine.execBubbleSlotClose s
  | .testDeferral => Sys2Proof.Machine.execTestDeferral s
  | .evacuationWatchdog => Sys2Proof.Machine.execEvacuationWatchdog s
  | .timeLimitCrossing => Sys2Proof.Machine.execTimeLimitCrossing s
  | .requestTimeout => Sys2Proof.Machine.execRequestTimeout s
  | .retrainTimeout => Sys2Proof.Machine.execRetrainTimeout s
  | .hangWatchdog => Sys2Proof.Machine.execHangWatchdog s
  | .hmaskClear => Sys2Proof.Machine.execHmaskClear s
  | .profileTick => Sys2Proof.Machine.execProfileTick s
  | .waittTimeout => Sys2Proof.Machine.execWaittTimeout s
  | .nop => Sys2Proof.Machine.execNop s
  | .join => Sys2Proof.Machine.execJoin s
  | .exitLanes => Sys2Proof.Machine.execExitLanes s
  | .regang => Sys2Proof.Machine.execRegang s
  | .ifence => Sys2Proof.Machine.execIfence s
  | .yield => Sys2Proof.Machine.execYield s
  | .sleep => Sys2Proof.Machine.execSleep s
  | .wake => Sys2Proof.Machine.execWake s
  | .sigchk => Sys2Proof.Machine.execSigchk s
  | .rft => Sys2Proof.Machine.execRft s
  | .brk => Sys2Proof.Machine.execBrk s
  | .fence => Sys2Proof.Machine.execFence s
  | .fencee => Sys2Proof.Machine.execFencee s
  | .doneTask => Sys2Proof.Machine.execDoneTask s

end Sys2Proof.Machine
end

