-- ==== Sys2Proof/Machine/Schedule.lean ====
section
/-! DEFINITION. What a step of the model does: which word a path meets (R278), which paths may issue (R103, R104, R111,
R116), what an issue leaves behind (R79, R104, R105, R310), how device time passes (R14, R265), and the moves that the
model makes when the plan in State names none. -/

namespace Sys2Proof.Machine

/-! ### Who may issue (R103, R111, R112, R116, R118) -/

/-- A gang issues no more instructions: its image is taken, or it has been chosen and stops at any boundary. -/
def State.gangStops (s : State) (k : Task) (g : Gang) (caster : Bool) : Bool :=
  g.saved.isSome || g.forceDue s.now (fun _ => true) || (caster && g.chosen != []) || (k.idempotent && s.leaves k g)

/-- The stream of a path runs: its gang is in its place and not stopping, or it is a handler wave. -/
def State.streamRuns (s : State) (e : Env) : Bool :=
  match e.ref with
  | .handler _ => true
  | .user t g _ | .caster t g =>
    match s.gang? t g, s.task? t with
    | some x, some k => (x.state == .placing || x.state == .running) && !(s.gangStops k x e.caster)
    | _, _ => false

/-- A lane of the path's slices is not sleeping (R103). -/
def Env.awake (e : Env) : Bool :=
  e.pathSlices.any fun i => ((e.w.slice i).ended ||| sliceLanes e.path.sleep i) != 0xF

/-- The path could issue: it runs or waits at an instruction, and its line is in the fetch buffer. -/
def State.offered (s : State) (e : Env) : Bool :=
  s.streamRuns e && e.awake && !e.path.needsLine && e.path.wait != .fault
    && (match e.path.state with
      | .run | .blocked | .regang => true
      | .free | .halted => false)

/-- A path is ready (R103). -/
def State.ready (s : State) (x : WaveRef × Nat) : Bool :=
  match s.env? x.1 x.2 with
  | some e => s.offered e && e.path.state == .run
  | none => false

/-- The path may be offered an issue: the ready paths that it waits for behind its own YIELD have been offered one (R310). -/
def State.mayIssue (s : State) (e : Env) : Bool := s.offered e && e.path.awaits.all fun y => !(s.ready y)

/-- The paths that compete for the issue of a path's core, or of its cluster's caster (R104). -/
def State.rivals (s : State) (e : Env) : List (WaveRef × Nat) :=
  s.allPaths.filter fun y => y != (e.ref, e.p) && s.ready y && (match y.1 with
    | .user _ _ _ => !e.caster && s.coreOf y.1 == e.core
    | .caster t g => e.caster && ((s.gang? t g).map (·.cluster)) == some e.cluster
    | .handler c => !e.caster && c == e.core)

/-- A SETBP slot of the context matches the word that the path is about to execute (R267). -/
def State.atBreak (s : State) (e : Env) : Bool :=
  !e.handler && e.path.state == .run && e.w.bpSeen != some e.pc && (match s.ctx? e.ctx with
    | some c => c.breaks.any fun (_, a) => a == e.pc
    | none => false)

/-! ### What an issue leaves behind -/

/-- Forget that a breakpoint was reported, once its word has been executed (R267). -/
def State.passBreak (s : State) (e : Env) : State :=
  if e.w.bpSeen.isSome then s.resumeWave e.ref fun w => { w with bpSeen := none } else s

/-- A placed gang runs once the first instruction of every wave and of its caster has issued (R79). -/
def Gang.started (g : Gang) : Gang :=
  if g.state == .placing && g.waves.all (fun w => w.issued || w.finished) && (g.caster.issued || g.caster.finished)
  then { g with state := .running } else g

/-- The place of an issue in the rounds of R104: which of a cluster's five rounds, and where in it. -/
def State.roundKey (s : State) (e : Env) : Option (Nat × Nat) :=
  match e.ref with
  | .handler _ => none
  | .caster t g => (s.gang? t g).map fun x => (4, x.thread)
  | .user t g w => (s.gang? t g).map fun x => (e.core % 4, 8 * nth 0 x.slots w + e.p)

/-- An issue is counted and takes its place in the round (R104, R271), starts its task's time (R105) and its gang
(R79), and is what yielded paths wait for (R310). -/
def State.noteIssue (s : State) (e : Env) : State :=
  match s.roundKey e with
  | none => s
  | some (port, key) =>
    let count := fun (c : Counters) => if port < 4 then { c with issue := setNth c.issue port (nth 0 c.issue port + 1) } else c
    let s := s.mapCluster e.cluster fun c => { c with lastIssued := setNth c.lastIssued port key, counters := count c.counters }
    let s := s.mapTask e.task fun t => if t.firstIssue.isNone ∧ e.gang = 0 then { t with firstIssue := some s.now } else t
    (s.resumeWave e.ref fun w => { w with issued := true }).mapGang e.task e.gang Gang.started

/-- A yielded path waits for the other ready paths (R310), and every other one that waits for this path has seen it
issue. -/
def State.noteYield (s : State) (e : Env) : State :=
  let others := s.allPaths.filter fun y => (s.pathAt y).awaits.contains (e.ref, e.p)
  let s := others.foldl (fun s y => s.mapPath y fun p => { p with awaits := p.awaits.filter (· != (e.ref, e.p)) }) s
  if (s.pathAt (e.ref, e.p)).yielded then
    let l := s.rivals e
    s.mapPath (e.ref, e.p) fun p => { p with yielded := false, awaits := l }
  else s

/-- What follows an issue, whatever it was: no path is in hand any more; an instruction that a running path met is
noted; a monitor STEP ends at the next boundary (R267). -/
def State.afterIssue (s : State) (e : Env) (i : Instr) : State :=
  let s : State := { s with cur := none }
  match i with
  | .clauseHeader _ => s
  | _ =>
    let s := (if e.path.state = .run then (s.noteIssue e).noteYield e else s).passBreak e
    s.resumeWave e.ref Wave.endStep

/-! ### The moves -/

/-- Revoked ingots that no MMA uses any more are freed (R241). -/
def State.freeRevoked (s : State) : State :=
  s.contexts.foldl (fun s (c, x) => match x with
    | some x => (x.ingots.filter fun i => i.2.state == .revoked).foldl (fun s i => s.freeIngot c i.1) s
    | none => s) s

/-- What the device settles after every move: route writes and requests that were held (R35, R44), signals, waits and notify
records that were waiting (R54, R61, R416), WAITTs whose time is over (R319), questions and ingots that are nobody's any more, and messages to the monitor
(R70). -/
def State.settle (s : State) : State :=
  s.settleRoutes.releaseHeld.answerHome.settleNumbers.settleAllFailed.performReleases.beginAllNested.performSignals.settleWaits.endWaitts.postNotices.freeRevoked.dropAsks.pumpAll

/-- Apply a function to the next state of an outcome. -/
def onNext (f : State → State) (r : Result) : Result :=
  match r with
  | .next t => .next (f t)
  | .fault x => .fault x
  | .refused x => .refused x

/-- A path issues the word it meets: its breakpoint, or the execution of that word with the path in hand. -/
def State.issueMove (s : State) (r : WaveRef) (p : Nat) : Result :=
  match s.env? r p with
  | none => .next s
  | some e =>
    if !(s.mayIssue e) then .next s
    else if s.atBreak e then .next (s.takeFault r p { code := 0x72 })
    else
      match e.path.meets with
      | none => .next s
      | some i => onNext (fun t => t.afterIssue e i) (exec i { s with cur := some (r, p) })

/-- A path's wait is not counted by the hang watchdog (R265): at a held barrier, or while the path is halted. -/
def Gang.uncounted (g : Gang) (p : Path) : Bool :=
  match p.wait with
  | .bar b | .barw b => g.barHeld (nth {} g.barriers b)
  | _ => p.state == .halted && p.paused

/-- Time that the hang watchdog does not count for a gang's waits (R265), nor the evacuation watchdog for a halted gang (R101). -/
def Gang.holdWaits (n : Nat) (g : Gang) : Gang :=
  let late := fun (p : Path) => if g.uncounted p then { p with waitSince := p.waitSince + n } else p
  let g : Gang := if g.halted then { g with lastPp := g.lastPp + n } else g
  if g.waves.any fun w => w.paths.any g.uncounted then { g with waves := g.waves.map fun w => w.mapPaths late } else g

/-- The ends of the timeouts of WAITs that have started (R54). -/
def State.waitEnds (s : State) : Nats :=
  s.queues.filterMap fun q => q.2.waiting.bind fun x => waitEnd x.1 x.2

/-- The ticks at which running tasks reach their time limits (R105). -/
def State.limitEnds (s : State) : Nats :=
  (s.tasks.filter fun k => k.status == 0 && k.quench.isNone && k.kill.isNone && k.anytime && k.timeLimit != 0).filterMap fun k =>
    k.firstIssue.map fun t0 => t0 + (k.timeLimit + 9) / 10 * 10

/-- The moments that time does not pass by before what is due at them has happened: the next sample (R11), a new refresh band
(R12), the fence of a die (R13), the timeout of a WAIT (R54) or of a WAITT (R319), the end of a request (R36, R62) and a task's
time limit (R105). -/
def State.deadlines (s : State) : Nats :=
  (match s.sampledAt with
    | some t => [t + samplePeriod]
    | none => []) ++ s.dies.filterMap (·.bandDue) ++ s.dies.filterMap (·.fenceDue) ++ s.waitEnds ++ s.waittEnds.filter (s.now < ·)
    ++ (s.remote.filter (·.sent)).map (·.since + 2000000) ++ s.limitEnds

/-- The part of an amount of time that passes before the next deadline. -/
def State.span? (s : State) (n : Nat) : Nat := s.deadlines.foldl (fun n d => min n (d - s.now)) n

/-- Device time passes, up to the next deadline (R11–R14). -/
def State.pass (s : State) (n : Nat) : State :=
  let n := s.span? n
  let gs : List Gang := s.gangs.map (Gang.holdWaits n)
  { s with now := s.now + n, gangs := gs }

/-- Perform one move. -/
def State.perform (s : State) (m : Move) : Result :=
  match m with
  | .event i => onNext State.settle (exec i { s with cur := none })
  | .issue r p => onNext State.settle (s.issueMove r p)
  | .pass n => .next (s.pass n).settle

/-! ### The model's own plan -/

/-- The steps of a gang in its place that could be due. -/
def Gang.candidates (g : Gang) : List Instr :=
  let ladle : List (List Instr) := (upto g.ladle.length).map fun k =>
    .ladleOpBegin g.task g.index k :: (nth ({} : LadleQueue) g.ladle k).ops.map fun o => .ladleOpPerformed g.task g.index k o.n
  [.crucibleStop g.task g.index, .ingotReload g.task g.index, .preemptionPointSave g.task g.index,
    .forcedFullSave g.task g.index, .gangRetire g.task g.index] ++ ladle.flatten

/-- The steps of a queue that could be due. -/
def Queue.candidates (x : Queue) (q : Nat) : List Instr :=
  let nodes : Nats := match x.graph with
    | some g => g.finished.map (·.1) ++ g.copies.map (·.1)
    | none => []
  nodes.map (fun i => Instr.nodeComplete q i) ++ [.packetStart q, .nodeStart q]

/-- The steps of the engines, completions and faults that could be due. -/
def State.workCandidates (s : State) : List Instr :=
  let live := s.gangs.filter Gang.resident
  let loads : List Instr := s.contexts.flatMap fun c => match c.2 with
    | some x => (x.ingots.filter fun i => i.2.load.isSome).map fun i => .ingotLoadComplete c.1 i.1
    | none => []
  List.flatten [s.ops.map fun o => Instr.operationComplete o.id, s.imprecise.map fun m => .impreciseFault m.wave m.path,
    s.cores.map fun c => .faultDelivery c.1, live.flatMap Gang.candidates,
    (live.map (·.cluster)).eraseDups.flatMap fun c => [.stepToken c 0, .stepToken c 1], loads,
    (s.tasks.filter fun t => t.quench.isSome).map fun t => .quenchComplete t.id, s.queues.flatMap fun q => q.2.candidates q.1]

/-- The steps of the scheduler and of the timers that could be due. -/
def State.timerCandidates (s : State) : List Instr :=
  let tests := (upto Config.clusters).filter fun c =>
    let t := (s.cluster c).test
    t.attempt.isSome || t.running.isSome || decide (t.nextAt ≤ s.now)
  List.flatten [s.clusters.filterMap fun c => c.2.bubble.seen.map fun x => Instr.slotPrediction c.1 x.1 x.2,
    [.gangPlacement, .waitTimeout, .waittTimeout, .timeLimitCrossing, .ageing, .timeSliceExpiry, .bubbleSlotClose,
      .bubbleSlotOpen, .testDeferral, .evacuationWatchdog, .hangWatchdog, .hmaskClear, .profileTick, .notifyTimeout,
      .stagingAreaTimeout, .requestTimeout, .retrainTimeout, .tlbinvDone, .fuseWriteDone, .reportReady],
    tests.flatMap fun c => [.testComplete c true, .testAttempt c]]

/-- The steps of the dies and links that could be due. -/
def State.unitCandidates (s : State) : List Instr :=
  let junction := (upto Config.clusters).map fun c => (s.cluster c).junction
  List.flatten [((upto 4).filter fun d => (s.die d).pendingBand != (s.die d).band).map Instr.refreshCommand,
    ((upto 4).filter fun d => (s.die d).fenceDue.isSome).map Instr.dieFence,
    if s.sampleDue then [.sensorSample (s.dies.flatMap (·.sensors)) junction] else [],
    if s.start.pendingWarm then [.fencedDieCooled s.sameDomain] else [],
    ((upto 12).filter fun n => (s.link n).up && decide ((s.link n).lastSent + 1000 ≤ s.now)).map Instr.idleFlit,
    ((upto 12).filter fun n => (s.link n).up).map Instr.linkIdleTimeout]

/-- The steps of the device that could be due. -/
def State.candidates (s : State) : List Instr :=
  if !s.powered then [.powerOn {}]
  else if s.start.pendingCold then [.fencedDieCooled s.sameDomain]
  else s.workCandidates ++ (s.timerCandidates ++ s.unitCandidates)

/-- A step of the device is due: it changes the state. -/
def State.due (s : State) (i : Instr) : Bool :=
  match exec i s with
  | .next t => decide (t ≠ s)
  | _ => false

/-- Where a ready path stands in the order of R104: by core, the handler wave first, then from the last issued on. -/
def State.orderKey (s : State) (x : WaveRef × Nat) : Nat :=
  match s.env? x.1 x.2 with
  | none => 0
  | some e =>
    match s.roundKey e with
    | none => 512 * e.core
    | some (port, key) =>
      let last := nth 0 (s.cluster e.cluster).lastIssued port
      if port < 4 then 512 * e.core + 1 + (key + 127 - last) % 128 else 512 * e.core + 129 + (key + 3 - last) % 4

/-- A waiting path whose instruction would go on if it were offered again. -/
def State.wakes (s : State) (x : WaveRef × Nat) : Bool :=
  match s.env? x.1 x.2 with
  | none => false
  | some e => s.mayIssue e && e.path.state != .run && (match s.issueMove x.1 x.2 with
    | .next t => decide (t ≠ s)
    | _ => false)

/-- The moves that the model makes by itself: a step of the device that is due; else the lines that paths wait for; else
one issue of every ready path in the order of R104, with the waits that can end, and a nanosecond; else time passes. -/
def State.plan (s : State) : List Move :=
  match s.candidates.find? s.due with
  | some i => [.event i]
  | none =>
    let ps := s.allPaths
    match ps.filter fun x => (s.pathAt x).needsLine && (s.pathAt x).state != .halted && s.due (.fetchLineReturn x.1 x.2) with
    | x :: l => (x :: l).map fun y => .event (.fetchLineReturn y.1 y.2)
    | [] =>
      let rs := (ps.filter fun x => s.ready x && ((s.env? x.1 x.2).any s.mayIssue)).mergeSort
        fun a b => decide (s.orderKey a ≤ s.orderKey b)
      match rs ++ ps.filter s.wakes with
      | [] => [.pass 10]
      | l => l.map (fun x => .issue x.1 x.2) ++ [.pass 1]

/-- The next move and the state that keeps the moves after it. -/
def State.nextMove (s : State) : Option (Move × State) :=
  match s.moves with
  | m :: l => some (m, { s with moves := l })
  | [] => match s.plan with
    | m :: l => some (m, { s with moves := l })
    | [] => none

/-! ### One instruction placed where a path issues it -/

/-- Literal words that an instruction word asks for at most: control instructions take one for each LIT field (R306),
others up to four (R290). -/
def probeLits (w : Nat) : Nat :=
  let n := ([16, 8, 0].filter fun k => w / 2 ^ k % 256 == 0xFE).length
  if w / 2 ^ 24 < 0x20 then n else 4 * n

/-- A line at address 128 whose word 2 is a clause header, word 3 the instruction and whose other words are literals of
value 0 (R276, R280). -/
def probeLine (w : Nat) : LineBuf :=
  { base := 128
    words := [0xAAAAAAA1, 0x1AAAAAAA, BitVec.ofNat 32 ((1 + probeLits w) * 2 ^ 22), BitVec.ofNat 32 w] ++ List.replicate 28 0 }

/-- A path at that instruction, inside its clause. -/
def probePath (w : Nat) (lanes : Word) (slices : BitVec 8) : Path :=
  { state := .run, pc := 140, active := lanes, slices := slices, ref := lanes
    clause := some { last := 3 + probeLits w, fa := none, fb := none }, buf := some (probeLine w) }

/-- The launch packet of the task that carries the instruction: one gang of one group of one wave of 12 blocks, which is
the producer, a caster thread, and every tile and bank (R56). -/
def probePacket : Bytes :=
  leBytes 8 128 ++ leBytes 8 128 ++ leBytes 4 1 ++ leBytes 4 0x000C0101 ++ leBytes 4 65536 ++ leBytes 4 0x01000820
    ++ List.replicate 16 0 ++ leBytes 2 0xFFFF ++ List.replicate 78 0

/-- The stream that issues an instruction: what only a caster thread or only a handler wave may issue goes there
(R297, R298). -/
def probeRef (task w : Nat) : WaveRef :=
  let op := w / 2 ^ 24 % 256
  if casterOnly op then .caster task 0
  else if privilegedOp op then .handler 0
  else .user task 0 0

/-- The same state with an instruction word where the next step issues it: a context, a task and a gang that carry it,
and a path whose fetch buffer holds it. It stands for the loading of a program from outside (R46, R59). -/
def State.placeWord (s : State) (w : Nat) : State :=
  let id := s.nextTask
  let r := probeRef id w
  let k : Task := { id := id, ctx := 0, queue := 0, tag := 0, notify := none, packet := probePacket, limits := {}, cls := 3,
                    startedAt := s.now, lastPlaced := s.now, nextGang := 1 }
  let wave := { launchWave k with paths := probePath w 0xFFFFFFFF 0xFF :: List.replicate 7 {} }
  let caster := { launchCaster k with paths := probePath w 1 1 :: List.replicate 7 {} }
  let g : Gang := { task := id, index := 0, state := .running, waves := [wave], caster := caster, tiles := freshTiles 32
                    banks := List.replicate 8 {}, bankPhys := upto 8, ladle := [{}], placedAt := s.now, everPlaced := true
                    lastPp := s.now, slots := [0] }
  let s : State := { s with moves := .issue r 0 :: s.moves, tasks := s.tasks ++ [k], gangs := s.gangs ++ [g] }
  let s := match s.ctx? 0 with
    | some _ => s
    | none => s.setCtx 0 (some { owner := 0, tenant := 0, debuggable := false, retain := false, root := 0 })
  match r with
  | .handler c =>
    let rec_ : FaultRec := { code := 0x72, disposition := 1, task := id, wave := .user id 0 0 }
    let h := { handlerWave 136 with paths := probePath w 0xFFFFFFFF 0xFF :: List.replicate 7 {} }
    s.setCore c { s.core c with records := (s.core c).records.set none 0 (some rec_), current := some 0, wave := some h }
  | _ => s

end Sys2Proof.Machine
end

