-- ==== Sys2Proof/Safety.lean ====
section
/-! DEFINITION. What counts as a safe run, and the invariants that claims are stated in. -/

namespace Sys2Proof.Machine

/-- A step that goes on. -/
def Result.isNext (r : Result) : Bool :=
  match r with
  | .next _ => true
  | _ => false

/-- `k` steps all go on. -/
def runsOn : Nat → State → Prop
  | 0, _ => True
  | k + 1, s => match step s with
    | .next t => runsOn k t
    | _ => False

/-- The memory is in canonical form: offsets strictly rising, no byte listed that reads as unlisted bytes do. -/
def State.memWf (s : State) : Bool := Memory.wf s.mem

/-- An instruction of opcode `op` is in hand: path `e.p` of stream `e.ref` issues it with what `e` holds, and its opcode
is not refused there (R274, R275 steps 1 and 2). -/
structure Issuing (s : State) (e : Env) (op : Nat) : Prop where
  hand : s.cur = some (e.ref, e.p)
  env : s.env? e.ref e.p = some e
  may : e.refuse op = none

/-- The wave after its issuing path has completed an instruction of `lits` literal words and goes on in line: the path
runs at the next word, and its signature has stepped over the opcode and ACTIVE (R260, R278). -/
def Wave.wentOn (w : Wave) (e : Env) (op lits : Nat) : Wave :=
  let y := w.path e.p
  w.setPath e.p { y with
    state := if y.state = .blocked ∨ y.state = .regang then .run else y.state
    wait := .none
    paused := false
    done := 0
    sig := sigIssue e.path.sig op (e.path.active ^^^ e.path.ref)
    pc := (e.after lits).1
    clause := (e.after lits).2 }

/-- A wave with its vector and scalar registers blank: what else it owns. -/
def Wave.blank (w : Wave) : Wave :=
  { w with vregs := [], slices := w.slices.map fun x => { x with regs := [] } }

/-- `w'` is `w` after results of `n` registers in destination `d`: position `L` of `us` (lane L, or slice L / 4 of a scalar
destination) holds the words of `v L`, with its poison. Every other register, and every other part of the wave, is as it
was (R123, R257, R287, R288). -/
structure Wrote (w w' : Wave) (d : Dst) (n : Nat) (us : Nats) (v : Nat → Nat × Bool) : Prop where
  vec : ∀ r L, L < 32 → w'.getV r L = match d with
    | .vec r0 => if r0 ≤ r ∧ r < r0 + n ∧ L ∈ us then { bits := wordOf (v L).1 (r - r0), poison := (v L).2 } else w.getV r L
    | _ => w.getV r L
  sca : ∀ r i, i < w.slices.length → w'.getS r i = match d with
    | .sca r0 => if r0 ≤ r ∧ r < r0 + n ∧ 4 * i ∈ us then { bits := wordOf (v (4 * i)).1 (r - r0), poison := (v (4 * i)).2 }
      else w.getS r i
    | _ => w.getS r i
  rest : w'.blank = w.blank

/-- A wave has the shape of R123 and R125: eight slices and eight path entries. -/
def Wave.shaped (w : Wave) : Bool := w.slices.length == 8 && w.paths.length == 8

end Sys2Proof.Machine
end

