-- ==== Sys2Proof/Certificates/Slice0/Obligations.lean ====
section
/-! DEFINITION. The statements about the machine, and before each group the rules of the manual that it is stated in,
written from the manual's tables and not from the meanings. -/

namespace Sys2Proof.Claims

open Sys2Proof.Machine

/-! ### Arithmetic entries (R331–R351) -/

/-- An arithmetic entry: its opcode, the types it accepts, its fields in the order of R290 with their widths in registers
(each a function of the registers of T's width), whether D is read, and its results' registers. -/
structure Entry where
  op : Nat
  accept : ETy → Bool
  dst : Opd
  srcs : Nat → List (Opd × Nat)
  readsD : Bool := false
  out : Nat → Nat := id
  /-- a class-B entry, which a completion flag can be assigned to (R336) -/
  classB : Bool := false

/-- The operands of an entry are resolved and its checks pass (R275 steps 3 to 5): T is accepted and gives `n` registers,
the destination is `d`, the sources are `xs` with their widths, `lits` literal words follow, no vector source stands under a
scalar destination, no source is poisoned where the entry runs, and a class-B entry has no flag assigned. -/
structure Resolved (e : Env) (f : Entry) (n : Nat) (d : Dst) (xs : List (Src × Nat)) (lits : Nat) : Prop where
  type : e.types f.accept = .ok n
  dst : e.dst f.dst (f.out n) = .ok d
  srcs : ∃ ys ls, e.srcs (f.srcs n) e.lits = .ok (ys, ls) ∧ lits = e.used ls
    ∧ xs = ys.zip ((f.srcs n).map (·.2)) ++ (if f.readsD then [(d.src, f.out n)] else [])
  form : d.isVec = true ∨ ∀ x ∈ xs, x.1.isVec = false
  clean : ∀ L ∈ e.units d.isVec, ∀ x ∈ xs, (e.read x.2 L x.1).2 = false
  unflagged : f.classB = true → e.flagFor false = none

/-- The value of source `j` in position `L`. -/
def source (e : Env) (xs : List (Src × Nat)) (L j : Nat) : Nat :=
  match xs[j]? with
  | some x => (e.read x.2 L x.1).1
  | none => 0

/-- The entry completes: in each position where it runs, destination `d` of `m` registers holds `v L`, the flags `fl L` are
ORed into the path's STICKY, the path goes on in line, and nothing else of the machine changes (R123, R152, R278, R288). -/
def Completes (i : Instr) (s : State) (e : Env) (op lits : Nat) (d : Dst) (m : Nat) (v : Nat → Nat) (fl : Nat → Flags) : Prop :=
  ∃ w', exec i s = .next (s.setWave e.ref ((w'.orSticky e.p (orFlags ((e.units d.isVec).map fl))).wentOn e op lits))
    ∧ Wrote e.w w' d m (e.units d.isVec) (fun L => (v L, false))

/-- The integer that a w-bit element of type `t` reads as (R338). -/
def value (t : ETy) (x : Nat) : Int :=
  if t.intSigned = some true ∧ 2 ^ (t.width - 1) ≤ x then (x : Int) - 2 ^ t.width else x

/-- The least and the greatest value of an element of type `t`. -/
def range (t : ETy) : Int × Int :=
  if t.intSigned = some true then (-2 ^ (t.width - 1), 2 ^ (t.width - 1) - 1) else (0, 2 ^ t.width - 1)

/-- The bits that stand for an integer in `w` bits (R334: two's-complement wrap). -/
def wrap (w : Nat) (y : Int) : Nat := (y % 2 ^ w).toNat

/-- Fit(y) of R334 for an entry that honours SAT: the end of the range and SI, or the wrapped bits. -/
def fitted (t : ETy) (sat : Bool) (y : Int) : Nat × Flags :=
  if sat = true ∧ y < (range t).1 then (wrap t.width (range t).1, fSI)
  else if sat = true ∧ (range t).2 < y then (wrap t.width (range t).2, fSI)
  else (wrap t.width y, 0)

/-- The entries of R338 and R340. -/
def arithEntry : Instr → Option Entry
  | .iadd d a b => some { op := 0x20, accept := ETy.isInt, dst := d, srcs := fun n => [(a, n), (b, n)] }
  | .isub d a b => some { op := 0x21, accept := ETy.isInt, dst := d, srcs := fun n => [(a, n), (b, n)] }
  | .imul d a b => some { op := 0x22, accept := ETy.isInt, dst := d, srcs := fun n => [(a, n), (b, n)] }
  | .imulh d a b => some { op := 0x23, accept := ETy.isInt, dst := d, srcs := fun n => [(a, n), (b, n)] }
  | .imad d a b => some { op := 0x24, accept := ETy.isInt, dst := d, srcs := fun n => [(a, n), (b, n)], readsD := true }
  | .iabs d a => some { op := 0x27, accept := fun t => t.intSigned == some true, dst := d, srcs := fun n => [(a, n)] }
  | .imin d a b => some { op := 0x28, accept := ETy.isInt, dst := d, srcs := fun n => [(a, n), (b, n)] }
  | .imax d a b => some { op := 0x29, accept := ETy.isInt, dst := d, srcs := fun n => [(a, n), (b, n)] }
  | .idiv d a b => some { op := 0x3A, accept := fun t => t.isInt && decide (32 ≤ t.width), dst := d, srcs := fun n => [(a, n), (b, n)] }
  | .irem d a b => some { op := 0x3B, accept := fun t => t.isInt && decide (32 ≤ t.width), dst := d, srcs := fun n => [(a, n), (b, n)] }
  | _ => none

/-- Their element results from the elements `x 0` of A, `x 1` of B and `x 2` of D (R338, R340). -/
def arithRule (i : Instr) (t : ETy) (sat : Bool) (x : Nat → Nat) : Nat × Flags :=
  let a := value t (x 0)
  let b := value t (x 1)
  let d := value t (x 2)
  match i with
  | .iadd _ _ _ => fitted t sat (a + b)
  | .isub _ _ _ => fitted t sat (a - b)
  | .imul _ _ _ => fitted t sat (a * b)
  | .imad _ _ _ => fitted t sat (a * b + d)
  | .imulh _ _ _ => (wrap t.width (a * b / 2 ^ t.width), 0)
  | .iabs _ _ => fitted t sat (if a < 0 then -a else a)
  | .imin _ _ _ => (if a ≤ b then x 0 else x 1, 0)
  | .imax _ _ _ => (if a ≤ b then x 1 else x 0, 0)
  | .idiv _ _ _ => if b = 0 then (2 ^ t.width - 1, 0) else fitted t sat (a.tdiv b)
  | .irem _ _ _ => if b = 0 then (x 0, 0) else (wrap t.width (a - b * a.tdiv b), 0)
  | _ => (0, 0)

/-- The results of a lane or slice: each element's, packed, and the flags of all of them (R145, R333). -/
def elements (e : Env) (xs : List (Src × Nat)) (L : Nat) (f : ETy → BitVec 24 → (Nat → Nat) → Nat × Flags) : Nat × Flags :=
  let t := e.ety (L / 4)
  let rs := (List.range t.count).map fun k => f t (e.mode (L / 4)) fun j => elemOf t.width (source e xs L j) k
  (packElems t.width (rs.map (·.1)), orFlags (rs.map (·.2)))

/-- The shifts of R341: they act per element on its bits. -/
def shiftEntry : Instr → Option Entry
  | .shl d a b => some { op := 0x2E, accept := ETy.isInt, dst := d, srcs := fun n => [(a, n), (b, n)] }
  | .shr d a b => some { op := 0x2F, accept := ETy.isInt, dst := d, srcs := fun n => [(a, n), (b, n)] }
  | .sra d a b => some { op := 0x30, accept := ETy.isInt, dst := d, srcs := fun n => [(a, n), (b, n)] }
  | .rotl d a b => some { op := 0x31, accept := ETy.isInt, dst := d, srcs := fun n => [(a, n), (b, n)] }
  | _ => none

/-- Their element results (R341). -/
def shiftRule (i : Instr) (w a c : Nat) : Nat :=
  match i with
  | .shl _ _ _ => if c < w then a * 2 ^ c % 2 ^ w else 0
  | .shr _ _ _ => if c < w then a / 2 ^ c else 0
  | .sra _ _ _ =>
    let negative := 2 ^ (w - 1) ≤ a
    if c < w then (if negative then wrap w (((a : Int) - 2 ^ w) / 2 ^ c) else a / 2 ^ c)
    else if negative then 2 ^ w - 1 else 0
  | .rotl _ _ _ => (a * 2 ^ (c % w) % 2 ^ w) + a / 2 ^ (w - c % w)
  | _ => 0

/-- The logic entries of R341: they act on all bits of the lane, whatever T. -/
def logicEntry : Instr → Option Entry
  | .andOp d a b => some { op := 0x2A, accept := fun _ => true, dst := d, srcs := fun n => [(a, n), (b, n)] }
  | .orOp d a b => some { op := 0x2B, accept := fun _ => true, dst := d, srcs := fun n => [(a, n), (b, n)] }
  | .xorOp d a b => some { op := 0x2C, accept := fun _ => true, dst := d, srcs := fun n => [(a, n), (b, n)] }
  | .andn d a b => some { op := 0x2D, accept := fun _ => true, dst := d, srcs := fun n => [(a, n), (b, n)] }
  | _ => none

/-- Their results as words of the lane (R341). -/
def logicRule (i : Instr) (a b : BitVec 64) : BitVec 64 :=
  match i with
  | .andOp _ _ _ => a &&& b
  | .orOp _ _ _ => a ||| b
  | .xorOp _ _ _ => a ^^^ b
  | .andn _ _ _ => a &&& ~~~b
  | _ => 0

/-- The counting and field entries of R342. -/
def fieldEntry : Instr → Option Entry
  | .popc d a => some { op := 0x34, accept := ETy.isInt, dst := d, srcs := fun n => [(a, n)] }
  | .clz d a => some { op := 0x35, accept := ETy.isInt, dst := d, srcs := fun n => [(a, n)] }
  | .brev d a => some { op := 0x36, accept := ETy.isInt, dst := d, srcs := fun n => [(a, n)] }
  | .bfe d a b => some { op := 0x32, accept := fun t => t.isInt && decide (32 ≤ t.width), dst := d, srcs := fun n => [(a, n), (b, 1)] }
  | .bfi d a b => some { op := 0x33, accept := fun t => t.isInt && decide (32 ≤ t.width), dst := d, srcs := fun n => [(a, n), (b, 1)],
                         readsD := true }
  | _ => none

/-- Bit `k` of the element result of POPC, CLZ and BREV is bit `k` of this number (R342); `a` is the element. -/
def countRule (i : Instr) (w a : Nat) : Nat :=
  match i with
  | .popc _ _ => ((List.range w).filter fun k => a.testBit k).length
  | .clz _ _ => ((List.range w).takeWhile fun k => !(a.testBit (w - 1 - k))).length
  | .brev _ _ => ((List.range w).map fun k => if a.testBit k then 2 ^ (w - 1 - k) else 0).sum
  | _ => 0

/-- Whether bit `k` of the result of BFE or BFI is set (R342): `a` is the element of A, `d` that of D, `b` the descriptor. -/
def fieldRule (i : Instr) (t : ETy) (a b d k : Nat) : Bool :=
  let o := b % 256
  let n := b / 256 % 256
  let top := min (o + n) t.width
  let empty := decide (n = 0) || decide (t.width ≤ o)
  match i with
  | .bfe _ _ _ =>
    !empty && (if o + k < top then a.testBit (o + k) else t.intSigned == some true && a.testBit (top - 1))
  | .bfi _ _ _ => if !empty && decide (o ≤ k) && decide (k < top) then a.testBit (k - o) else d.testBit k
  | _ => false

/-- The single-rounding float entries of R345 to R347 and the long ones of R350. -/
def floatEntry : Instr → Option Entry
  | .fadd d a b => some { op := 0x40, accept := ETy.isFloat, dst := d, srcs := fun n => [(a, n), (b, n)] }
  | .fsub d a b => some { op := 0x41, accept := ETy.isFloat, dst := d, srcs := fun n => [(a, n), (b, n)] }
  | .fmul d a b => some { op := 0x42, accept := ETy.isFloat, dst := d, srcs := fun n => [(a, n), (b, n)] }
  | .ffma d a b => some { op := 0x43, accept := ETy.isFloat, dst := d, srcs := fun n => [(a, n), (b, n)], readsD := true }
  | .ffms d a b => some { op := 0x44, accept := ETy.isFloat, dst := d, srcs := fun n => [(a, n), (b, n)], readsD := true }
  | .frnd d a => some { op := 0x4C, accept := ETy.isFloat, dst := d, srcs := fun n => [(a, n)] }
  | .frcp d a => some { op := 0x4D, accept := ETy.isFloat, dst := d, srcs := fun n => [(a, n)], classB := true }
  | .fsqrt d a => some { op := 0x4F, accept := ETy.isFloat, dst := d, srcs := fun n => [(a, n)], classB := true }
  | .fdiv d a b => some { op := 0x50, accept := ETy.isFloat, dst := d, srcs := fun n => [(a, n), (b, n)], classB := true }
  | .frsq d a => some { op := 0x4E, accept := ETy.isFloat, dst := d, srcs := fun n => [(a, n)], classB := true }
  | .fexp2 d a => some { op := 0x51, accept := ETy.isShortFloat, dst := d, srcs := fun n => [(a, n)], classB := true }
  | .flog2 d a => some { op := 0x52, accept := ETy.isShortFloat, dst := d, srcs := fun n => [(a, n)], classB := true }
  | .fsin d a => some { op := 0x53, accept := ETy.isShortFloat, dst := d, srcs := fun n => [(a, n)], classB := true }
  | .fcos d a => some { op := 0x54, accept := ETy.isShortFloat, dst := d, srcs := fun n => [(a, n)], classB := true }
  | .ftanh d a => some { op := 0x55, accept := ETy.isShortFloat, dst := d, srcs := fun n => [(a, n)], classB := true }
  | _ => none

/-- Their exact values from the values read, with the flags of forming them (R345, R350); `r` is the rounding, which chooses
the sign of an exact zero sum (R151). -/
def floatRule (i : Instr) (r : Rnd) (x : Nat → FVal) : FVal × Flags :=
  match i with
  | .fadd _ _ _ => (x 0).add r (x 1)
  | .fsub _ _ _ => (x 0).add r (x 1).negate
  | .fmul _ _ _ => (x 0).mul (x 1)
  | .ffma _ _ _ => FVal.fma r (x 0) (x 1) (x 2)
  | .ffms _ _ _ => FVal.fma r (x 0).negate (x 1) (x 2)
  | .frnd _ _ => (x 0).integral r
  | .frcp _ _ => (FVal.fin false 1 0).div (x 0)
  | .fsqrt _ _ => (x 0).sqrt
  | .fdiv _ _ _ => (x 0).div (x 1)
  | .frsq _ _ => (x 0).rsqrt
  | .fexp2 _ _ => (x 0).exp2
  | .flog2 _ _ => (x 0).log2
  | .fsin _ _ => (x 0).sinpi
  | .fcos _ _ => (x 0).cospi
  | .ftanh _ _ => (x 0).tanh
  | _ => (.nan false, 0)

/-- The entries that R350 rounds to nearest, ties to even, whatever MODE.RM. -/
def roundsNearest : Instr → Bool
  | .frsq _ _ | .fexp2 _ _ | .flog2 _ _ | .fsin _ _ | .fcos _ _ | .ftanh _ _ => true
  | _ => false

/-- The rounding of element `k` of lane `L` (R146, R147, R350). -/
def roundingOf (i : Instr) (t : ETy) (m : BitVec 24) (L k : Nat) : Rnd :=
  if roundsNearest i then .rne else Rnd.ofCode (modeRM m) (modeDR m) ((L * t.count + k) % 8)

/-- The result of a float entry in lane `L` (R335): operands read under DN, the exact value rounded once. -/
def floatElements (i : Instr) (e : Env) (xs : List (Src × Nat)) (L : Nat) : Nat × Flags :=
  let t := e.ety (L / 4)
  let m := e.mode (L / 4)
  let f := t.fmt.getD fmt32
  let rs := (List.range t.count).map fun k =>
    let r := roundingOf i t m L k
    let v := floatRule i r fun j => f.read (modeDN m) (elemOf t.width (source e xs L j) k)
    let z := f.roundVal r (modeSAT m) (modeDN m) v.1
    (z.1, v.2 ||| z.2)
  (packElems t.width (rs.map (·.1)), orFlags (rs.map (·.2)))

end Sys2Proof.Claims

open Sys2Proof Sys2Proof.Machine Sys2Proof.Claims

/-- R334, R338, R340: IADD, ISUB, IMUL, IMULH, IMAD, IABS, IMIN, IMAX, IDIV and IREM write the stated result of each element,
fitted or wrapped, in every position where they run, raise SI where they saturate, and change nothing else. -/
def Obligations.IntegerArithmeticResults : Prop :=
  ∀ (i : Instr) (f : Entry), arithEntry i = some f → ∀ (s : State) (e : Env) (n : Nat) (d : Dst) (xs : List (Src × Nat)) (lits : Nat),
    Issuing s e f.op → Resolved e f n d xs lits →
    Completes i s e f.op lits d n
      (fun L => (elements e xs L fun t m x => arithRule i t (modeSAT m) x).1)
      (fun L => (elements e xs L fun t m x => arithRule i t (modeSAT m) x).2)

/-- R341: SHL, SHR, SRA and ROTL act on each element by the count of B's element of the same index. -/
def Sys2Proof.Claims.ShiftResults : Prop :=
  ∀ (i : Instr) (f : Entry), shiftEntry i = some f → ∀ (s : State) (e : Env) (n : Nat) (d : Dst) (xs : List (Src × Nat)) (lits : Nat),
    Issuing s e f.op → Resolved e f n d xs lits →
    Completes i s e f.op lits d n
      (fun L => (elements e xs L fun t _ x => (shiftRule i t.width (x 0) (x 1), 0)).1) (fun _ => 0)

/-- R341: AND, OR, XOR and ANDN act on all bits of the lane, whatever the element division of T. -/
def Sys2Proof.Claims.LogicResults : Prop :=
  ∀ (i : Instr) (f : Entry), logicEntry i = some f → ∀ (s : State) (e : Env) (n : Nat) (d : Dst) (xs : List (Src × Nat)) (lits : Nat),
    Issuing s e f.op → Resolved e f n d xs lits →
    Completes i s e f.op lits d n
      (fun L => (logicRule i (BitVec.ofNat 64 (source e xs L 0)) (BitVec.ofNat 64 (source e xs L 1))).toNat) (fun _ => 0)

/-- R342: POPC, CLZ and BREV write each element's count or reversal; BFE and BFI each bit of the element by the field that
B describes. -/
def Sys2Proof.Claims.CountAndFieldResults : Prop :=
  ∀ (i : Instr) (f : Entry), fieldEntry i = some f → ∀ (s : State) (e : Env) (n : Nat) (d : Dst) (xs : List (Src × Nat)) (lits : Nat),
    Issuing s e f.op → Resolved e f n d xs lits →
    ∃ v : Nat → Nat, Completes i s e f.op lits d n v (fun _ => 0) ∧ ∀ L ∈ e.units d.isVec,
      match i with
      | .bfe _ _ _ | .bfi _ _ _ =>
        ∀ k, k < 32 * n → (v L).testBit k = fieldRule i (e.ety (L / 4)) (source e xs L 0) (source e xs L 1) (source e xs L 2) k
      | _ => v L = (elements e xs L fun t _ x => (countRule i t.width (x 0), 0)).1

/-- R335 to R341: the shifts, the logic operations, and the counts and field operations, each as its part states it. -/
def Obligations.ShiftLogicAndFieldResults : Prop := Sys2Proof.Claims.ShiftResults ∧ Sys2Proof.Claims.LogicResults ∧ Sys2Proof.Claims.CountAndFieldResults

/-- R335, R336, R345, R350: the float entries read their operands under DN, form the exact value, round it once by MODE or to
nearest, and raise the flags of both; the long ones too when their class has no completion flag assigned. -/
def Sys2Proof.Claims.FloatResults : Prop :=
  ∀ (i : Instr) (f : Entry), floatEntry i = some f → ∀ (s : State) (e : Env) (n : Nat) (d : Dst) (xs : List (Src × Nat)) (lits : Nat),
    Issuing s e f.op → Resolved e f n d xs lits →
    Completes i s e f.op lits d n (fun L => (floatElements i e xs L).1) (fun L => (floatElements i e xs L).2)

namespace Sys2Proof.Claims

/-! ### Carries, compares and moves (R339, R341, R343, R344, R348) -/

/-- The instruction completes in line and leaves its wave as `w`; nothing else of the machine changes. -/
def Leaves (i : Instr) (s : State) (e : Env) (op lits : Nat) (w : Wave) : Prop :=
  exec i s = .next (s.setWave e.ref (w.wentOn e op lits))

/-- It completes in line with results in destination `d` at the positions `us`, raising the flags `fl`. -/
def CompletesAt (i : Instr) (s : State) (e : Env) (op lits : Nat) (d : Dst) (m : Nat) (us : Nats) (v : Nat → Nat × Bool)
    (fl : Flags) : Prop :=
  ∃ w', Leaves i s e op lits (w'.orSticky e.p fl) ∧ Wrote e.w w' d m us v

/-- Bit `L` of predicate `q`. -/
def predBit (w : Wave) (q L : Nat) : Bool := (w.pred q).getLsbD L

/-- Bit `L` of a predicate field, after its negation (R291). -/
def predFBit (w : Wave) (p : PredF) (L : Nat) : Bool := Bool.xor p.neg (predBit w p.idx L)

/-- `w'` is `w` but for its predicates. -/
def onlyPreds (w w' : Wave) : Prop := { w' with preds := w.preds } = w

/-- No source is poisoned in these positions. -/
def Clean (e : Env) (us : Nats) (xs : List (Src × Nat)) : Prop := ∀ L ∈ us, ∀ x ∈ xs, (e.read x.2 L x.1).2 = false

/-- IADDC and ISUBB: opcode and fields. -/
def carryEntry : Instr → Option (Nat × Opd × Opd × Opd)
  | .iaddc d a b => some (0x25, d, a, b)
  | .isubb d a b => some (0x26, d, a, b)
  | _ => none

/-- Their exact results from the operands and the carry (R339). -/
def carryRule (i : Instr) (a b c : Nat) : Int :=
  match i with
  | .iaddc _ _ _ => (a : Int) + b + c
  | _ => (a : Int) - b - c

/-- ICMP and FCMP: opcode, types, conditions, condition, predicate and fields. -/
def compareEntry : Instr → Option (Nat × (ETy → Bool) × Nat × Nat × PredF × Opd × Opd)
  | .icmp c p a b => some (0x37, ETy.isInt, 6, c, p, a, b)
  | .fcmp c p a b => some (0x49, ETy.isFloat, 8, c, p, a, b)
  | _ => none

/-- The comparison of two elements and its flags (R343, R348). -/
def compareRule (i : Instr) (t : ETy) (m : BitVec 24) (c x y : Nat) : Bool × Flags :=
  match i with
  | .icmp _ _ _ _ =>
    let a := value t x
    let b := value t y
    (match c with
      | 0 => decide (a = b)
      | 1 => decide (a ≠ b)
      | 2 => decide (a < b)
      | 3 => decide (a ≤ b)
      | 4 => decide (a > b)
      | _ => decide (a ≥ b), 0)
  | _ =>
    let f := t.fmt.getD fmt32
    let a := f.read (modeDN m) x
    let b := f.read (modeDN m) y
    (fltCond c a b, if 2 ≤ c ∧ c ≤ 5 then (if a.isNan || b.isNan then fIV else 0) else a.iv ||| b.iv)

end Sys2Proof.Claims

/-- R339: IADDC and ISUBB write the wrapped sum or difference with the carry of p15 in every position where they run, and the
carry or borrow out into p15: bit L in vector form, the four bits of the slice in scalar form, the one bit of a caster thread. -/
def Obligations.CarryResults : Prop :=
  ∀ (i : Instr) (op : Nat) (dst a b : Opd), carryEntry i = some (op, dst, a, b) →
    ∀ (s : State) (e : Env) (n : Nat) (d : Dst) (x y : Src) (ls : List Word),
    Issuing s e op → e.types (fun t => t.isInt && decide (32 ≤ t.width)) = .ok n → e.dst dst n = .ok d →
    e.srcs [(a, n), (b, n)] e.lits = .ok ([x, y], ls) → (d.isVec = true ∨ x.isVec = false ∧ y.isVec = false) →
    Clean e (e.units d.isVec) [(x, n), (y, n)] →
    let res := fun L => carryRule i (e.read n L x).1 (e.read n L y).1 (predBit e.w 15 L).toNat
    let pos := fun L => if d.isVec ∨ e.caster then L else L / 4 * 4
    ∃ w' m c, Leaves i s e op (e.used ls) (w'.setPred 15 m c)
      ∧ Wrote e.w w' d n (e.units d.isVec) (fun L => (wrap (32 * n) (res L), false))
      ∧ ∀ L, L < 32 → m.getLsbD L = decide (pos L ∈ e.units d.isVec)
        ∧ (pos L ∈ e.units d.isVec → c.getLsbD L = decide (res (pos L) < 0 ∨ 2 ^ (32 * n) ≤ res (pos L)))

/-- R343, R348: ICMP and FCMP write the comparison of element k into bit L of predicate p + k in each active lane, discard it
at p0, raise IV where R348 says, and change no other bit and nothing else. -/
def Sys2Proof.Claims.CompareResults : Prop :=
  ∀ (i : Instr) (op : Nat) (acc : ETy → Bool) (lim c : Nat) (p : PredF) (a b : Opd), compareEntry i = some (op, acc, lim, c, p, a, b) →
    ∀ (s : State) (e : Env) (n : Nat) (x y : Src) (ls : List Word) (k : Nat),
    Issuing s e op → e.types acc = .ok n → c < lim → p.neg = false → e.srcs [(a, n), (b, n)] e.lits = .ok ([x, y], ls) →
    k = ((e.pathSlices.map fun j => (e.ety j).count).foldl max 1) → p.idx + k ≤ 16 → (e.caster = true → k = 1) →
    Clean e e.lanes [(x, n), (y, n)] →
    let res := fun L j => compareRule i (e.ety (L / 4)) (e.mode (L / 4)) c (elemOf (e.ety (L / 4)).width (e.read n L x).1 j)
      (elemOf (e.ety (L / 4)).width (e.read n L y).1 j)
    ∃ w', Leaves i s e op (e.used ls)
        (w'.orSticky e.p (orFlags (e.lanes.map fun L => orFlags ((List.range (e.ety (L / 4)).count).map fun j => (res L j).2))))
      ∧ onlyPreds e.w w'
      ∧ ∀ q L, q < 16 → L < 32 → predBit w' q L =
        if q ≠ 0 ∧ L ∈ e.lanes ∧ p.idx ≤ q ∧ q - p.idx < (e.ety (L / 4)).count then (res L (q - p.idx)).1 else predBit e.w q L

/-- R257, R337, R341, R344: MOV, SEL and PMOV copy the chosen source with its poison; PMOV keeps D where its predicate is 0;
PLOP writes its operation of two predicate bits into the active lanes of D, and nothing to p0. -/
def Sys2Proof.Claims.MoveResults : Prop :=
  ∀ (s : State) (e : Env),
    (∀ (o : Nat) (d q r : PredF), Issuing s e 0x3D → o < 4 → (o = 3 → r.code = 0) → d.neg = false → d.idx < 16 → q.rest = 0 → r.rest = 0 →
      q.idx < 16 → r.idx < 16 →
      let v := fun L => match o with
        | 0 => predFBit e.w q L && predFBit e.w r L
        | 1 => predFBit e.w q L || predFBit e.w r L
        | 2 => Bool.xor (predFBit e.w q L) (predFBit e.w r L)
        | _ => predFBit e.w q L
      ∃ w', Leaves (.plop o d q r) s e 0x3D 0 w' ∧ onlyPreds e.w w' ∧ ∀ k L, k < 16 → L < 32 → predBit w' k L =
        if k ≠ 0 ∧ k = d.idx ∧ L ∈ e.lanes then v L else predBit e.w k L)
    ∧ ∀ (n : Nat) (d : Dst), e.types (fun _ => true) = .ok n →
    (∀ (dst a : Opd) (x : Src) (ls : List Word), Issuing s e 0x39 → e.dst dst n = .ok d → e.src a n e.lits = .ok (x, ls) →
      (d.isVec = true ∨ x.isVec = false) →
      CompletesAt (.mov dst a) s e 0x39 (e.used ls) d n (e.units d.isVec) (fun L => e.read n L x) 0)
    ∧ (∀ (dst a b : Opd) (x y : Src) (q : Word) (ls : List Word), Issuing s e 0x38 → e.dst dst n = .ok d →
      e.srcs [(a, n), (b, n)] e.lits = .ok ([x, y], q :: ls) → q.toNat < 32 →
      (d.isVec = true ∨ x.isVec = false ∧ y.isVec = false) →
      CompletesAt (.sel dst a b) s e 0x38 (e.used ls) d n (e.units d.isVec)
        (fun L => e.read n L (if predFBit e.w (PredF.ofCode q.toNat) L then x else y)) 0)
    ∧ (∀ (dst a : Opd) (p : PredF) (x : Src) (ls : List Word), Issuing s e 0x3C → e.dst dst n = .ok d →
      e.src a n e.lits = .ok (x, ls) → p.rest = 0 → (d.isVec = true ∨ x.isVec = false) →
      CompletesAt (.pmov dst a p) s e 0x3C (e.used ls) d n ((e.units d.isVec).filter (predFBit e.w p)) (fun L => e.read n L x) 0)

/-- R337, R338, R342 to R345: the comparisons, and the moves and predicate operations. -/
def Obligations.CompareAndMoveResults : Prop := Sys2Proof.Claims.CompareResults ∧ Sys2Proof.Claims.MoveResults

namespace Sys2Proof.Claims

/-! ### Other float entries (R345–R349) -/

/-- FMIN, FMAX, FABS, FNEG, FCLASS, FSCALE and FDOT2. -/
def otherFloatEntry : Instr → Option Entry
  | .fmin d a b => some { op := 0x45, accept := ETy.isFloat, dst := d, srcs := fun n => [(a, n), (b, n)] }
  | .fmax d a b => some { op := 0x46, accept := ETy.isFloat, dst := d, srcs := fun n => [(a, n), (b, n)] }
  | .fabs d a => some { op := 0x47, accept := ETy.isFloat, dst := d, srcs := fun n => [(a, n)] }
  | .fneg d a => some { op := 0x48, accept := ETy.isFloat, dst := d, srcs := fun n => [(a, n)] }
  | .fclass d a => some { op := 0x4A, accept := ETy.isFloat, dst := d, srcs := fun n => [(a, n)], out := fun _ => 1 }
  | .fscale d a b => some { op := 0x4B, accept := ETy.isFloat, dst := d, srcs := fun n => [(a, n), (b, 1)] }
  | .fdot2 d a b => some { op := 0x56, accept := fun t => t == .f16 || t == .bf16, dst := d, srcs := fun _ => [(a, 1), (b, 1)],
                           readsD := true, out := fun _ => 1 }
  | _ => none

/-- The class mask of a value by R347: one bit of ten. -/
def classBit (f : Fmt) (x : Nat) : Nat :=
  match f.decode x with
  | .nan signalling => if signalling then 0 else 1
  | .inf negative => if negative then 2 else 9
  | .fin negative m _ =>
    if m = 0 then (if negative then 5 else 6)
    else if f.isSubnormal x then (if negative then 4 else 7)
    else (if negative then 3 else 8)

/-- Their results in lane `L`. -/
def otherFloatElements (i : Instr) (e : Env) (xs : List (Src × Nat)) (L : Nat) : Nat × Flags :=
  let t := e.ety (L / 4)
  let m := e.mode (L / 4)
  let f := t.fmt.getD fmt32
  let el := fun j k => elemOf t.width (source e xs L j) k
  let rd := fun j k => f.read (modeDN m) (el j k)
  let each := fun (w : Nat) (g : Nat → Nat × Flags) =>
    let rs := (List.range t.count).map g
    (packElems w (rs.map (·.1)), orFlags (rs.map (·.2)))
  let least := fun (pick : FVal → FVal → FVal) => each t.width fun k =>
    let z := f.roundVal .rne false (modeDN m) (pick (rd 0 k) (rd 1 k))
    (z.1, (rd 0 k).iv ||| (rd 1 k).iv ||| z.2)
  let signed := fun (sign : Bool → Bool) => each t.width fun k =>
    let half := 2 ^ (t.width - 1)
    if (f.decode (el 0 k)).isNan then (f.nanCode, (f.decode (el 0 k)).iv)
    else (el 0 k % half + (if sign (decide (half ≤ el 0 k)) then half else 0), 0)
  match i with
  | .fmin _ _ _ => least FVal.min
  | .fmax _ _ _ => least FVal.max
  | .fabs _ _ => signed fun _ => false
  | .fneg _ _ => signed fun n => !n
  | .fclass _ _ => each 16 fun k => (2 ^ classBit f (el 0 k), (f.decode (el 0 k)).iv)
  | .fscale _ _ _ => each t.width fun k =>
    let c := max (-5000) (min 5000 (BitVec.ofNat 32 (source e xs L 1)).toInt)
    let z := f.roundVal (Rnd.ofCode (modeRM m) (modeDR m) ((L * t.count + k) % 8)) (modeSAT m) (modeDN m) ((rd 0 k).scale c)
    (z.1, z.2 ||| (rd 0 k).iv)
  | _ =>
    let r := Rnd.ofCode (modeRM m) (modeDR m) (L % 8)
    let p0 := (rd 0 0).mul (rd 1 0)
    let p1 := (rd 0 1).mul (rd 1 1)
    let s := p0.1.add r p1.1
    let z := s.1.add r (fmt32.read (modeDN m) (source e xs L 2))
    let c := fmt32.roundVal r (modeSAT m) (modeDN m) z.1
    let d := fmt32.read (modeDN m) (source e xs L 2)
    let invalid := if p0.1.opposes d || p1.1.opposes d then fIV else 0
    (c.1, p0.2 ||| p1.2 ||| s.2 ||| z.2 ||| invalid ||| c.2)

/-! ### Conversions (R355, R357) -/

/-- Elements that CVT and CVTR convert, of a source type `st` and a destination type `dt`: destination element `k` takes
source element `convertFrom … = some j`, or keeps its value (R355). -/
def convertFrom (st dt : ETy) (p k : Nat) : Option Nat :=
  let n := min st.count dt.count
  if st.count < dt.count then (if p * n ≤ k ∧ k < p * n + n then some (k - p * n) else none)
  else if dt.count < st.count then some (p * n + k) else some k

/-! ### Exact sums (R362–R365, R374) -/

/-- `w'` is `w` but for its exact sums. -/
def onlySums (w w' : Wave) : Prop := { w' with xsums := w.xsums } = w

/-- Exact sum `x` of each active lane is `f` of the lane; every other sum, and everything else of the wave, is as it was. -/
def SumsWritten (e : Env) (w' : Wave) (x : Nat) (f : Nat → XSum) : Prop :=
  onlySums e.w w' ∧ ∀ y L, y < 4 → L < 32 → w'.getX y L = if y = x ∧ L ∈ e.lanes then f L else e.w.getX y L

/-- No sum of these is poisoned in an active lane. -/
def SumsClean (e : Env) (xs : Nats) : Prop := ∀ L ∈ e.lanes, ∀ x ∈ xs, (e.w.getX x L).poison = false

/-- A sum after values are added in order, with the flags (R167, R363). -/
def addAllVals (x : XSum) (l : List FVal) : XSum × Flags :=
  l.foldl (fun a v => ((a.1.addVal v).1, a.2 ||| (a.1.addVal v).2)) (x, 0)

/-- The types of XADD and XMAD (R353). -/
def summand : ETy → Bool
  | .f32 | .f64 | .f16 | .bf16 | .i32 | .n32 | .i64 | .n64 => true
  | _ => false

/-- Element `k` of source `x` in lane `L` as a value (R363). -/
def summandOf (e : Env) (n : Nat) (x : Src) (L k : Nat) : FVal :=
  ((e.ety (L / 4)).readElem (modeDN (e.mode (L / 4))) (elemOf (e.ety (L / 4)).width (e.read n L x).1 k)).toF

end Sys2Proof.Claims

/-- R345 to R349: FMIN, FMAX, FABS, FNEG, FCLASS, FSCALE and FDOT2. FSCALE clamps its count to ±5000, beyond any format's
exponents, which is the model's reading. -/
def Sys2Proof.Claims.OtherFloatResults : Prop :=
  ∀ (i : Instr) (f : Entry), otherFloatEntry i = some f → ∀ (s : State) (e : Env) (n : Nat) (d : Dst) (xs : List (Src × Nat)) (lits : Nat),
    Issuing s e f.op → Resolved e f n d xs lits →
    Completes i s e f.op lits d (f.out n) (fun L => (otherFloatElements i e xs L).1) (fun L => (otherFloatElements i e xs L).2)

/-- R346 to R351: the float operations whose results are rounded, and those of other forms. -/
def Obligations.FloatingPointResults : Prop := Sys2Proof.Claims.FloatResults ∧ Sys2Proof.Claims.OtherFloatResults

/-- R355, R357: CVT and CVTR convert the elements that the position names, rounded by MODE, and keep the others of D; CVTR
writes the residuals to D + 1. D is read, and poison in it stops the conversion, in the lanes whose slice's T keeps elements (CVTR always). -/
def Obligations.ConversionResults : Prop :=
  ∀ (s : State) (e : Env) (n : Nat) (d : Dst) (dst a : Opd) (p t : Nat) (st : ETy) (x : Src) (ls : List Word),
    ETy.ofCode t = some st → (∀ j ∈ e.pathSlices, positionOk st (e.ety j) p = true) → e.src a (st.opWidth / 32) e.lits = .ok (x, ls) →
    (d.isVec = true ∨ x.isVec = false) →
    let word := fun L => elemOf (e.ety (L / 4)).width (e.read n L d.src).1
    (Issuing s e 0x60 → e.types (fun _ => true) = .ok n → e.dst dst n = .ok d →
      Clean e (e.units d.isVec) [(x, st.opWidth / 32)] →
      (∀ L ∈ e.units d.isVec, st.count < (e.ety (L / 4)).count → (e.read n L d.src).2 = false) →
      ∃ fl, CompletesAt (.cvt dst a p t) s e 0x60 (e.used ls) d n (e.units d.isVec) (fun L =>
        let dt := e.ety (L / 4)
        (packElems dt.width ((List.range dt.count).map fun k => match convertFrom st dt p k with
          | some j => (convertElem dt (Rnd.ofCode (modeRM (e.mode (L / 4))) (modeDR (e.mode (L / 4))) ((L * dt.count + k) % 8))
              (modeSAT (e.mode (L / 4))) (modeDN (e.mode (L / 4)))
              (st.readElem (modeDN (e.mode (L / 4))) (elemOf st.width (e.read (st.opWidth / 32) L x).1 j))).1
          | none => word L k), false)) fl)
    ∧ (Issuing s e 0x61 → st = .f32 ∨ st = .f16 ∨ st = .bf16 → e.types (fun y => match y with
        | .f16 | .bf16 | .e4m3 | .e5m2 | .e2m1 => (st == .f32 || st == .f16 || st == .bf16) && decide (y.width < st.width)
        | _ => false) = .ok n → e.dst dst 2 = .ok d → Clean e (e.units d.isVec) [(x, 1), (d.src, 1)] →
      ∃ fl, CompletesAt (.cvtr dst a p t) s e 0x61 (e.used ls) d 2 (e.units d.isVec) (fun L =>
        let dt := e.ety (L / 4)
        let m := e.mode (L / 4)
        let at_ := fun k => Rnd.ofCode (modeRM m) (modeDR m) ((L * dt.count + k) % 8)
        let rd := fun j => (st.fmt.getD fmt32).read (modeDN m) (elemOf st.width (e.read 1 L x).1 j)
        let narrow := fun k j => floatToFloat (dt.fmt.getD fmt32) (at_ k) (modeSAT m) (modeDN m) (rd j)
        (packElems dt.width ((List.range dt.count).map fun k => match convertFrom st dt p k with
          | some j => (narrow k j).1
          | none => elemOf dt.width (e.read 1 L d.src).1 k)
        + 2 ^ 32 * packElems st.width ((List.range st.count).map fun j =>
            (residue (st.fmt.getD fmt32) (dt.fmt.getD fmt32) (at_ (p * st.count + j)) (modeDN m) (rd j)
              (narrow (p * st.count + j) j).1 ((narrow (p * st.count + j) j).2 &&& fOF != 0)).1), false)) fl)

/-- R362 to R365 and R374: XCLR, both forms of XADD, XMAD, XRED and the forms of XMOV write one sum of each active lane; XMOV to
a register and XRND write one register of each active lane. -/
def Obligations.ExactSumResults : Prop :=
  ∀ (s : State) (e : Env) (x y : Nat), x < 4 → y < 4 →
    (∀ (a : Opd) (v : Src) (ls : List Word), Issuing s e 0x65 → e.src a 1 e.lits = .ok (v, ls) → Clean e e.lanes [(v, 1)] →
      ∃ w', Leaves (.xclr x a) s e 0x65 (e.used ls) w'
        ∧ SumsWritten e w' x fun L => { S := 0, E := BitVec.ofNat 16 (e.read 1 L v).1, poison := false })
    ∧ (Issuing s e 0x66 → SumsClean e [x, y] →
      ∃ w', Leaves (.xadd x (.v 0) true y) s e 0x66 0
          (w'.orSticky e.p (orFlags (e.lanes.map fun L => ((e.w.getX x L).addSum (e.w.getX y L)).2)))
        ∧ SumsWritten e w' x fun L => ((e.w.getX x L).addSum (e.w.getX y L)).1)
    ∧ (∀ (a : Opd) (n : Nat) (v : Src) (ls : List Word), Issuing s e 0x66 → e.types summand = .ok n → e.src a n e.lits = .ok (v, ls) →
      Clean e e.lanes [(v, n)] → SumsClean e [x] →
      let add := fun L => addAllVals (e.w.getX x L) ((List.range (e.ety (L / 4)).count).map (summandOf e n v L))
      ∃ w', Leaves (.xadd x a false 0) s e 0x66 (e.used ls) (w'.orSticky e.p (orFlags (e.lanes.map fun L => (add L).2)))
        ∧ SumsWritten e w' x fun L => (add L).1)
    ∧ (∀ (a b : Opd) (n : Nat) (u v : Src) (ls : List Word), Issuing s e 0x67 → e.types summand = .ok n →
      e.srcs [(a, n), (b, n)] e.lits = .ok ([u, v], ls) → Clean e e.lanes [(u, n), (v, n)] → SumsClean e [x] →
      let add := fun L => addAllVals (e.w.getX x L)
        ((List.range (e.ety (L / 4)).count).map fun k => ((summandOf e n u L k).mul (summandOf e n v L k)).1)
      ∃ w', Leaves (.xmad x a b) s e 0x67 (e.used ls) (w'.orSticky e.p (orFlags (e.lanes.map fun L => (add L).2)))
        ∧ SumsWritten e w' x fun L => (add L).1)
    ∧ (Issuing s e 0x77 → SumsClean e [y] →
      let mates := fun L => e.lanes.filter fun j => j / 2 ^ e.w.partn == L / 2 ^ e.w.partn
      let add := fun L => (mates L).foldl (fun (a : XSum × Flags) j => ((a.1.addSum (e.w.getX y j)).1, a.2 ||| (a.1.addSum (e.w.getX y j)).2))
        ({ S := 0, E := (e.w.getX y ((mates L).headD L)).E }, 0)
      ∃ w', Leaves (.xred x y) s e 0x77 0 (w'.orSticky e.p (orFlags (e.lanes.map fun L => (add L).2)))
        ∧ SumsWritten e w' x fun L => (add L).1)
    ∧ (∀ (d a : Opd), Issuing s e 0x69 → d.code = x → a.code = y →
      ∃ w', Leaves (.xmov d a 0 0) s e 0x69 0 w' ∧ SumsWritten e w' x fun L => e.w.getX y L)
    ∧ (∀ (dst a : Opd) (k : Nat) (d : Dst), Issuing s e 0x69 → a.code = y → k ≤ 10 → e.dst dst 1 = .ok d → d.isVec = true →
      CompletesAt (.xmov dst a 1 k) s e 0x69 0 d 1 e.lanes
        (fun L => (if k = 10 then ((e.w.getX y L).E.signExtend 32).toNat else (e.w.getX y L).S.toNat / 2 ^ (32 * k) % 2 ^ 32, (e.w.getX y L).poison)) 0)
    ∧ (∀ (d a : Opd) (k : Nat) (v : Src) (ls : List Word), Issuing s e 0x69 → d.code = x → k ≤ 10 → e.src a 1 e.lits = .ok (v, ls) →
      v.isVec = true →
      ∃ w', Leaves (.xmov d a 2 k) s e 0x69 (e.used ls) w'
        ∧ SumsWritten e w' x fun L => { (e.w.getX x L).putWord k (BitVec.ofNat 32 (e.read 1 L v).1) with
            poison := (e.w.getX x L).poison || (e.read 1 L v).2 })
    ∧ (∀ (dst : Opd) (k n : Nat) (d : Dst), Issuing s e 0x68 → e.types ETy.isFloat = .ok n → (∀ j ∈ e.pathSlices, k < (e.ety j).count) →
      e.dst dst n = .ok d → d.isVec = true → SumsClean e [x] → Clean e e.lanes [(d.src, n)] →
      ∃ (v : Nat → Nat) (fl : Flags), CompletesAt (.xrnd dst x k) s e 0x68 0 d n e.lanes (fun L => (v L, false)) fl
        ∧ ∀ L ∈ e.lanes, ∀ j, j < (e.ety (L / 4)).count → elemOf (e.ety (L / 4)).width (v L) j =
          if j = k then
            (((e.ety (L / 4)).fmt.getD fmt32).round
              (Rnd.ofCode (modeRM (e.mode (L / 4))) (modeDR (e.mode (L / 4))) ((L * (e.ety (L / 4)).count + k) % 8))
              (modeSAT (e.mode (L / 4))) (modeDN (e.mode (L / 4))) (decide ((e.w.getX x L).S.toInt < 0)) (e.w.getX x L).S.toInt.natAbs
              ((e.w.getX x L).E.toInt - 256)).1 % 2 ^ (e.ety (L / 4)).width
          else elemOf (e.ety (L / 4)).width (e.read n L d.src).1 j)

/-- R358 to R361, R366, R367: FORM writes the words of the built line into its half of D, UNFORM the values of a line that
passes its checks, QHAD the signed and mixed sums, in which a lane that is not active enters as 0, and KGEN the drawn words and the generators' next states; each in active lanes (or
slices) alone. -/
def Obligations.FormAndGeneratorResults : Prop :=
  ∀ (s : State) (e : Env) (dst : Opd) (d : Dst),
    (∀ (r c : Nat) (h : Bool) (q : Word) (ls : List Word), Issuing s e 0x63 → e.ety e.low = .f32 → c ≤ 8 → e.dst dst 1 = .ok d →
      d.isVec = true → e.lits = q :: ls → q.toNat < 255 → r + max 1 (((lineCount c).getD 0 + 31) / 32) ≤ 16 * e.blocks → e.caster = false →
      (∀ j, j < (lineCount c).getD 0 → j % 32 ∈ e.lanes → (e.w.getV (r + j / 32) (j % 32)).poison = false) →
      let m := e.mode e.low
      let vals := (List.range ((lineCount c).getD 0)).map fun j =>
        if j % 32 ∈ e.lanes then fmt32.read (modeDN m) (e.w.getV (r + j / 32) (j % 32)).bits.toNat else .fin false 0 0
      let line := (buildLine { rm := modeRM m, dr := modeDR m, sat := modeSAT m, dn := modeDN m } c q.toNat vals).1
      ∃ fl, CompletesAt (.form dst (.v r) h c) s e 0x63 1 d 1
        (e.lanes.filter fun L => decide (if h then 16 ≤ L else L < 16)) (fun L => (fieldAt line (4 * (L % 16)) 4, false)) fl)
    ∧ (∀ (r k : Nat) (h : Bool), Issuing s e 0x64 → (e.ety e.low = .f32 ∨ e.ety e.low = .f64) → k ≠ 3 →
      e.dst dst ((e.ety e.low).width / 32) = .ok d → d.isVec = true → r < 16 * e.blocks → e.caster = false →
      (∀ L ∈ e.lanes, L / 16 = h.toNat → (e.w.getV r L).poison = false) → checkLine (e.image r h) = none →
      (byteAt (e.image r h) 0 = 0 ∨ 32 * k < (lineVals (e.image r h)).length) →
      let t := e.ety e.low
      let m := e.mode e.low
      ∃ fl, CompletesAt (.unform dst (.v r) h k) s e 0x64 0 d (t.width / 32) e.lanes (fun L =>
        (((t.fmt.getD fmt32).roundVal (Rnd.ofCode (modeRM m) (modeDR m) ((L * t.count) % 8)) (modeSAT m) (modeDN m)
          (nth (.fin false 0 0) (lineVals (e.image r h)) (32 * k + L))).1, false)) fl)
    ∧ (∀ (a b : Opd) (x q : Src) (ls : List Word), Issuing s e 0x62 → e.ety e.low ∈ [ETy.f32, .f16, .bf16, .i32, .i16, .i8] →
      e.w.partn = 5 → e.dst dst 1 = .ok d → d.isVec = true → e.src a 1 e.lits = .ok (x, ls) → groupSrc b 4 = .ok q →
      Clean e e.lanes [(x, 1)] → (e.read 4 (4 * e.low) q).2 = false →
      let t := e.ety e.low
      let m := e.mode e.low
      let g := (e.read 4 (4 * e.low) q).1
      let turned := fun (L j k : Nat) => Bool.xor ((perm (g % 2 ^ 64) ((g / 2 ^ 64 + k) % 2 ^ 40) 0).testBit j)
        (((List.range 5).filter fun z => (L &&& j).testBit z).length % 2 == 1)
      let res := fun L => (List.range t.count).map fun k =>
        let z := fun j => elemOf t.width (e.read 1 j x).1 k
        if t.isInt then fitted t (modeSAT m) ((e.lanes.map fun j => if turned L j k then -(value t (z j)) else value t (z j)).sum)
        else
          let f := t.fmt.getD fmt32
          let r := Rnd.ofCode (modeRM m) (modeDR m) ((L * t.count + k) % 8)
          let y := sumVals r ((List.range 32).map fun j =>
            let v := if j ∈ e.lanes then f.read (modeDN m) (z j) else .fin false 0 0
            if turned L j k then v.negate else v)
          let c := f.roundVal r (modeSAT m) (modeDN m) y.1
          (c.1, y.2 ||| c.2)
      CompletesAt (.qhad dst a b) s e 0x62 (e.used ls) d 1 e.lanes (fun L => (packElems t.width ((res L).map (·.1)), false))
        (orFlags (e.lanes.map fun L => orFlags ((res L).map (·.2)))))
    ∧ (∀ (a : Opd) (x : Src) (ls : List Word) (st : Dst), Issuing s e 0x6A → e.dst dst 1 = .ok d → e.src a 4 e.lits = .ok (x, ls) →
      (∃ r, a = .v r ∧ x = .vec r ∧ st = .vec (r + 2) ∧ d.isVec = true) ∨ (∃ r, a = .s r ∧ x = .sca r ∧ st = .sca (r + 2))
        ∨ (a = .zero ∧ x = .imm 0 ∧ st = .none) →
      let owners := e.units st.isVec
      let key := fun L => (e.read 4 L x).1 % 2 ^ 64
      let draw := fun L => (e.read 4 L x).1 / 2 ^ 64 % 2 ^ 24
      let posn := fun L => (e.read 4 L x).1 / 2 ^ 88
      Clean e owners [(x, 4)] → (s.carries e = true ∨ ∀ L ∈ owners, draw L ≠ 2 ^ 24 - 1) →
      ∃ w1 w2 fl, Leaves (.kgen dst a) s e 0x6A 0 (w2.orSticky e.p fl)
        ∧ Wrote e.w w1 d 1 (e.units d.isVec)
          (fun L => (perm (key L) ((posn L + if d.isVec && !st.isVec then L else 0) % 2 ^ 40) (draw L), false))
        ∧ Wrote w1 w2 st 2 owners (fun L =>
          (if draw L = 2 ^ 24 - 1 then (posn L + 1) % 2 ^ 40 * 2 ^ 24 else posn L * 2 ^ 24 + draw L + 1, false)))

/-- R131, R257, R369, R370: SHFL, SHFX and BCAST give each active lane the value and poison of the lane they name in its segment, or 0
where that lane is not active, poisoned too where the index that names the lane is; NBR gives the neighbour's value along the chain of the gang's lanes, or keeps D. -/
def Sys2Proof.Claims.LaneMoveResults : Prop :=
  ∀ (s : State) (e : Env) (dst a : Opd) (d : Dst), e.dst dst ((e.ety e.low).opWidth / 32) = .ok d → d.isVec = true →
    let n := (e.ety e.low).opWidth / 32
    let seg := 2 ^ e.w.partn
    let from_ := fun (x : Src) (j : Nat → Nat) (L : Nat) => if j L ∈ e.lanes then e.read n (j L) x else (0, false)
    (∀ (b : Opd) (x y : Src) (ls : List Word), e.srcs [(a, n), (b, 1)] e.lits = .ok ([x, y], ls) →
      let picked := fun (j : Nat → Nat) (L : Nat) => ((from_ x j L).1, (from_ x j L).2 || (e.read 1 L y).2)
      (Issuing s e 0x70 → CompletesAt (.shfl dst a b) s e 0x70 (e.used ls) d n e.lanes
        (picked fun L => seg * (L / seg) + (e.read 1 L y).1 % seg) 0)
      ∧ (Issuing s e 0x71 → CompletesAt (.shfx dst a b) s e 0x71 (e.used ls) d n e.lanes
        (picked fun L => seg * (L / seg) + Nat.xor (L % seg) ((e.read 1 L y).1 % seg)) 0))
    ∧ (∀ (k : Nat) (x : Src) (ls : List Word), Issuing s e 0x79 → k < seg → e.src a n e.lits = .ok (x, ls) →
      CompletesAt (.bcast dst a k) s e 0x79 (e.used ls) d n e.lanes (from_ x fun L => seg * (L / seg) + k) 0)
    ∧ (∀ (r k : Nat) (next : Bool), Issuing s e 0x72 → a = .v r → r % n = 0 → r + n ≤ 16 * e.blocks → e.caster = false → k ≠ 0 →
      e.group * e.waves + e.wave < e.groups * e.waves →
      ∃ (us : Nats) (v : Nat → Nat × Bool), CompletesAt (.nbr dst a next k) s e 0x72 0 d n us v 0 ∧ (∀ L ∈ us, L ∈ e.lanes)
        ∧ ∀ L ∈ e.lanes, ∀ M, M < 32 → (if next then L + k = M else M + k = L) →
          (L ∈ us ↔ M ∈ e.lanes) ∧ (M ∈ e.lanes → v L = e.read n M (.vec r)))

/-- R138, R371: BALLOT, VOTE and ELECT over the active lanes of each segment. -/
def Sys2Proof.Claims.LaneVoteResults : Prop :=
  ∀ (s : State) (e : Env),
    let mate := fun L j => j ∈ e.lanes ∧ j / 2 ^ e.w.partn = L / 2 ^ e.w.partn
    (∀ (dst : Opd) (d : Dst) (p : PredF), Issuing s e 0x73 → e.dst dst 1 = .ok d → p.rest = 0 →
      ∃ v : Nat → Nat, CompletesAt (.ballot dst p) s e 0x73 0 d 1 (e.units d.isVec) (fun L => (v L, false)) 0
        ∧ ∀ L k, (v L).testBit k = true ↔ ∃ j, mate L j ∧ j % 2 ^ e.w.partn = k ∧ predFBit e.w p j = true)
    ∧ (∀ (p q : PredF) (md : Nat), Issuing s e 0x74 → md ≤ 2 → p.rest = 0 → p.neg = false → q.rest = 0 →
      ∃ w', Leaves (.vote p q md) s e 0x74 0 w' ∧ onlyPreds e.w w' ∧ ∀ x L, x < 16 → L < 32 →
        (x = 0 ∨ x ≠ p.idx ∨ L ∉ e.lanes → predBit w' x L = predBit e.w x L)
        ∧ (x ≠ 0 → x = p.idx → L ∈ e.lanes → (predBit w' x L = true ↔ match md with
          | 0 => ∀ j, mate L j → predFBit e.w q j = true
          | 1 => ∃ j, mate L j ∧ predFBit e.w q j = true
          | _ => ∀ i j, mate L i → mate L j → predFBit e.w q i = predFBit e.w q j)))
    ∧ (∀ (p : PredF), Issuing s e 0x12 → p.rest = 0 → p.neg = false →
      ∃ w', Leaves (.elect p) s e 0x12 0 w' ∧ onlyPreds e.w w' ∧ ∀ x L, x < 16 → L < 32 →
        (x = 0 ∨ x ≠ p.idx ∨ (e.w.pathLanes e.p).getLsbD L = false → predBit w' x L = predBit e.w x L)
        ∧ (x ≠ 0 → x = p.idx → (e.w.pathLanes e.p).getLsbD L = true →
          (predBit w' x L = true ↔ L ∈ e.lanes ∧ ∀ j, mate L j → L ≤ j)))

/-- R366 to R371: what lanes give one another, and what they vote. -/
def Obligations.LaneMoveAndVoteResults : Prop := Sys2Proof.Claims.LaneMoveResults ∧ Sys2Proof.Claims.LaneVoteResults

namespace Sys2Proof.Claims

/-- The reductions: opcode, types, number of operations, fields, operation, and whether lane `j` enters lane `L`'s result
beside the segment (R372, R373). -/
def reduceEntry : Instr → Option (Nat × (ETy → Bool) × (ETy → Nat) × Opd × Opd × Nat × (Nat → Nat → Bool))
  | .redi d a k => some (0x75, ETy.isInt, fun _ => 6, d, a, k, fun _ _ => true)
  | .redf d a k => some (0x76, ETy.isFloat, fun _ => 3, d, a, k, fun _ _ => true)
  | .scan d a excl k => some (0x78, fun t => t.isInt || t.isFloat, fun t => if t.isInt then 6 else 3, d, a, k,
      fun L j => if excl then decide (j < L) else decide (j ≤ L))
  | _ => none

/-- An integer reduction of elements (R372, R373): `k` is 0 add, 1 min, 2 max, 3 and, 4 or, 5 xor. -/
def intReduction (t : ETy) (sat : Bool) (k : Nat) (l : List Nat) : Nat × Flags :=
  match k with
  | 0 => fitted t sat (l.map (value t)).sum
  | 1 => (wrap t.width ((l.map (value t)).foldl min (range t).2), 0)
  | 2 => (wrap t.width ((l.map (value t)).foldl max (range t).1), 0)
  | 3 => (l.foldl (· &&& ·) (2 ^ t.width - 1), 0)
  | 4 => (l.foldl (· ||| ·) 0, 0)
  | _ => (l.foldl (· ^^^ ·) 0, 0)

end Sys2Proof.Claims

/-- R372, R373: REDI, REDF and SCAN write, in every active lane, the reduction of each element over the active lanes of its
segment that enter it. -/
def Obligations.ReductionResults : Prop :=
  ∀ (i : Instr) (op : Nat) (acc : ETy → Bool) (ops : ETy → Nat) (dst a : Opd) (k : Nat) (enters : Nat → Nat → Bool),
    reduceEntry i = some (op, acc, ops, dst, a, k, enters) →
    ∀ (s : State) (e : Env) (d : Dst) (x : Src) (ls : List Word),
    Issuing s e op → acc (e.ety e.low) = true → k < ops (e.ety e.low) → e.dst dst ((e.ety e.low).opWidth / 32) = .ok d → d.isVec = true →
    e.src a ((e.ety e.low).opWidth / 32) e.lits = .ok (x, ls) → Clean e e.lanes [(x, (e.ety e.low).opWidth / 32)] →
    let t := e.ety e.low
    let m := e.mode e.low
    let n := t.opWidth / 32
    let group := fun L q => (e.lanes.filter fun j => j / 2 ^ e.w.partn == L / 2 ^ e.w.partn && enters L j).map fun j =>
      elemOf t.width (e.read n j x).1 q
    let res := fun L => (List.range t.count).map fun q =>
      if t.isInt then intReduction t (modeSAT m) k (group L q)
      else reduceFlt t m (Rnd.ofCode (modeRM m) (modeDR m) ((L * t.count + q) % 8)) k (group L q)
    CompletesAt i s e op (e.used ls) d n e.lanes (fun L => (packElems t.width ((res L).map (·.1)), false))
      (orFlags (e.lanes.map fun L => orFlags ((res L).map (·.2))))

namespace Sys2Proof.Claims

/-! ### Memory (R375–R391) -/

/-- Position `L` accesses `n` bytes of the package's own DRAM: they translate to one piece at offset `place L`, no check of R378
stops it, the alignment `align` that the instruction itself asks for holds, and no earlier access of the path's slices to an SO
page is outstanding where this one is to an SO page (R215). -/
def OwnAccess (s : State) (e : Env) (acc : Access) (n align : Nat) (va place : Nat → Nat) (L : Nat) : Prop :=
  ∃ sp, s.span e.who acc (va L) n = .ok sp ∧ sp.parts = [(.mem (place L), n)] ∧ place L < 2 ^ 40 ∧ va L % align = 0
    ∧ (sp.so = true → va L % min n 16 = 0 ∧ ∀ o ∈ s.earlier e, o.so = true → o.ended = true ∨ o.remote = [] ∧ o.cxl = [] ∧ o.held = [])
    ∧ (acc = .store → e.handler = true ∨ s.sideEffect e.who e.task (s.insidePass e) sp = false)

/-- The state in which an access issues: the TLBs hold the translations of its positions (R186, R188). -/
def translated (s : State) (e : Env) (n : Nat) (us : Nats) (va : Nat → Nat) : State := s.holds e n (us.map fun L => (L, va L))

/-- The lines that the issuing core's L1 data cache holds; a caster thread has none (R190). -/
def l1Lines (s : State) (e : Env) : List L1Line :=
  match e.who.core with
  | some c => (s.coreCache c).lines
  | none => []

/-- They hold what their home holds. -/
def Agrees (s : State) (e : Env) : Prop :=
  ∀ x ∈ l1Lines s e, x.bytes = s.readLocal (64 * x.line) 64 ∧ x.poison = s.poison.get false x.line

/-- The path does not wait inside an operation that it issued before. -/
def Fresh (e : Env) : Prop := ∀ id, e.path.wait ≠ .op id

/-- The state `t` is `u` but for memory, what it held before an open slot's pass wrote it (R108), the ingots that watch what was
stored (R185), TLBs and L1 data caches, and the ids given. -/
def OnlyStores (u t : State) : Prop :=
  { t with mem := u.mem, trail := u.trail, contexts := u.contexts, nextId := u.nextId, caches := u.caches } = u
    ∧ ∀ c, (t.ctx? c).map (fun x => { x with ingots := [] }) = (u.ctx? c).map (fun x => { x with ingots := [] })

/-- The loads: opcode, bytes, sign extension, acquire form, fields (R380, R382). -/
def loadEntry : Instr → Option (Nat × Nat × Bool × Bool × Opd × Opd × Opd)
  | .ldb d a b => some (0x80, 1, false, false, d, a, b)
  | .ldsb d a b => some (0x81, 1, true, false, d, a, b)
  | .ldh d a b => some (0x82, 2, false, false, d, a, b)
  | .ldsh d a b => some (0x83, 2, true, false, d, a, b)
  | .ldw d a b => some (0x84, 4, false, false, d, a, b)
  | .ldd d a b => some (0x85, 8, false, false, d, a, b)
  | .ldq d a b => some (0x86, 16, false, false, d, a, b)
  | .ldaw d a b => some (0x8C, 4, false, true, d, a, b)
  | .ldad d a b => some (0x8D, 8, false, true, d, a, b)
  | _ => none

/-- The stores: opcode, bytes, release form, fields (R380, R382). -/
def storeEntry : Instr → Option (Nat × Nat × Bool × Opd × Opd × Opd)
  | .stb d a b => some (0x87, 1, false, d, a, b)
  | .sth d a b => some (0x88, 2, false, d, a, b)
  | .stw d a b => some (0x89, 4, false, d, a, b)
  | .std d a b => some (0x8A, 8, false, d, a, b)
  | .stq d a b => some (0x8B, 16, false, d, a, b)
  | .stlw d a b => some (0x8E, 4, true, d, a, b)
  | .stld d a b => some (0x8F, 8, true, d, a, b)
  | _ => none

/-- A number of `n` bytes extended to whole registers (R380). -/
def extended (n : Nat) (signed : Bool) (x : Nat) : Nat :=
  if n < 4 ∧ signed = true ∧ 2 ^ (8 * n - 1) ≤ x then x + 2 ^ 32 - 2 ^ (8 * n) else x

/-- The atomics of R384: opcode, types, fields, and whether B holds a pair of operands. -/
def atomicEntry : Instr → Option (Nat × (ETy → Bool) × Opd × Opd × Opd × Bool)
  | .aadd d a b => some (0x90, atomicInt, d, a, b, false)
  | .amin d a b => some (0x91, atomicInt, d, a, b, false)
  | .amax d a b => some (0x92, atomicInt, d, a, b, false)
  | .aand d a b => some (0x93, atomicInt, d, a, b, false)
  | .aor d a b => some (0x94, atomicInt, d, a, b, false)
  | .axor d a b => some (0x95, atomicInt, d, a, b, false)
  | .axch d a b => some (0x96, atomicInt, d, a, b, false)
  | .acas d a b => some (0x97, atomicInt, d, a, b, true)
  | .afadd d a b => some (0x98, fun t => t == .f32 || t == .f64, d, a, b, false)
  | .ainc d a b => some (0x9A, atomicInt, d, a, b, false)
  | _ => none

/-- Op(old, b) of R384 on `w` bits of type `t`; `none` leaves memory unwritten. -/
def atomicRule (i : Instr) (t : ETy) (w old b : Nat) : Option Nat :=
  match i with
  | .aadd _ _ _ => some ((old + b) % 2 ^ w)
  | .amin _ _ _ => some (if value t b < value t old then b else old)
  | .amax _ _ _ => some (if value t old < value t b then b else old)
  | .aand _ _ _ => some (old &&& b)
  | .aor _ _ _ => some (old ||| b)
  | .axor _ _ _ => some (old ^^^ b)
  | .axch _ _ _ => some b
  | .acas _ _ _ => if old = b % 2 ^ w then some (b / 2 ^ w) else none
  | .afadd _ _ _ => some (floatAdd w old b)
  | _ => if b ≠ 0 ∧ b ≤ old then none else some ((old + 1) % 2 ^ w)

/-- The byte at offset `a` after the stores of the positions `us`, later ones over earlier ones: position `L` stores `bs L` at
`place L`. -/
def storedByte (s : State) (us : Nats) (place : Nat → Nat) (bs : Nat → Bytes) (a : Nat) : Byte :=
  match us.reverse.find? fun L => decide (place L ≤ a) && decide (a < place L + (bs L).length) with
  | some L => nth 0 (bs L) (a - place L)
  | none => s.byte a

end Sys2Proof.Claims

/-- R190, R376, R377, R380, R382: a load from the package's own DRAM takes its bytes at Rd(A) + SignExt(Rd(B)) in every
position, little-endian and extended; every byte is the home's or, for a load that is no acquire, that of a line which the
core's L1 holds. An acquire, and a load whose core's L1 agrees with the home, has the home's bytes and poison. It completes at
once when no flag is assigned, and changes nothing else but what the TLBs and the L1 hold; an acquire wider than its wave
leaves the L1 empty. -/
def Obligations.LoadResults : Prop :=
  ∀ (i : Instr) (op n : Nat) (sgn acq : Bool) (dst a b : Opd), loadEntry i = some (op, n, sgn, acq, dst, a, b) →
    ∀ (s : State) (e : Env) (d : Dst) (x y : Src) (l1 l2 : List Word) (vec : Bool) (place : Nat → Nat),
    Issuing s e op → Fresh e → (n = 16 → dst ≠ .zero) → e.dst dst (max 1 (n / 4)) = .ok d →
    e.src a 2 e.lits = .ok (x, l1) →
    e.src b 1 l1 = .ok (y, l2) → e.vectorForm dst [x, y] = .ok vec → Clean e (e.units vec) [(x, 2), (y, 1)] →
    e.flagFor true = none →
    let va := fun L => effective (e.read 2 L x).1 (e.read 1 L y).1
    (∀ L ∈ e.units vec, OwnAccess (translated s e n (e.units vec) va) e .load n (if acq then n else 1) va place L) →
    ∃ (w' : Wave) (k : Nat) (c : Caches) (bs : Nat → Bytes) (pz : Nat → Bool),
      exec i s = .next (({ s with nextId := k, caches := c } : State).setWave e.ref (w'.wentOn e op (e.used l2)))
      ∧ Wrote e.w w' d (max 1 (n / 4)) (e.units vec) (fun L => (extended n sgn (leNat (bs L)), pz L))
      ∧ (∀ L ∈ e.units vec, (bs L).length = n ∧ ∀ j, j < n → nth 0 (bs L) j = s.byte (place L + j)
          ∨ acq = false ∧ ∃ z ∈ l1Lines s e, z.line = (place L + j) / 64 ∧ nth 0 (bs L) j = nth 0 z.bytes ((place L + j) % 64))
      ∧ (acq = true ∨ Agrees s e → ∀ L ∈ e.units vec,
          bs L = s.readLocal (place L) n ∧ pz L = s.partPoisoned e.who (.mem (place L)) n)
      ∧ (acq = true → e.scopeOf vec (e.units vec) ≠ 0 → l1Lines ({ s with caches := c } : State) e = [])

/-- R190, R376, R377, R380, R381, R382: a store to the package's own DRAM that no quench cuts writes the low bytes of D
little-endian at Rd(A) + SignExt(Rd(B)) for every position in order, marks what watches them, and leaves every other byte and
everything else but what the TLBs and the L1 hold; an L1 that agreed with its home still does. It completes at once when no
flag is assigned and no earlier release of the path is pending (R382); a release does so where the path's earlier accesses are
performed. The data of STQ is a register quad, ZERO or LIT (R375). -/
def Obligations.StoreResults : Prop :=
  ∀ (i : Instr) (op n : Nat) (rel : Bool) (dst a b : Opd), storeEntry i = some (op, n, rel, dst, a, b) →
    ∀ (s : State) (e : Env) (x y z : Src) (l1 l2 l3 : List Word) (vec : Bool) (place : Nat → Nat),
    Issuing s e op → Fresh e → e.doneMask = 0 → s.writeHeld e = false → (n = 16 → s.cut = false) →
    (n = 16 → dst = .zero ∨ dst = .lit ∨ ∃ r, dst = .v r ∨ dst = .s r) → e.src dst (max 1 (n / 4)) e.lits = .ok (z, l1) → e.src a 2 l1 = .ok (x, l2) →
    e.src b 1 l2 = .ok (y, l3) → e.vectorForm dst [x, y] = .ok vec → Clean e (e.units vec) [(z, max 1 (n / 4)), (x, 2), (y, 1)] →
    (rel = true → s.quiet e e.scope = true) → e.flagFor false = none →
    let va := fun L => effective (e.read 2 L x).1 (e.read 1 L y).1
    (∀ L ∈ e.units vec, OwnAccess (translated s e n (e.units vec) va) e .store n (if rel then n else 1) va place L) →
    ∃ t, exec i s = .next t ∧ OnlyStores (s.setWave e.ref (e.w.wentOn e op (e.used l3))) t
      ∧ (∀ q, t.byte q = storedByte s (e.units vec) place (fun L => leBytes n (e.read (max 1 (n / 4)) L z).1) q)
      ∧ (Agrees s e → Agrees t e)

/-- R383 to R385: an atomic on distinct cells of the package's own DRAM gives D the old values and writes Op(old, b), or
nothing where R384 says unchanged; every other byte is as it was. The quad of a 64-bit ACAS is of registers (R375). -/
def Obligations.AtomicResults : Prop :=
  ∀ (i : Instr) (op : Nat) (acc : ETy → Bool) (dst a b : Opd) (pair : Bool), atomicEntry i = some (op, acc, dst, a, b, pair) →
    ∀ (s : State) (e : Env) (n : Nat) (d : Dst) (x y : Src) (l1 l2 : List Word) (vec : Bool) (place : Nat → Nat),
    Issuing s e op → Fresh e → e.doneMask = 0 → s.writeHeld e = false → (pair = true → n = 2 → ∃ r, b = .v r ∨ b = .s r) →
    e.types acc = .ok n → e.dst dst n = .ok d → e.src a 2 e.lits = .ok (x, l1) →
    e.src b (if pair then 2 * n else n) l1 = .ok (y, l2) → e.vectorForm dst [x, y] = .ok vec →
    Clean e (e.units vec) [(x, 2), (y, if pair then 2 * n else n)] → (∀ c, e.flagFor c = none) →
    let va := fun L => (e.read 2 L x).1
    (∀ L ∈ e.units vec, OwnAccess (translated s e (4 * n) (e.units vec) va) e .store (4 * n) (4 * n) va place L) →
    ((e.units vec).map va).Nodup →
    (∀ L ∈ e.units vec, ∀ M ∈ e.units vec, L ≠ M → place L + 4 * n ≤ place M ∨ place M + 4 * n ≤ place L) →
    let old := fun L => leNat (s.readLocal (place L) (4 * n))
    let new := fun L => atomicRule i (e.ety (L / 4)) (32 * n) (old L) (e.read (if pair then 2 * n else n) L y).1
    ∃ t w', exec i s = .next t ∧ OnlyStores (s.setWave e.ref (w'.wentOn e op (e.used l2))) t
      ∧ Wrote e.w w' d n (e.units vec) (fun L => (old L, s.partPoisoned e.who (.mem (place L)) (4 * n)))
      ∧ ∀ q, t.byte q = storedByte s ((e.units vec).filter fun L => (new L).isSome) place
          (fun L => leBytes (4 * n) ((new L).getD 0)) q

/-- R386: AXSUM on distinct cells adds each lane's exact sum to the cell's where the tag matches and gives D the status. -/
def Obligations.SumAtomicResults : Prop :=
  ∀ (s : State) (e : Env) (dst a : Opd) (d : Dst) (x : Nat) (y : Src) (ls : List Word) (place : Nat → Nat), x < 4 →
    Issuing s e 0x99 → Fresh e → e.doneMask = 0 → s.writeHeld e = false → e.caster = false → (dst = .zero ∨ ∃ r, dst = .v r) → e.dst dst 1 = .ok d →
    e.src a 2 e.lits = .ok (y, ls) → Clean e e.lanes [(y, 2)] → (d.isVec = true → Clean e e.lanes [(d.src, 1)]) → SumsClean e [x] →
    (∀ c, e.flagFor c = none) →
    let va := fun L => (e.read 2 L y).1
    (∀ L ∈ e.lanes, OwnAccess (translated s e 48 e.lanes va) e .store 48 16 va place L) → (e.lanes.map va).Nodup →
    (∀ L ∈ e.lanes, ∀ M ∈ e.lanes, L ≠ M → place L + 48 ≤ place M ∨ place M + 48 ≤ place L) →
    let cell := fun L => axsumCell (s.readLocal (place L) 48) (e.w.getX x L) ((e.read 1 L d.src).1 % 2 ^ 16)
    ∃ t w', exec (.axsum dst a x) s = .next t ∧ OnlyStores (s.setWave e.ref (w'.wentOn e 0x99 (e.used ls))) t
      ∧ Wrote e.w w' d 1 e.lanes (fun L => ((cell L).1, s.partPoisoned e.who (.mem (place L)) 48))
      ∧ ∀ q, t.byte q = storedByte s (e.lanes.filter fun L => (cell L).2.isSome) place (fun L => ((cell L).2.getD [])) q

/-- R388: TAGL looks up the lowest valid slot of the key, TAGS writes entries with bits 9 to 2 zero, TAGI gives the old entries
and clears their VALID. TAGS and TAGI are stated for distinct slots. -/
def Obligations.TagResults : Prop :=
  ∀ (s : State) (e : Env) (g : Gang), s.gang? e.task e.gang = some g →
    let slots := s.scratchBytes e.task / 1024
    (∀ (dst a : Opd) (d : Dst) (x : Src) (ls : List Word) (vec : Bool), Issuing s e 0x9D → e.dst dst 1 = .ok d →
      e.src a 2 e.lits = .ok (x, ls) → e.vectorForm dst [x] = .ok vec → Clean e (e.units vec) [(x, 2)] →
      ∃ v : Nat → Nat, CompletesAt (.tagl dst a) s e 0x9D (e.used ls) d 1 (e.units vec) (fun L => (v L, false)) 0
        ∧ ∀ L ∈ e.units vec, v L = match g.tags.find? fun t => t.2.toNat % 2 == 1 && t.2.toNat / 1024 == (e.read 2 L x).1 / 1024 with
          | some t => t.1
          | none => 0xFFFFFFFF)
    ∧ (∀ (a b : Opd) (x y : Src) (ls : List Word), Issuing s e 0x9E → e.srcs [(a, 1), (b, 2)] e.lits = .ok ([x, y], ls) →
      let us := e.units ((x.isVec || y.isVec) && !e.caster)
      Clean e us [(x, 1), (y, 2)] → (∀ L ∈ us, (e.read 1 L x).1 < slots) →
      (∀ L ∈ us, ∀ M ∈ us, (e.read 1 L x).1 = (e.read 1 M x).1 → L = M) →
      ∃ t h, exec (.tags a b) s = .next t ∧ t.gang? e.task e.gang = some h ∧ t.mem = s.mem
        ∧ ∀ k, h.tags.get 0 k = match us.find? fun L => (e.read 1 L x).1 == k with
          | some L => BitVec.ofNat 64 ((e.read 2 L y).1 / 1024 * 1024 + (e.read 2 L y).1 % 4)
          | none => g.tags.get 0 k)
    ∧ (∀ (dst a : Opd) (d : Dst) (x : Src) (ls : List Word) (vec : Bool), Issuing s e 0x9F → e.dst dst 2 = .ok d →
      e.src a 1 e.lits = .ok (x, ls) → e.vectorForm dst [x] = .ok vec → Clean e (e.units vec) [(x, 1)] →
      (∀ L ∈ e.units vec, (e.read 1 L x).1 < slots) →
      (∀ L ∈ e.units vec, ∀ M ∈ e.units vec, (e.read 1 L x).1 = (e.read 1 M x).1 → L = M) →
      ∃ t h w', exec (.tagi dst a) s = .next t ∧ t.gang? e.task e.gang = some h ∧ t.mem = s.mem
        ∧ t.wave? e.ref = some (w'.wentOn e 0x9F (e.used ls))
        ∧ Wrote e.w w' d 2 (e.units vec) (fun L => ((g.tags.get 0 (e.read 1 L x).1).toNat, false))
        ∧ ∀ k, h.tags.get 0 k = if (e.units vec).any (fun L => (e.read 1 L x).1 == k) then g.tags.get 0 k &&& ~~~1 else g.tags.get 0 k)

/-- R190, R391: LDFE from formed pages of the package's own DRAM gives each position the element of the line that it names,
converted to T, or 0 beyond the line's count; a conversion to f32 under DN reads a subnormal element as zero (log 140); the line
is the home's, or what the core's L1 holds of it. -/
def Obligations.FormedElementLoad : Prop :=
  ∀ (s : State) (e : Env) (dst a b : Opd) (n : Nat) (d : Dst) (x y : Src) (l1 l2 : List Word) (vec : Bool) (place : Nat → Nat),
    Issuing s e 0xA2 → Fresh e → e.types (fun t => t == .f32 || t == .f64) = .ok n → e.dst dst n = .ok d →
    e.src a 2 e.lits = .ok (x, l1) → e.src b 1 l1 = .ok (y, l2) → e.vectorForm dst [x, y] = .ok vec →
    Clean e (e.units vec) [(x, 2), (y, 1)] → e.flagFor true = none →
    let va := fun L => (e.read 2 L x).1
    let u := translated s e 64 (e.units vec) va
    (∀ L ∈ e.units vec, OwnAccess u e .load 64 64 va place L ∧ (∃ sp, u.span e.who .load (va L) 64 = .ok sp ∧ sp.formed = true)
      ∧ checkLine (s.readLocal (place L) 64) = none
      ∧ ∀ z ∈ l1Lines s e, z.line = place L / 64 → checkLine (z.bytes.take 64) = none) →
    let f := if n = 2 then fmt64 else fmt32
    let el := fun (L : Nat) (line : Bytes) => match (lineVals line)[(e.read 1 L y).1]? with
      | some v =>
        let zeroed := n ≠ 2 ∧ modeDN (e.mode (L / 4)) = true ∧ subnormalAt line (e.read 1 L y).1 = true
        (floatToFloat f (Rnd.ofCode (modeRM (e.mode (L / 4))) (modeDR (e.mode (L / 4))) ((e.read 1 L y).1 % 8))
          (modeSAT (e.mode (L / 4))) (modeDN (e.mode (L / 4))) (if zeroed then .fin v.neg 0 0 else v)).1
      | none => 0
    ∃ (w' : Wave) (k : Nat) (c : Caches) (fl : Flags) (line : Nat → Bytes × Bool),
      exec (.ldfe dst a b) s =
        .next (({ s with nextId := k, caches := c } : State).setWave e.ref ((w'.orSticky e.p fl).wentOn e 0xA2 (e.used l2)))
      ∧ (∀ L ∈ e.units vec, line L = (s.readLocal (place L) 64, s.partPoisoned e.who (.mem (place L)) 64)
        ∨ ∃ z ∈ l1Lines s e, z.line = place L / 64 ∧ line L = (z.bytes.take 64, z.poison))
      ∧ Wrote e.w w' d n (e.units vec) (fun L => (el L (line L).1, (line L).2))

namespace Sys2Proof.Claims

/-! ### Control (R126–R129, R306–R330) -/

/-- The issuing path has entry `e.p` of a table of 8, beside a file of 8 slices, and runs or waits there (R123, R125). -/
structure Shaped (e : Env) : Prop where
  wave : e.w.shaped = true
  entry : e.p < 8
  state : e.path.state = .run ∨ e.path.state = .blocked ∨ e.path.state = .regang

/-- `w'` is `w` but for its path table. -/
def onlyPaths (w w' : Wave) : Prop := { w' with paths := w.paths } = w

/-- `w'` is `w` but for its slices and path table. -/
def onlySlices (w w' : Wave) : Prop := { w' with slices := w.slices, paths := w.paths } = w

/-- The instruction leaves its wave as `w`, and arrivals at its gang's barriers that the end of slices completes are settled
(R130), which a caster thread and a handler wave have no part in; nothing else of the machine changes. -/
def LeavesSettled (i : Instr) (s : State) (e : Env) (w : Wave) : Prop :=
  ∃ f : Gang → List Barrier, (e.caster = true ∨ e.handler = true → f = Gang.barriers)
    ∧ exec i s = .next ((s.setWave e.ref w).mapGang e.task e.gang fun g => { g with barriers := f g })

/-- Only the `n` words after the instruction stand inside its clause, and they are literals (R308). -/
def LastInClause (e : Env) (n : Nat) : Prop :=
  ∀ l c, e.path.buf = some l → e.path.clause = some c →
    ∀ k, wordIx e.path.pc < k → k ≤ c.last → k ≤ wordIx e.path.pc + n ∧ l.kind k = 2

/-- A transfer target is a clause header word of a line that can be fetched (R279, R307). -/
def Target (s : State) (e : Env) (va : DWord) : Prop := ∃ l, s.lineFor e va = .ok l ∧ l.isHeader va = true

/-- The place a LIT target names (R307). -/
def displaced (e : Env) (x : Word) : DWord := e.pc + BitVec.signExtend 64 x

/-- There are FREE entries for the groups beyond the first that `dest` makes of the path's slices. -/
def Room (e : Env) (dest : Nat → DWord) : Prop :=
  (e.pathSlices.map dest).eraseDups.length ≤ 1 + ((List.range 8).filter fun q => (e.w.path q).state == .free).length

/-- The instruction completes and every slice of the path goes on at its own address (R126): the group of the lowest slice in
the path's entry, each other group in an entry that was FREE; ACTIVE is `act` of the lane; signature and STICKY go with the
slices; and the wave is otherwise `w`. -/
def Transfers (i : Instr) (s : State) (e : Env) (op : Nat) (w : Wave) (act : Nat → Bool) (dest : Nat → DWord) : Prop :=
  ∃ w', exec i s = .next (s.setWave e.ref w') ∧ onlyPaths w w'
    ∧ ∀ j ∈ e.pathSlices, ∃ q, q < 8 ∧ (q = e.p ∨ (e.w.path q).state = .free) ∧ (dest j = dest e.low ↔ q = e.p)
      ∧ (w'.path q).state = .run ∧ (w'.path q).slices.getLsbD j = true ∧ (w'.path q).pc = dest j
      ∧ (w'.path q).sig = sigIssue e.path.sig op (e.path.active ^^^ e.path.ref) ∧ (w'.path q).sticky = e.path.sticky
      ∧ ∀ L, L / 4 = j → (w'.path q).active.getLsbD L = act L

/-- The path goes on in line, as `w'` leaves it; no other path and nothing else of the wave changes. -/
structure GoesOn (e : Env) (op lits : Nat) (w' : Wave) : Prop where
  rest : onlyPaths e.w w'
  others : ∀ q, q ≠ e.p → w'.path q = e.w.path q
  state : (w'.path e.p).state = .run
  wait : (w'.path e.p).wait = .none
  place : ((w'.path e.p).pc, (w'.path e.p).clause) = e.after lits
  sig : (w'.path e.p).sig = sigIssue e.path.sig op (e.path.active ^^^ e.path.ref)
  sticky : (w'.path e.p).sticky = e.path.sticky

/-- What BRP does to a slice (R312): whether it takes the branch, and its enabled lanes and stack after it. -/
def brpRule (x : Slice) (sleeping pred : BitVec 4) (next : DWord) : Bool × BitVec 4 × List StackEntry :=
  let enabled := x.enabled &&& ~~~x.ended
  let E := enabled &&& ~~~sleeping
  let T := E &&& pred
  if T = 0 then (false, x.enabled, x.stack)
  else if T = E then (true, x.enabled, x.stack)
  else (true, (T &&& ~~~sleeping) ||| (enabled &&& sleeping), { mask := enabled, resume := next } :: x.stack)

/-- What JOIN does to a slice (R313): its next address, enabled lanes and stack. -/
def joinRule (x : Slice) (next : DWord) : DWord × BitVec 4 × List StackEntry :=
  match x.stack with
  | [] => (next, x.enabled, [])
  | top :: rest =>
    let pend := top.mask &&& ~~~(x.enabled &&& ~~~x.ended) &&& ~~~x.ended
    if top.resume ≠ 0 ∧ top.resume.getLsbD 0 = false ∧ pend ≠ 0 then
      (top.resume, pend, { top with resume := next ||| 1 } :: rest)
    else (next, top.mask &&& ~~~x.ended, rest)

/-- Bits `4·j` to `4·j + 3` of a lane mask. -/
def laneBits (m : Word) (j : Nat) : BitVec 4 := m.extractLsb' (4 * j) 4

end Sys2Proof.Claims

/-- R126, R307, R308, R311, R312, R314: BRA, BRS, BRX, CALL and RET send each slice of the path to its own target or to
NextClause, whatever the guard, with every taken target a clause header; CALL first writes NextClause into its pair in every
slice. -/
def Sys2Proof.Claims.BranchResults : Prop :=
  ∀ (s : State) (e : Env), Shaped e → let act := fun L => e.path.active.getLsbD L
    (∀ (t : Word) (ls : List Word), Issuing s e 0x02 → e.lits = t :: ls → Target s e (displaced e t) →
      Transfers (.bra .lit) s e 0x02 e.w act (fun _ => displaced e t))
    ∧ (∀ (z : Nat) (a : Opd) (x : Src) (t : Word) (ls : List Word), Issuing s e 0x04 → z ≤ 1 → LastInClause e (if a = .lit then 2 else 1) →
      e.src a 1 e.lits = .ok (x, t :: ls) → x.isVec = false → Clean e (e.pathSlices.map (4 * ·)) [(x, 1)] →
      let dest := fun j => if (e.read 1 (4 * j) x).1 = 0 ↔ z = 1 then displaced e t else e.nextClause
      ((∃ j ∈ e.pathSlices, ((e.read 1 (4 * j) x).1 = 0 ↔ z = 1)) → Target s e (displaced e t)) → Room e dest →
      Transfers (.brs z a .lit) s e 0x04 e.w act dest)
    ∧ (∀ (n : Nat) (a : Opd) (x : Src) (t : Word) (ls : List Word), Issuing s e 0x1B → n ≠ 0 → LastInClause e (if a = .lit then 2 else 1) →
      e.src a 1 e.lits = .ok (x, t :: ls) → x.isVec = false → Clean e (e.pathSlices.map (4 * ·)) [(x, 1)] →
      let case := fun j => displaced e t + BitVec.ofNat 64 (128 * (e.read 1 (4 * j) x).1)
      let dest := fun j => if (e.read 1 (4 * j) x).1 < n then case j else e.nextClause
      (∀ j ∈ e.pathSlices, (e.read 1 (4 * j) x).1 < n → Target s e (case j)) → Room e dest →
      Transfers (.brx n a .lit) s e 0x1B e.w act dest)
    ∧ (∀ (r : Nat) (b : Opd) (dest : Nat → DWord), Issuing s e 0x06 → r % 2 = 0 → r + 2 ≤ 48 →
      ((∃ t ls, b = .lit ∧ e.lits = t :: ls ∧ LastInClause e 1 ∧ dest = fun _ => displaced e t)
        ∨ ∃ q, b = .s q ∧ q % 2 = 0 ∧ q + 2 ≤ 48 ∧ LastInClause e 0 ∧ Clean e (e.pathSlices.map (4 * ·)) [(.sca q, 2)]
          ∧ dest = fun j => BitVec.ofNat 64 (e.read 2 (4 * j) (.sca q)).1) →
      (∀ j ∈ e.pathSlices, Target s e (dest j)) → e.pathSlices ≠ [] → Room e dest →
      ∃ w, Wrote e.w w (.sca r) 2 (e.pathSlices.map (4 * ·)) (fun _ => (e.nextClause.toNat, false))
        ∧ Transfers (.call (.s r) b) s e 0x06 w act dest)
    ∧ (∀ (q : Nat), Issuing s e 0x07 → q % 2 = 0 → q + 2 ≤ 48 → Clean e (e.pathSlices.map (4 * ·)) [(.sca q, 2)] →
      let dest := fun j => (BitVec.ofNat 64 (e.read 2 (4 * j) (.sca q)).1 : DWord)
      (∀ j ∈ e.pathSlices, Target s e (dest j)) → Room e dest → Transfers (.ret (.s q)) s e 0x07 e.w act dest)

/-- R128, R135, R312, R313: BRP and JOIN change each slice's enabled lanes and split stack and send it on as stated; a full
stack raises 0x01 at BRP with no slice changed; on a caster thread BRP branches on bit 0 and JOIN goes to NextClause. -/
def Sys2Proof.Claims.SplitStackResults : Prop :=
  ∀ (s : State) (e : Env), Shaped e →
    let after := fun (w : Wave) (L : Nat) =>
      ((w.slice (L / 4)).enabled &&& ~~~(w.slice (L / 4)).ended).getLsbD (L % 4) && !(e.path.sleep.getLsbD L)
    let asleep := fun j => laneBits e.path.sleep j
    (∀ (p : PredF) (t : Word) (ls : List Word), Issuing s e 0x03 → LastInClause e 1 → p.rest = 0 → e.lits = t :: ls →
      let pred := fun (j : Nat) => (BitVec.ofNat 4 ((List.range 4).map fun i => (predFBit e.w p (4 * j + i)).toNat * 2 ^ i).sum)
      let rule := fun j => brpRule (e.w.slice j) (asleep j) (pred j) e.nextClause
      let dest := fun j => if (rule j).1 then displaced e t else e.nextClause
      (e.caster = false → (∀ j ∈ e.pathSlices, (rule j).2.2.length ≤ 8) → ((∃ j ∈ e.pathSlices, (rule j).1 = true) → Target s e (displaced e t)) →
        Room e dest →
        ∃ w, onlySlices e.w w ∧ Transfers (.brp p .lit) s e 0x03 w (after w) dest
          ∧ ∀ j, w.slice j = if j ∈ e.pathSlices then { e.w.slice j with enabled := (rule j).2.1, stack := (rule j).2.2 } else e.w.slice j)
      ∧ (e.caster = false → (∃ j ∈ e.pathSlices, 8 ≤ (e.w.slice j).stack.length ∧ (rule j).2.2.length = (e.w.slice j).stack.length + 1) →
        exec (.brp p .lit) s = .next (s.takeFault e.ref e.p { code := 0x01 }))
      ∧ (e.caster = true → (predFBit e.w p 0 = true → Target s e (displaced e t)) →
        Transfers (.brp p .lit) s e 0x03 e.w (fun L => e.path.active.getLsbD L)
          (fun _ => if predFBit e.w p 0 then displaced e t else e.nextClause)))
    ∧ (Issuing s e 0x05 → LastInClause e 0 →
      let rule := fun j => joinRule (e.w.slice j) e.nextClause
      (e.caster = false → Room e (fun j => (rule j).1) →
        ∃ w, onlySlices e.w w ∧ Transfers .join s e 0x05 w (after w) (fun j => (rule j).1)
          ∧ ∀ j, w.slice j = if j ∈ e.pathSlices then { e.w.slice j with enabled := (rule j).2.1, stack := (rule j).2.2 } else e.w.slice j)
      ∧ (e.caster = true → Transfers .join s e 0x05 e.w (fun L => e.path.active.getLsbD L) (fun _ => e.nextClause)))

/-- R305 to R316: branches and the split stack. -/
def Obligations.BranchAndStackResults : Prop := Sys2Proof.Claims.BranchResults ∧ Sys2Proof.Claims.SplitStackResults

/-- R129, R130, R138, R315: EXIT ends the lanes active after the guard; a path whose slices have all exited becomes FREE, its
sleeping lanes ended too, and otherwise goes on in line; on a caster thread EXIT ends the thread where its guard bit is set.
SLEEP moves the active lanes to SLEEP and WAKE all of SLEEP back. -/
def Sys2Proof.Claims.LanesAtRest : Prop :=
  ∀ (s : State) (e : Env), Shaped e →
    let mine := fun L => L < 32 ∧ e.path.slices.getLsbD (L / 4) = true
    let ended := fun L => (e.w.slice (L / 4)).ended.getLsbD (L % 4)
    let gone := fun (w : Wave) => onlySlices e.w w ∧ w.path e.p = {} ∧ (∀ q, q ≠ e.p → w.path q = e.w.path q)
      ∧ ∀ j, j < 8 → (w.slice j).ended = if e.path.slices.getLsbD j then 0xF else (e.w.slice j).ended
    (Issuing s e 0x08 → (∀ L, e.path.sleep.getLsbD L = true → mine L) →
      (e.caster = true → 0 ∉ e.lanes → Leaves .exitLanes s e 0x08 0 e.w)
      ∧ (e.caster = true → 0 ∈ e.lanes → ∃ w, LeavesSettled .exitLanes s e w ∧ gone w)
      ∧ (e.caster = false → (∀ L, mine L → ended L = true ∨ L ∈ e.lanes ∨ e.path.sleep.getLsbD L = true) →
        ∃ w, LeavesSettled .exitLanes s e w ∧ gone w)
      ∧ (e.caster = false → (∃ L, mine L ∧ ended L = false ∧ L ∉ e.lanes ∧ e.path.sleep.getLsbD L = false) →
        (∀ j ∈ e.pathSlices, (e.w.slice j).stack = [] ∨ (∀ L, L / 4 = j → ended L = true ∨ L ∈ e.lanes)
          ∨ ∃ L, L / 4 = j ∧ (e.w.slice j).enabled.getLsbD (L % 4) = true ∧ ended L = false ∧ L ∉ e.lanes) →
        ∃ w, LeavesSettled .exitLanes s e w ∧ onlySlices e.w w
          ∧ (∀ q, q ≠ e.p → w.path q = e.w.path q) ∧ (w.path e.p).state = .run
          ∧ ((w.path e.p).pc, (w.path e.p).clause) = e.after 0
          ∧ ∀ L, L < 32 → (w.slice (L / 4)).ended.getLsbD (L % 4) = (ended L || decide (L ∈ e.lanes))))
    ∧ (Issuing s e 0x10 → ∃ w, exec .sleep s = .next (s.setWave e.ref w) ∧ GoesOn e 0x10 0 w
        ∧ (w.path e.p).sleep = e.path.sleep ||| e.active
        ∧ ∀ L, L < 32 → (w.path e.p).active.getLsbD L =
          (decide (mine L) && (e.w.slice (L / 4)).enabled.getLsbD (L % 4) && !(ended L) && !(e.path.sleep.getLsbD L) && !(decide (L ∈ e.lanes))))
    ∧ (Issuing s e 0x11 → ∃ w, exec .wake s = .next (s.setWave e.ref w) ∧ GoesOn e 0x11 0 w ∧ (w.path e.p).sleep = 0
        ∧ ∀ L, L < 32 → (w.path e.p).active.getLsbD L =
          (decide (mine L) && (e.w.slice (L / 4)).enabled.getLsbD (L % 4) && !(ended L)))

/-- R127, R260, R297, R316, R323: REGANG waits while another path of the wave that is live and awake is elsewhere; the last to
arrive at the same word joins them all into the lowest entry, the sleeping ones too, with STICKY ORed and the signature reset;
arrivals at different words raise 0x80 on the lowest; a caster thread goes on at once. -/
def Sys2Proof.Claims.RegangResults : Prop :=
  ∀ (s : State) (e : Env), Issuing s e 0x09 → Shaped e →
    let live := (List.range 8).filter fun q => (e.w.path q).state != .free && e.w.pathSlices q != []
    let others := live.filter (· != e.p)
    let sleeps := fun q => (e.w.path q).state = .run ∧ ∀ L, L / 4 ∈ e.w.pathSlices q →
      (e.w.slice (L / 4)).ended.getLsbD (L % 4) = true ∨ (e.w.path q).sleep.getLsbD L = true
    e.p ∈ live →
    (e.caster = true → ∃ w, exec .regang s = .next (s.setWave e.ref w) ∧ onlyPaths e.w w ∧ (w.path e.p).state = .run
      ∧ ((w.path e.p).pc, (w.path e.p).clause) = e.after 0 ∧ (w.path e.p).ref = e.path.active)
    ∧ (e.caster = false → (∃ q ∈ others, (e.w.path q).state ≠ .regang ∧ ¬sleeps q) →
      ∃ w, exec .regang s = .next (s.setWave e.ref w) ∧ onlyPaths e.w w ∧ (w.path e.p).state = .regang ∧ (w.path e.p).pc = e.pc
        ∧ ∀ q, q ≠ e.p → w.path q = e.w.path q)
    ∧ (e.caster = false → (∀ q ∈ others, (e.w.path q).state = .regang ∧ (e.w.path q).pc = e.pc ∨ sleeps q) →
      ∃ w t, exec .regang s = .next t ∧ t.wave? e.ref = some w ∧ onlyPaths e.w w
        ∧ ∃ q0 ∈ live, (∀ q ∈ live, q0 ≤ q) ∧ (∀ q ∈ live, q ≠ q0 → w.path q = {})
          ∧ (∀ q, q ∉ live → w.path q = e.w.path q)
          ∧ (w.path q0).state = .run ∧ ((w.path q0).pc, (w.path q0).clause) = e.after 0 ∧ (w.path q0).sig = sigRegang
          ∧ (w.path q0).ref = (w.path q0).active
          ∧ (∀ L, (w.path q0).active.getLsbD L = live.any fun q => (e.w.path q).active.getLsbD L)
          ∧ (∀ j, (w.path q0).slices.getLsbD j = live.any fun q => (e.w.path q).slices.getLsbD j)
          ∧ (∀ f, (w.path q0).sticky.getLsbD f = live.any fun q => (e.w.path q).sticky.getLsbD f))
    ∧ (e.caster = false → (∀ q ∈ others, (e.w.path q).state = .regang ∨ sleeps q) →
      (∃ q ∈ others, (e.w.path q).state = .regang ∧ (e.w.path q).pc ≠ e.pc) →
      (∀ q ∈ others, (e.w.path q).state = .regang → e.p < q) → exec .regang s = .next (s.takeFault e.ref e.p { code := 0x80 }))

/-- R315, R321, R322: lanes that sleep, wake or end, and paths that join. -/
def Obligations.RestAndRegangResults : Prop := Sys2Proof.Claims.LanesAtRest ∧ Sys2Proof.Claims.RegangResults

namespace Sys2Proof.Claims

/-- The number n of a timeline has been reached, or its wait ends otherwise (R319): the status WAITT writes. -/
def waitStatus (t : Timeline) (n : Nat) (late reset : Bool) : Option Nat :=
  if t.fenced ∨ reset = true then some 2 else if n ≤ t.reached then some 0 else if late then some 1 else none

/-- The wait of a path of this wave begins or goes on: nothing else of the machine changes. -/
def Waits (i : Instr) (s : State) (e : Env) (wt : Wait) : Prop :=
  ∃ w, exec i s = .next (s.setWave e.ref w) ∧ onlyPaths e.w w ∧ (∀ q, q ≠ e.p → w.path q = e.w.path q)
    ∧ (w.path e.p).state = .blocked ∧ (w.path e.p).wait = wt ∧ (w.path e.p).pc = e.pc

/-- The caches after an acquire at `scope` (R190, R217): the L1 of a wave's core drops its lines when the scope is wider than
the wave. -/
def Acquired (s : State) (e : Env) (scope : Nat) (c : Caches) : Prop :=
  { c with cores := s.caches.cores } = s.caches
    ∧ ∀ k, (c.cores.get {} k).tlb = (s.coreCache k).tlb
      ∧ (c.cores.get {} k).lines = if e.caster = false ∧ k = e.core ∧ scope ≠ 0 then [] else (s.coreCache k).lines

/-- The instruction completes in line as `w`, and acquires at `scope`. Nothing else of the machine changes. -/
def Acquires (i : Instr) (s : State) (e : Env) (op lits : Nat) (w : Wave) (scope : Nat) : Prop :=
  ∃ c : Caches, exec i s = .next (({ s with caches := c } : State).setWave e.ref (w.wentOn e op lits)) ∧ Acquired s e scope c

/-- The value and registers of a state number that GETS reads (R324). -/
def stateValue (s : State) (e : Env) (num arg : Nat) : Option (Nat × Nat) :=
  let t := s.task? e.task
  let left := fun (limit used : Nat) => if limit = 0 then 0xFFFFFFFF else min (limit - used) 0xFFFFFFFE
  let ran := fun (k : Task) => match k.firstIssue with
    | some t0 => (s.now - t0) / 10 * 10
    | none => 0
  if num ≠ 15 ∧ arg ≠ 0 then none
  else match num with
  | 0 => some (s.now % 2 ^ 64, 2)
  | 1 => t.map fun k => (k.energy % 2 ^ 64, 2)
  | 2 => t.map fun k => (if k.anytime then left k.timeLimit (ran k) else 0xFFFFFFFF, 1)
  | 3 => t.map fun k => (if k.anytime then left k.energyLimit k.energy else 0xFFFFFFFF, 1)
  | 4 => some ((s.cluster e.cluster).allow, 1)
  | 5 => some (if e.caster then 0 else e.path.sticky.toNat, 1)
  | 6 => some (if e.caster then 0 else e.p, 1)
  | 7 => some (e.path.sig.toNat, 1)
  | 8 => some (e.task % 2 ^ 32, 1)
  | 9 => some (e.ctx, 1)
  | 10 => some (if e.caster then 0 else e.w.partn, 1)
  | 11 => some (e.w.slip % 2 ^ 32, 1)
  | 12 => some (nth 0 (s.die (e.cluster / 32)).sensors (e.cluster % 32 / 2), 1)
  | 13 => some (if e.handler && (s.core e.core).hmask then 1 else 0, 1)
  | 14 => some (if e.handler then (match (s.core e.core).current with
      | some i => recordAddr e.core i
      | none => 0) else 0, 2)
  | 15 => if arg < 128 ∧ arg / 32 ≠ 3 then
      ((s.gang? e.task e.gang).bind fun g => g.tiles[arg % 32]?).map fun x => (x.bitmap.toNat / 2 ^ (32 * (arg / 32)) % 2 ^ 32, 1)
    else none
  | _ => none

end Sys2Proof.Claims

/-- R317, R319, R320: WAITF goes on once its flags are clear in every slice and waits before; WAITT writes 0, 1 or 2 in every
slice once the timeline has reached n, which acquires at device scope, the timeout is over or the timeline is fenced, which acquire
nothing, and waits before; WAITM goes on where the
mould has the state and phase named, which acquires at device scope, and waits before. A wait that a RESET of the timeline
ends returns 2. -/
def Obligations.WaitResults : Prop :=
  ∀ (s : State) (e : Env), Shaped e →
    (∀ (m : Nat), Issuing s e 0x0A →
      let held := ∃ j ∈ e.pathSlices, ∃ f, f < 12 ∧ m.testBit f = true ∧ (e.w.slice j).flags.getLsbD f = true
      (¬held → Leaves (.waitf m) s e 0x0A 0 e.w) ∧ (held → Waits (.waitf m) s e .waitf))
    ∧ (∀ (dst a b : Opd) (d : Dst) (x y : Src) (l1 l2 : List Word) (r : TlRef), Issuing s e 0x0B → e.stDst dst 1 true = .ok d →
      e.src a 2 e.lits = .ok (x, l1) → e.src b 2 l1 = .ok (y, l2) → x.isVec = false → y.isVec = false →
      Clean e [4 * e.low] [(x, 2), (y, 2)] →
      let v := (e.read 2 (4 * e.low) x).1
      let n := (e.read 2 (4 * e.low) y).1
      s.tlRef e (v % 2 ^ 32) = some r →
      let t := s.timeline e r
      let since := match e.path.wait with
        | .waitt t0 r0 _ => (t0, r0)
        | _ => (s.now, t.resets)
      let late := decide (v / 2 ^ 32 ≠ 0) && decide (since.1 + 1000 * (v / 2 ^ 32) ≤ s.now)
      match waitStatus t n late (t.resets != since.2) with
      | some st => ∃ w, Acquires (.waitt dst a b) s e 0x0B (e.used l2) (w.orSticky e.p 0) (if st = 0 then 4 else 0)
          ∧ Wrote e.w w d 1 (e.pathSlices.map (4 * ·)) (fun _ => (st, false))
      | none => Waits (.waitt dst a b) s e (.waitt since.1 since.2 (1000 * (v / 2 ^ 32))))
    ∧ (∀ (m st : Nat) (any phase : Bool), Issuing s e 0x0C → st < 4 → (any = true → phase = false) → s.mouldExists e m = true →
      s.foreign e m = false →
      let x := s.mould e m
      let met := x.state = MouldState.ofCode st ∧ (any = true ∨ x.phase = phase)
      (met → Acquires (.waitm m any phase st) s e 0x0C 0 e.w 4) ∧ (¬met → Waits (.waitm m any phase st) s e .waitm))

/-- R309, R324 to R327, R330: MODE, GETS, SETS, SIGCHK, LIVE and PARTN read and write the special state as stated; a reserved
mode, an unlisted number of SETS and an illegal partition raise 0x01. -/
def Obligations.SpecialStateResults : Prop :=
  ∀ (s : State) (e : Env), Shaped e →
    (∀ (m : Nat), m < 2 ^ 24 → Issuing s e 0x01 →
      let legal := m / 2 ^ 22 = 0 ∧ m / 2 ^ 17 % 4 < 2 ∧ m / 2 ^ 14 % 8 < 6 ∧ m / 2 ^ 10 % 8 < 6 ∧ m / 2 ^ 5 % 32 < 16
      (legal → ∃ w, Leaves (.mode m) s e 0x01 0 w ∧ { w with slices := e.w.slices } = e.w
        ∧ ∀ j, w.slice j = if j ∈ e.pathSlices then { e.w.slice j with mode := BitVec.ofNat 24 m } else e.w.slice j)
      ∧ (¬legal → exec (.mode m) s = .next (s.takeFault e.ref e.p { code := 0x01 })))
    ∧ (∀ (dst : Opd) (d : Dst) (num arg v n : Nat), Issuing s e 0x13 → stateValue s e num arg = some (v, n) → e.stDst dst n true = .ok d →
      CompletesAt (.gets dst arg num) s e 0x13 0 d n (e.pathSlices.map (4 * ·)) (fun _ => (v, false)) 0)
    ∧ (∀ (a : Opd) (num : Nat) (x : Src) (ls : List Word), Issuing s e 0x14 → e.src a (if num = 14 then 2 else 1) e.lits = .ok (x, ls) →
      x.isVec = false → Clean e [4 * e.low] [(x, if num = 14 then 2 else 1)] →
      let v := (e.read (if num = 14 then 2 else 1) (4 * e.low) x).1
      (num = 5 → v < 512 → Leaves (.sets a num) s e 0x14 (e.used ls)
        (if e.caster then e.w else e.w.setPath e.p { e.path with sticky := BitVec.ofNat 9 v }))
      ∧ (e.handler = true → num = 13 ∨ (num = 14 ∧ ∃ i, i < 32 ∧ v = recordAddr e.core i) →
        ∃ t, exec (.sets a num) s = .next t ∧ t.wave? e.ref = some (e.w.wentOn e 0x14 (e.used ls))
          ∧ { t with cores := s.cores } = s ∧ (∀ c, c ≠ e.core → t.core c = s.core c)
          ∧ (num = 13 → (t.core e.core).hmask = v.testBit 0 ∧ (t.core e.core).current = (s.core e.core).current)
          ∧ (num = 14 → (t.core e.core).hmask = (s.core e.core).hmask ∧ ∃ i, (t.core e.core).current = some i ∧ v = recordAddr e.core i)))
    ∧ (∀ (a : Opd) (num : Nat), Issuing s e 0x14 → num ≠ 5 → num ≠ 13 → num ≠ 14 →
      exec (.sets a num) s = .next (s.takeFault e.ref e.p { code := 0x01 }))
    ∧ (∀ (x : Word) (ls : List Word) (k : Task), Issuing s e 0x15 → e.lits = x :: ls → s.task? e.task = some k →
      (k.sigcheck = true → e.path.sig = x) →
      exec .sigchk s = .next (s.setWave e.ref (e.w.setPath e.p { e.path with
        state := .run, wait := .none, paused := false, sig := 0, ref := e.path.active, pc := (e.after 1).1, clause := (e.after 1).2 })))
    ∧ (∀ (x : Word) (ls : List Word) (k : Task), Issuing s e 0x15 → e.lits = x :: ls → s.task? e.task = some k →
      k.sigcheck = true → e.path.sig ≠ x → exec .sigchk s = .next (s.takeFault e.ref e.p { code := 0x60 }))
    ∧ (∀ i, Issuing s e 0x16 → Leaves (.live i) s e 0x16 0 (e.w.setPath e.p { e.path with lastLive := some i }))
    ∧ (∀ l, Issuing s e 0x1A → (1 ≤ l ∧ l ≤ 5 → Leaves (.partn l) s e 0x1A 0 { e.w with partn := l })
      ∧ (l = 0 ∨ 5 < l → exec (.partn l) s = .next (s.takeFault e.ref e.p { code := 0x01 })))

/-- R310, R322, R387 to R390: NOP and YIELD change nothing but the path's place; PREF may change what the core's L1 holds, hint
1 nothing; PREFI and IFENCE change the cluster's instruction cache alone, IFENCE the path's fetch buffer too; FENCE and FENCEE go
on once the accesses that they wait for are performed, and wait before, and acquire; CFLUSH completes once the path's stores to its
range are performed at device scope, and after it the L1 holds no line of the range. -/
def Obligations.HintsAndFences : Prop :=
  ∀ (s : State) (e : Env), Shaped e →
    (Issuing s e 0x00 → Leaves .nop s e 0x00 0 e.w)
    ∧ (Issuing s e 0x0F → Leaves .yield s e 0x0F 0 (e.w.setPath e.p { e.path with yielded := true }))
    ∧ (∀ (a : Opd) (n : Nat) (x : Src) (ls : List Word), Issuing s e 0x0D → 1 ≤ n → n ≤ 16 → e.src a 2 e.lits = .ok (x, ls) →
      x.isVec = false → Clean e [4 * e.low] [(x, 2)] →
      ∃ cs ca, exec (.prefi a n) s =
          .next (({ s with clusters := cs, caches := ca } : State).setWave e.ref (e.w.wentOn e 0x0D (e.used ls)))
        ∧ { ca with picks := s.caches.picks } = s.caches
        ∧ ∀ c, ∃ ic, Table.get {} cs c = { s.cluster c with icache := ic } ∧ (c ≠ e.cluster → ic = (s.cluster c).icache))
    ∧ (Issuing s e 0x0E →
      ∃ cs, exec .ifence s = .next (({ s with clusters := cs } : State).setWave e.ref
          ((e.w.setPath e.p { e.path with buf := none }).wentOn e 0x0E 0))
        ∧ ∀ c, Table.get {} cs c = if c = e.cluster then
            { s.cluster c with icache := (s.cluster c).icache.filter fun x => x.ctx != e.ctx } else s.cluster c)
    ∧ (∀ (h : Bool) (a b : Opd) (x y : Src) (l1 l2 : List Word), Issuing s e 0xA1 → e.src a 2 e.lits = .ok (x, l1) →
      e.src b 1 l1 = .ok (y, l2) → Clean e e.lanes [(x, 2), (y, 1)] →
      ∃ ca, exec (.pref h a b) s = .next (({ s with caches := ca } : State).setWave e.ref (e.w.wentOn e 0xA1 (e.used l2)))
        ∧ (h = true → ca = s.caches) ∧ ca.l2 = s.caches.l2 ∧ (∀ k, (ca.cores.get {} k).tlb = (s.coreCache k).tlb)
        ∧ ∀ k, ∀ z ∈ (ca.cores.get {} k).lines, z ∈ (s.coreCache k).lines
          ∨ z.bytes = s.readLocal (64 * z.line) 64 ∧ z.poison = s.poison.get false z.line)
    ∧ (Issuing s e 0x9B → if s.quiet e e.scope then Acquires .fence s e 0x9B 0 e.w e.scope else Waits .fence s e .fence)
    ∧ (Issuing s e 0x9C → if s.quiet e e.scope && s.enginesQuiet e then Acquires .fencee s e 0x9C 0 e.w e.scope
        else Waits .fencee s e .fencee)
    ∧ (∀ (a b : Opd) (x y : Src) (l1 l2 : List Word), Issuing s e 0xA0 → Fresh e → e.src a 2 e.lits = .ok (x, l1) → e.src b 1 l1 = .ok (y, l2) →
      x.isVec = false → y.isVec = false → Clean e [4 * e.low] [(x, 2), (y, 1)] → (e.read 1 (4 * e.low) y).1 ≤ 1048576 →
      let va := (e.read 2 (4 * e.low) x).1
      let n := (e.read 1 (4 * e.low) y).1
      (e.flagFor false = none → (s.ops.map (·.id)).Nodup →
        (∀ o ∈ s.earlier e, o.isLoad = false → (∃ r ∈ o.ranges, r.1 < va + n ∧ va < r.1 + r.2) → o.performed 4 = true) →
        ∃ k ca, exec (.cflush a b) s =
            .next (({ s with nextId := k, caches := ca } : State).setWave e.ref (e.w.wentOn e 0xA0 (e.used l2)))
          ∧ ca.l2 = s.caches.l2 ∧ (∀ j, ∀ z ∈ (ca.cores.get {} j).lines, z ∈ (s.coreCache j).lines)
          ∧ ∀ p o, 0 < n → s.translate e.who .load va = .ok p → p.place = .mem o → va + n ≤ p.stop →
              ∀ z ∈ (ca.cores.get {} e.core).lines, ¬(64 * z.line < o + n ∧ o < 64 * z.line + 64)))

namespace Sys2Proof.Claims

/-! ### Faults, handler waves and clause headers (R250–R257, R264, R265, R275, R281–R285, R296–R298) -/

/-- The basic disposition of R250's table. -/
def basicRule (code : Nat) (caster : Bool) : Nat :=
  if code ∈ [0x10, 0x11, 0x50, 0x51] then 4
  else if code = 0x60 ∨ (code = 0x61 ∧ caster = true) then 6
  else if code = 0x61 then 2
  else if code = 0x72 then 1
  else 3

/-- Place `i` is the lowest free one of the 32 of a core (R254). -/
def LowestFree (k : Core) (i : Nat) : Prop := i < 32 ∧ k.records.get none i = none ∧ ∀ j, j < i → k.records.get none j ≠ none

/-- A precise fault has been taken (R250, R252, R254): the record stands at its core and waits its turn, the path is held at
the instruction, the wave keeps its replay checkpoint (R188), PK alone may be set (R159), and nothing else of the machine has
changed. -/
structure FaultTaken (s t : State) (e : Env) (f : Flt) : Prop where
  record : ∃ i r, LowestFree (s.core e.core) i
    ∧ t.core e.core = { s.core e.core with records := (s.core e.core).records.set none i (some r), queue := (s.core e.core).queue ++ [i] }
    ∧ r.code = f.code ∧ r.imprecise = false ∧ r.exited = false ∧ r.nested = false ∧ r.ladle = false ∧ r.haltPending = false
    ∧ r.caster = e.caster ∧ r.disposition = basicRule f.code e.caster ∧ r.lane = (if e.caster then 0xFF else f.lane)
    ∧ r.task = e.task ∧ r.gang = e.gang ∧ r.core = e.core ∧ r.pc = e.pc ∧ r.addr = f.addr ∧ r.cause = f.cause ∧ r.done = e.path.done ∧ r.stale = false
    ∧ r.outer = 0xFF ∧ (e.caster = false → r.path = e.path)
  wave : t.wave? e.ref = some { e.w.setPath e.p { e.path with
      state := .blocked, wait := .fault, sticky := if f.pk then e.path.sticky ||| fPK else e.path.sticky } with
    replayPc := e.pc, doneMask := e.path.done }
  cores : ∀ c, c ≠ e.core → t.core c = s.core c
  rest : { t with cores := s.cores, gangs := s.gangs } = s

/-- Path `e.p` of `e.ref` stands where it can issue, and `e` says so. -/
structure InHand (s : State) (e : Env) : Prop where
  cur : s.cur = some (e.ref, e.p)
  env : s.env? e.ref e.p = some e

/-- Opcodes that a caster thread accepts (R297). -/
def onCaster (op : Nat) : Bool :=
  decide (op ≤ 0x0F) || decide (0x13 ≤ op ∧ op ≤ 0x19) || op == 0x1B || decide (0x20 ≤ op ∧ op ≤ 0x3D)
    || decide (0x80 ≤ op ∧ op ≤ 0x8F) || op ∈ [0x9B, 0x9C, 0xB0, 0xB6, 0xB7, 0xB9, 0xBA, 0xBB, 0xBC, 0xBD, 0xBE, 0xBF, 0xC5, 0xC6, 0xC7, 0xC8]

/-- The fault of an opcode that the issuer has no right to (R137, R275, R297, R298, R392). -/
def rightsRule (e : Env) (op : Nat) : Option Nat :=
  if e.caster = true ∧ onCaster op = false then some 0x01
  else if e.caster = false ∧ op ∈ [0xB6, 0xB7, 0xB9, 0xBA, 0xBB, 0xBC, 0xBD, 0xBE, 0xBF] then some 0x01
  else if e.handler = false ∧ op ∈ [0x18, 0xD8, 0xD9, 0xDA] then some 0x05
  else if e.producer = false ∧ op ∈ [0xC0, 0xC1, 0xC2, 0xC3, 0xC4, 0xCF] then some 0x40
  else none

/-- The conditions of R281 on the header `h` at word `k` of a line. -/
def HeaderLegal (l : LineBuf) (k : Nat) (h : ClauseHeader) : Prop :=
  h.reserved = 0 ∧ 1 ≤ h.len ∧ h.len ≤ 29 ∧ k + h.len ≤ 31 ∧ (h.av = true → h.fa < 12) ∧ (h.bv = true → h.fb < 12)
    ∧ (∀ i, i < h.len → l.kind (k + 1 + i) = 0 ∨ l.kind (k + 1 + i) = 2)
    ∧ (h.pp = true → l.kind (k + 1) = 0 ∧ ∃ x, decodeWord (l.word (k + 1)).toNat = .ok (.live x))

/-- Accesses before a precise fault, in the program order of a slice of its path, have left for a CXL window or another endpoint
and are not performed (R188). -/
def Flying (s : State) (r : FaultRec) : Prop :=
  r.imprecise = false ∧ ∃ o ∈ s.outstanding r.wave, o.engine = false ∧ o.ended = false ∧ o.ask = false ∧ (o.cxl ≠ [] ∨ o.remote ≠ [])
    ∧ ∃ j, j < 8 ∧ o.slices.getLsbD j = true ∧ r.path.slices.getLsbD j = true

/-- A record of core `c` that its handler wave serves. -/
structure Serving (s : State) (c i : Nat) (r : FaultRec) : Prop where
  current : (s.core c).current = some i
  record : (s.core c).records.get none i = some r
  outermost : r.nested = false ∧ (s.core c).outerWave = none
  standing : r.stale = false
  halt : (s.core c).haltPending = false ∧ (s.core c).haltPath = none ∧ r.haltPending = false

/-- The handler wave of core `c` has ended and record `i`'s place is free (R252, R329). -/
def HandlerEnded (s t : State) (c i : Nat) : Prop :=
  (t.core c).current = none ∧ (t.core c).wave = none ∧ (t.core c).hmask = false ∧ (t.core c).queue = (s.core c).queue
    ∧ ∀ j, (t.core c).records.get none j = if j = i then none else (s.core c).records.get none j

end Sys2Proof.Claims

/-- R159, R188, R250, R252, R254, R275: taking a precise fault. With every record place taken the wave is held as it stands. -/
def Sys2Proof.Claims.TakingAFault : Prop :=
  ∀ (s : State) (e : Env) (f : Flt), InHand s e → e.handler = false →
    ((∃ i, i < 32 ∧ (s.core e.core).records.get none i = none) → FaultTaken s (s.takeFault e.ref e.p f) e f)
    ∧ ((∀ i, i < 32 → (s.core e.core).records.get none i ≠ none) → s.takeFault e.ref e.p f = s)

/-- R159, R188, R252, R255: a fault inside a handler wave holds it at the instruction with a nested record, and once the accesses of
the wave have completed the wave restarts at the entry + 136, as every step of the machine sees to; with every record place taken the
wave is held as it stands; a fault inside the nested handler resets the handler wave. -/
def Sys2Proof.Claims.NestedFault : Prop :=
  ∀ (s : State) (e : Env) (f : Flt), InHand s e → e.handler = true →
    ((s.core e.core).outerWave = none → ∀ i, LowestFree (s.core e.core) i → ∃ r, let t := s.takeFault e.ref e.p f
      t = s.setCore e.core { s.core e.core with
        records := (s.core e.core).records.set none i (some r), nesting := some i
        wave := some { e.w.setPath e.p { e.path with
            state := .blocked, wait := .fault, sticky := if f.pk then e.path.sticky ||| fPK else e.path.sticky } with
          replayPc := e.pc, doneMask := e.path.done } }
      ∧ r.code = f.code ∧ r.nested = true ∧ r.imprecise = false ∧ r.disposition = basicRule f.code false ∧ r.pc = e.pc ∧ r.addr = f.addr
      ∧ r.outer = (match (s.core e.core).current with
        | some o => o
        | none => 0xFE)
      ∧ ((∃ o ∈ s.ops, o.wave = e.ref ∧ o.engine = false) → t.beginNested e.core = t)
      ∧ ((∀ o ∈ s.ops, o.wave = e.ref → o.engine = true) →
        t.beginNested e.core = t.setCore e.core { t.core e.core with
          nesting := none, outer := (s.core e.core).current, outerWave := (t.core e.core).wave
          current := some i, wave := some (handlerWave (s.handlerEntry + 136)) }))
    ∧ ((s.core e.core).outerWave = none → (∀ i, i < 32 → (s.core e.core).records.get none i ≠ none) → s.takeFault e.ref e.p f = s)
    ∧ ((s.core e.core).outerWave.isSome = true →
      let t := s.takeFault e.ref e.p f
      (t.core e.core).wave = none ∧ (t.core e.core).current = none ∧ (t.core e.core).outer = none ∧ (t.core e.core).outerWave = none
        ∧ ∀ o, ((s.core e.core).outer = some o ∨ (s.core e.core).current = some o) → (t.core e.core).records.get none o = none)

/-- R188, R250 to R255: taking a precise fault, and a fault inside a handler. -/
def Obligations.TakingAndNestingFaults : Prop := Sys2Proof.Claims.TakingAFault ∧ Sys2Proof.Claims.NestedFault

/-- R137, R275, R297, R298, R392: an instruction word that its issuer has no right to raises 0x01, 0x05 or 0x40 before anything
else of it is looked at. -/
def Sys2Proof.Claims.RightsComeFirst : Prop :=
  ∀ (i : Instr) (w : Nat), i.wf = true → encode i = some w → ∀ (s : State) (e : Env), InHand s e →
    ∀ code, rightsRule e (w / 2 ^ 24) = some code → exec i s = .next (s.takeFault e.ref e.p { code := code })

/-- R274, R275: whatever the state and operands, an instruction that a path has in hand answers a next state: it completes,
waits or takes its fault, and none is refused. -/
def Sys2Proof.Claims.EveryInstructionAnswers : Prop :=
  ∀ (i : Instr) (s : State) (e : Env), InHand s e → ∃ t, exec i s = .next t

/-- R274, R275: every instruction in hand answers a next state, and its rights are checked first. -/
def Obligations.EveryInstructionIsAnswered : Prop := Sys2Proof.Claims.RightsComeFirst ∧ Sys2Proof.Claims.EveryInstructionAnswers

/-- R275, R278, R286, R290, R296: a word with an unassigned opcode, and any word outside a clause that is no header, raises
0x01; an assigned opcode with a reserved field raises the fault of its right first, a write of privileged state by SETS 0x05. -/
def Sys2Proof.Claims.WordsNotDecoded : Prop :=
  ∀ (s : State) (e : Env) (w : Nat), InHand s e → w < 2 ^ 32 →
    let op := w / 2 ^ 24
    let free := (0x1C ≤ op ∧ op ≤ 0x1F) ∨ (0x3E ≤ op ∧ op ≤ 0x3F) ∨ (0x57 ≤ op ∧ op ≤ 0x5F) ∨ (0x6B ≤ op ∧ op ≤ 0x6F)
      ∨ (0x7A ≤ op ∧ op ≤ 0x7F) ∨ (0xA3 ≤ op ∧ op ≤ 0xAF) ∨ 0xDB ≤ op
    let inside := ∃ l c, e.path.buf = some l ∧ e.path.clause = some c ∧ wordIx e.pc ≤ c.last ∧ l.kind (wordIx e.pc) = 0
    let code := (rightsRule e op).getD (if op = 0x14 ∧ (w % 256 = 13 ∨ w % 256 = 14) ∧ e.handler = false then 0x05 else 0x01)
    (free ∨ ¬inside → exec (.unassignedOpcode w) s = .next (s.takeFault e.ref e.p { code := 0x01 }))
    ∧ (¬free → inside → exec (.unassignedOpcode w) s = .next (s.takeFault e.ref e.p { code := code }))

/-- R328: TRAP and BRK raise 0x71 and 0x72 with the lowest active lane, TRAP with its code as the cause, and complete as a NOP
where no lane is active. -/
def Obligations.TrapResults : Prop :=
  ∀ (s : State) (e : Env) (c : Nat),
    (Issuing s e 0x17 → (e.lanes = [] → Leaves (.trap c) s e 0x17 0 e.w)
      ∧ ∀ L ∈ e.lanes, (∀ M ∈ e.lanes, L ≤ M) → e.handler = false → (∃ i, i < 32 ∧ (s.core e.core).records.get none i = none) →
        ∃ t, exec (.trap c) s = .next t ∧ FaultTaken s t e { code := 0x71, lane := L, cause := c })
    ∧ (Issuing s e 0x19 → (e.lanes = [] → Leaves .brk s e 0x19 0 e.w)
      ∧ ∀ L ∈ e.lanes, (∀ M ∈ e.lanes, L ≤ M) → e.handler = false → (∃ i, i < 32 ∧ (s.core e.core).records.get none i = none) →
        ∃ t, exec .brk s = .next t ∧ FaultTaken s t e { code := 0x72, lane := L })

/-- R281, R283, R285: a clause header that breaks a condition raises 0x01; one whose WAIT names a set flag waits; any other begins
its clause at the next word with the flags that it assigns. At a pre-emption point a path of a wave stops when its gang has
been chosen, but for an idempotent task's that no checkpoint has chosen. A halt that pends with a handler wave is not in this
statement. -/
def Sys2Proof.Claims.ClauseHeaders : Prop :=
  ∀ (s : State) (e : Env) (l : LineBuf) (w : Nat), InHand s e → e.handler = false → e.path.buf = some l →
    let h := decodeHeader w
    let k := wordIx e.pc
    let held := ∃ j ∈ e.pathSlices, ∃ f, f < 12 ∧ h.wait.testBit f = true ∧ (e.w.slice j).flags.getLsbD f = true
    (¬HeaderLegal l k h → exec (.clauseHeader w) s = .next (s.takeFault e.ref e.p { code := 0x01 }))
    ∧ (HeaderLegal l k h → held → ∃ x : Path, exec (.clauseHeader w) s = .next (s.setWave e.ref (e.w.setPath e.p x))
      ∧ x.state = .blocked ∧ x.wait = .header ∧ x.pc = e.pc)
    ∧ (HeaderLegal l k h → ¬held → h.pp = false → exec (.clauseHeader w) s = .next (s.setWave e.ref (e.w.setPath e.p { e.path with
        state := .run, wait := .none, atPp := false, pc := e.pc + 4
        clause := some { last := k + h.len, fa := if h.av then some h.fa else none, fb := if h.bv then some h.fb else none } })))
    ∧ (∀ g k', HeaderLegal l k h → ¬held → h.pp = true → e.caster = false → s.gang? e.task e.gang = some g → s.task? e.task = some k' →
      (∃ c ∈ g.chosen, k'.idempotent = false ∨ c.1 = .ckpt) →
      ∃ t x, exec (.clauseHeader w) s = .next t ∧ t.wave? e.ref = some (e.w.setPath e.p x)
        ∧ x.state = .blocked ∧ x.wait = .header ∧ x.pc = e.pc ∧ x.atPp = true)
    ∧ (HeaderLegal l k h → ¬held → h.pp = true → (∀ g, s.gang? e.task e.gang = some g → g.chosen = []) →
      ∃ t, exec (.clauseHeader w) s = .next t ∧ t.wave? e.ref = some (e.w.setPath e.p { e.path with
        state := .run, wait := .none, atPp := false, pc := e.pc + 4
        clause := some { last := k + h.len, fa := if h.av then some h.fa else none, fb := if h.bv then some h.fb else none } }))

/-- R278 to R281, R286, R296: clause headers, and words that are not decoded. -/
def Obligations.HeadersAndRefusedWords : Prop := Sys2Proof.Claims.WordsNotDecoded ∧ Sys2Proof.Claims.ClauseHeaders

/-- R188, R250 to R253: FAULT_DELIVERY starts the handler wave of a core that serves none at the entry + 8 on its oldest record;
it does nothing where one is served or none waits, and waits while accesses before the fault are outstanding. At the basic
level, whose entry is the resident handler's address (the model's choice of 0), the handler wave ends at once with the
record's basic disposition, when no monitor session holds its context. -/
def Sys2Proof.Claims.FaultDelivery : Prop :=
  ∀ (s : State) (c : Nat), c < 512 →
    (((s.core c).current.isSome = true ∨ (s.core c).queue = []) → exec (.faultDelivery c) s = .next s)
    ∧ (∀ i q r, (s.core c).current = none → (s.core c).queue = i :: q → (s.core c).records.get none i = some r →
      let t := s.setCore c { s.core c with current := some i, queue := q, wave := some (handlerWave (s.handlerEntry + 8)) }
      (Flying s r → exec (.faultDelivery c) s = .next s)
      ∧ (¬Flying s r → s.handlerEntry ≠ 0 → ∃ u, exec (.faultDelivery c) s = .next u ∧ u.core c = t.core c
          ∧ (r.code ≠ 0x72 ∨ (∀ x, s.ctx? (((s.task? r.task).map (·.ctx)).getD 64) = some x → x.session = none) → u = t))
      ∧ (¬Flying s r → s.handlerEntry = 0 → ∀ k x, s.task? r.task = some k → s.ctx? k.ctx = some x → x.session = none →
          exec (.faultDelivery c) s = .next (t.returnFromFault c)))

/-- R251, R258, R263, R329: RFT in a handler wave that serves a precise fault's record frees the record and ends the handler wave;
REISSUE lets the path go on at the instruction, SKIP past it with its signature stepped, KILL_WAVE ends the wave, KILL_GANG (and any value above 6) stops
the gang with FAULTED and the code, HOLD halts the gang. -/
def Obligations.ReturnFromFault : Prop :=
  ∀ (s : State) (e : Env) (i : Nat) (r : FaultRec) (t0 g0 w0 : Nat) (g : Gang) (w : Wave),
    Issuing s e 0x18 → Serving s e.core i r → r.imprecise = false → r.exited = false → r.wave = .user t0 g0 w0 → s.gang? t0 g0 = some g →
    g.state = .running → g.waves[w0]? = some w → w.shaped = true → r.pathIx < 8 → (w.path r.pathIx).wait = .fault →
    (w.path r.pathIx).state = .blocked → (w.path r.pathIx).pc = r.pc → (∀ id, r.path.wait ≠ .op id) →
    (∀ o ∈ g.seq, o.faulted = true → o.pc ≠ r.pc) →
    ∃ t h, exec .rft s = .next t ∧ (r.disposition ≠ 6 → HandlerEnded s t e.core i) ∧ t.gang? t0 g0 = some h
      ∧ (r.disposition = 0 → h.waves[w0]? = some { w.setPath r.pathIx { w.path r.pathIx with
          state := .run, wait := .none, haltedFrom := .run } with bpSeen := some r.pc })
      ∧ (r.disposition = 1 → ∃ v, h.waves[w0]? = some v ∧ (v.path r.pathIx).state = .run ∧ (v.path r.pathIx).wait = .none ∧ v.doneMask = 0
        ∧ ∀ l c, (w.path r.pathIx).buf = some l → (w.path r.pathIx).clause = some c →
          let n := wordIx r.pc + 1 + (l.literals c.last 32 (wordIx r.pc)).length
          if n ≤ c.last then (v.path r.pathIx).pc = l.base + BitVec.ofNat 64 (4 * n) ∧ (v.path r.pathIx).clause = some c
          else (v.path r.pathIx).pc = l.after (n - 1) ∧ (v.path r.pathIx).clause = none)
      ∧ (r.disposition = 1 → ∀ v l c, h.waves[w0]? = some v → r.path.buf = some l → r.path.clause = some c → wordIx r.path.pc ≤ c.last →
        l.kind (wordIx r.path.pc) = 0 → r.code ∉ [0x04, 0x72, 0x80] →
        let op := (l.word (wordIx r.path.pc)).toNat / 2 ^ 24
        op ≠ 0x15 → (v.path r.pathIx).sig =
          sigIssue (w.path r.pathIx).sig op ((w.path r.pathIx).active ^^^ (w.path r.pathIx).ref))
      ∧ (r.disposition = 2 → ∃ v, h.waves[w0]? = some v ∧ v.finished = true ∧ v.killed = true ∧ (∀ p, p < 8 → (v.path p).state = .free)
        ∧ (g.status = 0 → h.status = 3 ∧ h.code = r.code))
      ∧ ((r.disposition = 3 ∨ 6 < r.disposition) → (∀ v ∈ h.waves, v.paths.length = 8 → v.slices.length = 8 → v.finished = true)
        ∧ (g.kill = none → h.kill = some (if g.status = 0 then (3, r.code) else (g.status, g.code))))
      ∧ (r.disposition = 5 → h.halted = true ∧ r ∈ h.held ∧ ∃ v, h.waves[w0]? = some v ∧ (v.path r.pathIx).state = .halted)

/-- R254, R256, R282: an imprecise fault is delivered to a wave that stands at an instruction boundary: a record with IMPRECISE
waits at its core and the path is held; it leaves the list of faults found. -/
def Sys2Proof.Claims.ImpreciseFaults : Prop :=
  ∀ (s : State) (w : Wave) (m : Imprecise) (t0 g0 w0 : Nat) (g : Gang), s.imprecise.find? (fun x => x.wave == .user t0 g0 w0 && x.path == m.path) = some m →
    m.wave = .user t0 g0 w0 → s.gang? t0 g0 = some g → g.state = .running → g.waves[w0]? = some w → w.shaped = true → m.path < 8 → w.finished = false →
    (w.path m.path).state = .run → (w.path m.path).wait = .none → (∀ k, s.task? t0 = some k → k.status = 0) →
    ∀ i, LowestFree (s.core (s.coreOf m.wave)) i →
    ∃ t r, exec (.impreciseFault m.wave m.path) s = .next t ∧ t.imprecise = s.imprecise.erase m
      ∧ (t.core (s.coreOf m.wave)).records.get none i = some r ∧ (t.core (s.coreOf m.wave)).queue = (s.core (s.coreOf m.wave)).queue ++ [i]
      ∧ r.imprecise = true ∧ r.exited = false ∧ r.code = m.code ∧ r.pc = m.pc ∧ r.addr = m.addr ∧ r.ladle = m.ladle
      ∧ t.wave? m.wave = some (w.setPath m.path { w.path m.path with state := .blocked, wait := .fault })

/-- R252, R253, R256, R461: the delivery of precise and of imprecise faults. -/
def Obligations.FaultsDelivered : Prop := Sys2Proof.Claims.FaultDelivery ∧ Sys2Proof.Claims.ImpreciseFaults

/-- R257, R264, R265: an uncorrectable error poisons the one lane or slice it names; MASK clears itself 10 µs after it was set;
the hang watchdog raises 0x80 on a lone path that has waited longer than HANG_LIMIT and is off at 0. -/
def Obligations.ErrorsAndWatchdogs : Prop :=
  (∀ (s : State) (ref : WaveRef) (e : Env) (r L : Nat), s.env? ref 0 = some e → L < 32 →
    (r < 16 * e.blocks → exec (.uncorrectableError ref .vector r L) s =
      .next (s.setWave ref (e.w.setV r L { e.w.getV r L with poison := true })))
    ∧ (r < 48 → L < 8 → exec (.uncorrectableError ref .scalar r L) s =
      .next (s.setWave ref (e.w.setS r L { e.w.getS r L with poison := true })))
    ∧ (r < 4 → exec (.uncorrectableError ref .exactSum r L) s =
      .next (s.setWave ref (e.w.setX r L { e.w.getX r L with poison := true }))))
  ∧ (∀ (s : State), ∃ t, exec .hmaskClear s = .next t ∧ { t with cores := s.cores } = s
    ∧ ∀ c, t.core c = if (s.core c).hmask = true ∧ (s.core c).hmaskAt + 10000 ≤ s.now then { s.core c with hmask := false } else s.core c)
  ∧ (∀ (s : State), s.hangLimit = 0 → exec .hangWatchdog s = .next s)
  ∧ (∀ (s : State) (x : WaveRef × Nat), s.hangLimit ≠ 0 →
    (s.allPaths.filter fun y => !(refCaster y.1) && (s.pathAt y).state == .blocked && (s.pathAt y).wait.watched
      && decide ((s.pathAt y).waitSince + 1000000 * s.hangLimit < s.now)) = [x] →
    exec .hangWatchdog s = .next (s.takeFault x.1 x.2 { code := 0x80 }))

namespace Sys2Proof.Claims

/-! ### Tiles, crucibles and ingots (R193–R198, R230–R245, R392–R407) -/

/-- The instruction completes in line from state `t`, with the number `v` in scalar destination `d` of `n` registers in every
slice (R409). -/
def ScalarOut (i : Instr) (s : State) (e : Env) (op lits : Nat) (t : State) (d : Dst) (n v : Nat) : Prop :=
  ∃ w', exec i s = .next (t.setWave e.ref (w'.wentOn e op lits)) ∧ Wrote e.w w' d n (e.slices.map (4 * ·)) (fun _ => (v, false))

/-- The instruction completes in line and leaves state `t` beside its path. -/
def LeavesState (i : Instr) (s : State) (e : Env) (op lits : Nat) (t : State) : Prop :=
  exec i s = .next (t.setWave e.ref (e.w.wentOn e op lits))

/-- A scalar operand of `n` registers is the value `v` in the path's lowest slice, not poisoned. -/
def ScalarIn (e : Env) (o : Opd) (n : Nat) (ls rest : List Word) (v : Nat) : Prop :=
  ∃ x, e.src o n ls = .ok (x, rest) ∧ x.isVec = false ∧ e.read n (4 * e.low) x = (v, false)

/-- `n` bytes at `va` are one piece of the package's own DRAM, at offset `off`, and no earlier access of the path's slices to
an SO page is outstanding where this one is to an SO page (R215). -/
def OwnBytes (s : State) (e : Env) (acc : Access) (va n off : Nat) (formed : Bool) : Prop :=
  ∃ sp, s.span e.who acc va n = .ok sp ∧ sp.parts = [(.mem off, n)] ∧ off < 2 ^ 40 ∧ (formed = true → sp.formed = true)
    ∧ (sp.so = true → ∀ o ∈ s.earlier e, o.so = true → o.ended = true ∨ o.remote = [] ∧ o.cxl = [] ∧ o.held = [])
    ∧ (acc = .store → s.sideEffect e.who e.task (s.insidePass e) sp = false)

/-- The gang of the issuing instruction, its tile `t` or bank `k`. -/
structure MyTile (s : State) (e : Env) (t : Nat) (g : Gang) (x : Tile) : Prop where
  gang : s.gang? e.task e.gang = some g
  tile : g.tiles[t]? = some x

/-- Rows and elements in use, and the width class, of a control value (R193). -/
def ctlRows (x : Tile) : Nat := x.ctl.toNat / 2 ^ 16 % 128
/-- Elements in use per row. -/
def ctlCols (x : Tile) : Nat := x.ctl.toNat % 128
/-- Width class. -/
def ctlClass (x : Tile) : Nat := x.ctl.toNat / 2 ^ 30

/-- Element (r, c) of a tile reads as zero: padding, an element of a zero line, or a zero value (R194). -/
def zeroElem (x : Tile) (r c : Nat) : Bool :=
  decide (ctlRows x ≤ r) || decide (ctlCols x ≤ c) || (match (lineVals (x.row r))[c]? with
    | some v => v.isZero
    | none => true)

/-- The zero-block bitmap that R194 gives a tile. -/
def BitmapOf (x : Tile) : Prop :=
  ∀ r c, r < 8 → c < 12 → x.bitmap.getLsbD (12 * r + c) =
    (decide (ctlClass x ≠ 3) && decide (c < classCount (ctlClass x) / 8)
      && (List.range 8).all fun i => (List.range 8).all fun j => zeroElem x (8 * r + i) (8 * c + j))

/-- A line may enter a tile (R158, R159, R194). -/
def Admits (x : Tile) (line : Bytes) : Prop :=
  checkLine line = none ∧ (byteAt line 0 = 0 ∨ lineClass (byteAt line 0) = ctlClass x)

/-- The address of row `r` (R397): base plus a signed stride. -/
def rowAt (base stride r : Nat) : Nat := (((base : Int) + r * (BitVec.ofNat 32 stride).toInt) % 2 ^ 64).toNat

/-- The state in which TLD and TST issue: the TLBs hold the translations of the rows in use (R186, R188). -/
def rowsHeld (s : State) (e : Env) (x : Tile) (base stride : Nat) : State :=
  s.holds e 64 ((List.range (ctlRows x)).map fun r => (0xFF, rowAt base stride r))

end Sys2Proof.Claims

/-- R193 to R198, R395 to R399: TCFG writes the control register and zeroes the rows where the class changes; TZERO zeroes every
row; TLD loads the rows in use from formed lines, recomputes the bitmap and moves its mould to FULL; TST, which no quench cuts
here, stores them through the padding view; TWR writes one row from the image and recomputes the bitmap; TRD reads one. -/
def Obligations.TileResults : Prop :=
  ∀ (s : State) (e : Env) (t : Nat) (g : Gang) (x : Tile), MyTile s e t g x →
    let tiles := fun (y : Tile) => s.mapGang e.task e.gang fun h => { h with tiles := setNth h.tiles t y }
    (∀ (a : Opd) (ls : List Word) (v : Nat), Issuing s e 0xB0 → e.off = false → ScalarIn e a 1 e.lits ls v → v < 2 ^ 32 →
      let legal := v / 2 ^ 23 % 128 = 0 ∧ v / 2 ^ 7 % 512 = 0 ∧ 1 ≤ v / 2 ^ 16 % 128 ∧ v / 2 ^ 16 % 128 ≤ 64 ∧ 1 ≤ v % 128
        ∧ v % 128 ≤ classCount (v / 2 ^ 30)
      (legal → LeavesState (.tcfg t a) s e 0xB0 (e.used ls)
        (tiles { x with ctl := BitVec.ofNat 32 v, rows := if v / 2 ^ 30 = ctlClass x then x.rows else [] }))
      ∧ (¬legal → exec (.tcfg t a) s = .next (s.takeFault e.ref e.p { code := 0x02 })))
    ∧ (Issuing s e 0xB5 → LeavesState (.tzero t) s e 0xB5 0 (tiles { x with rows := [] }))
    ∧ (∀ (a b : Opd) (l1 l2 : List Word) (base st : Nat) (off : Nat → Nat), Issuing s e 0xB1 → Fresh e → t < 32 → e.flagFor false = none →
      ScalarIn e a 2 e.lits l1 base → ScalarIn e b 1 l1 l2 st → base % 64 = 0 → st % 64 = 0 →
      ((g.moulds.get {} t).state = .free ∨ (g.moulds.get {} t).state = .filling) →
      (∀ r, r < ctlRows x → OwnBytes (rowsHeld s e x base st) e .load (rowAt base st r) 64 (off r) true
        ∧ Admits x (s.readLocal (off r) 64)) →
      ∃ (u : State) (h : Gang) (y : Tile), exec (.tld t a b) s = .next u ∧ MyTile u e t h y ∧ u.mem = s.mem
        ∧ u.wave? e.ref = some (e.w.wentOn e 0xB1 (e.used l2))
        ∧ y.ctl = x.ctl ∧ BitmapOf y ∧ (∀ r, r < 64 → y.row r = if r < ctlRows x then s.readLocal (off r) 64 else x.row r)
        ∧ (h.moulds.get {} t).state = .full ∧ (h.moulds.get {} t).phase = !(g.moulds.get {} t).phase)
    ∧ (∀ (a b : Opd) (l1 l2 : List Word) (base st : Nat) (off : Nat → Nat), Issuing s e 0xB2 → Fresh e → e.flagFor false = none → s.cut = false →
      s.writeHeld e = false →
      ScalarIn e a 2 e.lits l1 base → ScalarIn e b 1 l1 l2 st → base % 64 = 0 → st % 64 = 0 →
      (∀ r, r < ctlRows x → OwnBytes (rowsHeld s e x base st) e .store (rowAt base st r) 64 (off r) true) →
      ∃ u, exec (.tst t a b) s = .next u ∧ u.wave? e.ref = some (e.w.wentOn e 0xB2 (e.used l2))
        ∧ OnlyStores { s.setWave e.ref (e.w.wentOn e 0xB2 (e.used l2)) with poison := u.poison } u
        ∧ ∀ q, u.byte q = storedByte s (List.range (ctlRows x)) off (fun r => x.padRow r) q)
    ∧ (∀ (v r : Nat) (hi : Bool), Issuing s e 0xB3 → v < 16 * e.blocks → r < 64 → e.lanes ≠ [] → e.imagePoison v hi = .ok () →
      Admits x (e.image v hi) →
      ∃ y : Tile, LeavesState (.twr t (.v v) hi r) s e 0xB3 0 (tiles y) ∧ y.ctl = x.ctl ∧ BitmapOf y
        ∧ ∀ k, k < 64 → y.row k = if k = r then e.image v hi else x.row k)
    ∧ (∀ (v r : Nat) (hi : Bool), Issuing s e 0xB4 → v < 16 * e.blocks →
      CompletesAt (.trd (.v v) t hi r) s e 0xB4 0 (.vec v) 1 (e.lanes.filter fun L => decide (L / 16 = hi.toNat))
        (fun L => (fieldAt (x.padRow r) (4 * (L % 16)) 4, false)) 0)

namespace Sys2Proof.Claims

/-- The caster's gang and bank `k`. -/
structure MyBank (s : State) (e : Env) (k : Nat) (g : Gang) (b : Bank) : Prop where
  gang : s.gang? e.task e.gang = some g
  bank : g.banks[k]? = some b

/-- An operation has entered the caster's sequencer with the next number of its timeline, and its path waits for it (R234). -/
def Sequenced (i : Instr) (s : State) (e : Env) (g : Gang) (o : SeqOp) : Prop :=
  ∃ t h, exec i s = .next t ∧ t.gang? e.task e.gang = some h ∧ h.seq = g.seq ++ [o] ∧ h.banks = g.banks ∧ h.tiles = g.tiles
    ∧ o.number = g.casterTl.taken + 1 ∧ h.casterTl = { g.casterTl with taken := g.casterTl.taken + 1 }
    ∧ o.step = 0 ∧ o.queued = 0 ∧ o.checked = true ∧ o.blocks = (ctlRows (nth {} g.tiles o.tile) + 7) / 8 ∧ o.pc = e.pc ∧ t.mem = s.mem
    ∧ (∃ w, t.wave? e.ref = some w ∧ (w.path e.p).state = .blocked ∧ (w.path e.p).wait = .op o.opId)
    ∧ ∃ q ∈ t.ops, q.id = o.opId ∧ q.engine = true ∧ q.wave = e.ref

/-- No operation of the gang is on the crucible that holds bank `k` (R122). -/
def CrucibleFree (g : Gang) (k : Nat) : Prop := ∀ o ∈ g.seq, g.crucible o.bank ≠ g.crucible k

/-- A step of a plane meets element `(row, n)`: the new accumulator and its flags, from the A line `a` and the plane line `b`
at the positions `ps` (R161, R162, R232). -/
def stepValue (acc : Word) (a b : List FVal) (ps : Nats) : Word × Flags :=
  let pairs := if a = [] ∨ b = [] then [] else ps.filterMap fun i => match a[i]?, b[i]? with
    | some x, some y => some (x, y)
    | _, _ => none
  stepElem acc pairs (decide (pairs.length < max a.length b.length) || pairs == [])

/-- The handle of ingot `i` of a context (R239). -/
def Handle (s : State) (ctx h i : Nat) : Prop :=
  i < 1024 ∧ h = (s.ingot ctx i).gen * 2 ^ 16 + ctx * 2 ^ 10 + i ∧ ctx < 64 ∧ (s.ingot ctx i).state ≠ .free ∧ (s.ingot ctx i).state ≠ .revoked

/-- A handle that names no ingot any more. -/
def Dead (s : State) (ctx h : Nat) : Prop := ∀ i, ¬Handle s ctx h i

end Sys2Proof.Claims

/-- R226, R234, R242, R400 to R403: MMA and MMAT enter the caster's sequencer with the next number and their path waits; ACLR
clears its bank once no queued operation uses it and waits before; ARD gives each active lane its element and ORs the bank's
flags, and raises 0x02 for an odd scalar register of rows. MMA is stated for an ingot that is RESIDENT on the cluster. -/
def Obligations.MatrixResults : Prop :=
  ∀ (s : State) (e : Env) (k : Nat) (g : Gang) (b : Bank), MyBank s e k g b →
    (∀ (last : Bool) (t : Nat) (r : Nat) (h i run : Nat), Issuing s e 0xB6 → Fresh e → e.off = false → e.flagFor false = none →
      r % 2 = 0 → r + 2 ≤ 48 → e.read 2 (4 * e.low) (.sca r) = (h + run * 2 ^ 32, false) → h < 2 ^ 32 → run < 2 ^ 21 → run / 2 ^ 9 % 128 = 0 →
      Handle s e.ctx h i → let count := run / 2 ^ 16 + 1; let off := run % 512
      ∀ a : Tile, g.tiles[t]? = some a →
      (∀ j, j < count → ∃ x, g.tiles[t + j]? = some x ∧ ctlRows x = ctlRows a ∧ ctlClass x = ctlClass a) →
      off + count ≤ (s.ingot e.ctx i).planes → (s.ingot e.ctx i).wc = ctlClass a → (s.ingot e.ctx i).state = .resident →
      (s.ingot e.ctx i).place.map (·.1) = some e.cluster → CrucibleFree g k → s.quiet e 4 = true →
      ∃ o : SeqOp, Sequenced (.mma last k t (.s r)) s e g o ∧ o.kind = 0 ∧ o.last = last ∧ o.bank = k ∧ o.tile = t ∧ o.count = count ∧ o.off = off
        ∧ o.ingot = i)
    ∧ (∀ (last : Bool) (t u p : Nat) (a b0 b1 : Tile), Issuing s e 0xB7 → Fresh e → e.off = false → e.flagFor false = none → p % 2 = 0 →
      g.tiles[t]? = some a → g.tiles[p]? = some b0 → g.tiles[p + 1]? = some b1 → ctlClass a = ctlClass b0 → ctlClass a = ctlClass b1 →
      CrucibleFree g k → s.quiet e 4 = true → s.planeTaken e (g.crucible k) u = false →
      ∃ o : SeqOp, Sequenced (.mmat last k t u p) s e g o ∧ o.kind = 1 ∧ o.last = last ∧ o.bank = k ∧ o.tile = t ∧ o.u = u
        ∧ ∀ n, n < 128 → getBytes o.plane (64 * n) 64 = if n < 64 then b0.padRow n else b1.padRow (n - 64))
    ∧ (Issuing s e 0xB9 → e.off = false →
      ((∀ o ∈ g.seq, o.bank ≠ k) → LeavesState (.aclr k) s e 0xB9 0 (s.mapGang e.task e.gang fun h => { h with banks := setNth h.banks k {} }))
      ∧ (Shaped e → (∃ o ∈ g.seq, o.bank = k) → Waits (.aclr k) s e .engine))
    ∧ (∀ (r q : Nat) (c : Opd), Issuing s e 0xB8 → e.types (fun t => t == .f32) = .ok 1 → r < 16 * e.blocks →
      (∃ j, c = .s j ∧ j % 2 = 1) → exec (.ard (.v r) q k c) s = .next (s.takeFault e.ref e.p { code := 0x02 }))
    ∧ (∀ (r q : Nat) (c : Opd) (x : Src) (ls : List Word), Issuing s e 0xB8 → e.types (fun t => t == .f32) = .ok 1 → r < 16 * e.blocks → q < 4 →
      (∀ j, c = .s j → j % 2 = 0) →
      e.src c 1 e.lits = .ok (x, ls) → Clean e e.lanes [(x, 1)] → (∀ L ∈ e.lanes, (e.read 1 L x).1 < 64) →
      CompletesAt (.ard (.v r) q k c) s e 0xB8 (e.used ls) (.vec r) 1 e.lanes
        (fun L => ((b.elems.get 0 (128 * (e.read 1 L x).1 + 32 * q + L)).toNat, false)) (if e.lanes = [] then 0 else b.flags))

/-- R239 to R241, R244, R405 to R407: IGALLOC's handle and statuses, IGLOAD's refusals and its start, IGPIN, IGUNPIN and IGREVOKE
on a live and on a dead handle, and the status word of IGSTAT. -/
def Obligations.IngotResults : Prop :=
  ∀ (s : State) (e : Env) (c : Context), s.ctx? e.ctx = some c → e.off = false →
    (∀ (dst a : Opd) (d : Dst) (ls : List Word) (req : Nat), Issuing s e 0xBA → e.stDst dst 2 true = .ok d → ScalarIn e a 1 e.lits ls req →
      req < 2 ^ 32 →
      let n := req % 1024
      let bad := req / 2 ^ 22 ≠ 0 ∨ req / 2 ^ 10 % 64 ≠ 0 ∨ req / 2 ^ 18 % 4 = 3 ∨ req / 2 ^ 16 % 4 = 3 ∨ n = 0 ∨ 512 < n
      let refused := fun (st : Nat) => ScalarOut (.igalloc dst a) s e 0xBA (e.used ls) s d 2 (st * 2 ^ 32)
      (bad → refused 6)
      ∧ (¬bad → s.room e.task e.cluster < n → refused 1)
      ∧ (¬bad → n ≤ s.room e.task e.cluster → c.quotaCluster < s.planesOf e.ctx (· == e.cluster) + n → refused 2)
      ∧ (¬bad → n ≤ s.room e.task e.cluster → s.planesOf e.ctx (· == e.cluster) + n ≤ c.quotaCluster →
        c.quotaPackage < s.planesOf e.ctx (fun _ => true) + n → refused 3)
      ∧ (¬bad → n ≤ s.room e.task e.cluster → s.planesOf e.ctx (· == e.cluster) + n ≤ c.quotaCluster →
        s.planesOf e.ctx (fun _ => true) + n ≤ c.quotaPackage → req / 2 ^ 21 % 2 = 0 →
        ∀ f i, s.freeRun e.cluster (req / 2 ^ 20 % 2) n = some f → i < 1024 → (s.ingot e.ctx i).state = .free →
          (∀ j, j < i → (s.ingot e.ctx j).state ≠ .free) →
          ScalarOut (.igalloc dst a) s e 0xBA (e.used ls)
            (s.mapIngot e.ctx i fun x =>
              { state := .cold, policy := req / 2 ^ 18 % 4, wc := req / 2 ^ 16 % 4, planes := n, gen := x.gen, cruc := some (req / 2 ^ 20 % 2)
                place := some (e.cluster, req / 2 ^ 20 % 2, f), lastUse := s.now, holder := some e.task })
            d 2 ((s.ingot e.ctx i).gen * 2 ^ 16 + e.ctx * 2 ^ 10 + i)))
    ∧ (∀ (dst : Opd) (d : Dst) (r q h i va n fl : Nat), Issuing s e 0xBB → Fresh e → e.stDst dst 1 true = .ok d → r < 48 → q % 4 = 0 → q + 4 ≤ 48 →
      e.read 1 (4 * e.low) (.sca r) = (h, false) → e.read 4 (4 * e.low) (.sca q) = (va + n * 2 ^ 64 + fl * 2 ^ 96, false) →
      va < 2 ^ 64 → n < 2 ^ 32 → fl ≤ 1 → Handle s e.ctx h i → s.quiet e 4 = true →
      let v := s.ingot e.ctx i
      let refused := fun (st : Nat) => ScalarOut (.igload dst (.s r) (.s q)) s e 0xBB 0 s d 1 st
      (v.state = .loading → refused 2)
      ∧ (v.state ≠ .loading → fl = 0 → n ≠ 64 * 128 * v.planes → refused 3)
      ∧ (v.state ≠ .loading → (fl = 1 ∨ n = 64 * 128 * v.planes) → v.place.map (·.1) = some e.cluster → e.flagFor false = none →
        ∀ u, (s.unwatch e.ctx i).watch (e.ctx, i) (s.watchedBy e.who va n) = some u → ∀ g, s.gang? e.task e.gang = some g →
        ∃ t h', exec (.igload dst (.s r) (.s q)) s = .next t ∧ t.gang? e.task e.gang = some h'
          ∧ h'.casterTl = { g.casterTl with taken := g.casterTl.taken + 1 } ∧ t.mem = s.mem ∧ t.dies = u.dies
          ∧ (t.ingot e.ctx i).state = .loading ∧ (t.ingot e.ctx i).src = some (BitVec.ofNat 64 va, n, decide (fl = 1))
          ∧ (t.ingot e.ctx i).load.isSome = true
          ∧ ∃ w w', t.wave? e.ref = some w ∧ Wrote e.w w' d 1 (e.slices.map (4 * ·)) (fun _ => (0, false)) ∧ onlyPaths w' w
            ∧ (w.path e.p).state = .blocked))
    ∧ (∀ (r h i : Nat), r < 48 → e.read 1 (4 * e.low) (.sca r) = (h, false) → Handle s e.ctx h i →
      (Issuing s e 0xBC → LeavesState (.igpin (.s r)) s e 0xBC 0 (s.mapIngot e.ctx i fun x => { x with pin := true }))
      ∧ (Issuing s e 0xBD → LeavesState (.igunpin (.s r)) s e 0xBD 0 (s.mapIngot e.ctx i fun x => { x with pin := false }))
      ∧ (Issuing s e 0xBE → (s.ingot e.ctx i).load = none → ∃ t, LeavesState (.igrevoke (.s r)) s e 0xBE 0 t
        ∧ ((t.ingot e.ctx i).state = .revoked ∨ (t.ingot e.ctx i).state = .free) ∧ t.mem = s.mem ∧ t.gangs = s.gangs
        ∧ ∀ d ∈ t.dies, ∀ x ∈ d.watches, (e.ctx, i) ∉ x.2)
      ∧ (∀ (dst : Opd) (d : Dst), Issuing s e 0xBF → e.stDst dst 1 true = .ok d →
        let v := s.ingot e.ctx i
        ScalarOut (.igstat dst (.s r)) s e 0xBF 0 s d 1 (v.pin.toNat * 2 ^ 31 + v.state.code * 2 ^ 28 + v.policy * 2 ^ 26 + v.wc * 2 ^ 24
          + (match (match v.next with
              | some p => some p
              | none => v.place) with
            | some (cl, k, _) => k * 2 ^ 23 + (if cl = e.cluster then 2 ^ 22 else 0)
            | none => 0) + v.src.isSome.toNat * 2 ^ 21 + v.planes)))
    ∧ (∀ (r h : Nat), r < 48 → e.read 1 (4 * e.low) (.sca r) = (h, false) → Dead s e.ctx h →
      (Issuing s e 0xBC → exec (.igpin (.s r)) s = .next (s.takeFault e.ref e.p { code := 0x31 }))
      ∧ (Issuing s e 0xBD → exec (.igunpin (.s r)) s = .next (s.takeFault e.ref e.p { code := 0x31 }))
      ∧ (Issuing s e 0xBE → LeavesState (.igrevoke (.s r)) s e 0xBE 0 s)
      ∧ (∀ (dst : Opd) (d : Dst), Issuing s e 0xBF → e.stDst dst 1 true = .ok d →
        ScalarOut (.igstat dst (.s r)) s e 0xBF 0 s d 1 (5 * 2 ^ 28)))

namespace Sys2Proof.Claims

/-- Descriptor `d` heads the step queue of crucible `k` of cluster `c`: it names operation `o` of gang `g`, which has been checked
since it last went on and whose step it has not taken back (R233, R237). Every operation of the crucible has been checked. -/
structure Heads (s : State) (c k : Nat) (d : StepDesc) (g : Gang) (o : SeqOp) : Prop where
  head : ∃ rest, (s.crucible c k).queue = d :: rest
  gang : s.gang? d.task d.gang = some g ∧ g.task = d.task ∧ g.index = d.gang
  place : g.cluster = c ∧ g.resident = true
  op : g.seqOn k = some o ∧ o.opId = d.opId ∧ o.step ≤ d.step ∧ d.step < o.queued
  only : ∀ q ∈ g.seq, q.opId = o.opId → q = o
  checked : ∀ x ∈ s.crucibleGangs c k, ∀ q, x.seqOn k = some q → q.checked = true

end Sys2Proof.Claims

/-- R161, R198, R223, R231 to R237, R241, R400: the token of a crucible takes the descriptor at the head of its step queue: the
step updates the elements of its row block from the A tile and the plane, gated by the bits that the descriptor holds; the last
step ends the operation, with its number performed and its bank's mould FULL where LAST is set. The step queue never holds more
than four descriptors. A gang that is to stop has its operations stopped at the step boundary and checked again when it goes
on. A completed load leaves the ingot RESIDENT with its lines, or STALE after a watched store. A reload starts on planes of the
gang's cluster. -/
def Obligations.CrucibleAndLoadSteps : Prop :=
  (∀ (s : State) (c k : Nat) (d : StepDesc) (g : Gang) (o : SeqOp) (b : Bank) (task : Task), Heads s c k d g o → d.skip = false →
    s.task? g.task = some task → 1 ≤ o.blocks → g.banks[o.bank]? = some b →
    let j := d.step / o.blocks
    let r := d.step % o.blocks
    let a : Tile := nth {} g.tiles (o.tile + j)
    let line := fun n => if o.kind = 1 then getBytes o.plane (64 * n) 64
      else getBytes (s.ingot task.ctx o.ingot).data (64 * (128 * (o.off + j) + n)) 64
    ∃ t h b', exec (.stepToken c k) s = .next t ∧ t.gang? g.task g.index = some h ∧ h.banks[o.bank]? = some b' ∧ t.mem = s.mem
      ∧ (∀ q, q ≠ o.bank → h.banks[q]? = g.banks[q]?) ∧ h.tiles = g.tiles
      ∧ (∀ row n, n < 128 → (row / 8 ≠ r → b'.elems.get 0 (128 * row + n) = b.elems.get 0 (128 * row + n))
        ∧ (row / 8 = r → row < ctlRows a → b'.elems.get 0 (128 * row + n) =
          (stepValue (b.elems.get 0 (128 * row + n)) (lineVals (a.row row)) (lineVals (line n))
            ((List.range (ctlCols a)).filter fun i => ctlClass a == 3 || !(d.gates.testBit (i / 8)))).1))
      ∧ (d.step + 1 < o.blocks * o.count → ∃ q ∈ h.seq, q.opId = o.opId ∧ q.step = d.step + 1)
      ∧ (o.blocks * o.count ≤ d.step + 1 → (∀ q ∈ h.seq, q.opId ≠ o.opId) ∧ h.casterTl = g.casterTl.perform o.number
        ∧ (o.last = true → o.bank < 8 → (g.moulds.get {} (32 + o.bank)).state = .filling →
          (h.moulds.get {} (32 + o.bank)).state = .full ∧ (h.moulds.get {} (32 + o.bank)).phase = !(g.moulds.get {} (32 + o.bank)).phase)))
  ∧ (∀ (s : State) (c k : Nat), (s.crucible c k).queue.length ≤ 4 →
      ∃ t, exec (.stepToken c k) s = .next t ∧ t.mem = s.mem ∧ (t.crucible c k).queue.length ≤ 4)
  ∧ (∀ (s : State) (t g : Nat) (x : Gang), s.gang? t g = some x →
    let goes := (x.state = .placing ∨ x.state = .running) ∧ x.kill = none ∧ x.halted = false ∧ (x.caster.path 0).state ≠ .halted
      ∧ x.chosen = [] ∧ x.saved = none
    (¬goes → exec (.crucibleStop t g) s =
      .next (s.mapGang t g fun y => { y with seq := y.seq.map fun o => { o with checked := false, queued := o.step } }))
    ∧ (goes → exec (.crucibleStop t g) s = .next s))
  ∧ (∀ (s : State) (ctx i t g n id : Nat) (pc : DWord) (ls : List Bytes), (s.ingot ctx i).load = some (t, g, pc, id, n) → (s.ctx? ctx).isSome = true →
    s.ingotBusy ctx i = false →
    let place := match (s.ingot ctx i).next with
      | some p => some p
      | none => (s.ingot ctx i).place
    s.sourceLines { ctx := ctx, gang := some (t, g), cluster := place.map (·.1) } (s.ingot ctx i) = .ok ls →
    ∃ u, exec (.ingotLoadComplete ctx i) s = .next u ∧ u.mem = s.mem ∧ (u.ingot ctx i).load = none
      ∧ (u.ingot ctx i).place = place ∧ (u.ingot ctx i).next = none
      ∧ (u.ingot ctx i).state = (if (s.ingot ctx i).loadStale then .stale else .resident)
      ∧ (∀ q, (u.ingot ctx i).data.get 0 q = nth 0 ls.flatten q)
      ∧ (id ≠ 0 → ∀ x, s.gang? t g = some x → ∃ y, u.gang? t g = some y ∧ y.casterTl = x.casterTl.perform n)
      ∧ (id = 0 → ∀ x, s.gang? t g = some x → ∃ y, u.gang? t g = some y
        ∧ y.reload = x.reload.map fun r => if r.1 = i then (i, true) else r))
  ∧ (∀ (s : State) (t g i : Nat) (x : Gang) (k : Task), s.gang? t g = some x → s.task? t = some k →
    x.reload.find? (fun r => !r.2) = some (i, false) → x.steps = true →
    ((s.ingot k.ctx i).state = .cold ∨ (s.ingot k.ctx i).state = .stale) → (s.ingot k.ctx i).src.isSome = true →
    (s.ingot k.ctx i).place.map (·.1) = some x.cluster → (s.ctx? k.ctx).isSome = true →
    exec (.ingotReload t g) s = .next (s.mapIngot k.ctx i fun y => { y with state := .loading, load := some (t, g, 0, 0, 0), loadStale := false }))

namespace Sys2Proof.Claims

/-! ### Ladle, moulds, timelines, barriers, graphs (R196–R202, R223, R246, R408–R421) -/

/-- The ladle instructions that queue an operation: opcode, kind, D, descriptor, MV, X, SV and slot (R408, R411). -/
def ladleEntry : Instr → Option (Nat × LadleKind × Opd × Opd × Bool × Bool × Bool × Nat)
  | .lcopy d a v x w k => some (0xC0, .copy, d, a, v, x, w, k)
  | .lgath d a v w k => some (0xC1, .gather, d, a, v, false, w, k)
  | .lscat d a v w k => some (0xC2, .scatter, d, a, v, false, w, k)
  | .lfill d a v x w k => some (0xC3, .fill, d, a, v, x, w, k)
  | _ => none

/-- The words of a descriptor that an operation reads (R411): byte `i` says that word `i` is read. -/
def readsWord (kind : LadleKind) (x mv : Bool) (i : Nat) : Bool :=
  match kind with
  | .copy => decide (i < 4) || i == 6 || (i == 7 && mv)
  | .gather => decide (i < 2) || i == 4 || i == 5 || i == 6 || (i == 7 && mv)
  | .scatter => (decide (2 ≤ i) && decide (i < 7)) || (i == 7 && mv)
  | .fill => decide (i < 3) || (i == 3 && x) || i == 6 || (i == 7 && mv)

/-- The values of a descriptor are legal (R411). -/
def DescriptorLegal (kind : LadleKind) (x mv : Bool) (w : Nat → Nat) : Prop :=
  (∀ i, i < 8 → readsWord kind x mv i = false → w i = 0) ∧ w 6 ≠ 0 ∧ (mv = true → 40 ≤ w 7 ∧ w 7 < 256)
    ∧ (kind = .gather ∨ kind = .scatter → w 6 ≤ 2 ^ 20) ∧ (kind = .fill → x = true → w 3 < 256)

/-- The slot of the issuing core. -/
def shapeSlot (s : State) (e : Env) (k : Nat) : ShapeSlot := (s.cluster e.cluster).shapes.get {} (32 * (e.core % 4) + k)

/-- A ladle operation of the group's queue that names slot `k` has not begun. -/
def Awaited (g : Gang) (grp k : Nat) : Prop := ∃ o ∈ (nth ({} : LadleQueue) g.ladle grp).ops, o.slot = some k ∧ o.begun = false

end Sys2Proof.Claims

/-- R137, R246, R409, R411, R412: a legal ladle instruction of a producer wave enters the group's queue with the next number,
which D receives in every slice, claims an unowned mould, and its path waits for the operation when no flag is assigned. -/
def Obligations.LadleIssue : Prop :=
  ∀ (i : Instr) (op : Nat) (kind : LadleKind) (dst a : Opd) (mv x sv : Bool) (k : Nat), ladleEntry i = some (op, kind, dst, a, mv, x, sv, k) →
    ∀ (s : State) (e : Env) (g : Gang) (d : Dst) (r : Nat), Issuing s e op → Shaped e → Fresh e → s.gang? e.task e.gang = some g → e.group < g.ladle.length →
    e.flagFor false = none → e.dst dst 2 = .ok d → d.isVec = false → a = .s r → r % 8 = 0 → r + 8 ≤ 48 → k < 32 →
    (sv = false → kind = .copy ∨ (kind = .fill ∧ x = false)) →
    let w := fun j => (e.w.getS (r + j) e.low).bits.toNat
    let q := nth ({} : LadleQueue) g.ladle e.group
    (∀ j, j < 8 → readsWord kind x mv j = true → (e.w.getS (r + j) e.low).poison = false) → DescriptorLegal kind x mv w →
    descAligned kind x ((List.range 8).map w) (if sv then some (shapeSlot s e k).record else none) = true →
    (sv = true → (shapeSlot s e k).owner = some (e.task, e.gang)) → (kind = .fill → x = true → shapeFormed (shapeSlot s e k).record = true) →
    (mv = true → s.foreign e (w 7) = false) → q.ops.length < 32 →
    ∃ t h o, exec i s = .next t ∧ t.gang? e.task e.gang = some h
      ∧ nth ({} : LadleQueue) h.ladle e.group = { q with ops := q.ops ++ [o], tl := { q.tl with taken := q.tl.taken + 1 } }
      ∧ (∀ j, j ≠ e.group → nth ({} : LadleQueue) h.ladle j = nth {} g.ladle j)
      ∧ o.n = q.tl.taken + 1 ∧ o.kind = kind ∧ o.desc = (List.range 8).map w ∧ o.x = x ∧ o.slot = (if sv then some k else none)
      ∧ o.mould = (if mv then some (w 7) else none) ∧ o.pc = e.pc ∧ o.begun = false ∧ o.pos = 0 ∧ t.mem = s.mem
      ∧ (mv = true → 40 ≤ w 7 → ((t.cluster e.cluster).moulds.get {} (w 7)).owned = true)
      ∧ ∃ w1 w2, Wrote e.w w1 d 2 (e.slices.map (4 * ·)) (fun _ => (q.tl.taken + 1, false)) ∧ onlyPaths w1 w2 ∧ t.wave? e.ref = some w2
        ∧ (w2.path e.p).state = .blocked ∧ (w2.path e.p).wait = .op o.opId ∧ (w2.path e.p).ladleLast = q.tl.taken + 1

/-- R198, R200 to R202, R223, R246, R413, R414: LADLE_OP_BEGIN begins the next operation with its slot's record as it stands;
LADLE_OP_PERFORMED changes nothing while another queue has its turn, and of a plain fill of one unit of the package's own DRAM it writes
the pattern into its bytes and no other and reaches its number; SHLD puts the record at its address into the slot and SHEV empties it. -/
def Obligations.LadleOperations : Prop :=
  (∀ (s : State) (g : Gang) (grp : Nat) (o : LadleOp), s.gang? g.task g.index = some g → grp < g.ladle.length →
    let q := nth ({} : LadleQueue) g.ladle grp
    q.ops = [o] → o.begun = false → q.stopped = none → (∀ p ∈ s.ops, p.wave ≠ o.wave ∨ p.engine = true) →
    ∃ t h, exec (.ladleOpBegin g.task g.index grp) s = .next t ∧ t.gang? g.task g.index = some h ∧ { t with gangs := s.gangs } = s
      ∧ nth ({} : LadleQueue) h.ladle grp = { q with ops := [{ o with begun := true, record := match o.slot with
          | some i => ((s.cluster g.cluster).shapes.get {} (32 * (s.coreOf o.wave % 4) + i)).record
          | none => [] }] })
  ∧ (∀ (s : State) (g : Gang) (grp : Nat) (o : LadleOp) (k : Task) (off dst len : Nat), s.gang? g.task g.index = some g → grp < g.ladle.length →
    s.task? g.task = some k → nth ({} : LadleQueue) g.ladle grp = { ops := [o], tl := (nth ({} : LadleQueue) g.ladle grp).tl, stopped := none } →
    o.begun = true → o.kind = .fill → o.x = false → o.pos = 0 → o.mould = none → len = nth 0 o.desc 6 → dst = pairOf o.desc 0 →
    (len = 8 ∧ dst % 8 = 0 ∨ len = 64 ∧ dst % 64 = 0) →
    (s.ladleTurn g.cluster (4 * g.thread + grp) = false → exec (.ladleOpPerformed g.task g.index grp o.n) s = .next s)
    ∧ (s.ladleTurn g.cluster (4 * g.thread + grp) = true → off + len ≤ 2 ^ 38 → s.op? o.opId = none →
    (∃ sp, s.span (o.who k.ctx g.cluster) .store dst len = .ok sp ∧ sp.parts = [(.mem off, len)] ∧ sp.formed = false
      ∧ s.sideEffect (o.who k.ctx g.cluster) ((refGang o.wave).map (·.1) |>.getD 0) o.inPass sp = false) →
    ∃ t h, exec (.ladleOpPerformed g.task g.index grp o.n) s = .next t ∧ t.gang? g.task g.index = some h
      ∧ (∀ q, t.byte q = if off ≤ q ∧ q < off + len then nth 0 (leBytes 4 (nth 0 o.desc 2)) ((q - off) % 4) else s.byte q)
      ∧ nth ({} : LadleQueue) h.ladle grp = { ops := [], tl := (nth ({} : LadleQueue) g.ladle grp).tl.perform o.n, stopped := none }))
  ∧ (∀ (s : State) (e : Env) (g : Gang) (k : Nat), s.gang? e.task e.gang = some g → k < 32 → ¬Awaited g e.group k →
    ((shapeSlot s e k).owner = none ∨ (shapeSlot s e k).owner = some (e.task, e.gang)) →
    let put := fun (x : ShapeSlot) => s.mapCluster e.cluster fun c => { c with shapes := c.shapes.set {} (32 * (e.core % 4) + k) x }
    (∀ (a : Opd) (ls : List Word) (va off : Nat), Issuing s e 0xC4 → (a = .lit ∨ ∃ r, a = .s r) → ScalarIn e a 2 e.lits ls va → va % 64 = 0 →
      OwnBytes s e .load va 64 off false → shapeLegal (s.readLocal off 64) = true →
      LeavesState (.shld k a) s e 0xC4 (e.used ls) (put { owner := some (e.task, e.gang), record := s.readLocal off 64 }))
    ∧ (Issuing s e 0xCF → LeavesState (.shev k) s e 0xCF 0 (put {})))

/-- R37, R196 to R198, R223, R415, R416: MSET claims an unowned mould, and where state and phase match makes the transition with
status 0, else leaves the entry with status 1; MSTAT reads the view; TLSIG takes the next number, which the counter reaches, and
0 on a fenced timeline; TLRD reads the count reached or taken, and all ones of a fenced timeline. -/
def Obligations.MouldsAndTimelines : Prop :=
  ∀ (s : State) (e : Env),
    (∀ (dst : Opd) (d : Dst) (m f st : Nat) (rel any phase : Bool), Issuing s e 0xC5 → e.off = false → e.stDst dst 1 true = .ok d →
      (any = true → phase = false) → (rel = true → st = 0 ∧ 40 ≤ m) → f < 4 → st < 4 → s.mouldExists e m = true → s.foreign e m = false →
      s.quiet e 4 = true →
      let x : Mould := if (s.mould e m).owned then s.mould e m else { s.mould e m with owned := true, owner := s.ownerNo e }
      let y : Mould := if rel then {} else { x with state := MouldState.ofCode st, phase := if st = 2 ∧ f ≠ 2 then !x.phase else x.phase }
      if x.state = MouldState.ofCode f ∧ (any = true ∨ x.phase = phase) then
        ScalarOut (.mset dst m rel any phase f st) s e 0xC5 0 ((s.setMould e m x).setMould e m y) d 1 0
      else ScalarOut (.mset dst m rel any phase f st) s e 0xC5 0 (s.setMould e m x) d 1 1)
    ∧ (∀ (dst : Opd) (d : Dst) (m : Nat), Issuing s e 0xC6 → e.stDst dst 1 true = .ok d → s.mouldExists e m = true →
      let x := s.mould e m
      ScalarOut (.mstat dst m) s e 0xC6 0 s d 1 ((if x.owned then 2 ^ 31 else 0) + x.owner % 4 * 2 ^ 26 + (if x.phase then 4 else 0)
        + (match x.state with
          | .free => 0
          | .filling => 1
          | .full => 2
          | .draining => 3)))
    ∧ (∀ (dst a : Opd) (d : Dst) (ls : List Word) (id i : Nat) (c : Context), Issuing s e 0xC7 → Fresh e → e.off = false → e.stDst dst 2 true = .ok d →
      (a = .lit ∨ ∃ r, a = .s r) → ScalarIn e a 1 e.lits ls id → s.tlRef e id = some (.soft i) → s.insidePass e = false →
      s.quiet e (max 4 e.scope) = true → s.ctx? e.ctx = some c → i < c.timelines.length → e.flagFor false = none →
      let tl := nth ({} : Timeline) c.timelines i
      (tl.fenced = true → ScalarOut (.tlsig dst a) s e 0xC7 (e.used ls) s d 2 0)
      ∧ (tl.fenced = false → tl.reached = tl.taken → tl.performed = [] →
        ScalarOut (.tlsig dst a) s e 0xC7 (e.used ls)
          { s.setCtx e.ctx (some { c with timelines := setNth c.timelines i { tl with taken := tl.taken + 1, reached := tl.taken + 1 } }) with
            nextId := s.nextId + 1 } d 2 (tl.taken + 1)))
    ∧ (∀ (dst a : Opd) (d : Dst) (ls : List Word) (id : Nat) (r : TlRef) (issued : Bool), Issuing s e 0xC8 → e.stDst dst 2 false = .ok d →
      (a = .lit ∨ ∃ r, a = .s r) → ScalarIn e a 1 e.lits ls id → s.tlRef e id = some r →
      ScalarOut (.tlrd dst a issued) s e 0xC8 (e.used ls) s d 2 (if (s.timeline e r).fenced then 0xFFFFFFFFFFFFFFFF
        else if issued then (s.timeline e r).taken else (s.timeline e r).reached))

namespace Sys2Proof.Claims

/-- Wave `w` has an arrival pending at a barrier (R418): it has arrived in this round, or each of its live slices has counted. -/
def Arrived (g : Gang) (x : Barrier) (w : Nat) : Prop :=
  w ∈ x.arrived ∨ (nth ({} : Wave) g.waves w).liveSlices ≠ []
    ∧ ∀ j ∈ (nth ({} : Wave) g.waves w).liveSlices, (x.arrivals.get 0 w).getLsbD j = true

/-- A barrier once the issuing path's slices have counted (R417): `full` says that the wave's arrival is complete with them. -/
def afterArrival (x : Barrier) (w n : Nat) (slices : BitVec 8) (full : Bool) : Barrier :=
  let got := x.arrivals.set 0 w (x.arrivals.get 0 w ||| slices)
  let parties := if x.parties.contains w then x.parties else x.parties ++ [w]
  if !full then { x with party := some n, arrivals := got }
  else if n ≤ x.count + 1 then
    { x with party := none, count := 0, round := x.round + 1, arrived := [], parties := parties
             arrivals := got.filter fun a => !((x.arrived ++ [w]).contains a.1) }
  else { x with party := some n, count := x.count + 1, arrived := x.arrived ++ [w], parties := parties, arrivals := got }

/-- The issue of an arrival at barrier `b` of `n` parties is legal (R417), and with it the issuing wave alone completes its
arrival (`full`) or no wave does. No arrival that an EXIT has completed is left to count (R130: the EXIT counts it). -/
structure MayArrive (s : State) (e : Env) (g : Gang) (b n : Nat) (full : Bool) : Prop where
  gang : s.gang? e.task e.gang = some g
  number : b < 16 ∧ g.barriers.length = 16
  count : 1 ≤ n ∧ n ≤ 64 ∧ n ≤ g.waves.length
  open_ : (nth ({} : Barrier) g.barriers b).abandoned = false
  party : ∀ m, (nth ({} : Barrier) g.barriers b).party = some m → m = n
  settled : g.arriving (nth ({} : Barrier) g.barriers b) = []
  fresh : ∀ j ∈ e.pathSlices, ((nth ({} : Barrier) g.barriers b).arrivals.get 0 (refWave e.ref)).getLsbD j = false
  some_ : e.pathSlices ≠ []
  arrives : g.arriving { nth ({} : Barrier) g.barriers b with
      party := some n
      arrivals := (nth ({} : Barrier) g.barriers b).arrivals.set 0 (refWave e.ref)
        ((nth ({} : Barrier) g.barriers b).arrivals.get 0 (refWave e.ref) ||| BitVec.ofNat 8 (maskOf e.pathSlices)) } =
    if full then [refWave e.ref] else []

end Sys2Proof.Claims

/-- R130, R259, R417, R418: BARA counts its slices toward the wave's arrival and goes on; BAR does so and goes on, acquiring, where
that completes the round, else waits; both raise 0x81 at an abandoned barrier, but for a BAR whose round has completed before; BARW writes
1 there, 0 with no arrival pending or where it waits and its round has completed before the mark, and waits otherwise. Where the round
completes with arrivals of other waves under way, the statement does not speak. -/
def Obligations.BarrierResults : Prop :=
  ∀ (s : State) (e : Env) (g : Gang) (b n : Nat),
    let x := nth ({} : Barrier) g.barriers b
    (∀ full, MayArrive s e g b n full → (full = true → x.arrived.contains (refWave e.ref) = false) → s.quiet e e.scope = true →
      let y := afterArrival x (refWave e.ref) n (BitVec.ofNat 8 (maskOf e.pathSlices)) full
      (Issuing s e 0xCA → ∃ t h, exec (.bara b n) s = .next t ∧ t.gang? e.task e.gang = some h ∧ h.barriers = setNth g.barriers b y
        ∧ t.wave? e.ref = some (e.w.wentOn e 0xCA 0) ∧ { t with gangs := s.gangs, cores := s.cores } = s
        ∧ (e.handler = false → t.cores = s.cores))
      ∧ (Issuing s e 0xC9 → e.path.barrier = none → ∃ t h w, exec (.bar b n) s = .next t ∧ t.gang? e.task e.gang = some h
        ∧ h.barriers = setNth g.barriers b y ∧ t.wave? e.ref = some w ∧ onlyPaths e.w w
        ∧ { t with gangs := s.gangs, cores := s.cores, caches := s.caches } = s ∧ (e.handler = false → t.cores = s.cores)
        ∧ (full = true → n ≤ x.count + 1 → w = e.w.wentOn e 0xC9 0 ∧ Acquired s e e.scope t.caches)
        ∧ (full = false ∨ x.count + 1 < n → t.caches = s.caches ∧ (w.path e.p).state = .blocked ∧ (w.path e.p).wait = .bar b ∧ (w.path e.p).barrier = some b)))
    ∧ (s.gang? e.task e.gang = some g → b < 16 → x.abandoned = true →
      (1 ≤ n → n ≤ 64 → n ≤ g.waves.length → e.path.barrier = none →
        (Issuing s e 0xC9 → exec (.bar b n) s = .next (s.takeFault e.ref e.p { code := 0x81 }))
        ∧ (Issuing s e 0xCA → exec (.bara b n) s = .next (s.takeFault e.ref e.p { code := 0x81 })))
      ∧ (Issuing s e 0xC9 → Shaped e → e.path.barrier = some b →
        ((∀ j ∈ e.pathSlices, (x.arrivals.get 0 (refWave e.ref)).getLsbD j = false) → ∃ t w, exec (.bar b n) s = .next t
          ∧ t.wave? e.ref = some w ∧ onlyPaths e.w w ∧ (w.path e.p).pc = (e.after 0).1 ∧ (w.path e.p).barrier = none)
        ∧ ((∃ j ∈ e.pathSlices, (x.arrivals.get 0 (refWave e.ref)).getLsbD j = true) →
          exec (.bar b n) s = .next ((s.mapPath (e.ref, e.p) fun p => { p with barrier := none }).takeFault e.ref e.p { code := 0x81 })))
      ∧ (∀ (dst : Opd) (d : Dst), Issuing s e 0xCB → e.stDst dst 1 true = .ok d →
        Arrived g x (refWave e.ref) ∨ e.path.wait ≠ .barw b →
        ∃ t w h, exec (.barw dst b) s = .next t ∧ t.wave? e.ref = some (w.wentOn e 0xCB 0) ∧ t.gang? e.task e.gang = some h
          ∧ h.barriers = g.barriers ∧ Wrote e.w w d 1 (e.slices.map (4 * ·)) (fun _ => (1, false))))
    ∧ (∀ (dst : Opd) (d : Dst), s.gang? e.task e.gang = some g → b < 16 → g.barriers.length = 16 → x.abandoned = false ∨ e.path.wait = .barw b →
      g.arriving x = [] → Issuing s e 0xCB → e.stDst dst 1 true = .ok d →
      (¬Arrived g x (refWave e.ref) → ∃ t w h, exec (.barw dst b) s = .next t ∧ t.wave? e.ref = some (w.wentOn e 0xCB 0)
        ∧ t.gang? e.task e.gang = some h ∧ h.barriers = g.barriers ∧ Acquired s e e.scope t.caches
        ∧ Wrote e.w w d 1 (e.slices.map (4 * ·)) (fun _ => (0, false)))
      ∧ (Shaped e → x.abandoned = false → Arrived g x (refWave e.ref) → ∃ t w h, exec (.barw dst b) s = .next t ∧ t.wave? e.ref = some w ∧ onlyPaths e.w w
        ∧ t.gang? e.task e.gang = some h ∧ h.barriers = g.barriers ∧ (w.path e.p).wait = .barw b ∧ (w.path e.p).pc = e.pc))

/-- R48, R56, R60, R68, R410, R419: LAUNCH offers the packet at its address to a queue of its context and writes the status of R48
and, when accepted, the task's id; nothing is entered otherwise. -/
def Sys2Proof.Claims.LaunchResults : Prop :=
  ∀ (s : State) (e : Env) (dst a b : Opd) (d : Dst) (l1 l2 : List Word) (va off q : Nat) (c : Context),
    Issuing s e 0xCC → e.stDst dst 2 true = .ok d → (a = .lit ∨ ∃ r, a = .s r) → (b = .lit ∨ ∃ r, b = .s r) → ScalarIn e a 2 e.lits l1 va →
    ScalarIn e b 1 l1 l2 q → q < 64 → s.insidePass e = false → va % 64 = 0 → OwnBytes s e .load va 128 off false → s.quiet e 4 = true →
    e.flagFor false = none → s.ctx? e.ctx = some c →
    let body := s.readLocal off 128
    let status := if s.start.ready = false then 1 else if s.launchLegal body = false then 2 else if (s.queue q).bound ≠ some e.ctx then 3
      else if 64 ≤ (s.queue q).pending.length then 1 else if c.quotaCluster < fieldAt body 0x60 2 then 5 else 0
    (status ≠ 0 → ScalarOut (.launch dst a b) s e 0xCC (e.used l2) s d 2 status)
    ∧ (status = 0 → ∃ t w p, exec (.launch dst a b) s = .next t ∧ t.wave? e.ref = some (w.wentOn e 0xCC (e.used l2))
      ∧ Wrote e.w w d 2 (e.slices.map (4 * ·)) (fun _ => (p.taskId * 2 ^ 32, false))
      ∧ (t.queue q).pending = (s.queue q).pending ++ [p] ∧ (∀ r, r ≠ q → t.queue r = s.queue r) ∧ t.mem = s.mem
      ∧ p.kind = 1 ∧ p.ctx = e.ctx ∧ p.body = body ∧ p.limits = c.limits ∧ p.quota = c.quotaPackage ∧ p.cls = max (fieldAt body 0x1F 1) (s.queue q).cls)

namespace Sys2Proof.Claims

/-- Node `i` of the running graph `g` of queue `q` stands at address `va` (R55, R87). -/
structure NodeAt (s : State) (ctx va q i : Nat) (g : Graph) : Prop where
  graph : (s.queue q).graph = some g
  running : g.failed = none
  found : s.findNode ctx va = some (q, i)

/-- No node of a running graph stands at `va`: none at all, or one of a graph that has failed. -/
def NoNode (s : State) (ctx va : Nat) : Prop :=
  s.findNode ctx va = none ∨ ∃ q i g, s.findNode ctx va = some (q, i) ∧ (s.queue q).graph = some g ∧ g.failed ≠ none

end Sys2Proof.Claims

/-- R88, R89, R410, R420, R421: the outcomes of GSIG and GADD and their statuses. A successful GADD is stated up to the writes of
the runner. -/
def Sys2Proof.Claims.GraphEdges : Prop :=
  ∀ (s : State) (e : Env), s.insidePass e = false →
    (∀ (dst a : Opd) (d : Dst) (ls : List Word) (va : Nat), Issuing s e 0xCD → e.stDst dst 1 true = .ok d → (a = .lit ∨ ∃ r, a = .s r) →
      ScalarIn e a 2 e.lits ls va → s.quiet e 4 = true →
      let out := fun (t : State) (st : Nat) => ScalarOut (.gsig dst a) s e 0xCD (e.used ls) t d 1 st
      (NoNode s e.ctx va → out s 5)
      ∧ (∀ q i g, NodeAt s e.ctx va q i g → s.nodeField g i 2 1 ≠ 2 ∨ s.nodeField g i 0x1A 1 % 2 = 0 → out s 4)
      ∧ (∀ q i g, NodeAt s e.ctx va q i g → s.nodeField g i 2 1 = 2 → s.nodeField g i 0x1A 1 % 2 = 1 → i ∈ g.signalHeld → out s 3)
      ∧ (∀ q i g, NodeAt s e.ctx va q i g → s.nodeField g i 2 1 = 2 → s.nodeField g i 0x1A 1 % 2 = 1 → i ∉ g.signalHeld →
        (s.nodeStatus g i = 0x10 → out (s.setQueue q { s.queue q with graph := some { g with finished := g.finished ++ [(i, 1)] } }) 0)
        ∧ (s.nodeStatus g i = 0 → out (s.setQueue q { s.queue q with graph := some { g with signalHeld := g.signalHeld ++ [i] } }) 2)
        ∧ (s.nodeStatus g i ≠ 0 → s.nodeStatus g i ≠ 0x10 → out s 3)))
    ∧ (∀ (dst a : Opd) (r : Nat) (d : Dst) (ls : List Word) (p n : Nat), Issuing s e 0xCE → e.stDst dst 1 true = .ok d → (a = .lit ∨ ∃ r, a = .s r) →
      ScalarIn e a 2 e.lits ls p → ScalarIn e (.s r) 2 ls ls n →
      let out := fun (t : State) (st : Nat) => ScalarOut (.gadd dst a (.s r)) s e 0xCE (e.used ls) t d 1 st
      (NoNode s e.ctx p ∨ NoNode s e.ctx n → out s 3)
      ∧ (∀ q q' i j g g', NodeAt s e.ctx p q i g → NodeAt s e.ctx n q' j g' →
        (q ≠ q' → out s 3)
        ∧ (q = q' → s.nodeStatus g j ≠ 0 → out s 2)
        ∧ (q = q' → s.nodeStatus g j = 0 → (s.nodeStatus g i = 1 ∨ s.nodeStatus g i = 2) → out s 1)
        ∧ (q = q' → s.nodeStatus g j = 0 → s.nodeStatus g i ≠ 1 → s.nodeStatus g i ≠ 2 →
          (s.nodeField g i 4 4 < 2 ^ 20 ∧ s.nodeField g j 0 2 < 65535 →
            out (((s.runnerWrite q e.ctx (g.addr j) (leBytes 2 (s.nodeField g j 0 2 + 1))).runnerWrite q e.ctx
              (s.nodeField g i 8 8 + 4 * s.nodeField g i 4 4) (leBytes 4 j)).runnerWrite q e.ctx (g.addr i + 4) (leBytes 4 (s.nodeField g i 4 4 + 1))) 0)
          ∧ (2 ^ 20 ≤ s.nodeField g i 4 4 ∨ 65535 ≤ s.nodeField g j 0 2 → out s 3))))

/-- R419 to R421: launches, and the edges and signals of graphs. -/
def Obligations.LaunchAndGraphResults : Prop := Sys2Proof.Claims.LaunchResults ∧ Sys2Proof.Claims.GraphEdges

/-- R267, R270, R271, R431, R432: MBOX posts an EVENT of kind 5 where a session is open, or a reply to the oldest unanswered
request, and writes status 1 or 2 otherwise; PMARK does nothing while profiling is off, else
writes one record into the next place of the sample buffer, or counts one dropped where that place is not consumed yet. The record is stated for a buffer in the package's
own DRAM. -/
def Obligations.MessagesAndMarks : Prop :=
  ∀ (s : State) (e : Env) (c : Context), s.ctx? e.ctx = some c →
    (∀ (dst : Opd) (d : Dst) (r : Nat), Issuing s e 0xD6 → e.stDst dst 1 true = .ok d → r % 4 = 0 → r + 4 ≤ 48 → (e.read 4 (4 * e.low) (.sca r)).2 = false →
      s.quiet e 5 = true →
      (c.session = none → ScalarOut (.mbox dst (.s r) false) s e 0xD6 0 s d 1 1)
      ∧ (∀ x, c.session = some x → ∃ t, ScalarOut (.mbox dst (.s r) false) s e 0xD6 0 t d 1 0 ∧ t.gangs = s.gangs
        ∧ ∃ y z, t.ctx? e.ctx = some y ∧ y.session = some z ∧ z.ring = x.ring ∧ z.entries = x.entries))
    ∧ (∀ (dst a : Opd) (d : Dst) (ls : List Word) (va off : Nat), Issuing s e 0xD6 → e.handler = true → e.stDst dst 1 true = .ok d → (a = .lit ∨ ∃ r, a = .s r) →
      ScalarIn e a 2 e.lits ls va → va % 64 = 0 → OwnBytes s e .load va 64 off false → s.quiet e 5 = true →
      let ty := (s.byte off).toNat
      (ty = 0x40 → c.session = none → ScalarOut (.mbox dst a true) s e 0xD6 (e.used ls) s d 1 1)
      ∧ (ty ≠ 0x40 → (ty < 0x81 ∨ 0x8A < ty) → ScalarOut (.mbox dst a true) s e 0xD6 (e.used ls) s d 1 2)
      ∧ (0x81 ≤ ty → ty ≤ 0x8A → c.mailbox = [] → ScalarOut (.mbox dst a true) s e 0xD6 (e.used ls) s d 1 1)
      ∧ (0x81 ≤ ty → ty ≤ 0x8A → c.mailbox ≠ [] → ∃ t, ScalarOut (.mbox dst a true) s e 0xD6 (e.used ls) t d 1 0))
    ∧ (∀ (dst a : Opd), Issuing s e 0xD6 → e.handler = false →
      exec (.mbox dst a true) s = .next (s.takeFault e.ref e.p { code := 0x05 }))
    ∧ (∀ m, Issuing s e 0xD7 →
      let p := s.profs.get {} e.ctx
      (p.en = false → Leaves (.pmark m) s e 0xD7 0 e.w)
      ∧ (p.en = true → p.size = 0 ∨ p.written % p.size ∈ p.full →
        LeavesState (.pmark m) s e 0xD7 0 { s with profs := s.profs.set {} e.ctx { p with drop := min (p.drop + 1) 0xFFFF } })
      ∧ (∀ off, p.en = true → 0 < p.size → p.written % p.size ∉ p.full →
        (∃ sp, s.span { ctx := e.ctx } .store (p.buffer.toNat + 128 * (p.written % p.size)) 128 = .ok sp ∧ sp.parts = [(.mem off, 128)]) →
        ∃ t, exec (.pmark m) s = .next t ∧ t.wave? e.ref = some (e.w.wentOn e 0xD7 0) ∧ t.profs.get {} e.ctx = { p with written := p.written + 1, full := p.full ++ [p.written % p.size] }
          ∧ (∀ a, a < off ∨ off + 128 ≤ a → t.byte a = s.byte a)
          ∧ let r := t.readLocal off 128
            fieldAt r 0 8 = s.now % 2 ^ 64 ∧ fieldAt r 8 2 = 0xFFFF ∧ fieldAt r 10 2 = m % 2 ^ 16 ∧ fieldAt r 12 4 = e.task % 2 ^ 32
              ∧ fieldAt r 16 8 = e.pc.toNat ∧ fieldAt r 24 1 = e.group % 256 ∧ fieldAt r 25 1 = e.p % 256 ∧ fieldAt r 27 101 = 0
              ∧ ∀ g, s.gang? e.task e.gang = some g → e.handler = false → fieldAt r 26 1 = nth 0 g.slots (refWave e.ref) % 256))

namespace Sys2Proof.Claims

/-! ### Anytime passes and privileged control (R118, R204, R422–R435) -/

/-- The issuing wave is of a gang of an anytime task: its record, directory and gang. -/
structure Anytime (s : State) (e : Env) (k : Task) (d : Directory) (g : Gang) : Prop where
  user : e.ref = .user e.task e.gang (refWave e.ref)
  task : s.task? e.task = some k
  dir : s.dir? e.task = some d
  gang : s.gang? e.task e.gang = some g
  flag : k.anytime = true

/-- With the slices of the issuing path, every live slice of the gang has arrived, `mask` giving those counted before (R130, R424). -/
def GangArrives (e : Env) (g : Gang) (mask : Wave → BitVec 8) : Prop :=
  ∀ i, i < g.waves.length → ∀ j ∈ (nth ({} : Wave) g.waves i).liveSlices,
    (mask (nth {} g.waves i)).getLsbD j = true ∨ (i = refWave e.ref ∧ j ∈ e.pathSlices)

/-- `m` is the least of the numbers of `l`. -/
def Least (m : Nat) (l : Nats) : Prop := m ∈ l ∧ ∀ x ∈ l, m ≤ x

/-- The grades of the waves of a gang, `v` being that of the issuing path (R425). -/
def waveGrades (e : Env) (g : Gang) (v : Nat) : Nats :=
  (List.range g.waves.length).filterMap fun i =>
    if i = refWave e.ref then some (min v (e.w.sealGrade.getD v)) else (nth ({} : Wave) g.waves i).sealGrade

/-- A task-reference field names task `t` of this package (R422, R423). -/
def Names (e : Env) (a : Opd) (t : Nat) : Prop :=
  (a = .zero ∧ t = e.task) ∨ ∃ r, a = .s r ∧ ScalarIn e a 2 [] [] t ∧ t < 2 ^ 32

/-- Words as one register group. -/
def packed (l : Nats) : Nat := ((List.range l.length).map fun i => nth 0 l i % 2 ^ 32 * 2 ^ (32 * i)).sum

/-- No wave of task `t` stands at a store that a quench may find it in the middle of (R107). -/
def NoCut (s : State) (t : Nat) : Prop :=
  ∀ n i p x, (s.pathAt (.user t n i, p)).meets = some x → (∀ d a b, x ≠ .stq d a b) ∧ ∀ y a b, x ≠ .tst y a b

/-- The directory of task `t`, when it is of the issuing context. -/
def Holds (s : State) (e : Env) (t : Nat) (d : Directory) : Prop := s.dir? t = some d ∧ d.ctx = e.ctx

/-- No directory of the issuing context is task `t`'s. -/
def HoldsNone (s : State) (e : Env) (t : Nat) : Prop := ∀ d, s.dir? t = some d → d.ctx ≠ e.ctx

end Sys2Proof.Claims

/-- R205, R424 to R426: a POUR with which the gang arrives joins the open pass, or opens the next in the lowest FREE slot, and
gives D the slot's base; a SEAL with which the gang and all the others have sealed seals version P at one step and one with
which others have not sets the gang's bit; a grade below the latest is 0x51 at the basic level; DONE starts the quench with
status DONE. -/
def Obligations.PassResults : Prop :=
  ∀ (s : State) (e : Env) (k : Task) (d : Directory) (g : Gang), Anytime s e k d g →
    (∀ (dst : Opd) (x : Dst) (i : Nat) (y : Directory), Issuing s e 0xD0 → Shaped e → e.stDst dst 2 false = .ok x → e.path.barrier = none →
      GangArrives e g (·.pourMask) →
      (d.openSlot = some i ∧ g.sealedBit = false ∧ y = d
        ∨ d.openSlot = none ∧ i < d.slots.length ∧ (nth ({} : VSlot) d.slots i).state = .free
          ∧ (∀ j, j < i → (nth ({} : VSlot) d.slots j).state ≠ .free)
          ∧ y = { d with pass := d.pass + 1, openSlot := some i, slots := setNth d.slots i { nth {} d.slots i with state := .filling } }) →
      ∃ t h w1 w2, exec (.pour dst) s = .next t ∧ t.dir? e.task = some y
        ∧ { t with gangs := s.gangs, dirs := s.dirs, caches := s.caches, trail := s.trail } = s ∧ Acquired s e 5 t.caches
        ∧ (d.openSlot ≠ none → t.trail = s.trail) ∧ t.gang? e.task e.gang = some h ∧ h.joined = true ∧ h.passNo = y.pass ∧ h.slotBase = d.base + BitVec.ofNat 64 (i * d.slotBytes)
        ∧ t.wave? e.ref = some w2 ∧ Wrote e.w w1 x 2 (e.slices.map (4 * ·)) (fun _ => ((d.base.toNat + i * d.slotBytes) % 2 ^ 64, false))
        ∧ { w2 with pourMask := w1.pourMask, paths := w1.paths } = w1 ∧ w2.pourMask = 0 ∧ (∀ q, q ≠ e.p → w2.path q = e.w.path q)
        ∧ (w2.path e.p).inPass = true ∧ (w2.path e.p).pc = (e.after 0).1 ∧ (w2.path e.p).barrier = none)
    ∧ (∀ (a : Opd) (ls : List Word) (v i grade : Nat), Issuing s e 0xD1 → Shaped e → (a = .lit ∨ ∃ r, a = .s r) → ScalarIn e a 1 e.lits ls v →
      d.openSlot = some i → i < d.slots.length → g.joined = true → g.sealedBit = false → e.path.barrier = none →
      e.pathSlices ≠ [] → GangArrives e g (·.sealMask) → (∀ q ∈ g.ladle, q.ops = []) →
      (∀ o ∈ s.ops, refGang o.wave = some (e.task, e.gang) → o.ended = true ∨ (o.isLoad = true ∧ o.atomic = false) ∨ (o.cxl = [] ∧ o.remote = [])) →
      (k.limits.lower = false → ∀ j ver best, d.latest = some (j, ver, best) → best ≤ v) → Least grade (waveGrades e g v) →
      let others := (s.gangs.filter fun h => h.task == e.task && h.index != e.gang)
      let final := fun (t : State) => ∃ w, exec (.seal a) s = .next t ∧ t.wave? e.ref = some w ∧ w.sealMask = 0
        ∧ (w.path e.p).inPass = false ∧ (w.path e.p).pc = (e.after (e.used ls)).1 ∧ t.mem = s.mem
      ((s.gangs.filter (·.task == e.task)).length ≠ k.gangCount ∨ (∃ h ∈ others, h.sealedBit = false) →
        ∃ t h, final t ∧ t.gang? e.task e.gang = some h ∧ h.sealedBit = true ∧ h.grade = grade ∧ t.dirs = s.dirs)
      ∧ ((s.gangs.filter (·.task == e.task)).length = k.gangCount → (∀ h ∈ others, h.sealedBit = true) →
        ∃ t y, final t ∧ (∀ h ∈ t.gangs, h.task = e.task → h.sealedBit = false) ∧ t.dir? e.task = some y
          ∧ y.openSlot = none ∧ y.pass = d.pass ∧ y.base = d.base
          ∧ (∃ m, y.latest = some (i, d.pass, m) ∧ Least m (grade :: others.map (·.grade)))
          ∧ (nth ({} : VSlot) y.slots i).state = .full ∧ (nth ({} : VSlot) y.slots i).version = d.pass
          ∧ ∀ j, j ≠ i → nth ({} : VSlot) y.slots j = if d.latest.map (·.1) = some j ∧ j < d.slots.length then
              { nth ({} : VSlot) d.slots j with state := if (nth ({} : VSlot) d.slots j).pins = 0 then .free else .draining }
            else nth {} d.slots j))
    ∧ (∀ (a : Opd) (ls : List Word) (v j ver best : Nat), Issuing s e 0xD1 → (a = .lit ∨ ∃ r, a = .s r) → ScalarIn e a 1 e.lits ls v →
      d.openSlot ≠ none → g.joined = true → g.sealedBit = false → e.path.barrier = none → k.limits.lower = false →
      d.latest = some (j, ver, best) → v < best → exec (.seal a) s = .next (s.takeFault e.ref e.p { code := 0x51 }))
    ∧ (Issuing s e 0xD5 → k.status = 0 → k.quench = none → s.faultBefore e.task = none → NoCut s e.task →
      ∃ t, exec .doneTask s = .next t ∧ t.task? e.task = some { k with quench := some (1, 0) } ∧ t.mem = s.mem ∧ t.dirs = s.dirs
        ∧ ∀ n h, s.gang? e.task n = some h → h.state ≠ .retired → ∃ y, t.gang? e.task n = some y
          ∧ (h.state = .waiting → h.status = 0 → h.kill = none → y.state = .retired ∧ y.status = 1)
          ∧ (h.state ≠ .waiting → y.kill ≠ none ∧ (∀ w ∈ y.caster :: y.waves, ∀ x ∈ w.slices, x.exited = true)
            ∧ ∀ q ∈ y.ladle, q.ops = []))

/-- R204, R227, R423, R427, R428, R430: ACQV pins the latest version whose grade suffices, answers 1 when the task has completed
without one, 2 for no such task, 3 at a full count, and waits otherwise; RELV takes a pin away and frees a drained slot;
VSTAT reads the directory. The references are to tasks of this package. -/
def Obligations.VersionResults : Prop :=
  ∀ (s : State) (e : Env) (a : Opd) (t : Nat), Names e a t →
    (∀ (r : Nat) (b : Opd) (ls : List Word) (least : Nat), Issuing s e 0xD2 → Shaped e → Fresh e → r % 8 = 0 → r + 8 ≤ 48 →
      (b = .lit ∨ ∃ q, b = .s q) → ScalarIn e b 1 e.lits ls least →
      let out := fun (u : State) (l : Nats) => ScalarOut (.acqv (.s r) a b) s e 0xD2 (e.used ls) u (.sca r) 6 (packed l)
      let acq := fun (u : State) (l : Nats) => ∃ c, Acquired s e 5 c ∧ out { u with caches := c } l
      (HoldsNone s e t → out s [2, 0xFFFFFFFF, 0, 0xFFFFFFFF, 0, 0])
      ∧ (∀ d i ver best, Holds s e t d → d.latest = some (i, ver, best) → least ≤ best →
        let x : VSlot := nth {} d.slots i
        (x.pins ≠ 65535 → acq (s.mapDir t fun y => { y with slots := setNth y.slots i { x with pins := x.pins + 1 } })
          [0, ver, best, i, (d.base.toNat + i * d.slotBytes) % 2 ^ 32, (d.base.toNat + i * d.slotBytes) / 2 ^ 32])
        ∧ (x.pins = 65535 → out s [3, ver, best, 0xFFFFFFFF, 0, 0]))
      ∧ (∀ d, Holds s e t d → d.status ≠ 0 →
        (d.latest = none → out s [1, 0xFFFFFFFF, 0, 0xFFFFFFFF, 0, 0])
        ∧ (∀ i ver best, d.latest = some (i, ver, best) → best < least → out s [1, ver, best, 0xFFFFFFFF, 0, 0]))
      ∧ (∀ d, Holds s e t d → d.status = 0 → (∀ i ver best, d.latest = some (i, ver, best) → best < least) →
        ∃ w, exec (.acqv (.s r) a b) s = .next (s.setWave e.ref w) ∧ onlyPaths e.w w ∧ (w.path e.p).state = .blocked
          ∧ (w.path e.p).wait = .acqv ∧ (w.path e.p).pc = e.pc))
    ∧ (∀ (dst b : Opd) (d : Dst) (ls : List Word) (ver : Nat), Issuing s e 0xD3 → Fresh e → e.stDst dst 1 true = .ok d →
      (b = .lit ∨ ∃ q, b = .s q) → ScalarIn e b 1 e.lits ls ver → s.quiet e 5 = true →
      let out := fun (u : State) (st : Nat) => ScalarOut (.relv dst a b) s e 0xD3 (e.used ls) u d 1 st
      let held := fun (y : Directory) (i : Nat) => i < y.slots.length ∧ (nth ({} : VSlot) y.slots i).version = ver ∧ (nth ({} : VSlot) y.slots i).pins ≠ 0
        ∧ ((nth ({} : VSlot) y.slots i).state = .full ∨ (nth ({} : VSlot) y.slots i).state = .draining)
      (HoldsNone s e t → out s 2)
      ∧ (∀ y, Holds s e t y → (∀ i, ¬held y i) → out s 1)
      ∧ (∀ y i, Holds s e t y → held y i → (∀ j, j < i → ¬held y j) →
        let x : VSlot := nth {} y.slots i
        let less := { x with pins := x.pins - 1, state := if x.state = .draining ∧ x.pins = 1 then .free else x.state }
        out (s.mapDir t fun z => { z with slots := setNth z.slots i less }) 0))
    ∧ (∀ (r : Nat), Issuing s e 0xD4 → Fresh e → r % 4 = 0 → r + 4 ≤ 48 →
      let out := fun (l : Nats) => ScalarOut (.vstat (.s r) a) s e 0xD4 0 s (.sca r) 4 (packed l)
      (HoldsNone s e t → (∀ k, s.task? t = some k → k.ctx ≠ e.ctx) → out [0xFFFFFFFF, 0, 0, 0xFF0000])
      ∧ (∀ k, HoldsNone s e t → s.task? t = some k → k.ctx = e.ctx →
        out [0xFFFFFFFF, 0, 0, if k.notified then 0xFF0000 else k.status * 2 ^ 16])
      ∧ (∀ d, Holds s e t d →
        let code := fun (m : MouldState) => match m with
          | .free => 0
          | .filling => 1
          | .full => 2
          | .draining => 3
        out [(match d.latest with
            | some (_, ver, _) => ver
            | none => 0xFFFFFFFF), (match d.latest with
            | some (_, _, best) => best
            | none => 0), d.pass,
          (match d.openSlot with
            | some i => 2 ^ 31 + i * 2 ^ 28
            | none => 0)
          + (match d.latest with
            | some (i, _, _) => 2 ^ 27 + i * 2 ^ 24
            | none => 0)
          + d.status * 2 ^ 16 + ((List.range d.slots.length).map fun i => code (nth ({} : VSlot) d.slots i).state * 2 ^ (2 * i)).sum]))

/-- R118, R120, R263, R433 to R435: CKPT with no gang to take writes the header of an image and registers it, and answers 3
while another runs; HALTB halts a gang and answers 0, 1 or 2; SCRUB clears what its mask selects
of a halted gang and answers 0, 1 or 2. -/
def Obligations.PrivilegedControl : Prop :=
  ∀ (s : State) (e : Env), e.handler = true →
    (∀ (dst a b : Opd) (d : Dst) (l1 l2 : List Word) (va cap off : Nat) (c : Context), Issuing s e 0xD8 → e.stDst dst 2 false = .ok d →
      (a = .lit ∨ ∃ r, a = .s r) → (b = .lit ∨ ∃ r, b = .s r) → ScalarIn e a 2 e.lits l1 va → ScalarIn e b 1 l1 l2 cap → va % 64 = 0 →
      s.ctx? e.ctx = some c → e.path.wait ≠ .privileged →
      (c.ckptBusy = true → ScalarOut (.ckpt dst a b) s e 0xD8 (e.used l2) s d 2 (3 + c.generation % 2 ^ 32 * 2 ^ 32))
      ∧ (c.ckptBusy = false → 1 ≤ cap → OwnBytes s e .store va 64 off false →
        (∀ h ∈ s.gangs, (s.task? h.task).map (·.ctx) = some e.ctx → h.state = .retired ∧ h.chosen = []) →
        ∃ t w y, exec (.ckpt dst a b) s = .next t ∧ t.wave? e.ref = some (w.wentOn e 0xD8 (e.used l2))
          ∧ Wrote e.w w d 2 (e.slices.map (4 * ·)) (fun _ => ((c.generation + 1) % 2 ^ 32 * 2 ^ 32, false))
          ∧ t.ctx? e.ctx = some y ∧ y.generation = c.generation + 1 ∧ y.ckptBusy = false
          ∧ y.checkpoint = some (BitVec.ofNat 64 va, 64, c.generation + 1, [])
          ∧ (∀ q, q < off ∨ off + 64 ≤ q → t.byte q = s.byte q)
          ∧ let img := t.readLocal off 64
            fieldAt img 0 4 = 0x4B434C4D ∧ fieldAt img 4 2 = 1 ∧ fieldAt img 6 1 = e.ctx % 256
            ∧ fieldAt img 8 8 = (c.generation + 1) % 2 ^ 64 ∧ fieldAt img 0x10 8 = s.now % 2 ^ 64 ∧ fieldAt img 0x18 4 = 0
            ∧ fieldAt img 0x20 8 = 64 ∧ fieldAt img 0x28 4 = crc32c (img.take 0x28 ++ [0, 0, 0, 0] ++ img.drop 0x2C)))
    ∧ (∀ (dst a : Opd) (d : Dst) (ls : List Word) (v : Nat), Issuing s e 0xD9 → e.stDst dst 1 true = .ok d → (a = .lit ∨ ∃ r, a = .s r) →
      ScalarIn e a 2 e.lits ls v →
      let out := fun (t : State) (st : Nat) => ∃ w, exec (.haltb dst a) s = .next t ∧ t.wave? e.ref = some (w.wentOn e 0xD9 (e.used ls))
        ∧ Wrote e.w w d 1 (e.slices.map (4 * ·)) (fun _ => (st, false))
      (s.task? (v % 2 ^ 32) = none → ScalarOut (.haltb dst a) s e 0xD9 (e.used ls) s d 1 1)
      ∧ (∀ k g, s.task? (v % 2 ^ 32) = some k → k.ctx = e.ctx → k.status = 0 → s.gang? (v % 2 ^ 32) (v / 2 ^ 32) = some g →
        (g.state = .retired → ScalarOut (.haltb dst a) s e 0xD9 (e.used ls) s d 1 1)
        ∧ (g.state = .waiting → ∃ t h, out t 2 ∧ t.gang? (v % 2 ^ 32) (v / 2 ^ 32) = some h ∧ h.halted = true ∧ h.state = .waiting)
        ∧ (g.state = .running ∨ g.state = .placing → (∀ w ∈ g.caster :: g.waves, ∀ p ∈ w.paths, ∀ id, p.wait ≠ .op id) →
          ∃ t h, out t 0 ∧ t.gang? (v % 2 ^ 32) (v / 2 ^ 32) = some h ∧ h.halted = true
            ∧ ∀ w ∈ h.caster :: h.waves, ∀ p ∈ w.paths, p.state = .free ∨ p.state = .halted)))
    ∧ (∀ (dst a : Opd) (d : Dst) (ls : List Word) (v : Nat) (scratch banks tiles : Bool), Issuing s e 0xDA → e.stDst dst 1 true = .ok d →
      (a = .lit ∨ ∃ r, a = .s r) → ScalarIn e a 2 e.lits ls v →
      let out := fun (t : State) (st : Nat) => ScalarOut (.scrub dst a scratch banks tiles) s e 0xDA (e.used ls) t d 1 st
      (s.task? (v % 2 ^ 32) = none → out s 2)
      ∧ (∀ k g, s.task? (v % 2 ^ 32) = some k → k.ctx = e.ctx → k.status = 0 → s.gang? (v % 2 ^ 32) (v / 2 ^ 32) = some g → g.state ≠ .retired →
        (g.halted = false → out s 1)
        ∧ (g.halted = true → (∀ q ∈ g.ladle, q.ops = []) → out (s.setGang { g with
            tiles := if tiles then List.replicate g.tiles.length {} else g.tiles
            banks := if banks then List.replicate g.banks.length {} else g.banks
            scratch := if scratch then [] else g.scratch
            scratchPoison := if scratch then [] else g.scratchPoison
            tags := if scratch then [] else g.tags
            moulds := if scratch || banks || tiles then [] else g.moulds }) 0)))

namespace Sys2Proof.Claims

/-! ### Starts, firmware and the debug token (R16–R20, R72–R75, R272) -/

/-- The access completes with a status and changes nothing else (R30). -/
def Answers (i : Instr) (s : State) (st : Nat) : Prop := exec i s = .next { s with hostStatus := st }

/-- An endpoint with the rights of a privileged host: one, or the privileged code of a package of the domain (R29, R49). -/
def Privileged (s : State) (ep : Nat) : Prop := ep ∈ s.privileged ∨ ep = s.ownId ∨ ep ∈ s.packages

/-- The verdict on a firmware image (R72, R73): 4 header or length, 2 signature, 3 version, 1 accepted. -/
def imageVerdict (fusedMin : Nat) (image : Bytes) : Nat :=
  let n := fieldAt image 12 4
  if image.length < 64 + n + 3309 ∨ fieldAt image 0 4 ≠ 0x4D4C5846 ∨ fieldAt image 4 2 ≠ 1 ∨ fieldAt image 6 2 ≠ 0 ∨ fieldAt image 16 48 ≠ 0 then 4
  else if Config.signatureValid 0 (image.take (64 + n)) ((image.drop (64 + n)).take 3309) = false then 2
  else if fieldAt image 8 4 < fusedMin then 3 else 1

/-- The device is ready after a start that ran image `fw` (R16, R17, R72): it has joined its domain, no task of an earlier start
is left, and no token is active. -/
structure Started (t : State) (r : StartInput) (fw : Bytes) (warm : Bool) : Prop where
  ready : t.start.ready = true
  step : t.start.step = 7
  err : t.start.err = 0
  warm : t.start.warm = warm
  bist : t.start.bist = false
  pending : t.start.pendingWarm = false ∧ t.start.pendingCold = false
  id : t.ownId = r.ownId ∧ t.hosts = r.hosts ∧ t.packages = r.packages ∧ t.privileged = r.privileged
  firmware : t.security.firmware = fw
  measurement : t.security.measurement = shake256 48 (fw.take (64 + fieldAt fw 12 4))
  version : t.security.version = fieldAt fw 8 4
  token : t.security.tokenActive = false
  links : ∀ n, n < 12 → (nth ({} : Link) t.links n).up = bitOf r.linkOk n ∧ (nth ({} : Link) t.links n).fenced = !(bitOf r.linkOk n)
  work : t.tasks = [] ∧ t.gangs = [] ∧ t.ops = [] ∧ t.nextTask = 1

/-- A fenced die is hot: one of its DRAM sensors, or of the junction sensors of its clusters, reads above 95 °C (R13). -/
def Hot (s : State) : Prop :=
  ∃ i d, s.dies[i]? = some d ∧ d.fenced = true ∧ ((∃ x ∈ d.sensors, 380 < x) ∨ ∃ k, k < 32 ∧ 380 < (s.cluster (32 * i + k)).junction)

/-- The device stopped after step 0x02 with ERR = 0x02, having run step 0x05 (R17). -/
structure Recovering (t : State) (r : StartInput) : Prop where
  ready : t.start.ready = false
  err : t.start.err = 2
  id : t.ownId = r.ownId ∧ t.hosts = r.hosts ∧ t.packages = r.packages ∧ t.privileged = r.privileged
  work : t.tasks = [] ∧ t.gangs = []

/-- The result of a cold start (R16, R17): every context and queue is gone, every byte is zero, failed clusters are out of the
mask and untrained dies are fenced. -/
def ColdStarted (t : State) (r : StartInput) (fusedMin : Nat) (fw : Bytes) (life : Nat) : Prop :=
  t.powered = true ∧ t.start.lifecycle = life ∧ t.contexts = [] ∧ t.security.fusedMin = fusedMin
    ∧ (imageVerdict fusedMin fw = 1 → Started t r fw false ∧ t.queues = [] ∧ (∀ q, t.byte q = 0) ∧ t.clusterMask = BitVec.ofNat 128 r.clusterOk
      ∧ ∀ d, d < 4 → bitOf r.dieTrained d = false → (nth ({} : Die) t.dies d).fenced = true)
    ∧ (imageVerdict fusedMin fw ≠ 1 → Recovering t r)

end Sys2Proof.Claims

/-- R13, R16, R17, R18, R20: POWER_ON and COLD_START by a privileged host start the device cold, the first power-on of all with the
firmware, the fused minimum and the lifecycle that it is given; WARM_START by one keeps the
retained contexts whose pages all survived, with their queues, and ends every other context and every task; it waits while a
fenced die is hot; FENCED_DIE_COOLED lets a requested start run; any other endpoint is DENIED, and in recovery no start is answered. -/
def Obligations.StartEvents : Prop :=
  (∀ (s : State) (r : StartInput), ∃ t, exec (.powerOn r) s = .next t ∧
    ColdStarted t r (if s.powered then s.security.fusedMin else r.fusedMin) (if s.powered then s.security.firmware else r.firmware)
      (if s.powered then s.start.lifecycle else r.lifecycle))
  ∧ (∀ (s : State) (ep : Nat) (r : StartInput),
    (s.start.err = 2 → exec (.coldStart ep r) s = .next s ∧ ∀ bist, exec (.warmStart ep bist r) s = .next s)
    ∧ (¬Privileged s ep → s.start.err ≠ 2 → Answers (.coldStart ep r) s 3 ∧ ∀ bist, Answers (.warmStart ep bist r) s 3)
    ∧ (Privileged s ep → s.start.err ≠ 2 → s.powered = true → ∃ t, exec (.coldStart ep r) s = .next t ∧ t.hostStatus = 0
      ∧ ColdStarted t r s.security.fusedMin s.security.firmware s.start.lifecycle)
    ∧ (Privileged s ep → s.start.err ≠ 2 → Hot s → ∀ bist,
      ∃ t, exec (.warmStart ep bist r) s = .next t ∧ t.hostStatus = 0 ∧ t.start.ready = false ∧ t.start.pendingWarm = true)
    ∧ (Privileged s ep → s.start.err ≠ 2 → ¬Hot s → (s.contexts.map (·.1)).Nodup →
      ∀ bist, ∃ t, exec (.warmStart ep bist r) s = .next t ∧ t.hostStatus = 0 ∧ (imageVerdict s.security.fusedMin s.security.firmware = 1 →
        Started t r s.security.firmware true
        ∧ t.start.lifecycle = s.start.lifecycle ∧ t.clusterMask = (if bist then BitVec.ofNat 128 r.clusterOk else s.clusterMask)
        ∧ (∀ i c, s.ctx? i = some c → c.retain = false → t.ctx? i = none)
        ∧ ((∀ d, d < 4 → bitOf r.dieRetained d = true) → (∀ p, p < 4 → bitOf r.cxlRetained p = true ∨ bitOf r.cxlOk p = false) →
          t.start.rl = false ∧ (∀ d, d < 4 → (nth ({} : Die) t.dies d).fenced = false)
          ∧ ∀ i c, s.ctx? i = some c → c.retain = true →
            (∃ y, t.ctx? i = some y ∧ y.root = c.root ∧ y.owner = c.owner ∧ y.tenant = c.tenant ∧ y.quotaCluster = c.quotaCluster
              ∧ y.quotaPackage = c.quotaPackage ∧ y.limits = c.limits ∧ y.debuggable = c.debuggable ∧ y.retain = true ∧ y.session = none)
            ∧ ∀ q, q < 64 → (s.queue q).bound = some i → (t.queue q).bound = some i ∧ (t.queue q).pending = []))))
  ∧ (∀ (s : State) (r : StartInput),
    (s.start.pendingCold = false → s.start.pendingWarm = false ∨ Hot s → exec (.fencedDieCooled r) s = .next s)
    ∧ (s.start.pendingCold = true → s.powered = true → ∃ t, exec (.fencedDieCooled r) s = .next t
      ∧ ColdStarted t r s.security.fusedMin s.security.firmware s.start.lifecycle)
    ∧ (s.start.pendingCold = false → s.start.pendingWarm = true → ¬Hot s →
      ∃ t, exec (.fencedDieCooled r) s = .next t ∧ (imageVerdict s.security.fusedMin s.security.firmware = 1 → Started t r s.security.firmware true)))

/-- R72 to R75, R272: the recovery window takes the image of a privileged host in recovery; RECOVER and MINUP begin, their ends
set RESULT, store an accepted image and cold start, or raise the fused minimum; GO begins a report for its context and nonce, which
REPORT_READY fills in and signs, VALID with the context and nonce that stand; TOKEN_CHECK opens the features of a good token and refuses any other, and draws a new challenge. -/
def Obligations.FirmwareAndTokens : Prop :=
  ∀ (s : State), let x := s.security
    let put := fun (y : Security) (i : Instr) => exec i s = .next { s with security := y, hostStatus := 0 }
    let silent := fun (i : Instr) (y : Security) => exec i s = .next { s with security := y }
    (∀ (ep off : Nat) (data : Bytes), let n := data.length
      (¬Privileged s ep ∨ s.start.err ≠ 2 → Answers (.recoveryWindowWrite ep off data) s 3)
      ∧ (Privileged s ep → s.start.err = 2 → n < 8 ∨ 64 < n ∨ n % 8 ≠ 0 ∨ off % 8 ≠ 0 ∨ 16777216 < off + n →
        Answers (.recoveryWindowWrite ep off data) s 2)
      ∧ (Privileged s ep → s.start.err = 2 → 8 ≤ n → n ≤ 64 → n % 8 = 0 → off % 8 = 0 → off + n ≤ 16777216 →
        ∃ w, put { x with window := w, windowLen := max x.windowLen (off + n) } (.recoveryWindowWrite ep off data)
          ∧ ∀ i, w.get 0 i = if off ≤ i ∧ i < off + n then nth 0 data (i - off) else x.window.get 0 i))
    ∧ (∀ ep, (¬Privileged s ep → Answers (.recover ep) s 3 ∧ Answers (.minup ep) s 3)
      ∧ (Privileged s ep →
        put (if x.fwBusy ≠ 0 then { x with fwResult := 7 } else if s.start.err ≠ 2 then { x with fwResult := 5 } else { x with fwBusy := 1 }) (.recover ep)
        ∧ put (if x.fwBusy ≠ 0 then { x with fwResult := 7 } else { x with fwBusy := 2 }) (.minup ep)))
    ∧ (∀ r, let image := getBytes x.window 0 x.windowLen
      let v := imageVerdict x.fusedMin image
      (x.fwBusy ≠ 1 → exec (.recoveryCheckDone r) s = .next s)
      ∧ (x.fwBusy = 1 → s.powered = true → ∃ t, exec (.recoveryCheckDone r) s = .next t ∧
        if v = 1 then Started t r image false ∧ t.security.fwResult = 1 ∧ t.contexts = [] ∧ ∀ q, t.byte q = 0
        else t = { s with security := { x with fwBusy := 0, fwResult := v } }))
    ∧ (silent .fuseWriteDone (if x.fwBusy = 2 then { x with fwBusy := 0, fwResult := 6, fusedMin := max x.fusedMin x.version } else x))
    ∧ (∀ ep c, c < 64 → let mine := ep ∈ s.hosts ∨ Privileged s ep
      let valid := fun (k : Nat) => x.attValid && decide (k = x.attFor) && decide (x.nonce = x.attNonce)
      (¬mine → s.start.err ≠ 2 → Answers (.attGo ep c) s 3)
      ∧ (mine → s.start.err ≠ 2 → put (if x.attBusy then { x with attErr := 2, attValid := valid x.attCtx }
          else if (s.ctx? c).isNone then { x with attCtx := c, attErr := 1, attValid := valid c }
          else { x with attCtx := c, attErr := 0, attBusy := true, attValid := false, attAt := s.now, attFor := c, attNonce := x.nonce }) (.attGo ep c)))
    ∧ ((x.attBusy = false → exec .reportReady s = .next s)
      ∧ (∀ c, x.attBusy = true → s.ctx? x.attFor = some c → ∃ rep,
        silent .reportReady { x with attBusy := false, report := rep, signature := Config.sign rep
                                     attValid := decide (x.attCtx = x.attFor) && decide (x.nonce = x.attNonce) }
        ∧ fieldAt rep 0 4 = 0x52544C4D ∧ fieldAt rep 4 2 = 1 ∧ fieldAt rep 6 1 = s.start.lifecycle % 256
        ∧ fieldAt rep 7 1 = x.tokenActive.toNat + 2 * c.debuggable.toNat
        ∧ rep.length = 256 ∧ (x.measurement.length = 48 → (rep.drop 16).take 48 = x.measurement) ∧ fieldAt rep 0x40 4 = x.version % 2 ^ 32
        ∧ fieldAt rep 0x44 1 = x.attFor % 256 ∧ fieldAt rep 0x48 4 = c.tenant % 2 ^ 32 ∧ fieldAt rep 0x4C 2 = c.owner % 2 ^ 16
        ∧ (rep.drop 0x50).take 32 = getBytes x.attNonce 0 32 ∧ fieldAt rep 0x70 8 = s.now % 2 ^ 64
        ∧ fieldAt rep 0x78 4 = if s.start.lifecycle = 1 then 0xFFFFFFFF else if x.tokenActive then x.tokenMask % 2 ^ 32 else 0))
    ∧ (∀ ep, let mine := ep ∈ s.hosts ∨ Privileged s ep
      let tok := getBytes x.token 0 (64 + 3309)
      let good := s.start.lifecycle ≠ 3 ∧ fieldAt tok 0 4 = 0x4B544244 ∧ fieldAt tok 4 2 = 1 ∧ fieldAt tok 6 2 = 0
        ∧ (tok.drop 8).take 8 = (List.range 8).map Config.identityByte ∧ (tok.drop 16).take 32 = (Config.challenge x.draws).take 32
        ∧ fieldAt tok 48 4 < 16 ∧ fieldAt tok 52 12 = 0 ∧ Config.signatureValid 1 (tok.take 64) (tok.drop 64) = true
      (¬mine → s.start.err ≠ 2 → Answers (.tokenCheck ep) s 3)
      ∧ (mine → s.start.err ≠ 2 → put (if good then { x with tokenActive := true, tokenRefused := false, tokenMask := Nat.lor x.tokenMask (fieldAt tok 48 4), draws := x.draws + 1 }
          else { x with tokenRefused := true, draws := x.draws + 1 }) (.tokenCheck ep)))

namespace Sys2Proof.Claims

/-! ### The management space and the fabric (R22–R49, R187, R189) -/

/-- An endpoint that may write the management space (R29, R30). -/
def MayWrite (s : State) (ep : Nat) : Prop := ep ∈ s.hosts ∨ Privileged s ep

/-- A translation that an invalidation names (R187): context in bits 5 to 0, granularity in 7 to 6, count in 15 to 8 (0: all), and
the first page from bit 16 on. -/
def Invalidated (v : Nat) (x : TlbEntry) : Prop :=
  let pages := match v / 2 ^ 6 % 4 with
    | 0 => 2 ^ 16
    | 1 => 2 ^ 21
    | 2 => 2 ^ 30
    | _ => 0
  let first := v / 2 ^ 16 % 2 ^ 48 * 2 ^ 9
  x.ctx = v % 2 ^ 6 ∧ (v / 2 ^ 8 % 256 = 0 ∨ (x.base < first + v / 2 ^ 8 % 256 * pages ∧ first < x.base + 2 ^ x.size))

/-- An offset of the command aperture (R45), and one of the recovery interface (R73). -/
def Aperture (off : Nat) : Prop := Config.apertureOffset ≤ off ∧ off < Config.apertureOffset + 0x100000
def RecoveryWindow (off : Nat) : Prop := Config.recoveryOffset ≤ off ∧ off < Config.recoveryOffset + 16384 * 1024
def Recovery (off : Nat) : Prop := RecoveryWindow off ∨ off = Config.identityOffset + 0x838

/-- An offset of the staging area of a window (R45, R46). -/
def StagingArea (off : Nat) : Prop :=
  Aperture off ∧ off - Config.apertureOffset < 0x41000 ∧ (off - Config.apertureOffset) % 0x1000 < 0x100

/-- Link `n` is there and not fenced: it is up, or it retrains (R26, R44). -/
def linkUp (s : State) (n : Nat) : Bool :=
  let l := nth ({} : Link) s.links n
  (l.up || l.retraining.isSome) && !l.fenced

/-- A register write that is performed and changes only what `t` says. -/
def Writes (i : Instr) (s t : State) : Prop := exec i s = .next { t with hostStatus := 0 }

/-- A retrain begins (R26). -/
def retrained (l : Link) (now : Nat) : Link :=
  if l.fenced ∨ l.retraining.isSome then l
  else { l with up := false, retraining := some now, retrains := min (l.retrains + 1) 0xFFF, crcFails := 0 }

end Sys2Proof.Claims

/-- R18, R20, R29, R30, R43, R44, R46, R49, R73, R98, R99, R102, R187, R253, R265: register writes by endpoints that may make them, and the
statuses of the others; the aperture refuses while the device is not ready; a write to a staging area or to the recovery window is
that write; in recovery only the recovery interface is answered; TLBINV starts or waits and TLBINV_DONE drops what it names from every
TLB; a route write takes effect, or waits while requests to its package are outstanding; a test request begins an attempt. -/
def Obligations.RegisterEvents : Prop :=
  ∀ (s : State), let base := Config.expertOffset
    (∀ (ep off size : Nat) (v : DWord), let w := fun (o n : Nat) => Instr.registerWrite ep o n v
      let low := v.toNat % 2 ^ 32
      (Aperture off → s.start.ready = false → Answers (w off size) s 1)
      ∧ (s.start.ready = true ∨ ¬Aperture off →
        (s.start.err = 2 → ¬Recovery off → exec (w off size) s = .next s)
        ∧ (s.start.err ≠ 2 ∨ Recovery off → (¬MayWrite s ep → Answers (w off size) s 3)
          ∧ (MayWrite s ep → ¬StagingArea off → ¬RecoveryWindow off → (size ≠ 4 ∧ size ≠ 8) ∨ off % size ≠ 0 → Answers (w off size) s 2)
          ∧ (MayWrite s ep → StagingArea off → let o := off - Config.apertureOffset
            exec (w off size) s = exec (.stagingWrite ep (o / 0x1000) (o % 0x1000) (leBytes size v.toNat)) s)
          ∧ (MayWrite s ep → RecoveryWindow off →
            exec (w off size) s = exec (.recoveryWindowWrite ep (off - Config.recoveryOffset) (leBytes size v.toNat)) s)))
      ∧ (MayWrite s ep → s.start.err ≠ 2 → ¬Privileged s ep → Answers (w (base + 0x1A00) 4) s 3 ∧ Answers (w (base + 0x1D08) 4) s 3
        ∧ (∀ c, c < 128 → Answers (w (base + 0x2000 + 4 * c) 4) s 3) ∧ Answers (w (base + 0x1D00) 8) s 3 ∧ Answers (w Config.startCtrlOffset 4) s 3)
      ∧ (Privileged s ep → s.start.err ≠ 2 →
        Writes (w (base + 0x1A00) 4) s (if 1 ≤ low ∧ low ≤ 168 then { s with testInterval := low } else s)
        ∧ Writes (w (base + 0x1D08) 4) s { s with hangLimit := low }
        ∧ (∀ c, c < 128 → ∃ k, Writes (w (base + 0x2000 + 4 * c) 4) s (s.setCluster c k) ∧ k.floor = low % 256
          ∧ k.allow = min (max (junctionTerm (s.cluster c).junction) (low % 256)) (min (dramTerm (s.cluster c).dramBand) (s.cluster c).powerTerm)
          ∧ { k with floor := (s.cluster c).floor, allow := (s.cluster c).allow } = s.cluster c)
        ∧ (v.toNat % 128 = 0 → s.start.lifecycle = 1 → Writes (w (base + 0x1D00) 8) s { s with handlerEntry := v })
        ∧ (low / 2 ^ 16 ≠ 0x5754 → Answers (w Config.startCtrlOffset 4) s 2)
        ∧ (low / 2 ^ 16 = 0x5754 → low % 4 = 0 →
          Writes (w Config.startCtrlOffset 4) s { s with start := { s.start with bist := decide (low / 4 % 2 = 1) } })
        ∧ (low / 2 ^ 16 = 0x5754 → low / 2 % 2 = 1 → ∃ t, Writes (w Config.startCtrlOffset 4) s t ∧ t.start.ready = false
          ∧ t.start.pendingCold = true ∧ t.contexts = [] ∧ t.tasks = [])
        ∧ (low / 2 ^ 16 = 0x5754 → low % 4 = 1 → ∃ t, Writes (w Config.startCtrlOffset 4) s t ∧ t.start.ready = false
          ∧ t.start.pendingWarm = true ∧ t.start.bist = decide (low / 4 % 2 = 1)))
      ∧ (MayWrite s ep → s.start.err ≠ 2 → ∀ n, n < 4 → let l := nth ({} : CxlPort) s.ports n
        Writes (w (base + 0x140 + 4 * n) 4) s { s with ports := setNth s.ports n { l with
          retrains := if low / 2 ^ 16 % 2 = 1 then 0 else l.retrains
          retries := if low % 2 = 1 then 0 else l.retries } })
      ∧ (MayWrite s ep → s.start.err ≠ 2 → ∀ n, n < 12 → let l := nth ({} : Link) s.links n
        Writes (w (base + 0x100 + 4 * n) 4) s { s with links := setNth s.links n { l with
          retrains := if low / 2 ^ 16 % 2 = 1 then 0 else l.retrains
          retries := if low % 2 = 1 then 0 else l.retries } }))
    ∧ (∀ (ep : Nat) (v : DWord), s.start.err ≠ 2 → (¬MayWrite s ep → Answers (.tlbinv ep v) s 3)
      ∧ (MayWrite s ep → Writes (.tlbinv ep v) s (if s.tlbinvDone then { s with tlbinvPending := some v, tlbinvDone := false }
          else { s with tlbinvQueue := s.tlbinvQueue ++ [v] })))
    ∧ (∀ v, s.tlbinvPending = some v → ∃ t, exec .tlbinvDone s = .next t
      ∧ (∀ c x, x ∈ t.caches.l2.get [] c ↔ x ∈ s.caches.l2.get [] c ∧ ¬Invalidated v.toNat x)
      ∧ (∀ c x, x ∈ (t.coreCache c).tlb ↔ x ∈ (s.coreCache c).tlb ∧ ¬Invalidated v.toNat x)
      ∧ (s.tlbinvQueue = [] → t.tlbinvPending = none ∧ t.tlbinvDone = true)
      ∧ (∀ u r, s.tlbinvQueue = u :: r → t.tlbinvPending = some u ∧ t.tlbinvQueue = r ∧ t.tlbinvDone = s.tlbinvDone) ∧ t.mem = s.mem)
    ∧ (∀ ep id mask, id < 1024 → mask < 4096 → s.start.err ≠ 2 →
      (¬Privileged s ep → Answers (.routeTableWrite ep id mask) s 3)
      ∧ (Privileged s ep → (∃ q ∈ s.remote, q.pkg = id ∧ q.sent = true) →
        Writes (.routeTableWrite ep id mask) s { s with routePending := (s.routePending.filter (·.1 != id)) ++ [(id, mask)] })
      ∧ (Privileged s ep → (∀ q ∈ s.remote, q.pkg = id → q.sent = false) →
        ((∃ n, n < 12 ∧ bitOf mask n = true ∧ linkUp s n = true) → ∃ m, Writes (.routeTableWrite ep id mask) s { s with routes := s.routes.set 0 id m }
          ∧ m < 4096 ∧ ∀ n, n < 12 → bitOf m n = (bitOf mask n && linkUp s n))
        ∧ ((∀ n, n < 12 → bitOf mask n = true → linkUp s n = false) → id ∈ s.fencedPkgs → Writes (.routeTableWrite ep id mask) s s)
        ∧ ((∀ n, n < 12 → bitOf mask n = true → linkUp s n = false) → id ∉ s.fencedPkgs → (∀ q ∈ s.remote, q.pkg ≠ id) →
          Writes (.routeTableWrite ep id mask) s { s with fencedPkgs := s.fencedPkgs ++ [id], routes := s.routes.set 0 id 0 })))
    ∧ (∀ ep c, c < 128 → s.start.err ≠ 2 → let t := (s.cluster c).test
      (¬Privileged s ep → Answers (.testRequest ep c) s 3)
      ∧ (Privileged s ep → (∀ i, i < 32 → (s.cluster (c / 32 * 32 + i)).test.attempt = none ∧ (s.cluster (c / 32 * 32 + i)).test.running = none) →
        t.failed = false → s.clusterMask.getLsbD c = true →
        ∃ u, Writes (.testRequest ep c) s u ∧ (u.cluster c).test = { t with attempt := some s.now } ∧ (∀ d, d ≠ c → u.cluster d = s.cluster d)
          ∧ u.mem = s.mem ∧ u.gangs.length = s.gangs.length
          ∧ ∀ g ∈ u.gangs, g.cluster = c → g.state = .running ∨ g.state = .placing → (EvictCause.test, s.now) ∈ g.chosen))

/-- R18, R25, R26, R28 to R30, R32, R33, R35 to R37, R39, R41 to R43, R62, R189: what the fabric, its links and the expander ports do to
the package: an access of another endpoint is performed at its home; an acknowledgement ends its request; a fence or a timeout ends what
has no reply; flits are taken in sequence, resent and retrained for. -/
def Obligations.FabricEvents : Prop :=
  ∀ (s : State),
    (∀ src, s.endpoint src = true →
      let home := fun (off n : Nat) => s.start.ready = true ∧ s.fencedAt off = false ∧ off + n ≤ 2 ^ 38 ∧ 0 < n
      let done := fun (st : Nat) (bs : Bytes) => ({ s with completion := (st, bs) } : State)
      (∀ off n, home off n → exec (.remoteRequest src (.load off n)) s = .next (done 0 (s.readLocal off n)))
      ∧ (∀ off data, home off data.length → ∃ t, exec (.remoteRequest src (.store off data)) s = .next t
        ∧ OnlyStores { done 0 [] with poison := t.poison } t
        ∧ ∀ q, t.byte q = if off ≤ q ∧ q < off + data.length then nth 0 data (q - off) else s.byte q)
      ∧ (∀ off b, home off 8 → let old := leNat (s.readLocal off 8)
        ∃ t, exec (.remoteRequest src (.atomic off 0x90 64 false b)) s = .next t ∧ OnlyStores (done 0 (leBytes 8 old)) t
          ∧ ∀ q, t.byte q = if off ≤ q ∧ q < off + 8 then nth 0 (leBytes 8 (old + b)) (q - off) else s.byte q)
      ∧ (∀ off n, off < 2 ^ 38 → s.start.ready = true → s.fencedAt off = true → exec (.remoteRequest src (.load off n)) s = .next (done 0x10 []))
      ∧ (∀ off n, off < 2 ^ 32 → n ≠ 4 → n ≠ 8 → exec (.remoteRequest src (.load (0x0030000000000000 + off) n)) s =
        .next { done 2 (List.replicate n 0) with hostStatus := 2 }))
    ∧ (∀ src a, s.start.ready = true → s.endpoint src = false → exec (.remoteRequest src a) s = .next s)
    ∧ (∀ src off n, off < 2 ^ 38 → s.start.ready = false →
      exec (.remoteRequest src (.load off n)) s = .next ({ s with completion := (1, []) } : State))
    ∧ (∀ (q : RemoteReq) (data : Bytes), q ∈ s.remote → (∀ r ∈ s.remote, r.id = q.id → r = q) →
      (q.sent = false → ∀ st, exec (.remoteAcknowledgement q.id { status := st, data := data }) s = .next s)
      ∧ (q.sent = true → (∀ ctx task reply, q.kind = .notify ctx task reply → s.now < q.since + 2000000) →
        (∀ o, s.op? q.opId = some o → o.failed = []) → ∃ t, exec (.remoteAcknowledgement q.id { status := 0, data := data }) s = .next t ∧ t.remote = s.remote.filter (fun r => r.id != q.id) ∧ t.mem = s.mem
        ∧ { t with remote := s.remote, ops := s.ops, tasks := s.tasks } = s
        ∧ (q.kind = .load → ∀ o, s.op? q.opId = some o → ∃ p, t.op? q.opId = some p ∧ p.remote = o.remote.filter (· != q.id)
          ∧ ∀ f u b, q.dest = some (u, b) → o.fill = some f → ∃ h, p.fill = some h ∧ ∀ k,
            h.data.get 0 k = if 64 * u + b ≤ k ∧ k < 64 * u + b + data.length then nth 0 data (k - (64 * u + b)) else f.data.get 0 k)
        ∧ (∀ ctx task reply, q.kind = .notify ctx task reply → ∀ k, s.task? task = some k → ∃ y, t.task? task = some y ∧ y = { k with notified := true }))
      ∧ (q.sent = true → q.kind = .store → ∀ o st, s.op? q.opId = some o → o.isLoad = false → o.engine = false → o.node = none → st ≠ 0 →
        ∃ t m, exec (.remoteAcknowledgement q.id { status := st, data := data }) s = .next t ∧ t.remote = s.remote.filter (fun r => r.id != q.id)
          ∧ t.imprecise = s.imprecise ++ [m] ∧ m.code = 0x10 ∧ m.wave = o.wave ∧ m.path = o.path ∧ m.pc = o.pc ∧ m.addr = q.va))
    ∧ (∀ (o : PendingOp) (id port : Nat), s.op? id = some o → (∃ x ∈ o.cxl, x.port = port) →
      (o.failed = [] → exec (.cxlCompletion id { port := port, outcome := .done }) s = .next (s.mapOp id fun x => { x with cxl := x.cxl.filter fun y => y.port != port }))
      ∧ (o.isLoad = false → o.engine = false → o.node = none → ∃ t m, exec (.cxlCompletion id { port := port, outcome := .failed }) s = .next t
        ∧ t.imprecise = s.imprecise ++ [m] ∧ m.code = 0x10 ∧ m.wave = o.wave ∧ m.path = o.path ∧ m.pc = o.pc ∧ ∃ x ∈ o.cxl, x.port = port ∧ m.addr = x.va)
      ∧ (∀ f, o.failed = [] → o.isLoad = true → o.fill = some f → f.vector = true → ∃ t p h, exec (.cxlCompletion id { port := port, outcome := .poisoned }) s = .next t
        ∧ t.op? id = some p ∧ p.cxl = o.cxl.filter (fun y => y.port != port) ∧ p.fill = some h ∧ h.data = f.data
        ∧ ∀ x ∈ o.cxl, x.port = port → x.lane ∈ h.poison))
    ∧ (∀ p, p < 4 → p < s.ports.length → let x := nth ({} : CxlPort) s.ports p
      (∃ t, exec (.cxlPortFence p) s = .next t ∧ (nth ({} : CxlPort) t.ports p).fenced = true
        ∧ (nth ({} : CxlPort) t.ports p).up = false ∧ (∀ k, k ≠ p → nth ({} : CxlPort) t.ports k = nth {} s.ports k) ∧ t.mem = s.mem)
      ∧ (x.up = true → exec (.retrainRequest (12 + p)) s = .next { s with ports := setNth s.ports p { x with retrains := min (x.retrains + 1) 0xFFF } }
        ∧ ∀ k, exec (.flitResendRequest (12 + p) k) s = .next { s with ports := setNth s.ports p { x with retries := min (x.retries + k) 0xFFFF } }))
    ∧ (∀ n, n < 12 → n < s.links.length → let l := nth ({} : Link) s.links n
      let becomes := fun (i : Instr) (x : Link) => exec i s = .next { s with links := setNth s.links n x }
      let want := (l.recvSeq + 1) % 4096
      let good := fun (flit : Bytes) => flit.length = 128 ∧ fieldAt flit 124 4 = crc32c (flit.take 124)
      let seq := fun (flit : Bytes) => fieldAt flit 0 2 % 4096
      (l.up = false → ∀ flit, becomes (.transactionFlit n flit) l)
      ∧ (l.up = true → l.waiting = [] → ∀ flit, good flit → seq flit = want → fieldAt flit 0 2 / 4096 = 0 ∨ 4 ≤ fieldAt flit 0 2 / 4096 →
        ∃ x, becomes (.transactionFlit n flit) x ∧ x.recvSeq = want ∧ x.crcFails = 0 ∧ x.lastValid = s.now ∧ x.up = true ∧ x.resend = none
          ∧ ∀ f, f ∈ x.retry ↔ f ∈ l.retry ∧ 2048 ≤ (fieldAt flit 2 2 % 4096 + 4096 - f.seq) % 4096)
      ∧ (l.up = true → ∀ flit, good flit → seq flit ≠ want → becomes (.transactionFlit n flit) { l with
          crcFails := 0, lastValid := s.now
          resend := if (seq flit + 4096 - want) % 4096 < 2048 then some want else l.resend })
      ∧ (l.up = true → ∀ flit, ¬good flit → let y := { l with resend := some want }
        becomes (.transactionFlit n flit) (if 15 ≤ l.crcFails then retrained y s.now else { y with crcFails := l.crcFails + 1 }))
      ∧ (l.up = true → l.waiting = [] → l.retry.length < 512 → ∃ f x, becomes (.idleFlit n) x ∧ x.sendSeq = (l.sendSeq + 1) % 4096
        ∧ x.lastSent = s.now ∧ good x.out ∧ fieldAt x.out 0 2 = (l.sendSeq + 1) % 4096 ∧ x.retry = l.retry ++ [f] ∧ f.seq = (l.sendSeq + 1) % 4096)
      ∧ (l.up = false ∨ 512 ≤ l.retry.length → becomes (.idleFlit n) l)
      ∧ (∀ k, let again := l.retry.filter fun f => decide ((f.seq + 4096 - k % 4096) % 4096 < 2048)
        (l.up = true → again ≠ [] → ∃ out, becomes (.flitResendRequest n k) { l with
          retries := min (l.retries + again.length) 0xFFFF, lastSent := s.now, out := out })
        ∧ (l.up = false ∨ again = [] → becomes (.flitResendRequest n k) l))
      ∧ becomes (.retrainRequest n) (retrained l s.now)
      ∧ (l.up = true → l.lastValid + 20000 ≤ s.now → becomes (.linkIdleTimeout n) (retrained l s.now))
      ∧ (∀ since, l.retraining = some since → s.now < since + 200000 → l.waiting = [] →
        becomes (.retrainComplete n) { l with up := true, retraining := none, lastValid := s.now })
      ∧ (∀ since, l.retraining = some since → since + 200000 ≤ s.now → ∃ t, exec .retrainTimeout s = .next t
        ∧ (nth ({} : Link) t.links n).fenced = true ∧ (nth ({} : Link) t.links n).up = false ∧ ∀ k, bitOf (t.routes.get 0 k) n = false)
      ∧ (∃ t, exec (.fenceNotice (.link s.ownId n)) s = .next t ∧ (nth ({} : Link) t.links n).fenced = true
        ∧ (nth ({} : Link) t.links n).up = false ∧ ∀ k, bitOf (t.routes.get 0 k) n = false))
    ∧ (∀ pkg d, pkg ≠ s.ownId → s.remote = [] →
      (pkg ∉ s.fencedPkgs → exec (.fenceNotice (.package pkg)) s = .next { s with fencedPkgs := s.fencedPkgs ++ [pkg], routes := s.routes.set 0 pkg 0 })
      ∧ ((pkg, d) ∉ s.fencedRemoteDies → exec (.fenceNotice (.die pkg d)) s = .next { s with fencedRemoteDies := s.fencedRemoteDies ++ [(pkg, d)] })
      ∧ ((pkg, d) ∉ s.fencedRemoteLinks → exec (.fenceNotice (.link pkg d)) s = .next { s with fencedRemoteLinks := s.fencedRemoteLinks ++ [(pkg, d)] }))
    ∧ (∀ q, s.remote = [q] → q.sent = true → q.since + 2000000 ≤ s.now →
      (q.pkg ∉ s.fencedPkgs → ∃ t, exec .requestTimeout s = .next t ∧ t.fencedPkgs = s.fencedPkgs ++ [q.pkg] ∧ t.remote = [])
      ∧ (∀ ctx task reply, q.kind = .notify ctx task reply → ∃ t, exec .notifyTimeout s = .next t ∧ t.remote = []
        ∧ t.notifyLost.get 0 ctx = min (s.notifyLost.get 0 ctx + 1) (2 ^ 64 - 1) ∧ ∀ k, s.task? task = some k → t.task? task = some { k with notified := true }))

namespace Sys2Proof.Claims

/-! ### Packets and contexts (R45–R57, R61–R63, R66–R69) -/

/-- The staging areas of a window whose last write is less than 1 ms old (R47). -/
def liveAreas (s : State) (win : Nat) : List Staging := (s.staging.get [] win).filter fun a => decide (s.now < a.last + 1000000)

/-- The 256 bytes that an endpoint has staged in a window (R47): zero where nothing was written. -/
def stagedBytes (s : State) (ep win : Nat) : Nat → Byte := fun i =>
  match (liveAreas s win).find? (·.ep == ep) with
  | some a => a.bytes.get 0 i
  | none => 0

/-- A staged packet of `n` bytes: its type, flags, context, tag, notify address and body (R50). -/
structure Packed (s : State) (ep win n : Nat) (ty ctx tag : Nat) (note : Option DWord) (ordered : Bool) (body : Bytes) : Prop where
  bytes : ∃ raw : Bytes, raw.length = 256 ∧ (∀ i, i < 256 → nth 0 raw i = stagedBytes s ep win i) ∧ body = (raw.take n).drop 32
    ∧ fieldAt raw 0 1 = ty ∧ fieldAt raw 2 1 = ctx ∧ fieldAt raw 3 1 = 0 ∧ fieldAt raw 4 2 = n - 32 ∧ fieldAt raw 6 2 = tag ∧ fieldAt raw 0x10 16 = 0
    ∧ fieldAt raw 1 1 = note.isSome.toNat + 2 * ordered.toNat
    ∧ fieldAt raw 8 8 = (match note with
      | some a => a.toNat
      | none => 0)
  context : ctx < 64
  note : ∀ a, note = some a → a.toNat ≠ 0 ∧ a.toNat % 32 = 0
  ready : s.start.ready = true
  /-- no area of this window has passed its time -/
  live : s.staging.get [] win = liveAreas s win

/-- The state as a commit leaves it: the endpoint's area is free, and the access was accepted (R46 to R48). -/
def committed (s : State) (ep win : Nat) : State :=
  { s with staging := s.staging.set [] win ((s.staging.get [] win).filter (·.ep != ep)), hostStatus := 0 }

/-- A packet of the body's size, type and kind of window enters queue `win`. -/
def Enters (s : State) (i : Instr) (ep win ctx tag ty : Nat) (note : Option DWord) (ordered : Bool) (body : Bytes) : Prop :=
  exec i s = .next ((committed s ep win).setQueue win { s.queue win with
    pending := (s.queue win).pending ++ [{ kind := ty, ctx := ctx, tag := tag, notify := note, ordered := ordered, body := body }] })

/-- A control packet is performed, and leaves `u` of the contexts and queues; its record follows at once (R61). -/
def Performs (s : State) (i : Instr) (ep win : Nat) (u : State) : Prop :=
  exec i s = .next { u with staging := (committed s ep win).staging, hostStatus := 0 }

end Sys2Proof.Claims

/-- R45 to R57, R60: staging writes take or find the endpoint's area, and the ninth endpoint is refused; areas 1 ms old are freed;
a legal SIGNAL, WAIT, GRAPH or LAUNCH of a bound queue with room enters its queue, a LAUNCH with the next task id; a SIGNAL
to a queue that is not bound to its context is DENIED, and to a full queue QUEUE_FULL. -/
def Obligations.QueuePackets : Prop :=
  ∀ (s : State) (ep win : Nat),
    (∀ off (data : Bytes), (s.staging.map (·.1)).Nodup → let n := data.length
      let l := liveAreas s win
      let at_ := fun (st : Nat) => ∃ t, exec (.stagingWrite ep win off data) s = .next t ∧ t.hostStatus = st ∧ { t with staging := s.staging, hostStatus := s.hostStatus } = s
        ∧ (∀ w, w ≠ win → liveAreas t w = liveAreas s w)
        ∧ (st ≠ 0 → ∀ e i, stagedBytes t e win i = stagedBytes s e win i)
        ∧ (st = 0 → ∀ e i, stagedBytes t e win i = if e = ep ∧ off ≤ i ∧ i < off + n then nth 0 data (i - off) else stagedBytes s e win i)
      (s.start.ready = false → at_ 1)
      ∧ (s.start.ready = true → (64 < win ∨ n < 8 ∨ 64 < n ∨ n % 8 ≠ 0 ∨ off % 8 ≠ 0 ∨ 0x100 < off + n) → at_ 2)
      ∧ (s.start.ready = true → win ≤ 64 → 8 ≤ n → n ≤ 64 → n % 8 = 0 → off % 8 = 0 → off + n ≤ 0x100 →
        ((∃ a ∈ l, a.ep = ep) ∨ l.length < 8 → at_ 0) ∧ ((∀ a ∈ l, a.ep ≠ ep) → 8 ≤ l.length → at_ 1)))
    ∧ (∃ t, exec .stagingAreaTimeout s = .next t ∧ { t with staging := s.staging } = s
      ∧ ((s.staging.map (·.1)).Nodup → ∀ w, t.staging.get [] w = liveAreas s w))
    ∧ (∀ ctx tag note ordered body (c : Context), win < 64 → s.ctx? ctx = some c → c.owner = ep ∨ Privileged s ep → (s.queue win).bound = some ctx →
      (s.queue win).pending.length < 64 → (s.staging.map (·.1)).Nodup →
      let f := fieldAt body
      (Packed s ep win 48 3 ctx tag note ordered body → f 0 2 < 16 → f 2 1 < 2 → f 3 13 = 0 → Enters s (.hostSignal ep win 48) ep win ctx tag 3 note ordered body)
      ∧ (Packed s ep win 64 4 ctx tag note ordered body → f 0 2 < 16 → f 2 6 = 0 → f 0x18 8 = 0 → Enters s (.hostWait ep win 64) ep win ctx tag 4 note ordered body)
      ∧ (Packed s ep win 64 2 ctx tag note ordered body → f 0 8 % 32 = 0 → 1 ≤ f 8 4 → f 8 4 ≤ 2 ^ 20 → 1 ≤ f 12 4 → f 12 4 ≤ f 8 4 → f 16 8 % 4 = 0 →
        f 24 8 = 0 → Enters s (.hostGraph ep win 64) ep win ctx tag 2 note ordered body)
      ∧ (Packed s ep win 160 1 ctx tag note ordered body → s.launchLegal body = true → f 0x60 2 ≤ c.quotaCluster →
        ∃ t p, exec (.hostLaunch ep win 160) s = .next t ∧ t.hostStatus = 0 ∧ (t.queue win).pending = (s.queue win).pending ++ [p]
          ∧ p.kind = 1 ∧ p.ctx = ctx ∧ p.tag = tag ∧ p.notify = note ∧ p.ordered = ordered ∧ p.body = body ∧ p.limits = c.limits
          ∧ p.cls = max (f 0x1F 1) (s.queue win).cls ∧ p.quota = c.quotaPackage
          ∧ (s.nextTask ≠ 0 → (∀ k ∈ s.tasks, k.id ≠ s.nextTask) → (∀ d ∈ s.dirs, d.task ≠ s.nextTask) →
            (∀ q ∈ s.queues, ∀ r ∈ q.2.pending, r.taskId ≠ s.nextTask) → p.taskId = s.nextTask ∧ t.nextTask = (s.nextTask + 1) % 2 ^ 32)
          ∧ (∀ r, r ≠ win → t.queue r = s.queue r) ∧ t.mem = s.mem ∧ t.tasks = s.tasks)
      ∧ (Packed s ep win 160 1 ctx tag note ordered body → s.launchLegal body = true → c.quotaCluster < f 0x60 2 →
        exec (.hostLaunch ep win 160) s = .next { committed s ep win with hostStatus := 5 }))
    ∧ (∀ ctx tag note ordered body (c : Context), win < 64 → s.ctx? ctx = some c → c.owner = ep → (s.staging.map (·.1)).Nodup →
      Packed s ep win 48 3 ctx tag note ordered body → fieldAt body 0 2 < 16 → fieldAt body 2 1 < 2 → fieldAt body 3 13 = 0 →
      ((s.queue win).bound ≠ some ctx → exec (.hostSignal ep win 48) s = .next { committed s ep win with hostStatus := 3 })
      ∧ ((s.queue win).bound = some ctx → 64 ≤ (s.queue win).pending.length →
        exec (.hostSignal ep win 48) s = .next { committed s ep win with hostStatus := 1 }))

/-- R61, R66 to R69: CREATE makes a context with zero quotas and timelines at 0; BIND and UNBIND tie and release a queue; QUOTA and
LIMITS set their fields; DESTROY of an idle context removes it and unbinds its queues; a host that is not privileged is DENIED
BIND's queue of another context, QUOTA and LIMITS. Packets without a notify record. -/
def Obligations.ContextPackets : Prop :=
  ∀ (s : State) (ep : Nat) (ctx tag : Nat) (ordered : Bool) (body : Bytes), (s.staging.map (·.1)).Nodup →
    let f := fieldAt body
    let packet := fun (n ty : Nat) => Packed s ep 64 n ty ctx tag none ordered body
    let denied := fun (i : Instr) => exec i s = .next { committed s ep 64 with hostStatus := 3 }
    (packet 64 5 → Privileged s ep → f 0 1 = 1 → f 1 3 = 0 → f 4 2 < 1024 → f 6 1 < 4 → f 7 1 = 0 → f 0x0C 4 = 0 → f 0x10 8 % 4096 = 0 → f 0x18 8 = 0 →
      s.ctx? ctx = none → ∃ y, Performs s (.create ep 64 64) ep 64 { s with contexts := s.contexts.set none ctx (some y), notifyLost := s.notifyLost.set 0 ctx 0 }
        ∧ y.owner = f 4 2 ∧ y.tenant = f 8 4 ∧ y.debuggable = bitOf (f 6 1) 0 ∧ y.retain = bitOf (f 6 1) 1 ∧ y.root = BitVec.ofNat 64 (f 0x10 8)
        ∧ y.quotaCluster = 0 ∧ y.quotaPackage = 0 ∧ y.limits = {} ∧ y.ingots = [] ∧ y.timelines = List.replicate 16 {} ∧ y.session = none)
    ∧ (∀ c, s.ctx? ctx = some c →
      (∀ q k w, packet 64 5 → f 0 1 = 3 → f 1 1 = q → f 2 1 = k → f 3 1 = w → q < 64 → k < 4 → f 4 28 = 0 →
        (Privileged s ep → (s.queue q).bound = none ∨ (s.queue q).bound = some ctx →
          Performs s (.bindQueue ep 64 64) ep 64 (s.setQueue q { s.queue q with
            bound := some ctx, cls := k, weight := w, boundAt := if (s.queue q).bound = none then s.now else (s.queue q).boundAt }))
        ∧ (∀ d, (s.queue q).bound = some d → d ≠ ctx → denied (.bindQueue ep 64 64)))
      ∧ (∀ q, packet 64 5 → Privileged s ep → f 0 1 = 4 → f 1 1 = q → q < 64 → f 2 30 = 0 → (s.queue q).bound = some ctx → (s.queue q).pending = [] →
        Performs s (.unbindQueue ep 64 64) ep 64 (s.setQueue q { s.queue q with bound := none, cls := 0, weight := 0, charge := 0 }))
      ∧ (packet 64 5 → Privileged s ep → f 0 1 = 2 → f 1 31 = 0 → (∀ k ∈ s.tasks, k.ctx ≠ ctx ∨ k.status ≠ 0) → c.ingots = [] →
        (∀ q, q < 64 → (s.queue q).bound = some ctx → (s.queue q).pending = [] ∧ (s.queue q).waiting = none ∧ (s.queue q).graph = none) →
        ∃ t, exec (.destroy ep 64 64) s = .next t ∧ t.hostStatus = 0 ∧ t.ctx? ctx = none ∧ (∀ d, d ≠ ctx → t.ctx? d = s.ctx? d)
          ∧ (∀ q, q < 64 → (t.queue q).bound = if (s.queue q).bound = some ctx then none else (s.queue q).bound) ∧ t.mem = s.mem
          ∧ (∀ d, d ∈ t.dirs ↔ d ∈ s.dirs ∧ d.ctx ≠ ctx))
      ∧ (packet 48 6 → f 0 2 ≤ 1024 → f 2 2 = 0 → f 4 4 ≤ 131072 → f 8 8 = 0 →
        (Privileged s ep → Performs s (.quota ep 64 48) ep 64 (s.setCtx ctx (some { c with quotaCluster := f 0 2, quotaPackage := f 4 4 })))
        ∧ (¬Privileged s ep → denied (.quota ep 64 48)))
      ∧ (packet 64 7 → f 0 1 < 8 → f 1 7 = 0 → f 24 8 = 0 →
        let lim : Limits := { side := bitOf (f 0 1) 0, lower := bitOf (f 0 1) 1, carry := bitOf (f 0 1) 2, timeNs := f 8 8, energyUj := f 0x10 8 }
        (Privileged s ep → Performs s (.limits ep 64 64) ep 64 (s.setCtx ctx (some { c with limits := lim })))
        ∧ (¬Privileged s ep → denied (.limits ep 64 64))))

namespace Sys2Proof.Claims

/-! ### The debug monitor (R70, R263–R273, R462) -/

/-- Bytes of a message's payload that its type names (R267); the others are reserved. -/
def namedPayload (ty i : Nat) : Prop :=
  (ty = 2 ∧ i = 0) ∨ (ty = 4 ∧ i < 3) ∨ (ty = 5 ∧ (i < 3 ∨ (8 ≤ i ∧ i < 40))) ∨ (ty = 6 ∧ i < 9)
    ∨ (ty = 7 ∧ (i < 2 ∨ (8 ≤ i ∧ i < 16))) ∨ (ty = 8 ∧ i < 16) ∨ (ty = 9 ∧ i < 9)

/-- A MAILBOX packet of message type `ty` of context `ctx` is staged in the control window by an endpoint that may send it; no
other message is in service, and the reply goes to the package's own DRAM at `off` (R49, R70). -/
structure Mailed (s : State) (ep ctx : Nat) (c : Context) (m : Bytes) (ty off : Nat) : Prop where
  packet : ∃ tag note ordered, Packed s ep 64 96 8 ctx tag (some note) ordered m ∧ note.toNat % 64 = 0 ∧ s.reach true true note.toNat = .ok (.mem off)
  areas : (s.staging.map (·.1)).Nodup
  context : s.ctx? ctx = some c
  sender : c.owner = ep ∨ Privileged s ep
  idle : c.mailbox = []
  type : byteAt m 0 = ty
  place : off + 64 ≤ 2 ^ 38

/-- The message holds no reserved value (R266, R267). -/
structure Sound (m : Bytes) : Prop where
  status : byteAt m 2 = 0
  scope : byteAt m 3 ≤ 4
  reserved : byteAt m 0x0F = 0
  payload : ∀ i, i < 48 → ¬namedPayload (byteAt m 0) i → byteAt m (0x10 + i) = 0

/-- The monitor serves a context (R273). -/
def Serves (s : State) (c : Context) : Prop :=
  s.start.lifecycle = 1 ∨ c.debuggable = true ∨ (s.security.tokenActive = true ∧ s.security.tokenMask % 2 = 1)

/-- The event answers the message with a status and a payload of which `bytes` holds, leaving state `t` (R70, R266). -/
def Replies (s : State) (i : Instr) (m : Bytes) (off st : Nat) (t : State) (payload : Bytes → Prop) : Prop :=
  exec i s = .next t ∧ t.hostStatus = 0
    ∧ let r := t.readLocal off 64
      byteAt r 0 = byteAt m 0 + 0x80 ∧ byteAt r 1 = byteAt m 1 ∧ byteAt r 2 = st ∧ (r.drop 3).take 13 = (m.drop 3).take 13 ∧ payload (r.drop 16)

/-- The message names task `g.task`, of context `ctx` and running, and its gang `g`, which is not retired (R266). -/
structure NamesGang (s : State) (ctx : Nat) (m : Bytes) (g : Gang) (k : Task) : Prop where
  task : s.task? g.task = some k
  ctx : k.ctx = ctx ∧ k.status = 0
  only : (s.gangs.filter fun h => h.task == g.task && h.index == g.index) = [g]
  live : g.state ≠ .retired
  id : fieldAt m 4 4 = g.task ∧ fieldAt m 8 4 = g.index

/-- The message of scope 0 names path `p` of wave `i` of gang `g`. -/
structure NamesPath (s : State) (ctx : Nat) (m : Bytes) (g : Gang) (k : Task) (i p : Nat) : Prop where
  gang : NamesGang s ctx m g k
  scope : byteAt m 3 = 0
  group : byteAt m 0x0C = i / max k.waves 1
  slot : byteAt m 0x0D = nth 0 g.slots i ∧ nth 0 g.slots i < 0x80
  path : byteAt m 0x0E = p ∧ p < 8
  wave : i < g.waves.length
  one : ∀ j, j < g.waves.length → j / max k.waves 1 = i / max k.waves 1 → nth 0 g.slots j = nth 0 g.slots i → j = i
  used : ((nth ({} : Wave) g.waves i).path p).state ≠ .free

end Sys2Proof.Claims

/-- R70, R263, R264, R266 to R269, R273, R462, R464: the reply of each monitor message and what it does: OPEN and CLOSE the session; HALT,
RESUME and STEP the named gang or path; READREG of vector and scalar registers, WRITEREG of vector registers and READMEM; SETBP sets a slot; DUMP with room for the
header alone ends truncated, and answers once no write of it is open; BAD_MESSAGE, REFUSED, NO_SESSION, NO_TARGET and NOT_HALTED otherwise. -/
def Obligations.MonitorMessages : Prop :=
  ∀ (s : State) (ep ctx : Nat) (c : Context) (m : Bytes) (ty off : Nat), Mailed s ep ctx c m ty off →
    let event := fun (n : Nat) => match n with
      | 1 => Instr.monHalt ep 64 96
      | 2 => Instr.monResume ep 64 96
      | 3 => Instr.monStep ep 64 96
      | 4 => Instr.monReadreg ep 64 96
      | 5 => Instr.monWritereg ep 64 96
      | 6 => Instr.monReadmem ep 64 96
      | 7 => Instr.monSetbp ep 64 96
      | 8 => Instr.monDump ep 64 96
      | 9 => Instr.monOpen ep 64 96
      | _ => Instr.monClose ep 64 96
    let answer := fun (st : Nat) (t : State) (pay : Bytes → Prop) => Replies s (event ty) m off st t pay
    let empty := fun (b : Bytes) => b = List.replicate 48 0
    let pay := m.drop 16
    let context := fun (t : State) (f : Context → Prop) => ∃ y, t.ctx? ctx = some y ∧ y.mailbox = [] ∧ f y
    (1 ≤ ty → ty ≤ 10 → ¬Sound m → ∃ t, answer 1 t empty ∧ t.gangs = s.gangs)
    ∧ (Sound m →
      (ty = 9 → fieldAt pay 0 8 % 64 = 0 → 2 ≤ byteAt pay 8 → ∃ t, answer 0 t empty
        ∧ context t (fun y => y.session = some { ring := BitVec.ofNat 64 (fieldAt pay 0 8), entries := byteAt pay 8, seq := 1 }))
      ∧ (ty = 10 → ∃ t, answer (if c.session = none then 6 else 0) t empty ∧ context t (·.session = none))
      ∧ (1 ≤ ty → ty = 1 ∨ ty = 3 ∨ (ty = 6 ∧ 1 ≤ byteAt pay 8 ∧ byteAt pay 8 ≤ 32) → ¬Serves s c → ∃ t, answer 3 t empty ∧ t.gangs = s.gangs)
      ∧ (Serves s c → c.session = none → ty = 1 ∨ ty = 3 → ∃ t, answer 6 t empty ∧ t.gangs = s.gangs)
      ∧ (Serves s c → c.session ≠ none →
        (ty = 6 → 1 ≤ byteAt pay 8 → byteAt pay 8 ≤ 32 →
          (∀ sp o, s.span { ctx := ctx } .load (fieldAt pay 0 8) (byteAt pay 8) = .ok sp → sp.parts = [(.mem o, byteAt pay 8)] → o < 2 ^ 40 →
            ∃ t, answer 0 t (fun b => b.take 33 = (s.readLocal o (byteAt pay 8) ++ List.replicate 48 0).take 33))
          ∧ (∀ code, s.span { ctx := ctx } .load (fieldAt pay 0 8) (byteAt pay 8) = .error code → ∃ t, answer 5 t (fun b => byteAt b 32 = code % 256)))
        ∧ (ty = 7 → byteAt pay 0 < 8 → byteAt pay 1 < 2 → fieldAt pay 8 8 % 4 = 0 → ∃ t, answer 0 t empty ∧ context t (fun y =>
          y.breaks.get 0 (byteAt pay 0) = (if byteAt pay 1 = 1 then BitVec.ofNat 64 (fieldAt pay 8 8) else 0)
          ∧ ∀ j, j ≠ byteAt pay 0 → y.breaks.get 0 j = c.breaks.get 0 j))
        ∧ (ty = 1 ∨ ty = 3 → s.task? (fieldAt m 4 4) = none → ∃ t, answer 2 t empty ∧ t.gangs = s.gangs)
        ∧ (∀ g k, NamesGang s ctx m g k → byteAt m 3 = 3 →
          (ty = 1 → ∃ t h, answer 0 t (fun b => fieldAt b 0 4 = ((g.waves ++ [g.caster]).map fun w =>
              ((List.range 8).filter fun p => (w.path p).state != .free && (w.path p).state != .halted).length).sum % 2 ^ 32)
            ∧ t.gang? g.task g.index = some h ∧ h.halted = true ∧ ∀ w ∈ h.caster :: h.waves, ∀ p ∈ w.paths, p.state = .free ∨ p.state = .halted)
          ∧ (ty = 2 → byteAt pay 0 = 0xFF ∨ (byteAt pay 0 ≤ 6 ∧ g.held = []) → ∃ t h, answer 0 t empty ∧ t.gang? g.task g.index = some h ∧ h.halted = false
            ∧ ∀ i p, let y := (nth ({} : Wave) g.waves i).path p
              ((nth ({} : Wave) h.waves i).path p).state = if y.state = .halted then y.haltedFrom else y.state))
        ∧ (∀ g k i p, NamesPath s ctx m g k i p → let w := nth ({} : Wave) g.waves i
          let ref := WaveRef.user g.task g.index i
          (ty = 3 ∨ (ty = 4 ∧ byteAt pay 0 ≤ 5) ∨ (ty = 8 ∧ fieldAt pay 0 8 % 8 = 0) → (w.path p).state ≠ .halted → ∃ t, answer 4 t empty ∧ t.gangs = s.gangs)
          ∧ ((w.path p).state = .halted →
            (ty = 3 → ∃ t w', exec (event ty) s = .next t ∧ t.hostStatus = 0 ∧ t.wave? ref = some w' ∧ onlyPaths w w'
              ∧ (p < w.paths.length → (w'.path p).state = .run ∧ (w'.path p).stepping = true ∧ (w'.path p).pc = (w.path p).pc) ∧ t.mem = s.mem)
            ∧ (∀ reg first, ty = 4 → byteAt pay 1 = reg → byteAt pay 2 = first →
              (byteAt pay 0 = 0 → reg < 16 * k.blocks → first < 32 → ∃ t, answer 0 t (fun b => ∀ j, j < 8 → first + j < 32 →
                fieldAt b (4 * j) 4 = (w.getV reg (first + j)).bits.toNat ∧ bitOf (byteAt b 47) j = (w.getV reg (first + j)).poison) ∧ t.gangs = s.gangs)
              ∧ (byteAt pay 0 = 1 → reg < 48 → first < 8 → ∃ t, answer 0 t (fun b => ∀ j, j < 8 → first + j < 8 →
                fieldAt b (4 * j) 4 = (w.getS reg (first + j)).bits.toNat ∧ bitOf (byteAt b 47) j = (w.getS reg (first + j)).poison) ∧ t.gangs = s.gangs))
            ∧ (∀ reg first, ty = 5 → byteAt pay 1 = reg → byteAt pay 2 = first → byteAt pay 0 = 0 → reg < 16 * k.blocks → first < 32 →
              ∃ t w', answer 0 t empty ∧ t.wave? ref = some w' ∧ ∀ r L, L < 32 → w'.getV r L =
                if r = reg ∧ first ≤ L ∧ L < first + 8 then { bits := BitVec.ofNat 32 (fieldAt pay (8 + 4 * (L - first)) 4), poison := false } else w.getV r L)
            ∧ (∀ buf boff, ty = 8 → fieldAt pay 0 8 = buf → buf % 8 = 0 → fieldAt pay 8 8 = 64 → g.held = [] →
              (∀ q ∈ g.ladle, q.tl.fenced = true ∨ q.tl.taken ≤ q.tl.reached) →
              (∃ sp, s.span { ctx := ctx } .store buf 64 = .ok sp ∧ sp.parts = [(.mem boff, 64)]) →
              ∃ t, exec (event ty) s = .next t ∧ t.hostStatus = 0 ∧ t.gangs = s.gangs
                ∧ ((∀ r ∈ t.remote, r.opId ≠ s.nextId) → answer 0 t (fun b => fieldAt b 0 8 = 64 ∧ byteAt b 8 = 1 ∧ byteAt b 9 = 0)))))))

namespace Sys2Proof.Claims

/-! ### Queues, graphs, gangs and their placement (R51–R55, R79–R95, R105–R112) -/

/-- The state `t` is `s` but for queue `q`, which is now `x`. -/
def OnlyQueue (s t : State) (q : Nat) (x : Queue) : Prop :=
  { t with queues := s.queues } = s ∧ t.queue q = x ∧ ∀ r, r ≠ q → t.queue r = s.queue r

/-- Packet `p`, with no notify record, is at the head of queue `q` and may start (R51). -/
structure AtHead (s : State) (q : Nat) (p : Packet) (rest : List Packet) (c : Context) : Prop where
  place : q < 64
  pending : (s.queue q).pending = p :: rest
  idle : (s.queue q).waiting = none ∧ (s.queue q).graph = none
  order : p.ordered = true → (s.queue q).live = []
  context : s.ctx? p.ctx = some c
  quiet : p.notify = none
  timelines : c.timelines.length = 16
  /-- an ORDERED SIGNAL releases what the earlier packets performed (R53) -/
  signals : p.kind = 3 → p.ordered = true → s.queuePerformed q = true

/-- Packets that end without a record and without a graph node. -/
def Plain (l : List Packet) : Prop := ∀ p ∈ l, p.notify = none ∧ p.node = none ∧ fieldAt p.body 0x38 8 = 0

/-- Timeline `i` of context `c` becomes `x`; its other timelines and every other context are as they were. -/
def OnlyTimeline (s t : State) (c i : Nat) (x : Timeline) : Prop :=
  (∃ y z, s.ctx? c = some y ∧ t.ctx? c = some z ∧ { z with timelines := y.timelines } = y ∧ z.timelines.length = y.timelines.length
    ∧ nth ({} : Timeline) z.timelines i = x ∧ ∀ j, j ≠ i → nth ({} : Timeline) z.timelines j = nth ({} : Timeline) y.timelines j)
  ∧ ∀ d, d ≠ c → t.ctx? d = s.ctx? d

/-- Node `i` of the graph of queue `q` has the record `b`, well formed (R87); its STATUS byte lies at `off`. -/
structure NodeOf (s : State) (q : Nat) (g : Graph) (i : Nat) (b : Bytes) (off : Nat) : Prop where
  graph : (s.queue q).graph = some g
  record : s.runnerRead g.ctx (g.addr i) 32 = some b
  within : i < g.count
  kind : fieldAt b 2 1 ≤ 2
  succ : fieldAt b 4 4 ≤ 2 ^ 20 ∧ fieldAt b 8 8 % 4 = 0
  queue : fieldAt b 0x18 2 < 64 ∧ (fieldAt b 2 1 = 0 ∨ fieldAt b 0x18 2 = 0)
  flags : fieldAt b 0x1A 1 < 2 ∧ (fieldAt b 2 1 = 2 ∨ fieldAt b 0x1A 1 = 0)
  reserved : fieldAt b 0x1B 5 = 0
  status : ∃ sp, s.span (agentOf g.ctx) .store (g.addr i + 3) 1 = .ok sp ∧ sp.parts = [(.mem off, 1)]

/-- The nodes of a graph that have completed, node `i` among them (R55). -/
def doneWith (g : Graph) (i : Nat) : Nats := if i ∈ g.done then g.done else g.done ++ [i]

/-- Only the byte at `off` of memory changes, to `v`. -/
def OnlyByte (s t : State) (off v : Nat) : Prop := ∀ a, t.byte a = if a = off then BitVec.ofNat 8 v else s.byte a

end Sys2Proof.Claims

/-- R51, R53 to R55, R60, R78, R87 to R89, R92: the head packet's start: SIGNAL moves its timeline or resets it, WAIT completes or
holds the queue, LAUNCH makes its task record, GRAPH queues its entry node READY; a WAIT whose timeout is over abandons the packets
behind it; the runner starts the first READY node and settles one that has ended, or fails the graph. Packets without notify records. -/
def Obligations.RunnerEvents : Prop :=
  ∀ (s : State) (q : Nat),
    (∀ p rest c, AtHead s q p rest c → let f := fieldAt p.body
      let x := nth ({} : Timeline) c.timelines (f 0 2)
      let at_ := { s.queue q with pending := rest }
      (p.kind = 3 → f 0 2 < 16 → f 2 1 % 2 = 0 → ∃ t, exec (.packetStart q) s = .next t ∧ OnlyQueue { s with contexts := t.contexts } t q at_
        ∧ (x.fenced = true → t.contexts = s.contexts)
        ∧ (x.fenced = false → x.reached = x.taken → x.performed = [] → OnlyTimeline s t p.ctx (f 0 2) { x with taken := x.taken + 1, reached := x.taken + 1 }))
      ∧ (p.kind = 3 → f 0 2 < 16 → f 2 1 % 2 = 1 → (∀ r, r < 64 → (s.queue r).waiting = none) →
        ∃ t, exec (.packetStart q) s = .next t ∧ OnlyQueue { s with contexts := t.contexts, ops := t.ops } t q at_
          ∧ OnlyTimeline s t p.ctx (f 0 2) { resets := x.resets + 1 })
      ∧ (p.kind = 4 → ∃ t, exec (.packetStart q) s = .next t
        ∧ (x.fenced = false → f 8 8 ≤ x.reached → OnlyQueue s t q at_)
        ∧ (x.fenced = true → Plain rest → OnlyQueue s t q { at_ with pending := [] })
        ∧ (x.fenced = false → x.reached < f 8 8 → OnlyQueue s t q { at_ with waiting := some (p, s.now) }))
      ∧ (p.kind = 1 → (s.tasks.filter fun k => !k.notified).length < 1024 → f 0x1E 1 / 2 % 2 = 0 → f 0x30 2 = 0xFFFF →
        ∃ t k, exec (.packetStart q) s = .next t ∧ OnlyQueue { s with tasks := t.tasks, gangs := t.gangs } t q { at_ with live := (s.queue q).live ++ [p.taskId] }
          ∧ t.tasks = (s.tasks.filter fun y => y.id != p.taskId) ++ [k] ∧ (∀ g, g ∈ t.gangs ↔ g ∈ s.gangs ∧ g.task ≠ p.taskId)
          ∧ k.id = p.taskId ∧ k.ctx = p.ctx ∧ k.queue = q ∧ k.tag = p.tag ∧ k.packet = p.body ∧ k.limits = p.limits ∧ k.cls = p.cls ∧ k.quota = p.quota ∧ k.startedAt = s.now
          ∧ k.status = 0 ∧ k.nextGang = 0 ∧ k.firstIssue = none ∧ k.tlNumber = 0 ∧ k.node = p.node)
      ∧ (∀ bs i off, p.kind = 2 → f 12 4 = 1 → s.runnerRead p.ctx (f 16 8) 4 = some bs → leNat bs = i →
        let g : Graph := { packet := p, ctx := p.ctx, nodes := BitVec.ofNat 64 (f 0 8), count := f 8 4, ready := [i] }
        i < f 8 4 →
        (∃ sp, s.span (agentOf p.ctx) .store (g.addr i + 3) 1 = .ok sp ∧ sp.parts = [(.mem off, 1)]) →
        ∃ t, exec (.packetStart q) s = .next t ∧ t.queue q = { at_ with graph := some g } ∧ OnlyByte s t off 0x10))
    ∧ (∀ p t0 out, q < 64 → (s.queue q).waiting = some (p, t0) → fieldAt p.body 16 8 = out → p.notify = none → Plain (s.queue q).pending →
      (∀ r, r ≠ q → (s.queue r).waiting = none) → ∀ c x, s.ctx? p.ctx = some c → nth ({} : Timeline) c.timelines (fieldAt p.body 0 2) = x →
      x.fenced = false → ∃ t, exec .waitTimeout s = .next t ∧ OnlyQueue s t q (
        if fieldAt p.body 8 8 ≤ x.reached then { s.queue q with waiting := none }
        else if out ≠ 0 ∧ t0 + out ≤ s.now then { s.queue q with pending := [], waiting := none } else s.queue q))
    ∧ (∀ g i l b off, NodeOf s q g i b off → g.failed = none → g.ready = i :: l → (∀ x ∈ g.finished, x.1 ≠ i) → i ∉ g.signalHeld → i ∉ l →
      fieldAt b 2 1 = 2 → fieldAt b 0x1A 1 = 0 → (∃ pay, s.runnerRead g.ctx (fieldAt b 0x10 8) 8 = some pay ∧ fieldAt pay 0 2 = 0xFFFF ∧ fieldAt pay 2 6 = 0) →
      ∃ t, exec (.nodeStart q) s = .next t ∧ OnlyByte s t off 0x11
        ∧ (t.queue q).graph = some { g with ready := l, running := g.running ++ [i], finished := g.finished ++ [(i, 1)] })
    ∧ (∀ g i st b off, NodeOf s q g i b off → g.failed = none → g.finished = [(i, st)] → g.running = [i] → i ∉ g.ready → i ∉ g.signalHeld →
      fieldAt b 2 1 = 1 → fieldAt b 4 4 = 0 → g.packet.notify = none →
      ∃ t, exec (.nodeComplete q i) s = .next t
        ∧ (st = 1 ∨ st = 2 → OnlyByte s t off st ∧ (t.queue q).graph = (if (doneWith g i).length = g.count then none else
            some { g with finished := [], running := [], done := doneWith g i }))
        ∧ (st ≠ 1 → st ≠ 2 → g.ready = [] → OnlyByte s t off st ∧ (t.queue q).graph = none))
    ∧ (∀ g i b off bs j, NodeOf s q g i b off → g.failed = none → g.finished = [(i, 1)] → g.running = [i] → i ∉ g.ready → i ∉ g.signalHeld →
      fieldAt b 2 1 = 1 → fieldAt b 4 4 = 1 → s.runnerRead g.ctx (fieldAt b 8 8) 4 = some bs → leNat bs = j → j < g.count → (doneWith g i).length < g.count →
      let u := s.setNodeStatus q g i 1
      ∀ x, u.runnerRead g.ctx (g.addr j) 32 = some x →
        ∃ t, exec (.nodeComplete q i) s = .next t ∧ (t.queue q).graph =
          some { g with finished := [], running := [], done := doneWith g i, ready := if fieldAt x 0 2 = 1 then g.ready ++ [j] else g.ready })

namespace Sys2Proof.Claims

/-- No fault of a gang is undelivered or with a handler (R79). -/
def NoFault (s : State) (g : Gang) : Prop :=
  (∀ m ∈ s.imprecise, refGang m.wave ≠ some (g.task, g.index))
    ∧ ∀ c ∈ s.cores, ∀ r ∈ c.2.records, ∀ x, r.2 = some x → refGang x.wave ≠ some (g.task, g.index)

/-- A gang's work is over (R79): its waves and its caster thread have ended, its engines and operations are done, no fault of it is
undelivered or with a handler, and no ingot loads for it. -/
structure WorkOver (s : State) (g : Gang) : Prop where
  resident : g.state = .running ∨ g.state = .placing
  waves : ∀ w ∈ g.caster :: g.waves, w.liveSlices = []
  engines : (∀ q ∈ g.ladle, q.ops = []) ∧ g.seq = []
  ops : ∀ o ∈ s.ops, refGang o.wave ≠ some (g.task, g.index)
  faults : NoFault s g
  loads : ∀ c y, s.ctx? c = some y → ∀ x ∈ y.ingots, ∀ l, x.2.load = some l → ¬(l.1 = g.task ∧ l.2.1 = g.index)

/-- The only task is `k`, of one gang on an empty package, with resources that fit one cluster (R56, R83). -/
structure FirstGang (s : State) (k : Task) : Prop where
  only : s.tasks = [k] ∧ s.gangs = []
  started : k.status = 0 ∧ k.kill = none ∧ k.quench = none
  kind : k.persistent = false ∧ k.fillClass = false ∧ k.planes = 0
  gangs : k.nextGang = 0 ∧ 1 ≤ k.gangCount
  shape : 1 ≤ k.groups ∧ k.groups ≤ 4 ∧ 1 ≤ k.waves ∧ k.waves ≤ 16 ∧ 1 ≤ k.blocks ∧ k.blocks ≤ 12
  rest : k.scratch ≤ 4194304 ∧ k.tiles ≤ 32 ∧ k.banks ≤ 8

/-- A cluster takes new gangs (R83). -/
def Open (s : State) (c : Nat) : Prop :=
  c < 128 ∧ s.clusterMask.toNat.testBit c = true ∧ (s.die (c / 32)).fenced = false ∧ (s.cluster c).test.attempt = none ∧ (s.cluster c).test.running = none

/-- A gang has been stopped for good: it is RETIRED, or it will be with the status of a kill, and no lane of it is live. -/
def Stopped (g : Gang) : Prop := g.state = .retired ∨ (g.kill ≠ none ∧ ∀ w ∈ g.caster :: g.waves, ∀ x ∈ w.slices, x.ended = 0xF ∧ x.enabled = 0)

end Sys2Proof.Claims

/-- R79, R81, R83, R85, R59, R101, R105, R107: the first gang of a lone task is placed on the open cluster of the highest allowance,
the lowest on a tie, with every wave at the wave entry's first clause; a gang whose work is over retires, and a task with it; a task
unplaced for 10 ms is aged; a limit that is crossed starts the quench, which ends with every gang RETIRED and the open slot FREE; a
gang that runs 1 ms of an evacuation without a pre-emption point takes 0x80. -/
def Obligations.PlacementEvents : Prop :=
  ∀ (s : State),
    (∀ k c, FirstGang s k → Open s c → (∀ d, (s.cluster d).allow ≤ 255) →
      (∀ d, Open s d → d ≠ c → (s.cluster d).allow < (s.cluster c).allow ∨ ((s.cluster d).allow = (s.cluster c).allow ∧ c < d)) →
      ∃ t x, exec .gangPlacement s = .next t ∧ t.gangs = [x] ∧ x.task = k.id ∧ x.index = 0 ∧ x.cluster = c ∧ x.core0 = 0 ∧ x.thread = 0 ∧ x.state = .placing
        ∧ x.waves.length = k.groups * k.waves ∧ x.tiles = List.replicate k.tiles {} ∧ x.banks = List.replicate k.banks {} ∧ x.ladle.length = k.groups
        ∧ (∀ w ∈ x.waves, ∃ p, w.path 0 = p ∧ p.state = .run ∧ p.pc = BitVec.ofNat 64 (k.waveEntry + 8) ∧ p.active = 0xFFFFFFFF ∧ p.slices = 0xFF
          ∧ (∀ j, 0 < j → j < 8 → (w.path j).state = .free)
          ∧ ∀ i, i < 8 → (w.getS 0 i).bits = BitVec.ofNat 32 k.args ∧ (w.getS 1 i).bits = BitVec.ofNat 32 (k.args / 2 ^ 32) ∧ ∀ r, 1 < r → w.getS r i = {})
        ∧ t.tasks = [{ k with nextGang := 1, lastPlaced := s.now, aged := false }] ∧ t.mem = s.mem)
    ∧ (∀ g k, s.gang? g.task g.index = some g → s.task? g.task = some k → WorkOver s g →
      let st := match g.kill with
        | some x => x.1
        | none => if g.status = 0 then 1 else g.status
      ∃ t x, exec (.gangRetire g.task g.index) s = .next t ∧ t.gang? g.task g.index = some x ∧ x.state = .retired ∧ x.status = st
        ∧ x.tiles = List.replicate g.tiles.length {} ∧ x.banks = List.replicate g.banks.length {} ∧ x.scratch = [] ∧ x.tags = []
        ∧ (∀ h, h ∈ s.gangs → (h.task ≠ g.task ∨ h.index ≠ g.index) → h ∈ t.gangs)
        ∧ (k.status = 0 → k.kill = none → k.quench = none → k.gangCount = 1 → k.nextGang = 1 → (s.gangs.filter (·.task == g.task)) = [g] → k.notify = none →
          ∃ y, t.task? g.task = some y ∧ y.status = st ∧ y.notified = true))
    ∧ (∃ t, exec .ageing s = .next t ∧ { t with tasks := s.tasks } = s ∧ t.tasks.length = s.tasks.length
      ∧ ∀ (i : Nat) (k : Task), s.tasks[i]? = some k → t.tasks[i]? =
        some (if k.status = 0 ∧ k.lastPlaced + 10000000 ≤ s.now ∧ s.nextWaiting k ≠ none then { k with aged := true } else k))
    ∧ (∀ k lim, (s.gangs.map fun g => (g.task, g.index)).Nodup → NoCut s k.id → s.faultBefore k.id = none →
      s.tasks = [k] → k.status = 0 → k.anytime = true → k.timeLimit = lim → lim ≠ 0 → k.quench = none → ∀ t0, k.firstIssue = some t0 →
      ∃ t, exec .timeLimitCrossing s = .next t ∧ t.mem = s.mem
        ∧ if lim ≤ (s.now - t0) / 10 * 10 then t.tasks = [{ k with quench := some (2, 0) }] ∧ ∀ g ∈ t.gangs, g.task = k.id → Stopped g else t = s)
    ∧ (∀ n uj k, (s.gangs.map fun g => (g.task, g.index)).Nodup → NoCut s n → s.faultBefore n = none → s.task? n = some k → k.status = 0 →
      ∃ t, exec (.energySample n uj) s = .next t ∧ t.mem = s.mem ∧ (∀ m, m ≠ n → t.task? m = s.task? m)
      ∧ let crossed := k.anytime = true ∧ k.energyLimit ≠ 0 ∧ k.energyLimit ≤ k.energy + uj ∧ k.quench = none
        t.task? n = some { k with energy := k.energy + uj, quench := if crossed then some (2, 0) else k.quench }
        ∧ if crossed then ∀ g ∈ t.gangs, g.task = n → Stopped g else t.gangs = s.gangs)
    ∧ (∀ n k st code, s.task? n = some k → k.status = 0 → k.quench = some (st, code) → (∀ o ∈ s.ops, ∀ g, refGang o.wave = some (n, g) → o.ended = true ∨ (o.cxl = [] ∧ o.held = [])) → k.notify = none →
      ∃ t y, exec (.quenchComplete n) s = .next t ∧ t.task? n = some y ∧ y.status = st ∧ y.code = code ∧ y.quench = none ∧ y.notified = true
        ∧ (∀ g ∈ t.gangs, g.task = n → g.state = .retired) ∧ ((∀ d, s.dir? n = some d → d.openSlot = none) → t.mem = s.mem)
        ∧ ∀ d, s.dir? n = some d → ∃ z, t.dir? n = some z ∧ z.openSlot = none ∧ z.latest = d.latest ∧ z.pass = d.pass ∧ z.status = st
          ∧ ∀ i, i < d.slots.length → z.slots[i]? = some (if d.openSlot = some i then { nth ({} : VSlot) d.slots i with state := .free } else nth ({} : VSlot) d.slots i))
    ∧ (∀ g p w, s.gangs = [g] → g.state = .running → g.halted = false → g.saved = none → g.kill = none → (s.cluster g.cluster).test.attempt ≠ none →
      g.lastPp + 1000000 ≤ s.now → g.waves = [w] → w.liveSlices ≠ [] → w.paths[0]? = some p → p.state = .run → p.wait = .none → w.pathSlices 0 ≠ [] →
      exec .evacuationWatchdog s = .next ((s.takeFault (.user g.task g.index 0) 0 { code := 0x80 }).mapGang g.task g.index fun x => { x with lastPp := s.now }))

namespace Sys2Proof.Claims

/-- A gang that has been chosen may be saved (R111, R112): it is in its place, its operations are complete, its caster has stopped, it
holds no image yet, and no kill or quench ends it. -/
structure Chosen (s : State) (g : Gang) (k : Task) (cause : EvictCause) (since : Nat) : Prop where
  gang : s.gang? g.task g.index = some g
  task : s.task? g.task = some k
  chosen : (cause, since) ∈ g.chosen
  other : cause = .priority ∨ cause = .bubble ∨ cause = .slice
  runs : (g.state = .running ∨ g.state = .placing) ∧ g.waves ≠ [] ∧ g.saved = none ∧ g.kill = none ∧ k.quench = none
  engines : (∀ q ∈ g.ladle, q.ops = []) ∧ ∀ o ∈ g.seq, o.checked = false
  ops : ∀ o ∈ s.ops, refGang o.wave ≠ some (g.task, g.index)
  /-- no path is inside an access -/
  steady : ∀ w ∈ g.caster :: g.waves, ∀ p ∈ w.paths, ∀ id, p.wait ≠ .op id

/-- The gang went back to WAITING and keeps the state of R114: paths, and every slice's stack, MODE and flags. -/
def SentBack (s t : State) (g : Gang) (full : Option Bool) : Prop :=
  ∃ y b, t.gang? g.task g.index = some y ∧ y.state = .waiting ∧ y.chosen = g.chosen.filter (fun c => c.1 == .ckpt) ∧ y.slots = [] ∧ y.saved = some b ∧ (∀ f, full = some f → b = f)
    ∧ y.waves.map (·.paths) = g.waves.map (·.paths) ∧ y.caster = g.caster ∧ y.seq = g.seq ∧ y.barriers = g.barriers ∧ y.moulds = g.moulds
    ∧ y.waves.map (fun w => w.slices.map fun x => { x with regs := [] }) = g.waves.map (fun w => w.slices.map fun x => { x with regs := [] })
    ∧ (full = some true → y.waves = g.waves) ∧ (b = true → y.tiles = g.tiles ∧ y.banks = g.banks ∧ y.scratch = g.scratch)
    ∧ (∀ h, h ∈ s.gangs → (h.task ≠ g.task ∨ h.index ≠ g.index) → h ∈ t.gangs) ∧ t.mem = s.mem

/-- The bubble slot of cluster `c` after a step of its time (R95). -/
def bubbleAt (s : State) (c : Nat) (isOpen valid : Bool) : Cluster := { s.cluster c with bubble := { (s.cluster c).bubble with isOpen := isOpen, valid := valid } }

end Sys2Proof.Claims

/-- R94, R95, R110 to R114: a chosen gang is saved and goes back to WAITING, at its pre-emption point, or in full 20 µs after the
choice; a gang resident 4 ms is chosen while one of its class waits with no place; the eighth idle interval of one period publishes
the next slot, and a short one publishes nothing; slots open at START and close at START + LEN, which chooses their fill gangs. -/
def Obligations.EvictionEvents : Prop :=
  ∀ (s : State),
    (∀ g k cause since, Chosen s g k cause since →
      (k.idempotent = true → NoFault s g → ∃ t x, exec (.preemptionPointSave g.task g.index) s = .next t ∧ t.gang? g.task g.index = some x ∧ x.state = .waiting
        ∧ x.saved = none ∧ x.chosen = [] ∧ x.halted = g.halted ∧ x.waves = [] ∧ t.mem = s.mem)
      ∧ (k.idempotent = false → g.halted = false → (∀ w ∈ g.waves, w.liveSlices = [] ∨ ∀ p, p < 8 → (w.path p).state = .free ∨ ((w.path p).atPp = true ∧ (w.path p).state = .blocked)) →
        ∃ t, exec (.preemptionPointSave g.task g.index) s = .next t ∧ SentBack s t g none)
      ∧ (k.idempotent = false → since + 20000 ≤ s.now → ∃ t, exec (.forcedFullSave g.task g.index) s = .next t ∧ SentBack s t g (some true))
      ∧ ((∀ x ∈ g.chosen, x.1 ≠ .test → s.now < x.2 + 20000) → exec (.forcedFullSave g.task g.index) s = .next s))
    ∧ (∀ g k, s.gangs.filter (fun x => x.state == .running || x.state == .placing) = [g] → s.gang? g.task g.index = some g → s.task? g.task = some k → k.persistent = false →
      g.chosen = [] → g.placedAt + 4000000 ≤ s.now →
      (∃ h x, h ∈ s.tasks ∧ h.status = 0 ∧ h.quench = none ∧ h.kill = none ∧ h.cls = k.cls ∧ s.nextWaiting h = some x ∧ s.bestFit h x = none) →
      exec .timeSliceExpiry s = .next (s.setGang { g with chosen := [(.slice, s.now)] }))
    ∧ (∀ c start len, let b := (s.cluster c).bubble
      (b.seen ≠ some (start, len) → ∃ t, exec (.slotPrediction c start len) s = .next t ∧ { t with clusters := s.clusters } = s ∧ ∀ d, t.cluster d = s.cluster d)
      ∧ (b.seen = some (start, len) → len < 20000 → ∃ t, exec (.slotPrediction c start len) s = .next t ∧ { t with clusters := s.clusters } = s
        ∧ ∀ d, t.cluster d = if d = c then { s.cluster c with bubble := { b with seen := none } } else s.cluster d)
      ∧ (∀ period, b.seen = some (start, len) → 0 < period → 20000 ≤ len → 7 * period ≤ start → b.idles = (List.range 7).map (fun i => (start - (7 - i) * period, len)) → b.host = false → b.isOpen = false →
        ∃ t, exec (.slotPrediction c start len) s = .next t ∧ { t with clusters := s.clusters } = s ∧ (∀ d, d ≠ c → t.cluster d = s.cluster d)
          ∧ let y := (t.cluster c).bubble
            y.start = start + period ∧ y.len = len - 5000 ∧ y.valid = true ∧ y.isOpen = false ∧ y.seen = none))
    ∧ (∃ t, exec .bubbleSlotOpen s = .next t ∧ { t with clusters := s.clusters } = s ∧ ∀ c, t.cluster c =
      let b := (s.cluster c).bubble
      if c < 128 ∧ b.valid = true ∧ b.isOpen = false ∧ b.start ≤ s.now ∧ s.now < b.start + b.len then bubbleAt s c true b.valid else s.cluster c)
    ∧ (∃ t, exec .bubbleSlotClose s = .next t ∧ { t with clusters := s.clusters, gangs := s.gangs } = s ∧ t.gangs.length = s.gangs.length
      ∧ (∀ c, t.cluster c = let b := (s.cluster c).bubble
        if c < 128 ∧ b.isOpen = true ∧ b.start + b.len ≤ s.now then bubbleAt s c false false else s.cluster c)
      ∧ (∀ g k, s.gangs = [g] → s.task? g.task = some k → g.state = .running → g.chosen = [] →
        t.gangs = [let b := (s.cluster g.cluster).bubble
          if g.cluster < 128 ∧ b.isOpen = true ∧ b.start + b.len ≤ s.now ∧ k.fillClass = true then { g with chosen := [(.bubble, s.now)] } else g]))

namespace Sys2Proof.Claims

/-- The lower bound of a temperature band, in 0.25 °C (R11). -/
def lowerBound (b : Nat) : Nat := [0, 4 * 85, 4 * 95, 4 * 105].getD b 0

/-- The band after a reading: a band is entered above its bound and left downward 2 °C below it (R11). -/
def bandAfter (old t : Nat) : Nat :=
  max (if t > 4 * 105 then 3 else if t > 4 * 95 then 2 else if t > 4 * 85 then 1 else 0)
    (([3, 2, 1].find? fun b => decide (b ≤ old) && decide (lowerBound b < t + 8)).getD 0)

/-- The allowance of R96 and R98 from a band, a junction reading in 0.25 °C, a floor and a power term. -/
def allowanceOf (band junction floor power : Nat) : Nat :=
  let j := (max 0 (min 255 (255 - (11 * ((junction : Int) - 4 * 80)) / 4))).toNat
  min (min (max j floor) power) ([255, 96, 32, 0].getD band 0)

/-- The machine apart from dies and clusters. -/
def OnlyPlatform (s t : State) : Prop := { t with dies := s.dies, clusters := s.clusters } = s

/-- A test attempt of a cluster may begin (R99): it is masked in, has not failed, and no cluster of its die is under test. -/
structure MayTest (s : State) (c : Nat) : Prop where
  place : c < 128
  mask : s.clusterMask.toNat.testBit c = true
  sound : (s.cluster c).test.failed = false
  free : ∀ i, i < 32 → (s.cluster (c / 32 * 32 + i)).test.attempt = none ∧ (s.cluster (c / 32 * 32 + i)).test.running = none

end Sys2Proof.Claims

/-- R11 to R13, R15, R96, R98 to R100, R102: a sample, 100 µs after the one before, sets each die's sensors and pending band, by when
the band is in force and the die fenced, and each cluster's allowance; a band takes effect at the refresh command; a die due is
fenced, its gangs stopped and its engine timelines fenced; more than 4.4 kW over 1 ms lowers the power terms of the hottest
clusters, as many as firmware names (the model's event, log 4), and at or below it every power term is 255; a due test attempt closes its cluster, the test begins once it is empty, and 3 ms later it passes or clears the
cluster from the mask; an attempt not empty after 100 ms is deferred. -/
def Obligations.ThermalAndTestEvents : Prop :=
  ∀ (s : State),
    (∀ dram junction, s.sampledAt = none ∨ (∃ t0, s.sampledAt = some t0 ∧ s.now < t0 + 100000) → exec (.sensorSample dram junction) s = .next s)
    ∧ (∀ dram junction t0, s.sampledAt = some t0 → t0 + 100000 ≤ s.now → s.dies.length = 4 → (∀ d ∈ s.dies, d.fenced = false ∧ d.pendingBand ≤ 3) →
      (∀ c, (s.cluster c).dramBand ≤ 3) → ∃ t, exec (.sensorSample dram junction) s = .next t ∧ OnlyPlatform { s with sampledAt := some s.now } t ∧ t.dies.length = 4
      ∧ (∀ d, d < 4 → (t.die d).sensors = (List.range 16).map (fun k => nth 0 dram (16 * d + k))
        ∧ ∃ hot, (hot = 0 ∨ hot ∈ (t.die d).sensors) ∧ (∀ x ∈ (t.die d).sensors, x ≤ hot) ∧ (t.die d).pendingBand = bandAfter (s.die d).pendingBand hot
          ∧ (t.die d).band = (s.die d).band
          ∧ (t.die d).fenceDue = (match (s.die d).fenceDue with
            | some x => some x
            | none => if 4 * 105 < hot then some (s.now + 10000) else none)
          ∧ ((t.die d).pendingBand = (s.die d).band → (t.die d).bandDue = none)
          ∧ ((t.die d).pendingBand ≠ (s.die d).band → (s.die d).bandDue = none → (t.die d).bandDue = some (s.now + [32000000, 16000000].getD (s.die d).band 8000000))
          ∧ ∀ x, (t.die d).pendingBand ≠ (s.die d).band → (s.die d).bandDue = some x → (t.die d).bandDue = some x)
      ∧ (∀ c, c < 128 → let k := s.cluster c
        let band := bandAfter k.dramBand (nth 0 dram (16 * (c / 32) + c % 32 / 2))
        t.cluster c = { k with dramBand := band, junction := nth 0 junction c, allow := allowanceOf band (nth 0 junction c) k.floor k.powerTerm }))
    ∧ (∀ d, s.dies.length = 4 → d < 4 → ∃ t, exec (.refreshCommand d) s = .next t ∧ OnlyPlatform s t ∧ t.clusters = s.clusters
      ∧ (∀ e, e ≠ d → t.die e = s.die e) ∧ t.die d = { s.die d with band := (s.die d).pendingBand, bandDue := none })
    ∧ (∀ d since, s.dies.length = 4 → d < 4 → (s.die d).fenceDue = some since → (s.die d).fenced = false →
      (s.gangs.map fun g => (g.task, g.index)).Nodup → ∃ t, exec (.dieFence d) s = .next t
      ∧ (t.die d).fenced = true ∧ (t.die d).band = 3 ∧ (∀ e, e ≠ d → t.die e = s.die e) ∧ t.mem = s.mem
      ∧ ∀ g, s.gangs = [g] → g.state = .running → g.cluster / 32 = d → ∃ x, t.gangs = [x] ∧ x.task = g.task ∧ Stopped x
        ∧ x.casterTl.fenced = true ∧ ∀ q ∈ x.ladle, q.tl.fenced = true)
    ∧ (∀ watts n term,
      let lowered := fun (k : Cluster) (p : Nat) => { k with powerTerm := p, allow := allowanceOf k.dramBand k.junction k.floor p }
      (s.now < s.startedAt + 1000000 → exec (.powerLimit watts n term) s = .next s)
      ∧ (s.startedAt + 1000000 ≤ s.now → (∀ c, (s.cluster c).dramBand ≤ 3) → ∃ t, exec (.powerLimit watts n term) s = .next t ∧ OnlyPlatform s t ∧ t.dies = s.dies
        ∧ (watts ≤ 4400 → ∀ c, t.cluster c = lowered (s.cluster c) 255 ∨ (s.clusters.all (fun x => x.1 != c) ∧ t.cluster c = s.cluster c))
        ∧ (4400 < watts → ∃ cs : List Nat, cs.length = min 128 (max n 1) ∧ cs.Nodup ∧ (∀ c ∈ cs, c < 128)
          ∧ (∀ c ∈ cs, ∀ d, d < 128 → d ∉ cs → (s.cluster d).junction ≤ (s.cluster c).junction)
          ∧ ∀ c, t.cluster c = if c ∈ cs then lowered (s.cluster c) (min (s.cluster c).powerTerm (min term 255)) else s.cluster c)))
    ∧ (∀ c, MayTest s c → let k := s.cluster c
      k.test.nextAt ≤ s.now → ∃ t, exec (.testAttempt c) s = .next t ∧ { t with clusters := s.clusters, gangs := s.gangs } = s ∧ (∀ d, d ≠ c → t.cluster d = s.cluster d)
        ∧ (t.cluster c).test = { k.test with attempt := some s.now, defer := if k.test.untested then 0 else k.test.defer }
        ∧ ∀ g ∈ t.gangs, g.cluster = c → g.state = .running → (EvictCause.test, s.now) ∈ g.chosen)
    ∧ (∀ c at_, c < 128 → (s.cluster c).test.attempt = some at_ → (s.cluster c).test.running = none →
      (∀ g ∈ s.gangs, g.cluster = c → g.state = .waiting ∨ g.state = .retired) → ∃ t, exec (.testAttempt c) s = .next t ∧ OnlyPlatform s t ∧ t.dies = s.dies
        ∧ (∀ d, d ≠ c → t.cluster d = s.cluster d) ∧ t.cluster c = { s.cluster c with test := { (s.cluster c).test with running := some s.now } })
    ∧ (∀ c t0 pass, let k := s.cluster c
      k.test.running = some t0 → ∃ t, exec (.testComplete c pass) s = .next t ∧ { t with clusters := s.clusters, clusterMask := s.clusterMask } = s
        ∧ (∀ d, d ≠ c → t.cluster d = s.cluster d)
        ∧ (s.now < t0 + 3000000 → t = s)
        ∧ (t0 + 3000000 ≤ s.now → let y := (t.cluster c).test
          y.attempt = none ∧ y.running = none ∧ y.nextAt = s.now + s.testInterval * 3600000000000
          ∧ (pass = true → y.untested = false ∧ y.defer = 0 ∧ y.lastPass = s.now ∧ t.clusterMask = s.clusterMask)
          ∧ (pass = false → y.failed = true ∧ ∀ d, d < 128 → t.clusterMask.getLsbD d = (s.clusterMask.getLsbD d && d != c))))
    ∧ (∀ c t0 g, c < 128 → (s.cluster c).test.attempt = some t0 → (s.cluster c).test.running = none → (∀ d, d < 128 → d ≠ c → (s.cluster d).test.attempt = none) →
      g ∈ s.gangs → g.cluster = c → g.state = .running → ∃ t, exec .testDeferral s = .next t ∧ { t with clusters := s.clusters, gangs := s.gangs } = s
        ∧ (∀ d, d ≠ c → t.cluster d = s.cluster d)
        ∧ if t0 + 100000000 ≤ s.now then
            let y := (t.cluster c).test
            let n := (s.cluster c).test.defer + 1
            y.attempt = none ∧ y.defer = min n 3 ∧ y.untested = ((s.cluster c).test.untested || decide (3 ≤ n))
              ∧ y.nextAt = s.now + (if 3 ≤ n then s.testInterval * 3600000000000 else 1000000000)
              ∧ ∀ h ∈ t.gangs, h.cluster = c → ∀ x ∈ h.chosen, x.1 ≠ .test
          else t = s)

namespace Sys2Proof.Claims

/-- An outstanding operation with nothing left to wait for (R282, R284). -/
structure Ready (s : State) (o : PendingOp) (w : Wave) : Prop where
  op : s.ops.filter (·.id == o.id) = [o]
  done : o.remote = [] ∧ o.cxl = [] ∧ o.held = [] ∧ o.failed = [] ∧ o.engine = false ∧ o.signal = none ∧ o.release = none ∧ o.ended = false
    ∧ o.fill = none ∧ o.part = false ∧ o.ask = false
  after : ∀ i ∈ o.after, ∀ x ∈ s.ops, x.id = i → x.held = [] ∧ x.release = none ∧ x.cxl = []
  wave : s.wave? o.wave = some w
  shape : w.slices.length = 8
  lanes : ∀ r l v, RegWrite.vec r l v ∈ o.writes → l < 32

/-- The registers of a wave after the writes of an operation, later ones over earlier ones. -/
def Delivered (w w' : Wave) (l : List RegWrite) : Prop :=
  (∀ r L, L < 32 → w'.getV r L = match l.reverse.findSome? fun x => match x with
      | .vec r' l' v => if r' = r ∧ l' = L then some v else none
      | _ => none with
    | some v => v
    | none => w.getV r L)
  ∧ ∀ r i, i < 8 → w'.getS r i = match l.reverse.findSome? fun x => match x with
      | .sca r' j v => if r' = r ∧ j = i then some v else none
      | _ => none with
    | some v => v
    | none => w.getS r i

end Sys2Proof.Claims

/-- R140, R186, R206, R208, R271, R276, R282, R284, R319, R376: a flagged load holds its results until its operation completes, which
writes them and clears the flag where no other operation holds it; a walk that finds a leaf is cached, one that does not caches
nothing; a fetched line comes into the path's buffer, or 0x04; the scrub marks a bad line, or yields a window in which it reads none; a
tick writes one record of what was counted since the tick before; a WAITT whose
timeout is over returns 1. -/
def Obligations.MemoryEvents : Prop :=
  ∀ (s : State),
    (∀ o w, Ready s o w → ∃ t w', exec (.operationComplete o.id) s = .next t ∧ t.wave? o.wave = some w' ∧ t.mem = s.mem ∧ t.ops = s.ops.filter (·.id != o.id)
      ∧ Delivered w w' o.writes ∧ (∀ p, (w'.path p).pc = (w.path p).pc)
      ∧ ∀ f m, o.flag = some (f, m) → f < 12 → ∀ i, i < 8 → ∀ b, b < 12 → (w'.slice i).flags.getLsbD b =
        ((w.slice i).flags.getLsbD b && !(b == f && m.getLsbD i && !(s.ops.any fun q => q.id != o.id && q.wave == o.wave && (match q.flag with
          | some (g, n) => g == f && n.getLsbD i
          | none => false)))))
    ∧ (∀ (i : Instr) (op n : Nat) (sgn acq : Bool) (dst a b : Opd), loadEntry i = some (op, n, sgn, acq, dst, a, b) →
      ∀ (e : Env) (d : Dst) (x y : Src) (l1 l2 : List Word) (place : Nat → Nat) (f : Nat),
      Issuing s e op → Fresh e → (acq = true ∨ Agrees s e) → Shaped e → d.isVec = true → e.units true ≠ [] → e.dst dst (max 1 (n / 4)) = .ok d → e.src a 2 e.lits = .ok (x, l1) →
      e.src b 1 l1 = .ok (y, l2) → e.vectorForm dst [x, y] = .ok true → Clean e (e.units true) [(x, 2), (y, 1)] →
      e.flagFor true = some f → f < 12 →
      let va := fun L => effective (e.read 2 L x).1 (e.read 1 L y).1
      (∀ L ∈ e.units true, OwnAccess (translated s e n (e.units true) va) e .load n (if acq then n else 1) va place L) →
      ∃ t o w w', exec i s = .next t ∧ t.mem = s.mem ∧ t.ops = s.ops ++ [o] ∧ o.flag = some (f, BitVec.ofNat 8 (maskOf e.pathSlices)) ∧ o.wave = e.ref
        ∧ o.path = e.p ∧ o.pc = e.pc ∧ t.wave? e.ref = some w ∧ (w.path e.p).pc = (e.after (e.used l2)).1 ∧ (∀ r L, L < 32 → w.getV r L = e.w.getV r L)
        ∧ (∀ j ∈ e.pathSlices, (w.slice j).flags.getLsbD f = true) ∧ Delivered e.w w' o.writes
        ∧ ∀ r L, L < 32 → w'.getV r L = match d with
          | .vec r0 => if r0 ≤ r ∧ r < r0 + max 1 (n / 4) ∧ L ∈ e.units true then
              { bits := wordOf (extended n sgn (leNat (s.readLocal (place L) n))) (r - r0), poison := s.partPoisoned e.who (.mem (place L)) n } else e.w.getV r L
          | _ => e.w.getV r L)
    ∧ (∀ c ctx x, ∀ va : DWord, c < 128 → va.toNat < aperture → s.ctx? ctx = some x →
      (s.walk va.toNat 4 x.root.toNat = none → exec (.pageWalk c ctx va) s = .next s)
      ∧ (∀ leaf l, s.walk va.toNat 4 x.root.toNat = some (leaf, l) → inRecords va.toNat = false → (∀ u ∈ s.l2Tlb c, u.ctx ≠ ctx) → (s.l2Tlb c).length < 8192 →
        let sz := levelLow l
        ∃ t, exec (.pageWalk c ctx va) s = .next t ∧ { t with caches := s.caches } = s ∧ t.caches.cores = s.caches.cores ∧ (∀ d, d ≠ c → t.l2Tlb d = s.l2Tlb d)
          ∧ t.l2Tlb c = s.l2Tlb c ++ [{ ctx := ctx, base := va.toNat / 2 ^ sz * 2 ^ sz, size := sz, leaf := leaf }]))
    ∧ (∀ e, s.env? e.ref e.p = some e → e.path.state ≠ .free → e.path.state ≠ .halted → e.path.wait ≠ .fault → e.path.buf = none →
      (s.cluster e.cluster).icache = [] → Shaped e →
      let base := e.pc.toNat / 128 * 128
      let u := (s.slip e).holdPage e.who e.pc.toNat
      (∀ off, (∃ sp, u.span e.who .fetch base 128 = .ok sp ∧ sp.parts = [(.mem off, 128)]) → off < 2 ^ 40 → lineVer (leNat (s.readLocal (off + 4) 4)) = 1 →
        ∃ t w l, exec (.fetchLineReturn e.ref e.p) s = .next t ∧ t.wave? e.ref = some w ∧ (w.path e.p).buf = some l ∧ l.base = BitVec.ofNat 64 base
          ∧ l.words = (List.range 32).map (fun i => BitVec.ofNat 32 (leNat (s.readLocal (off + 4 * i) 4))) ∧ t.mem = s.mem
          ∧ (w.path e.p).pc = (if e.path.clause = none ∧ l.kind (wordIx e.pc) = 3 then l.after (wordIx e.pc) else e.pc)
          ∧ w.slip = (e.w.slip + 1) % 2 ^ 32)
      ∧ (∀ cause, u.span e.who .fetch base 128 = .error cause → exec (.fetchLineReturn e.ref e.p) s =
        .next (u.takeFault e.ref e.p { code := 0x04, addr := e.pc, cause := cause })))
    ∧ (∀ d line out, s.dies.length = 4 → d < 4 → line < 2 ^ 30 → (s.die d).fenced = false →
      (out = .yielded → ∃ x, exec (.patrolScrub d line out) s = .next (s.mapDie d fun y => { y with yield := true, yieldUntil := x })
        ∧ s.now < x ∧ x ≤ s.now + 10000 ∧ x % 10000 = 0)
      ∧ (out ≠ .yielded → s.now < (s.die d).yieldUntil → exec (.patrolScrub d line out) s = .next s)
      ∧ (out ≠ .yielded → (s.die d).yieldUntil ≤ s.now → ∃ t, exec (.patrolScrub d line out) s = .next t ∧ { t with dies := s.dies, poison := s.poison } = s
        ∧ (∀ e, e ≠ d → t.die e = s.die e) ∧ (t.die d).yield = false ∧ (t.die d).poisonCount = (if out = .uncorrectable then min ((s.die d).poisonCount + 1) 0xFFF else (s.die d).poisonCount)
        ∧ ∀ l, t.poison.get false l = (if out = .uncorrectable ∧ l = d * 2 ^ 30 + line then true else s.poison.get false l)))
    ∧ (∀ ctx (p : Prof) (c : Nat) (g : Gang) (k : Task) (off : Nat), s.profs = [(ctx, p)] → p.en = true → 10 ≤ p.k → p.k ≤ 24 → s.now / 2 ^ p.k ≠ p.lastTick →
      s.gangs = [g] → g.state = .running → g.cluster = c → c < 128 → s.task? g.task = some k → k.ctx = ctx → 0 < p.size → p.written % p.size ∉ p.full →
      (s.cluster c).counters.stepsTaken.length = 2 → (s.cluster c).counters.stepsSkipped.length = 2 →
      (∃ sp, s.span { ctx := ctx } .store (p.buffer.toNat + 128 * (p.written % p.size)) 128 = .ok sp ∧ sp.parts = [(.mem off, 128)]) →
      ∃ t, exec .profileTick s = .next t ∧ t.profs.get {} ctx = { p with
          lastTick := s.now / 2 ^ p.k, written := p.written + 1, full := p.full ++ [p.written % p.size], base := s.clusters.map fun x => (x.1, x.2.counters) }
        ∧ (∀ a, a < off ∨ off + 128 ≤ a → t.byte a = s.byte a) ∧ t.clusters = s.clusters
        ∧ let r := t.readLocal off 128
          let n := (s.cluster c).counters
          let m := p.base.get {} c
          fieldAt r 0 8 = s.now / 2 ^ p.k % 2 ^ 64 ∧ fieldAt r 8 2 = c ∧ fieldAt r 0x0A 6 = 0 ∧ fieldAt r 0x50 8 = (n.ladleBytes - m.ladleBytes) % 2 ^ 64 ∧ fieldAt r 0x58 4 = (n.slip - m.slip) % 2 ^ 32)
    ∧ (∀ e d t0 r0 lim x y l1 l2 i dst a b, s.allPaths = [(e.ref, e.p)] → s.env? e.ref e.p = some e → e.path.wait = .waitt t0 r0 lim → lim ≠ 0 → e.path.instr? = some (.waitt dst a b) →
      (s.pathAt (e.ref, e.p)) = e.path → Issuing { s with cur := some (e.ref, e.p) } e 0x0B → Shaped e → e.path.state = .blocked → e.path.stepping = false → e.stDst dst 1 true = .ok d → d = .sca i →
      e.src a 2 e.lits = .ok (x, l1) → e.src b 2 l1 = .ok (y, l2) → x.isVec = false → y.isVec = false → Clean e [4 * e.low] [(x, 2), (y, 2)] →
      let v := (e.read 2 (4 * e.low) x).1
      let n := (e.read 2 (4 * e.low) y).1
      ∀ r tl, s.tlRef e (v % 2 ^ 32) = some r → s.timeline e r = tl → tl.fenced = false → tl.resets = r0 → tl.reached < n → v / 2 ^ 32 ≠ 0 → t0 + 1000 * (v / 2 ^ 32) ≤ s.now →
      ∃ t w, exec .waittTimeout s = .next t ∧ t.wave? e.ref = some w ∧ (w.path e.p).state = .run ∧ (w.path e.p).wait = .none ∧ (w.path e.p).pc = (e.after (e.used l2)).1
        ∧ (∀ j ∈ e.pathSlices, w.getS i j = { bits := 1 }) ∧ t.mem = s.mem)

/-! ### Encoding, steps, reset and the invariant of memory -/

/-- R286, R287, R291, R295: the words of a few instructions, written out from the entry tables of R306, R331, R352, R375, R392, R408 and
R422, decode to them; an unassigned opcode and a reserved field are refused. -/
def Obligations.DecodedWords : Prop :=
  (∀ x ∈ [(0x00000000, Instr.nop), (0x031300FE, .brp ⟨3, true, 0⟩ .lit), (0x0A000201, .waitf 0x201), (0x0C002806, .waitm 40 false true 2),
      (0x13C20004, .gets (.s 2) 0 4), (0x200102C3, .iadd (.v 1) (.v 2) (.s 3)), (0x374501F0, .icmp 2 ⟨5, false, 0⟩ (.v 1) .zero),
      (0x400809FE, .fadd (.v 8) (.v 9) .lit), (0x60040523, .cvt (.v 4) (.v 5) 2 3), (0x6901078A, .xmov (.v 1) (.v 7) 2 10),
      (0x74011202, .vote ⟨1, false, 0⟩ ⟨2, true, 0⟩ 2), (0x78000182, .scan (.v 0) (.v 1) true 2), (0x84030AFE, .ldw (.v 3) (.v 10) .lit),
      (0x8B04C8F0, .stq (.v 4) (.s 8) .zero), (0x99F00203, .axsum .zero (.v 2) 3), (0xB4061FBF, .trd (.v 6) 31 true 63),
      (0xB68504C6, .mma true 5 4 (.s 6)), (0xB80213FE, .ard (.v 2) 2 3 .lit), (0xC0C4C8A5, .lcopy (.s 4) (.s 8) true false true 5),
      (0xC5C129C8, .mset (.s 1) 41 true true false 2 0), (0xD2C8C2C5, .acqv (.s 8) (.s 2) (.s 5)), (0xDAC0C205, .scrub (.s 0) (.s 2) true false true)],
    decodeTableWord 32 x.1 = some x.2)
  ∧ decodeTableWord 32 0x1C000000 = none ∧ decodeTableWord 32 0x00000001 = none ∧ decodeTableWord 32 0xB506001F = none

/-- Every well-formed instruction word decodes to the instruction that it encodes, with every operand at every value, and fits 32
bits (R276, R286, R287, R291, R295). -/
def Obligations.DecodeOfEncode : Prop :=
  ∀ (i : Instr) (w : Nat), i.wf = true → encode i = some w → w < 2 ^ 32 ∧ decodeWord w = .ok i ∧ decodeTableWord 32 w = some i

/-- A word that decodes is the one word of its instruction, which is well formed: no two words mean one instruction (R286). -/
def Obligations.EncodeOfDecode : Prop :=
  ∀ (w : Nat) (i : Instr), w < 2 ^ 32 → decodeWord w = .ok i → encode i = some w ∧ i.wf = true

/-- R278, R286: a step whose next move issues a path that stands at a decoded word of its clause is `exec` of that instruction with the
path in hand, followed by what every issue and every move leaves behind; an event is `exec` of it with no path in hand; a `pass` moves
device time (R14) no further than the next moment at which the device is to act (log 4). The word is read from the line in the path's fetch buffer (R140). -/
def Obligations.StepRunsTheInstruction : Prop :=
  ∀ (s : State) (rest : List Move), let u : State := { s with moves := rest }
    (∀ (r : WaveRef) (p : Nat) (e : Env) (l : LineBuf) (c : Clause) (i : Instr), s.moves = .issue r p :: rest → u.env? r p = some e →
      u.mayIssue e = true → u.atBreak e = false → e.path.buf = some l → l.base.toNat ≤ e.pc.toNat → e.pc.toNat < l.base.toNat + 128 →
      e.path.clause = some c → e.pc.toNat % 128 / 4 ≤ c.last → l.kind (e.pc.toNat % 128 / 4) = 0 → l.base.toNat % 128 = 0 →
      decodeWord (l.word (e.pc.toNat % 128 / 4)).toNat = .ok i →
      step s = onNext (fun t => (t.afterIssue e i).settle) (exec i { u with cur := some (r, p) }))
    ∧ (∀ i, s.moves = .event i :: rest → step s = onNext State.settle (exec i { u with cur := none }))
    ∧ (∀ n, s.moves = .pass n :: rest → step s = .next (u.pass n).settle ∧ (u.pass n).now ≤ s.now + n
      ∧ ((∀ d ∈ u.deadlines, s.now + n ≤ d) → (u.pass n).now = s.now + n))

/-- R14, R19, R98, R102, R123, R128, R193, R208, R264, R265, R270: what reset leaves where the manual gives a value, and memory with
nothing listed, in canonical form. -/
def Obligations.ResetValues : Prop :=
  let s := State.reset
  s.now = 0 ∧ s.powered = false ∧ s.start.ready = false ∧ s.start.err = 0 ∧ s.testInterval = 24 ∧ s.hangLimit = 2000
    ∧ s.tasks = [] ∧ s.gangs = [] ∧ s.ops = [] ∧ s.staging = []
    ∧ (∀ c, let k := s.cluster c
      k.allow = 0xFF ∧ k.floor = 0 ∧ k.test.untested = false ∧ k.test.failed = false ∧ k.test.defer = 0 ∧ k.bubble.valid = false ∧ k.bubble.host = false
        ∧ k.bubble.isOpen = false)
    ∧ (∀ d, d < 4 → (s.die d).poisonCount = 0 ∧ (s.die d).rate = 0 ∧ (s.die d).yield = false ∧ (s.die d).fenced = false)
    ∧ (∀ c, let p : Prof := s.profs.get {} c
      p.en = false ∧ p.k = 0x0A ∧ p.drop = 0 ∧ p.size = 0)
    ∧ (∀ c, s.ctx? c = none) ∧ (∀ q, (s.queue q).bound = none ∧ (s.queue q).pending = [])
    ∧ (∀ a, s.byte a = 0) ∧ s.memWf = true

/-- The memory keeps its canonical form: from every state that has it, a step that goes on leaves it (R3). -/
def Obligations.MemoryStaysCanonical : Prop :=
  ∀ s t : State, s.memWf = true → step s = .next t → t.memWf = true

namespace Sys2Proof.Claims

/-- The instruction completes: its path stands behind the word and its `lits` literals, nothing of it is outstanding and no fault is
recorded. -/
def PassesOn (i : Instr) (s : State) (e : Env) (op lits : Nat) : Prop :=
  ∃ (t : State) (w : Wave), exec i s = .next t ∧ t.wave? e.ref = some (w.wentOn e op lits) ∧ t.ops = s.ops ∧ t.cores = s.cores

end Sys2Proof.Claims

/-- R29, R44, R102, R187, R265, R378 to R382, R395 to R399: where the stores, the tile instructions and the register writes complete. A
store whose positions are the package's own DRAM, TCFG with a legal value, TZERO, TLD and TST of rows in the package's own DRAM, TWR of
an image that its tile admits, and TRD go on to the next word with nothing outstanding; writes of TLBINV by a host, and of a route mask,
a test request and HANG_LIMIT by a privileged one, are accepted. -/
def Obligations.StoresTilesAndWritesComplete : Prop :=
  (∀ (i : Instr) (op n : Nat) (rel : Bool) (dst a b : Opd), storeEntry i = some (op, n, rel, dst, a, b) →
    ∀ (s : State) (e : Env) (x y z : Src) (l1 l2 l3 : List Word) (vec : Bool) (place : Nat → Nat),
    Issuing s e op → Fresh e → e.doneMask = 0 → s.writeHeld e = false → (n = 16 → s.cut = false) →
    (n = 16 → dst = .zero ∨ dst = .lit ∨ ∃ r, dst = .v r ∨ dst = .s r) → e.src dst (max 1 (n / 4)) e.lits = .ok (z, l1) → e.src a 2 l1 = .ok (x, l2) →
    e.src b 1 l2 = .ok (y, l3) → e.vectorForm dst [x, y] = .ok vec → Clean e (e.units vec) [(z, max 1 (n / 4)), (x, 2), (y, 1)] →
    (rel = true → s.quiet e e.scope = true) → e.flagFor false = none →
    let va := fun L => effective (e.read 2 L x).1 (e.read 1 L y).1
    (∀ L ∈ e.units vec, OwnAccess (translated s e n (e.units vec) va) e .store n (if rel then n else 1) va place L) →
    PassesOn i s e op (e.used l3))
  ∧ (∀ (s : State) (e : Env) (t : Nat) (g : Gang) (x : Tile), MyTile s e t g x →
    (∀ (a : Opd) (ls : List Word) (v : Nat), Issuing s e 0xB0 → e.off = false → ScalarIn e a 1 e.lits ls v → v < 2 ^ 32 →
      v / 2 ^ 23 % 128 = 0 → v / 2 ^ 7 % 512 = 0 → 1 ≤ v / 2 ^ 16 % 128 → v / 2 ^ 16 % 128 ≤ 64 → 1 ≤ v % 128 → v % 128 ≤ classCount (v / 2 ^ 30) →
      PassesOn (.tcfg t a) s e 0xB0 (e.used ls))
    ∧ (Issuing s e 0xB5 → PassesOn (.tzero t) s e 0xB5 0)
    ∧ (∀ (a b : Opd) (l1 l2 : List Word) (base st : Nat) (off : Nat → Nat), Fresh e → t < 32 → e.flagFor false = none →
      ScalarIn e a 2 e.lits l1 base → ScalarIn e b 1 l1 l2 st → base % 64 = 0 → st % 64 = 0 →
      (Issuing s e 0xB1 → (g.moulds.get {} t).state = .free ∨ (g.moulds.get {} t).state = .filling →
        (∀ r, r < ctlRows x → OwnBytes (rowsHeld s e x base st) e .load (rowAt base st r) 64 (off r) true ∧ Admits x (s.readLocal (off r) 64)) →
        PassesOn (.tld t a b) s e 0xB1 (e.used l2))
      ∧ (Issuing s e 0xB2 → s.cut = false → s.writeHeld e = false → (∀ r, r < ctlRows x → OwnBytes (rowsHeld s e x base st) e .store (rowAt base st r) 64 (off r) true) →
        PassesOn (.tst t a b) s e 0xB2 (e.used l2)))
    ∧ (∀ (v r : Nat) (hi : Bool), v < 16 * e.blocks →
      (Issuing s e 0xB3 → r < 64 → e.lanes ≠ [] → e.imagePoison v hi = .ok () → Admits x (e.image v hi) → PassesOn (.twr t (.v v) hi r) s e 0xB3 0)
      ∧ (Issuing s e 0xB4 → PassesOn (.trd (.v v) t hi r) s e 0xB4 0)))
  ∧ (∀ (s : State) (ep : Nat) (v : DWord), s.start.err ≠ 2 →
    (MayWrite s ep → ∃ t, exec (.tlbinv ep v) s = .next t ∧ t.hostStatus = 0 ∧ t.tlbinvDone = false
      ∧ (s.tlbinvDone = true → t.tlbinvPending = some v) ∧ (s.tlbinvDone = false → t.tlbinvQueue = s.tlbinvQueue ++ [v]))
    ∧ (Privileged s ep →
      (∀ id mask, id < 1024 → mask < 4096 → (∀ q ∈ s.remote, q.pkg ≠ id) → (∃ n, n < 12 ∧ bitOf mask n = true ∧ linkUp s n = true) →
        ∃ t, exec (.routeTableWrite ep id mask) s = .next t ∧ t.hostStatus = 0
          ∧ ∀ n, n < 12 → bitOf (t.routes.get 0 id) n = (bitOf mask n && linkUp s n))
      ∧ (∀ c, c < 128 → ∃ t, exec (.testRequest ep c) s = .next t ∧ t.hostStatus = 0
        ∧ ((∀ d, d < 128 → (s.cluster d).test.attempt = none ∧ (s.cluster d).test.running = none) → (s.cluster c).test.failed = false →
          s.clusterMask.getLsbD c = true → (t.cluster c).test.attempt = some s.now))
      ∧ exec (.registerWrite ep (Config.expertOffset + 0x1D08) 4 v) s = .next { s with hangLimit := v.toNat % 2 ^ 32, hostStatus := 0 }))
end

