-- ==== Sys2Proof/Laws/State.lean ====
section
/-! SUPPORT. What each update of State leaves alone: one lemma per update and field, and what it does to its own field. -/

namespace Sys2Proof.Machine

variable (s : State)

/-! #### setCtx -/

@[simp] theorem State.setCtx_now (c : Nat) (x : Option Context) : (s.setCtx c x).now = s.now := rfl
@[simp] theorem State.setCtx_moves (c : Nat) (x : Option Context) : (s.setCtx c x).moves = s.moves := rfl
@[simp] theorem State.setCtx_cur (c : Nat) (x : Option Context) : (s.setCtx c x).cur = s.cur := rfl
@[simp] theorem State.setCtx_fresh (c : Nat) (x : Option Context) : (s.setCtx c x).fresh = s.fresh := rfl
@[simp] theorem State.setCtx_nextId (c : Nat) (x : Option Context) : (s.setCtx c x).nextId = s.nextId := rfl
@[simp] theorem State.setCtx_powered (c : Nat) (x : Option Context) : (s.setCtx c x).powered = s.powered := rfl
@[simp] theorem State.setCtx_start (c : Nat) (x : Option Context) : (s.setCtx c x).start = s.start := rfl
@[simp] theorem State.setCtx_security (c : Nat) (x : Option Context) : (s.setCtx c x).security = s.security := rfl
@[simp] theorem State.setCtx_ownId (c : Nat) (x : Option Context) : (s.setCtx c x).ownId = s.ownId := rfl
@[simp] theorem State.setCtx_hosts (c : Nat) (x : Option Context) : (s.setCtx c x).hosts = s.hosts := rfl
@[simp] theorem State.setCtx_packages (c : Nat) (x : Option Context) : (s.setCtx c x).packages = s.packages := rfl
@[simp] theorem State.setCtx_privileged (c : Nat) (x : Option Context) : (s.setCtx c x).privileged = s.privileged := rfl
@[simp] theorem State.setCtx_clusterMask (c : Nat) (x : Option Context) : (s.setCtx c x).clusterMask = s.clusterMask := rfl
@[simp] theorem State.setCtx_dies (c : Nat) (x : Option Context) : (s.setCtx c x).dies = s.dies := rfl
@[simp] theorem State.setCtx_links (c : Nat) (x : Option Context) : (s.setCtx c x).links = s.links := rfl
@[simp] theorem State.setCtx_ports (c : Nat) (x : Option Context) : (s.setCtx c x).ports = s.ports := rfl
@[simp] theorem State.setCtx_routes (c : Nat) (x : Option Context) : (s.setCtx c x).routes = s.routes := rfl
@[simp] theorem State.setCtx_routePending (c : Nat) (x : Option Context) : (s.setCtx c x).routePending = s.routePending := rfl
@[simp] theorem State.setCtx_fencedPkgs (c : Nat) (x : Option Context) : (s.setCtx c x).fencedPkgs = s.fencedPkgs := rfl
@[simp] theorem State.setCtx_fencedRemoteDies (c : Nat) (x : Option Context) : (s.setCtx c x).fencedRemoteDies = s.fencedRemoteDies := rfl
@[simp] theorem State.setCtx_remote (c : Nat) (x : Option Context) : (s.setCtx c x).remote = s.remote := rfl
@[simp] theorem State.setCtx_mem (c : Nat) (x : Option Context) : (s.setCtx c x).mem = s.mem := rfl
@[simp] theorem State.setCtx_poison (c : Nat) (x : Option Context) : (s.setCtx c x).poison = s.poison := rfl
@[simp] theorem State.setCtx_clusters (c : Nat) (x : Option Context) : (s.setCtx c x).clusters = s.clusters := rfl
@[simp] theorem State.setCtx_cores (c : Nat) (x : Option Context) : (s.setCtx c x).cores = s.cores := rfl
@[simp] theorem State.setCtx_notifyLost (c : Nat) (x : Option Context) : (s.setCtx c x).notifyLost = s.notifyLost := rfl
@[simp] theorem State.setCtx_queues (c : Nat) (x : Option Context) : (s.setCtx c x).queues = s.queues := rfl
@[simp] theorem State.setCtx_staging (c : Nat) (x : Option Context) : (s.setCtx c x).staging = s.staging := rfl
@[simp] theorem State.setCtx_tasks (c : Nat) (x : Option Context) : (s.setCtx c x).tasks = s.tasks := rfl
@[simp] theorem State.setCtx_gangs (c : Nat) (x : Option Context) : (s.setCtx c x).gangs = s.gangs := rfl
@[simp] theorem State.setCtx_dirs (c : Nat) (x : Option Context) : (s.setCtx c x).dirs = s.dirs := rfl
@[simp] theorem State.setCtx_nextTask (c : Nat) (x : Option Context) : (s.setCtx c x).nextTask = s.nextTask := rfl
@[simp] theorem State.setCtx_ops (c : Nat) (x : Option Context) : (s.setCtx c x).ops = s.ops := rfl
@[simp] theorem State.setCtx_imprecise (c : Nat) (x : Option Context) : (s.setCtx c x).imprecise = s.imprecise := rfl
@[simp] theorem State.setCtx_profs (c : Nat) (x : Option Context) : (s.setCtx c x).profs = s.profs := rfl
@[simp] theorem State.setCtx_testInterval (c : Nat) (x : Option Context) : (s.setCtx c x).testInterval = s.testInterval := rfl
@[simp] theorem State.setCtx_tlbinvPending (c : Nat) (x : Option Context) : (s.setCtx c x).tlbinvPending = s.tlbinvPending := rfl
@[simp] theorem State.setCtx_tlbinvQueue (c : Nat) (x : Option Context) : (s.setCtx c x).tlbinvQueue = s.tlbinvQueue := rfl
@[simp] theorem State.setCtx_tlbinvDone (c : Nat) (x : Option Context) : (s.setCtx c x).tlbinvDone = s.tlbinvDone := rfl
@[simp] theorem State.setCtx_handlerEntry (c : Nat) (x : Option Context) : (s.setCtx c x).handlerEntry = s.handlerEntry := rfl
@[simp] theorem State.setCtx_hangLimit (c : Nat) (x : Option Context) : (s.setCtx c x).hangLimit = s.hangLimit := rfl
@[simp] theorem State.setCtx_hostStatus (c : Nat) (x : Option Context) : (s.setCtx c x).hostStatus = s.hostStatus := rfl
@[simp] theorem State.setCtx_cut (c : Nat) (x : Option Context) : (s.setCtx c x).cut = s.cut := rfl
@[simp] theorem State.setCtx_bridges (c : Nat) (x : Option Context) : (s.setCtx c x).bridges = s.bridges := rfl
@[simp] theorem State.setCtx_sampledAt (c : Nat) (x : Option Context) : (s.setCtx c x).sampledAt = s.sampledAt := rfl
@[simp] theorem State.setCtx_startedAt (c : Nat) (x : Option Context) : (s.setCtx c x).startedAt = s.startedAt := rfl
@[simp] theorem State.setCtx_fencedRemoteLinks (c : Nat) (x : Option Context) : (s.setCtx c x).fencedRemoteLinks = s.fencedRemoteLinks := rfl
@[simp] theorem State.setCtx_completion (c : Nat) (x : Option Context) : (s.setCtx c x).completion = s.completion := rfl
@[simp] theorem State.setCtx_caches (c : Nat) (x : Option Context) : (s.setCtx c x).caches = s.caches := rfl
@[simp] theorem State.setCtx_notices (c : Nat) (x : Option Context) : (s.setCtx c x).notices = s.notices := rfl
@[simp] theorem State.setCtx_domain (c : Nat) (x : Option Context) : (s.setCtx c x).domain = s.domain := rfl
@[simp] theorem State.setCtx_homeOps (c : Nat) (x : Option Context) : (s.setCtx c x).homeOps = s.homeOps := rfl
@[simp] theorem State.setCtx_trail (c : Nat) (x : Option Context) : (s.setCtx c x).trail = s.trail := rfl

/-! #### mapCtx -/

@[simp] theorem State.mapCtx_now (c : Nat) (f : Context → Context) : (s.mapCtx c f).now = s.now := rfl
@[simp] theorem State.mapCtx_moves (c : Nat) (f : Context → Context) : (s.mapCtx c f).moves = s.moves := rfl
@[simp] theorem State.mapCtx_cur (c : Nat) (f : Context → Context) : (s.mapCtx c f).cur = s.cur := rfl
@[simp] theorem State.mapCtx_fresh (c : Nat) (f : Context → Context) : (s.mapCtx c f).fresh = s.fresh := rfl
@[simp] theorem State.mapCtx_nextId (c : Nat) (f : Context → Context) : (s.mapCtx c f).nextId = s.nextId := rfl
@[simp] theorem State.mapCtx_powered (c : Nat) (f : Context → Context) : (s.mapCtx c f).powered = s.powered := rfl
@[simp] theorem State.mapCtx_start (c : Nat) (f : Context → Context) : (s.mapCtx c f).start = s.start := rfl
@[simp] theorem State.mapCtx_security (c : Nat) (f : Context → Context) : (s.mapCtx c f).security = s.security := rfl
@[simp] theorem State.mapCtx_ownId (c : Nat) (f : Context → Context) : (s.mapCtx c f).ownId = s.ownId := rfl
@[simp] theorem State.mapCtx_hosts (c : Nat) (f : Context → Context) : (s.mapCtx c f).hosts = s.hosts := rfl
@[simp] theorem State.mapCtx_packages (c : Nat) (f : Context → Context) : (s.mapCtx c f).packages = s.packages := rfl
@[simp] theorem State.mapCtx_privileged (c : Nat) (f : Context → Context) : (s.mapCtx c f).privileged = s.privileged := rfl
@[simp] theorem State.mapCtx_clusterMask (c : Nat) (f : Context → Context) : (s.mapCtx c f).clusterMask = s.clusterMask := rfl
@[simp] theorem State.mapCtx_dies (c : Nat) (f : Context → Context) : (s.mapCtx c f).dies = s.dies := rfl
@[simp] theorem State.mapCtx_links (c : Nat) (f : Context → Context) : (s.mapCtx c f).links = s.links := rfl
@[simp] theorem State.mapCtx_ports (c : Nat) (f : Context → Context) : (s.mapCtx c f).ports = s.ports := rfl
@[simp] theorem State.mapCtx_routes (c : Nat) (f : Context → Context) : (s.mapCtx c f).routes = s.routes := rfl
@[simp] theorem State.mapCtx_routePending (c : Nat) (f : Context → Context) : (s.mapCtx c f).routePending = s.routePending := rfl
@[simp] theorem State.mapCtx_fencedPkgs (c : Nat) (f : Context → Context) : (s.mapCtx c f).fencedPkgs = s.fencedPkgs := rfl
@[simp] theorem State.mapCtx_fencedRemoteDies (c : Nat) (f : Context → Context) : (s.mapCtx c f).fencedRemoteDies = s.fencedRemoteDies := rfl
@[simp] theorem State.mapCtx_remote (c : Nat) (f : Context → Context) : (s.mapCtx c f).remote = s.remote := rfl
@[simp] theorem State.mapCtx_mem (c : Nat) (f : Context → Context) : (s.mapCtx c f).mem = s.mem := rfl
@[simp] theorem State.mapCtx_poison (c : Nat) (f : Context → Context) : (s.mapCtx c f).poison = s.poison := rfl
@[simp] theorem State.mapCtx_clusters (c : Nat) (f : Context → Context) : (s.mapCtx c f).clusters = s.clusters := rfl
@[simp] theorem State.mapCtx_cores (c : Nat) (f : Context → Context) : (s.mapCtx c f).cores = s.cores := rfl
@[simp] theorem State.mapCtx_notifyLost (c : Nat) (f : Context → Context) : (s.mapCtx c f).notifyLost = s.notifyLost := rfl
@[simp] theorem State.mapCtx_queues (c : Nat) (f : Context → Context) : (s.mapCtx c f).queues = s.queues := rfl
@[simp] theorem State.mapCtx_staging (c : Nat) (f : Context → Context) : (s.mapCtx c f).staging = s.staging := rfl
@[simp] theorem State.mapCtx_tasks (c : Nat) (f : Context → Context) : (s.mapCtx c f).tasks = s.tasks := rfl
@[simp] theorem State.mapCtx_gangs (c : Nat) (f : Context → Context) : (s.mapCtx c f).gangs = s.gangs := rfl
@[simp] theorem State.mapCtx_dirs (c : Nat) (f : Context → Context) : (s.mapCtx c f).dirs = s.dirs := rfl
@[simp] theorem State.mapCtx_nextTask (c : Nat) (f : Context → Context) : (s.mapCtx c f).nextTask = s.nextTask := rfl
@[simp] theorem State.mapCtx_ops (c : Nat) (f : Context → Context) : (s.mapCtx c f).ops = s.ops := rfl
@[simp] theorem State.mapCtx_imprecise (c : Nat) (f : Context → Context) : (s.mapCtx c f).imprecise = s.imprecise := rfl
@[simp] theorem State.mapCtx_profs (c : Nat) (f : Context → Context) : (s.mapCtx c f).profs = s.profs := rfl
@[simp] theorem State.mapCtx_testInterval (c : Nat) (f : Context → Context) : (s.mapCtx c f).testInterval = s.testInterval := rfl
@[simp] theorem State.mapCtx_tlbinvPending (c : Nat) (f : Context → Context) : (s.mapCtx c f).tlbinvPending = s.tlbinvPending := rfl
@[simp] theorem State.mapCtx_tlbinvQueue (c : Nat) (f : Context → Context) : (s.mapCtx c f).tlbinvQueue = s.tlbinvQueue := rfl
@[simp] theorem State.mapCtx_tlbinvDone (c : Nat) (f : Context → Context) : (s.mapCtx c f).tlbinvDone = s.tlbinvDone := rfl
@[simp] theorem State.mapCtx_handlerEntry (c : Nat) (f : Context → Context) : (s.mapCtx c f).handlerEntry = s.handlerEntry := rfl
@[simp] theorem State.mapCtx_hangLimit (c : Nat) (f : Context → Context) : (s.mapCtx c f).hangLimit = s.hangLimit := rfl
@[simp] theorem State.mapCtx_hostStatus (c : Nat) (f : Context → Context) : (s.mapCtx c f).hostStatus = s.hostStatus := rfl
@[simp] theorem State.mapCtx_cut (c : Nat) (f : Context → Context) : (s.mapCtx c f).cut = s.cut := rfl
@[simp] theorem State.mapCtx_bridges (c : Nat) (f : Context → Context) : (s.mapCtx c f).bridges = s.bridges := rfl
@[simp] theorem State.mapCtx_sampledAt (c : Nat) (f : Context → Context) : (s.mapCtx c f).sampledAt = s.sampledAt := rfl
@[simp] theorem State.mapCtx_startedAt (c : Nat) (f : Context → Context) : (s.mapCtx c f).startedAt = s.startedAt := rfl
@[simp] theorem State.mapCtx_fencedRemoteLinks (c : Nat) (f : Context → Context) : (s.mapCtx c f).fencedRemoteLinks = s.fencedRemoteLinks := rfl
@[simp] theorem State.mapCtx_completion (c : Nat) (f : Context → Context) : (s.mapCtx c f).completion = s.completion := rfl
@[simp] theorem State.mapCtx_caches (c : Nat) (f : Context → Context) : (s.mapCtx c f).caches = s.caches := rfl
@[simp] theorem State.mapCtx_notices (c : Nat) (f : Context → Context) : (s.mapCtx c f).notices = s.notices := rfl
@[simp] theorem State.mapCtx_domain (c : Nat) (f : Context → Context) : (s.mapCtx c f).domain = s.domain := rfl
@[simp] theorem State.mapCtx_homeOps (c : Nat) (f : Context → Context) : (s.mapCtx c f).homeOps = s.homeOps := rfl
@[simp] theorem State.mapCtx_trail (c : Nat) (f : Context → Context) : (s.mapCtx c f).trail = s.trail := rfl

/-! #### setTask -/

@[simp] theorem State.setTask_now (t : Task) : (s.setTask t).now = s.now := rfl
@[simp] theorem State.setTask_moves (t : Task) : (s.setTask t).moves = s.moves := rfl
@[simp] theorem State.setTask_cur (t : Task) : (s.setTask t).cur = s.cur := rfl
@[simp] theorem State.setTask_fresh (t : Task) : (s.setTask t).fresh = s.fresh := rfl
@[simp] theorem State.setTask_nextId (t : Task) : (s.setTask t).nextId = s.nextId := rfl
@[simp] theorem State.setTask_powered (t : Task) : (s.setTask t).powered = s.powered := rfl
@[simp] theorem State.setTask_start (t : Task) : (s.setTask t).start = s.start := rfl
@[simp] theorem State.setTask_security (t : Task) : (s.setTask t).security = s.security := rfl
@[simp] theorem State.setTask_ownId (t : Task) : (s.setTask t).ownId = s.ownId := rfl
@[simp] theorem State.setTask_hosts (t : Task) : (s.setTask t).hosts = s.hosts := rfl
@[simp] theorem State.setTask_packages (t : Task) : (s.setTask t).packages = s.packages := rfl
@[simp] theorem State.setTask_privileged (t : Task) : (s.setTask t).privileged = s.privileged := rfl
@[simp] theorem State.setTask_clusterMask (t : Task) : (s.setTask t).clusterMask = s.clusterMask := rfl
@[simp] theorem State.setTask_dies (t : Task) : (s.setTask t).dies = s.dies := rfl
@[simp] theorem State.setTask_links (t : Task) : (s.setTask t).links = s.links := rfl
@[simp] theorem State.setTask_ports (t : Task) : (s.setTask t).ports = s.ports := rfl
@[simp] theorem State.setTask_routes (t : Task) : (s.setTask t).routes = s.routes := rfl
@[simp] theorem State.setTask_routePending (t : Task) : (s.setTask t).routePending = s.routePending := rfl
@[simp] theorem State.setTask_fencedPkgs (t : Task) : (s.setTask t).fencedPkgs = s.fencedPkgs := rfl
@[simp] theorem State.setTask_fencedRemoteDies (t : Task) : (s.setTask t).fencedRemoteDies = s.fencedRemoteDies := rfl
@[simp] theorem State.setTask_remote (t : Task) : (s.setTask t).remote = s.remote := rfl
@[simp] theorem State.setTask_mem (t : Task) : (s.setTask t).mem = s.mem := rfl
@[simp] theorem State.setTask_poison (t : Task) : (s.setTask t).poison = s.poison := rfl
@[simp] theorem State.setTask_clusters (t : Task) : (s.setTask t).clusters = s.clusters := rfl
@[simp] theorem State.setTask_cores (t : Task) : (s.setTask t).cores = s.cores := rfl
@[simp] theorem State.setTask_contexts (t : Task) : (s.setTask t).contexts = s.contexts := rfl
@[simp] theorem State.setTask_notifyLost (t : Task) : (s.setTask t).notifyLost = s.notifyLost := rfl
@[simp] theorem State.setTask_queues (t : Task) : (s.setTask t).queues = s.queues := rfl
@[simp] theorem State.setTask_staging (t : Task) : (s.setTask t).staging = s.staging := rfl
@[simp] theorem State.setTask_gangs (t : Task) : (s.setTask t).gangs = s.gangs := rfl
@[simp] theorem State.setTask_dirs (t : Task) : (s.setTask t).dirs = s.dirs := rfl
@[simp] theorem State.setTask_nextTask (t : Task) : (s.setTask t).nextTask = s.nextTask := rfl
@[simp] theorem State.setTask_ops (t : Task) : (s.setTask t).ops = s.ops := rfl
@[simp] theorem State.setTask_imprecise (t : Task) : (s.setTask t).imprecise = s.imprecise := rfl
@[simp] theorem State.setTask_profs (t : Task) : (s.setTask t).profs = s.profs := rfl
@[simp] theorem State.setTask_testInterval (t : Task) : (s.setTask t).testInterval = s.testInterval := rfl
@[simp] theorem State.setTask_tlbinvPending (t : Task) : (s.setTask t).tlbinvPending = s.tlbinvPending := rfl
@[simp] theorem State.setTask_tlbinvQueue (t : Task) : (s.setTask t).tlbinvQueue = s.tlbinvQueue := rfl
@[simp] theorem State.setTask_tlbinvDone (t : Task) : (s.setTask t).tlbinvDone = s.tlbinvDone := rfl
@[simp] theorem State.setTask_handlerEntry (t : Task) : (s.setTask t).handlerEntry = s.handlerEntry := rfl
@[simp] theorem State.setTask_hangLimit (t : Task) : (s.setTask t).hangLimit = s.hangLimit := rfl
@[simp] theorem State.setTask_hostStatus (t : Task) : (s.setTask t).hostStatus = s.hostStatus := rfl
@[simp] theorem State.setTask_cut (t : Task) : (s.setTask t).cut = s.cut := rfl
@[simp] theorem State.setTask_bridges (t : Task) : (s.setTask t).bridges = s.bridges := rfl
@[simp] theorem State.setTask_sampledAt (t : Task) : (s.setTask t).sampledAt = s.sampledAt := rfl
@[simp] theorem State.setTask_startedAt (t : Task) : (s.setTask t).startedAt = s.startedAt := rfl
@[simp] theorem State.setTask_fencedRemoteLinks (t : Task) : (s.setTask t).fencedRemoteLinks = s.fencedRemoteLinks := rfl
@[simp] theorem State.setTask_completion (t : Task) : (s.setTask t).completion = s.completion := rfl
@[simp] theorem State.setTask_caches (t : Task) : (s.setTask t).caches = s.caches := rfl
@[simp] theorem State.setTask_notices (t : Task) : (s.setTask t).notices = s.notices := rfl
@[simp] theorem State.setTask_domain (t : Task) : (s.setTask t).domain = s.domain := rfl
@[simp] theorem State.setTask_homeOps (t : Task) : (s.setTask t).homeOps = s.homeOps := rfl
@[simp] theorem State.setTask_trail (t : Task) : (s.setTask t).trail = s.trail := rfl

/-! #### mapTask -/

@[simp] theorem State.mapTask_now (t : Nat) (f : Task → Task) : (s.mapTask t f).now = s.now := rfl
@[simp] theorem State.mapTask_moves (t : Nat) (f : Task → Task) : (s.mapTask t f).moves = s.moves := rfl
@[simp] theorem State.mapTask_cur (t : Nat) (f : Task → Task) : (s.mapTask t f).cur = s.cur := rfl
@[simp] theorem State.mapTask_fresh (t : Nat) (f : Task → Task) : (s.mapTask t f).fresh = s.fresh := rfl
@[simp] theorem State.mapTask_nextId (t : Nat) (f : Task → Task) : (s.mapTask t f).nextId = s.nextId := rfl
@[simp] theorem State.mapTask_powered (t : Nat) (f : Task → Task) : (s.mapTask t f).powered = s.powered := rfl
@[simp] theorem State.mapTask_start (t : Nat) (f : Task → Task) : (s.mapTask t f).start = s.start := rfl
@[simp] theorem State.mapTask_security (t : Nat) (f : Task → Task) : (s.mapTask t f).security = s.security := rfl
@[simp] theorem State.mapTask_ownId (t : Nat) (f : Task → Task) : (s.mapTask t f).ownId = s.ownId := rfl
@[simp] theorem State.mapTask_hosts (t : Nat) (f : Task → Task) : (s.mapTask t f).hosts = s.hosts := rfl
@[simp] theorem State.mapTask_packages (t : Nat) (f : Task → Task) : (s.mapTask t f).packages = s.packages := rfl
@[simp] theorem State.mapTask_privileged (t : Nat) (f : Task → Task) : (s.mapTask t f).privileged = s.privileged := rfl
@[simp] theorem State.mapTask_clusterMask (t : Nat) (f : Task → Task) : (s.mapTask t f).clusterMask = s.clusterMask := rfl
@[simp] theorem State.mapTask_dies (t : Nat) (f : Task → Task) : (s.mapTask t f).dies = s.dies := rfl
@[simp] theorem State.mapTask_links (t : Nat) (f : Task → Task) : (s.mapTask t f).links = s.links := rfl
@[simp] theorem State.mapTask_ports (t : Nat) (f : Task → Task) : (s.mapTask t f).ports = s.ports := rfl
@[simp] theorem State.mapTask_routes (t : Nat) (f : Task → Task) : (s.mapTask t f).routes = s.routes := rfl
@[simp] theorem State.mapTask_routePending (t : Nat) (f : Task → Task) : (s.mapTask t f).routePending = s.routePending := rfl
@[simp] theorem State.mapTask_fencedPkgs (t : Nat) (f : Task → Task) : (s.mapTask t f).fencedPkgs = s.fencedPkgs := rfl
@[simp] theorem State.mapTask_fencedRemoteDies (t : Nat) (f : Task → Task) : (s.mapTask t f).fencedRemoteDies = s.fencedRemoteDies := rfl
@[simp] theorem State.mapTask_remote (t : Nat) (f : Task → Task) : (s.mapTask t f).remote = s.remote := rfl
@[simp] theorem State.mapTask_mem (t : Nat) (f : Task → Task) : (s.mapTask t f).mem = s.mem := rfl
@[simp] theorem State.mapTask_poison (t : Nat) (f : Task → Task) : (s.mapTask t f).poison = s.poison := rfl
@[simp] theorem State.mapTask_clusters (t : Nat) (f : Task → Task) : (s.mapTask t f).clusters = s.clusters := rfl
@[simp] theorem State.mapTask_cores (t : Nat) (f : Task → Task) : (s.mapTask t f).cores = s.cores := rfl
@[simp] theorem State.mapTask_contexts (t : Nat) (f : Task → Task) : (s.mapTask t f).contexts = s.contexts := rfl
@[simp] theorem State.mapTask_notifyLost (t : Nat) (f : Task → Task) : (s.mapTask t f).notifyLost = s.notifyLost := rfl
@[simp] theorem State.mapTask_queues (t : Nat) (f : Task → Task) : (s.mapTask t f).queues = s.queues := rfl
@[simp] theorem State.mapTask_staging (t : Nat) (f : Task → Task) : (s.mapTask t f).staging = s.staging := rfl
@[simp] theorem State.mapTask_gangs (t : Nat) (f : Task → Task) : (s.mapTask t f).gangs = s.gangs := rfl
@[simp] theorem State.mapTask_dirs (t : Nat) (f : Task → Task) : (s.mapTask t f).dirs = s.dirs := rfl
@[simp] theorem State.mapTask_nextTask (t : Nat) (f : Task → Task) : (s.mapTask t f).nextTask = s.nextTask := rfl
@[simp] theorem State.mapTask_ops (t : Nat) (f : Task → Task) : (s.mapTask t f).ops = s.ops := rfl
@[simp] theorem State.mapTask_imprecise (t : Nat) (f : Task → Task) : (s.mapTask t f).imprecise = s.imprecise := rfl
@[simp] theorem State.mapTask_profs (t : Nat) (f : Task → Task) : (s.mapTask t f).profs = s.profs := rfl
@[simp] theorem State.mapTask_testInterval (t : Nat) (f : Task → Task) : (s.mapTask t f).testInterval = s.testInterval := rfl
@[simp] theorem State.mapTask_tlbinvPending (t : Nat) (f : Task → Task) : (s.mapTask t f).tlbinvPending = s.tlbinvPending := rfl
@[simp] theorem State.mapTask_tlbinvQueue (t : Nat) (f : Task → Task) : (s.mapTask t f).tlbinvQueue = s.tlbinvQueue := rfl
@[simp] theorem State.mapTask_tlbinvDone (t : Nat) (f : Task → Task) : (s.mapTask t f).tlbinvDone = s.tlbinvDone := rfl
@[simp] theorem State.mapTask_handlerEntry (t : Nat) (f : Task → Task) : (s.mapTask t f).handlerEntry = s.handlerEntry := rfl
@[simp] theorem State.mapTask_hangLimit (t : Nat) (f : Task → Task) : (s.mapTask t f).hangLimit = s.hangLimit := rfl
@[simp] theorem State.mapTask_hostStatus (t : Nat) (f : Task → Task) : (s.mapTask t f).hostStatus = s.hostStatus := rfl
@[simp] theorem State.mapTask_cut (t : Nat) (f : Task → Task) : (s.mapTask t f).cut = s.cut := rfl
@[simp] theorem State.mapTask_bridges (t : Nat) (f : Task → Task) : (s.mapTask t f).bridges = s.bridges := rfl
@[simp] theorem State.mapTask_sampledAt (t : Nat) (f : Task → Task) : (s.mapTask t f).sampledAt = s.sampledAt := rfl
@[simp] theorem State.mapTask_startedAt (t : Nat) (f : Task → Task) : (s.mapTask t f).startedAt = s.startedAt := rfl
@[simp] theorem State.mapTask_fencedRemoteLinks (t : Nat) (f : Task → Task) : (s.mapTask t f).fencedRemoteLinks = s.fencedRemoteLinks := rfl
@[simp] theorem State.mapTask_completion (t : Nat) (f : Task → Task) : (s.mapTask t f).completion = s.completion := rfl
@[simp] theorem State.mapTask_caches (t : Nat) (f : Task → Task) : (s.mapTask t f).caches = s.caches := rfl
@[simp] theorem State.mapTask_notices (t : Nat) (f : Task → Task) : (s.mapTask t f).notices = s.notices := rfl
@[simp] theorem State.mapTask_domain (t : Nat) (f : Task → Task) : (s.mapTask t f).domain = s.domain := rfl
@[simp] theorem State.mapTask_homeOps (t : Nat) (f : Task → Task) : (s.mapTask t f).homeOps = s.homeOps := rfl
@[simp] theorem State.mapTask_trail (t : Nat) (f : Task → Task) : (s.mapTask t f).trail = s.trail := rfl

/-! #### setGang -/

@[simp] theorem State.setGang_now (g : Gang) : (s.setGang g).now = s.now := rfl
@[simp] theorem State.setGang_moves (g : Gang) : (s.setGang g).moves = s.moves := rfl
@[simp] theorem State.setGang_cur (g : Gang) : (s.setGang g).cur = s.cur := rfl
@[simp] theorem State.setGang_fresh (g : Gang) : (s.setGang g).fresh = s.fresh := rfl
@[simp] theorem State.setGang_nextId (g : Gang) : (s.setGang g).nextId = s.nextId := rfl
@[simp] theorem State.setGang_powered (g : Gang) : (s.setGang g).powered = s.powered := rfl
@[simp] theorem State.setGang_start (g : Gang) : (s.setGang g).start = s.start := rfl
@[simp] theorem State.setGang_security (g : Gang) : (s.setGang g).security = s.security := rfl
@[simp] theorem State.setGang_ownId (g : Gang) : (s.setGang g).ownId = s.ownId := rfl
@[simp] theorem State.setGang_hosts (g : Gang) : (s.setGang g).hosts = s.hosts := rfl
@[simp] theorem State.setGang_packages (g : Gang) : (s.setGang g).packages = s.packages := rfl
@[simp] theorem State.setGang_privileged (g : Gang) : (s.setGang g).privileged = s.privileged := rfl
@[simp] theorem State.setGang_clusterMask (g : Gang) : (s.setGang g).clusterMask = s.clusterMask := rfl
@[simp] theorem State.setGang_dies (g : Gang) : (s.setGang g).dies = s.dies := rfl
@[simp] theorem State.setGang_links (g : Gang) : (s.setGang g).links = s.links := rfl
@[simp] theorem State.setGang_ports (g : Gang) : (s.setGang g).ports = s.ports := rfl
@[simp] theorem State.setGang_routes (g : Gang) : (s.setGang g).routes = s.routes := rfl
@[simp] theorem State.setGang_routePending (g : Gang) : (s.setGang g).routePending = s.routePending := rfl
@[simp] theorem State.setGang_fencedPkgs (g : Gang) : (s.setGang g).fencedPkgs = s.fencedPkgs := rfl
@[simp] theorem State.setGang_fencedRemoteDies (g : Gang) : (s.setGang g).fencedRemoteDies = s.fencedRemoteDies := rfl
@[simp] theorem State.setGang_remote (g : Gang) : (s.setGang g).remote = s.remote := rfl
@[simp] theorem State.setGang_mem (g : Gang) : (s.setGang g).mem = s.mem := rfl
@[simp] theorem State.setGang_poison (g : Gang) : (s.setGang g).poison = s.poison := rfl
@[simp] theorem State.setGang_clusters (g : Gang) : (s.setGang g).clusters = s.clusters := rfl
@[simp] theorem State.setGang_cores (g : Gang) : (s.setGang g).cores = s.cores := rfl
@[simp] theorem State.setGang_contexts (g : Gang) : (s.setGang g).contexts = s.contexts := rfl
@[simp] theorem State.setGang_notifyLost (g : Gang) : (s.setGang g).notifyLost = s.notifyLost := rfl
@[simp] theorem State.setGang_queues (g : Gang) : (s.setGang g).queues = s.queues := rfl
@[simp] theorem State.setGang_staging (g : Gang) : (s.setGang g).staging = s.staging := rfl
@[simp] theorem State.setGang_tasks (g : Gang) : (s.setGang g).tasks = s.tasks := rfl
@[simp] theorem State.setGang_dirs (g : Gang) : (s.setGang g).dirs = s.dirs := rfl
@[simp] theorem State.setGang_nextTask (g : Gang) : (s.setGang g).nextTask = s.nextTask := rfl
@[simp] theorem State.setGang_ops (g : Gang) : (s.setGang g).ops = s.ops := rfl
@[simp] theorem State.setGang_imprecise (g : Gang) : (s.setGang g).imprecise = s.imprecise := rfl
@[simp] theorem State.setGang_profs (g : Gang) : (s.setGang g).profs = s.profs := rfl
@[simp] theorem State.setGang_testInterval (g : Gang) : (s.setGang g).testInterval = s.testInterval := rfl
@[simp] theorem State.setGang_tlbinvPending (g : Gang) : (s.setGang g).tlbinvPending = s.tlbinvPending := rfl
@[simp] theorem State.setGang_tlbinvQueue (g : Gang) : (s.setGang g).tlbinvQueue = s.tlbinvQueue := rfl
@[simp] theorem State.setGang_tlbinvDone (g : Gang) : (s.setGang g).tlbinvDone = s.tlbinvDone := rfl
@[simp] theorem State.setGang_handlerEntry (g : Gang) : (s.setGang g).handlerEntry = s.handlerEntry := rfl
@[simp] theorem State.setGang_hangLimit (g : Gang) : (s.setGang g).hangLimit = s.hangLimit := rfl
@[simp] theorem State.setGang_hostStatus (g : Gang) : (s.setGang g).hostStatus = s.hostStatus := rfl
@[simp] theorem State.setGang_cut (g : Gang) : (s.setGang g).cut = s.cut := rfl
@[simp] theorem State.setGang_bridges (g : Gang) : (s.setGang g).bridges = s.bridges := rfl
@[simp] theorem State.setGang_sampledAt (g : Gang) : (s.setGang g).sampledAt = s.sampledAt := rfl
@[simp] theorem State.setGang_startedAt (g : Gang) : (s.setGang g).startedAt = s.startedAt := rfl
@[simp] theorem State.setGang_fencedRemoteLinks (g : Gang) : (s.setGang g).fencedRemoteLinks = s.fencedRemoteLinks := rfl
@[simp] theorem State.setGang_completion (g : Gang) : (s.setGang g).completion = s.completion := rfl
@[simp] theorem State.setGang_caches (g : Gang) : (s.setGang g).caches = s.caches := rfl
@[simp] theorem State.setGang_notices (g : Gang) : (s.setGang g).notices = s.notices := rfl
@[simp] theorem State.setGang_domain (g : Gang) : (s.setGang g).domain = s.domain := rfl
@[simp] theorem State.setGang_homeOps (g : Gang) : (s.setGang g).homeOps = s.homeOps := rfl
@[simp] theorem State.setGang_trail (g : Gang) : (s.setGang g).trail = s.trail := rfl

/-! #### mapGang -/

@[simp] theorem State.mapGang_now (t g : Nat) (f : Gang → Gang) : (s.mapGang t g f).now = s.now := rfl
@[simp] theorem State.mapGang_moves (t g : Nat) (f : Gang → Gang) : (s.mapGang t g f).moves = s.moves := rfl
@[simp] theorem State.mapGang_cur (t g : Nat) (f : Gang → Gang) : (s.mapGang t g f).cur = s.cur := rfl
@[simp] theorem State.mapGang_fresh (t g : Nat) (f : Gang → Gang) : (s.mapGang t g f).fresh = s.fresh := rfl
@[simp] theorem State.mapGang_nextId (t g : Nat) (f : Gang → Gang) : (s.mapGang t g f).nextId = s.nextId := rfl
@[simp] theorem State.mapGang_powered (t g : Nat) (f : Gang → Gang) : (s.mapGang t g f).powered = s.powered := rfl
@[simp] theorem State.mapGang_start (t g : Nat) (f : Gang → Gang) : (s.mapGang t g f).start = s.start := rfl
@[simp] theorem State.mapGang_security (t g : Nat) (f : Gang → Gang) : (s.mapGang t g f).security = s.security := rfl
@[simp] theorem State.mapGang_ownId (t g : Nat) (f : Gang → Gang) : (s.mapGang t g f).ownId = s.ownId := rfl
@[simp] theorem State.mapGang_hosts (t g : Nat) (f : Gang → Gang) : (s.mapGang t g f).hosts = s.hosts := rfl
@[simp] theorem State.mapGang_packages (t g : Nat) (f : Gang → Gang) : (s.mapGang t g f).packages = s.packages := rfl
@[simp] theorem State.mapGang_privileged (t g : Nat) (f : Gang → Gang) : (s.mapGang t g f).privileged = s.privileged := rfl
@[simp] theorem State.mapGang_clusterMask (t g : Nat) (f : Gang → Gang) : (s.mapGang t g f).clusterMask = s.clusterMask := rfl
@[simp] theorem State.mapGang_dies (t g : Nat) (f : Gang → Gang) : (s.mapGang t g f).dies = s.dies := rfl
@[simp] theorem State.mapGang_links (t g : Nat) (f : Gang → Gang) : (s.mapGang t g f).links = s.links := rfl
@[simp] theorem State.mapGang_ports (t g : Nat) (f : Gang → Gang) : (s.mapGang t g f).ports = s.ports := rfl
@[simp] theorem State.mapGang_routes (t g : Nat) (f : Gang → Gang) : (s.mapGang t g f).routes = s.routes := rfl
@[simp] theorem State.mapGang_routePending (t g : Nat) (f : Gang → Gang) : (s.mapGang t g f).routePending = s.routePending := rfl
@[simp] theorem State.mapGang_fencedPkgs (t g : Nat) (f : Gang → Gang) : (s.mapGang t g f).fencedPkgs = s.fencedPkgs := rfl
@[simp] theorem State.mapGang_fencedRemoteDies (t g : Nat) (f : Gang → Gang) : (s.mapGang t g f).fencedRemoteDies = s.fencedRemoteDies := rfl
@[simp] theorem State.mapGang_remote (t g : Nat) (f : Gang → Gang) : (s.mapGang t g f).remote = s.remote := rfl
@[simp] theorem State.mapGang_mem (t g : Nat) (f : Gang → Gang) : (s.mapGang t g f).mem = s.mem := rfl
@[simp] theorem State.mapGang_poison (t g : Nat) (f : Gang → Gang) : (s.mapGang t g f).poison = s.poison := rfl
@[simp] theorem State.mapGang_clusters (t g : Nat) (f : Gang → Gang) : (s.mapGang t g f).clusters = s.clusters := rfl
@[simp] theorem State.mapGang_cores (t g : Nat) (f : Gang → Gang) : (s.mapGang t g f).cores = s.cores := rfl
@[simp] theorem State.mapGang_contexts (t g : Nat) (f : Gang → Gang) : (s.mapGang t g f).contexts = s.contexts := rfl
@[simp] theorem State.mapGang_notifyLost (t g : Nat) (f : Gang → Gang) : (s.mapGang t g f).notifyLost = s.notifyLost := rfl
@[simp] theorem State.mapGang_queues (t g : Nat) (f : Gang → Gang) : (s.mapGang t g f).queues = s.queues := rfl
@[simp] theorem State.mapGang_staging (t g : Nat) (f : Gang → Gang) : (s.mapGang t g f).staging = s.staging := rfl
@[simp] theorem State.mapGang_tasks (t g : Nat) (f : Gang → Gang) : (s.mapGang t g f).tasks = s.tasks := rfl
@[simp] theorem State.mapGang_dirs (t g : Nat) (f : Gang → Gang) : (s.mapGang t g f).dirs = s.dirs := rfl
@[simp] theorem State.mapGang_nextTask (t g : Nat) (f : Gang → Gang) : (s.mapGang t g f).nextTask = s.nextTask := rfl
@[simp] theorem State.mapGang_ops (t g : Nat) (f : Gang → Gang) : (s.mapGang t g f).ops = s.ops := rfl
@[simp] theorem State.mapGang_imprecise (t g : Nat) (f : Gang → Gang) : (s.mapGang t g f).imprecise = s.imprecise := rfl
@[simp] theorem State.mapGang_profs (t g : Nat) (f : Gang → Gang) : (s.mapGang t g f).profs = s.profs := rfl
@[simp] theorem State.mapGang_testInterval (t g : Nat) (f : Gang → Gang) : (s.mapGang t g f).testInterval = s.testInterval := rfl
@[simp] theorem State.mapGang_tlbinvPending (t g : Nat) (f : Gang → Gang) : (s.mapGang t g f).tlbinvPending = s.tlbinvPending := rfl
@[simp] theorem State.mapGang_tlbinvQueue (t g : Nat) (f : Gang → Gang) : (s.mapGang t g f).tlbinvQueue = s.tlbinvQueue := rfl
@[simp] theorem State.mapGang_tlbinvDone (t g : Nat) (f : Gang → Gang) : (s.mapGang t g f).tlbinvDone = s.tlbinvDone := rfl
@[simp] theorem State.mapGang_handlerEntry (t g : Nat) (f : Gang → Gang) : (s.mapGang t g f).handlerEntry = s.handlerEntry := rfl
@[simp] theorem State.mapGang_hangLimit (t g : Nat) (f : Gang → Gang) : (s.mapGang t g f).hangLimit = s.hangLimit := rfl
@[simp] theorem State.mapGang_hostStatus (t g : Nat) (f : Gang → Gang) : (s.mapGang t g f).hostStatus = s.hostStatus := rfl
@[simp] theorem State.mapGang_cut (t g : Nat) (f : Gang → Gang) : (s.mapGang t g f).cut = s.cut := rfl
@[simp] theorem State.mapGang_bridges (t g : Nat) (f : Gang → Gang) : (s.mapGang t g f).bridges = s.bridges := rfl
@[simp] theorem State.mapGang_sampledAt (t g : Nat) (f : Gang → Gang) : (s.mapGang t g f).sampledAt = s.sampledAt := rfl
@[simp] theorem State.mapGang_startedAt (t g : Nat) (f : Gang → Gang) : (s.mapGang t g f).startedAt = s.startedAt := rfl
@[simp] theorem State.mapGang_fencedRemoteLinks (t g : Nat) (f : Gang → Gang) : (s.mapGang t g f).fencedRemoteLinks = s.fencedRemoteLinks := rfl
@[simp] theorem State.mapGang_completion (t g : Nat) (f : Gang → Gang) : (s.mapGang t g f).completion = s.completion := rfl
@[simp] theorem State.mapGang_caches (t g : Nat) (f : Gang → Gang) : (s.mapGang t g f).caches = s.caches := rfl
@[simp] theorem State.mapGang_notices (t g : Nat) (f : Gang → Gang) : (s.mapGang t g f).notices = s.notices := rfl
@[simp] theorem State.mapGang_domain (t g : Nat) (f : Gang → Gang) : (s.mapGang t g f).domain = s.domain := rfl
@[simp] theorem State.mapGang_homeOps (t g : Nat) (f : Gang → Gang) : (s.mapGang t g f).homeOps = s.homeOps := rfl
@[simp] theorem State.mapGang_trail (t g : Nat) (f : Gang → Gang) : (s.mapGang t g f).trail = s.trail := rfl

/-! #### setCluster -/

@[simp] theorem State.setCluster_now (c : Nat) (x : Cluster) : (s.setCluster c x).now = s.now := rfl
@[simp] theorem State.setCluster_moves (c : Nat) (x : Cluster) : (s.setCluster c x).moves = s.moves := rfl
@[simp] theorem State.setCluster_cur (c : Nat) (x : Cluster) : (s.setCluster c x).cur = s.cur := rfl
@[simp] theorem State.setCluster_fresh (c : Nat) (x : Cluster) : (s.setCluster c x).fresh = s.fresh := rfl
@[simp] theorem State.setCluster_nextId (c : Nat) (x : Cluster) : (s.setCluster c x).nextId = s.nextId := rfl
@[simp] theorem State.setCluster_powered (c : Nat) (x : Cluster) : (s.setCluster c x).powered = s.powered := rfl
@[simp] theorem State.setCluster_start (c : Nat) (x : Cluster) : (s.setCluster c x).start = s.start := rfl
@[simp] theorem State.setCluster_security (c : Nat) (x : Cluster) : (s.setCluster c x).security = s.security := rfl
@[simp] theorem State.setCluster_ownId (c : Nat) (x : Cluster) : (s.setCluster c x).ownId = s.ownId := rfl
@[simp] theorem State.setCluster_hosts (c : Nat) (x : Cluster) : (s.setCluster c x).hosts = s.hosts := rfl
@[simp] theorem State.setCluster_packages (c : Nat) (x : Cluster) : (s.setCluster c x).packages = s.packages := rfl
@[simp] theorem State.setCluster_privileged (c : Nat) (x : Cluster) : (s.setCluster c x).privileged = s.privileged := rfl
@[simp] theorem State.setCluster_clusterMask (c : Nat) (x : Cluster) : (s.setCluster c x).clusterMask = s.clusterMask := rfl
@[simp] theorem State.setCluster_dies (c : Nat) (x : Cluster) : (s.setCluster c x).dies = s.dies := rfl
@[simp] theorem State.setCluster_links (c : Nat) (x : Cluster) : (s.setCluster c x).links = s.links := rfl
@[simp] theorem State.setCluster_ports (c : Nat) (x : Cluster) : (s.setCluster c x).ports = s.ports := rfl
@[simp] theorem State.setCluster_routes (c : Nat) (x : Cluster) : (s.setCluster c x).routes = s.routes := rfl
@[simp] theorem State.setCluster_routePending (c : Nat) (x : Cluster) : (s.setCluster c x).routePending = s.routePending := rfl
@[simp] theorem State.setCluster_fencedPkgs (c : Nat) (x : Cluster) : (s.setCluster c x).fencedPkgs = s.fencedPkgs := rfl
@[simp] theorem State.setCluster_fencedRemoteDies (c : Nat) (x : Cluster) : (s.setCluster c x).fencedRemoteDies = s.fencedRemoteDies := rfl
@[simp] theorem State.setCluster_remote (c : Nat) (x : Cluster) : (s.setCluster c x).remote = s.remote := rfl
@[simp] theorem State.setCluster_mem (c : Nat) (x : Cluster) : (s.setCluster c x).mem = s.mem := rfl
@[simp] theorem State.setCluster_poison (c : Nat) (x : Cluster) : (s.setCluster c x).poison = s.poison := rfl
@[simp] theorem State.setCluster_cores (c : Nat) (x : Cluster) : (s.setCluster c x).cores = s.cores := rfl
@[simp] theorem State.setCluster_contexts (c : Nat) (x : Cluster) : (s.setCluster c x).contexts = s.contexts := rfl
@[simp] theorem State.setCluster_notifyLost (c : Nat) (x : Cluster) : (s.setCluster c x).notifyLost = s.notifyLost := rfl
@[simp] theorem State.setCluster_queues (c : Nat) (x : Cluster) : (s.setCluster c x).queues = s.queues := rfl
@[simp] theorem State.setCluster_staging (c : Nat) (x : Cluster) : (s.setCluster c x).staging = s.staging := rfl
@[simp] theorem State.setCluster_tasks (c : Nat) (x : Cluster) : (s.setCluster c x).tasks = s.tasks := rfl
@[simp] theorem State.setCluster_gangs (c : Nat) (x : Cluster) : (s.setCluster c x).gangs = s.gangs := rfl
@[simp] theorem State.setCluster_dirs (c : Nat) (x : Cluster) : (s.setCluster c x).dirs = s.dirs := rfl
@[simp] theorem State.setCluster_nextTask (c : Nat) (x : Cluster) : (s.setCluster c x).nextTask = s.nextTask := rfl
@[simp] theorem State.setCluster_ops (c : Nat) (x : Cluster) : (s.setCluster c x).ops = s.ops := rfl
@[simp] theorem State.setCluster_imprecise (c : Nat) (x : Cluster) : (s.setCluster c x).imprecise = s.imprecise := rfl
@[simp] theorem State.setCluster_profs (c : Nat) (x : Cluster) : (s.setCluster c x).profs = s.profs := rfl
@[simp] theorem State.setCluster_testInterval (c : Nat) (x : Cluster) : (s.setCluster c x).testInterval = s.testInterval := rfl
@[simp] theorem State.setCluster_tlbinvPending (c : Nat) (x : Cluster) : (s.setCluster c x).tlbinvPending = s.tlbinvPending := rfl
@[simp] theorem State.setCluster_tlbinvQueue (c : Nat) (x : Cluster) : (s.setCluster c x).tlbinvQueue = s.tlbinvQueue := rfl
@[simp] theorem State.setCluster_tlbinvDone (c : Nat) (x : Cluster) : (s.setCluster c x).tlbinvDone = s.tlbinvDone := rfl
@[simp] theorem State.setCluster_handlerEntry (c : Nat) (x : Cluster) : (s.setCluster c x).handlerEntry = s.handlerEntry := rfl
@[simp] theorem State.setCluster_hangLimit (c : Nat) (x : Cluster) : (s.setCluster c x).hangLimit = s.hangLimit := rfl
@[simp] theorem State.setCluster_hostStatus (c : Nat) (x : Cluster) : (s.setCluster c x).hostStatus = s.hostStatus := rfl
@[simp] theorem State.setCluster_cut (c : Nat) (x : Cluster) : (s.setCluster c x).cut = s.cut := rfl
@[simp] theorem State.setCluster_bridges (c : Nat) (x : Cluster) : (s.setCluster c x).bridges = s.bridges := rfl
@[simp] theorem State.setCluster_sampledAt (c : Nat) (x : Cluster) : (s.setCluster c x).sampledAt = s.sampledAt := rfl
@[simp] theorem State.setCluster_startedAt (c : Nat) (x : Cluster) : (s.setCluster c x).startedAt = s.startedAt := rfl
@[simp] theorem State.setCluster_fencedRemoteLinks (c : Nat) (x : Cluster) : (s.setCluster c x).fencedRemoteLinks = s.fencedRemoteLinks := rfl
@[simp] theorem State.setCluster_completion (c : Nat) (x : Cluster) : (s.setCluster c x).completion = s.completion := rfl
@[simp] theorem State.setCluster_caches (c : Nat) (x : Cluster) : (s.setCluster c x).caches = s.caches := rfl
@[simp] theorem State.setCluster_notices (c : Nat) (x : Cluster) : (s.setCluster c x).notices = s.notices := rfl
@[simp] theorem State.setCluster_domain (c : Nat) (x : Cluster) : (s.setCluster c x).domain = s.domain := rfl
@[simp] theorem State.setCluster_homeOps (c : Nat) (x : Cluster) : (s.setCluster c x).homeOps = s.homeOps := rfl
@[simp] theorem State.setCluster_trail (c : Nat) (x : Cluster) : (s.setCluster c x).trail = s.trail := rfl

/-! #### mapCluster -/

@[simp] theorem State.mapCluster_now (c : Nat) (f : Cluster → Cluster) : (s.mapCluster c f).now = s.now := rfl
@[simp] theorem State.mapCluster_moves (c : Nat) (f : Cluster → Cluster) : (s.mapCluster c f).moves = s.moves := rfl
@[simp] theorem State.mapCluster_cur (c : Nat) (f : Cluster → Cluster) : (s.mapCluster c f).cur = s.cur := rfl
@[simp] theorem State.mapCluster_fresh (c : Nat) (f : Cluster → Cluster) : (s.mapCluster c f).fresh = s.fresh := rfl
@[simp] theorem State.mapCluster_nextId (c : Nat) (f : Cluster → Cluster) : (s.mapCluster c f).nextId = s.nextId := rfl
@[simp] theorem State.mapCluster_powered (c : Nat) (f : Cluster → Cluster) : (s.mapCluster c f).powered = s.powered := rfl
@[simp] theorem State.mapCluster_start (c : Nat) (f : Cluster → Cluster) : (s.mapCluster c f).start = s.start := rfl
@[simp] theorem State.mapCluster_security (c : Nat) (f : Cluster → Cluster) : (s.mapCluster c f).security = s.security := rfl
@[simp] theorem State.mapCluster_ownId (c : Nat) (f : Cluster → Cluster) : (s.mapCluster c f).ownId = s.ownId := rfl
@[simp] theorem State.mapCluster_hosts (c : Nat) (f : Cluster → Cluster) : (s.mapCluster c f).hosts = s.hosts := rfl
@[simp] theorem State.mapCluster_packages (c : Nat) (f : Cluster → Cluster) : (s.mapCluster c f).packages = s.packages := rfl
@[simp] theorem State.mapCluster_privileged (c : Nat) (f : Cluster → Cluster) : (s.mapCluster c f).privileged = s.privileged := rfl
@[simp] theorem State.mapCluster_clusterMask (c : Nat) (f : Cluster → Cluster) : (s.mapCluster c f).clusterMask = s.clusterMask := rfl
@[simp] theorem State.mapCluster_dies (c : Nat) (f : Cluster → Cluster) : (s.mapCluster c f).dies = s.dies := rfl
@[simp] theorem State.mapCluster_links (c : Nat) (f : Cluster → Cluster) : (s.mapCluster c f).links = s.links := rfl
@[simp] theorem State.mapCluster_ports (c : Nat) (f : Cluster → Cluster) : (s.mapCluster c f).ports = s.ports := rfl
@[simp] theorem State.mapCluster_routes (c : Nat) (f : Cluster → Cluster) : (s.mapCluster c f).routes = s.routes := rfl
@[simp] theorem State.mapCluster_routePending (c : Nat) (f : Cluster → Cluster) : (s.mapCluster c f).routePending = s.routePending := rfl
@[simp] theorem State.mapCluster_fencedPkgs (c : Nat) (f : Cluster → Cluster) : (s.mapCluster c f).fencedPkgs = s.fencedPkgs := rfl
@[simp] theorem State.mapCluster_fencedRemoteDies (c : Nat) (f : Cluster → Cluster) : (s.mapCluster c f).fencedRemoteDies = s.fencedRemoteDies := rfl
@[simp] theorem State.mapCluster_remote (c : Nat) (f : Cluster → Cluster) : (s.mapCluster c f).remote = s.remote := rfl
@[simp] theorem State.mapCluster_mem (c : Nat) (f : Cluster → Cluster) : (s.mapCluster c f).mem = s.mem := rfl
@[simp] theorem State.mapCluster_poison (c : Nat) (f : Cluster → Cluster) : (s.mapCluster c f).poison = s.poison := rfl
@[simp] theorem State.mapCluster_cores (c : Nat) (f : Cluster → Cluster) : (s.mapCluster c f).cores = s.cores := rfl
@[simp] theorem State.mapCluster_contexts (c : Nat) (f : Cluster → Cluster) : (s.mapCluster c f).contexts = s.contexts := rfl
@[simp] theorem State.mapCluster_notifyLost (c : Nat) (f : Cluster → Cluster) : (s.mapCluster c f).notifyLost = s.notifyLost := rfl
@[simp] theorem State.mapCluster_queues (c : Nat) (f : Cluster → Cluster) : (s.mapCluster c f).queues = s.queues := rfl
@[simp] theorem State.mapCluster_staging (c : Nat) (f : Cluster → Cluster) : (s.mapCluster c f).staging = s.staging := rfl
@[simp] theorem State.mapCluster_tasks (c : Nat) (f : Cluster → Cluster) : (s.mapCluster c f).tasks = s.tasks := rfl
@[simp] theorem State.mapCluster_gangs (c : Nat) (f : Cluster → Cluster) : (s.mapCluster c f).gangs = s.gangs := rfl
@[simp] theorem State.mapCluster_dirs (c : Nat) (f : Cluster → Cluster) : (s.mapCluster c f).dirs = s.dirs := rfl
@[simp] theorem State.mapCluster_nextTask (c : Nat) (f : Cluster → Cluster) : (s.mapCluster c f).nextTask = s.nextTask := rfl
@[simp] theorem State.mapCluster_ops (c : Nat) (f : Cluster → Cluster) : (s.mapCluster c f).ops = s.ops := rfl
@[simp] theorem State.mapCluster_imprecise (c : Nat) (f : Cluster → Cluster) : (s.mapCluster c f).imprecise = s.imprecise := rfl
@[simp] theorem State.mapCluster_profs (c : Nat) (f : Cluster → Cluster) : (s.mapCluster c f).profs = s.profs := rfl
@[simp] theorem State.mapCluster_testInterval (c : Nat) (f : Cluster → Cluster) : (s.mapCluster c f).testInterval = s.testInterval := rfl
@[simp] theorem State.mapCluster_tlbinvPending (c : Nat) (f : Cluster → Cluster) : (s.mapCluster c f).tlbinvPending = s.tlbinvPending := rfl
@[simp] theorem State.mapCluster_tlbinvQueue (c : Nat) (f : Cluster → Cluster) : (s.mapCluster c f).tlbinvQueue = s.tlbinvQueue := rfl
@[simp] theorem State.mapCluster_tlbinvDone (c : Nat) (f : Cluster → Cluster) : (s.mapCluster c f).tlbinvDone = s.tlbinvDone := rfl
@[simp] theorem State.mapCluster_handlerEntry (c : Nat) (f : Cluster → Cluster) : (s.mapCluster c f).handlerEntry = s.handlerEntry := rfl
@[simp] theorem State.mapCluster_hangLimit (c : Nat) (f : Cluster → Cluster) : (s.mapCluster c f).hangLimit = s.hangLimit := rfl
@[simp] theorem State.mapCluster_hostStatus (c : Nat) (f : Cluster → Cluster) : (s.mapCluster c f).hostStatus = s.hostStatus := rfl
@[simp] theorem State.mapCluster_cut (c : Nat) (f : Cluster → Cluster) : (s.mapCluster c f).cut = s.cut := rfl
@[simp] theorem State.mapCluster_bridges (c : Nat) (f : Cluster → Cluster) : (s.mapCluster c f).bridges = s.bridges := rfl
@[simp] theorem State.mapCluster_sampledAt (c : Nat) (f : Cluster → Cluster) : (s.mapCluster c f).sampledAt = s.sampledAt := rfl
@[simp] theorem State.mapCluster_startedAt (c : Nat) (f : Cluster → Cluster) : (s.mapCluster c f).startedAt = s.startedAt := rfl
@[simp] theorem State.mapCluster_fencedRemoteLinks (c : Nat) (f : Cluster → Cluster) : (s.mapCluster c f).fencedRemoteLinks = s.fencedRemoteLinks := rfl
@[simp] theorem State.mapCluster_completion (c : Nat) (f : Cluster → Cluster) : (s.mapCluster c f).completion = s.completion := rfl
@[simp] theorem State.mapCluster_caches (c : Nat) (f : Cluster → Cluster) : (s.mapCluster c f).caches = s.caches := rfl
@[simp] theorem State.mapCluster_notices (c : Nat) (f : Cluster → Cluster) : (s.mapCluster c f).notices = s.notices := rfl
@[simp] theorem State.mapCluster_domain (c : Nat) (f : Cluster → Cluster) : (s.mapCluster c f).domain = s.domain := rfl
@[simp] theorem State.mapCluster_homeOps (c : Nat) (f : Cluster → Cluster) : (s.mapCluster c f).homeOps = s.homeOps := rfl
@[simp] theorem State.mapCluster_trail (c : Nat) (f : Cluster → Cluster) : (s.mapCluster c f).trail = s.trail := rfl

/-! #### setCore -/

@[simp] theorem State.setCore_now (c : Nat) (x : Core) : (s.setCore c x).now = s.now := rfl
@[simp] theorem State.setCore_moves (c : Nat) (x : Core) : (s.setCore c x).moves = s.moves := rfl
@[simp] theorem State.setCore_cur (c : Nat) (x : Core) : (s.setCore c x).cur = s.cur := rfl
@[simp] theorem State.setCore_fresh (c : Nat) (x : Core) : (s.setCore c x).fresh = s.fresh := rfl
@[simp] theorem State.setCore_nextId (c : Nat) (x : Core) : (s.setCore c x).nextId = s.nextId := rfl
@[simp] theorem State.setCore_powered (c : Nat) (x : Core) : (s.setCore c x).powered = s.powered := rfl
@[simp] theorem State.setCore_start (c : Nat) (x : Core) : (s.setCore c x).start = s.start := rfl
@[simp] theorem State.setCore_security (c : Nat) (x : Core) : (s.setCore c x).security = s.security := rfl
@[simp] theorem State.setCore_ownId (c : Nat) (x : Core) : (s.setCore c x).ownId = s.ownId := rfl
@[simp] theorem State.setCore_hosts (c : Nat) (x : Core) : (s.setCore c x).hosts = s.hosts := rfl
@[simp] theorem State.setCore_packages (c : Nat) (x : Core) : (s.setCore c x).packages = s.packages := rfl
@[simp] theorem State.setCore_privileged (c : Nat) (x : Core) : (s.setCore c x).privileged = s.privileged := rfl
@[simp] theorem State.setCore_clusterMask (c : Nat) (x : Core) : (s.setCore c x).clusterMask = s.clusterMask := rfl
@[simp] theorem State.setCore_dies (c : Nat) (x : Core) : (s.setCore c x).dies = s.dies := rfl
@[simp] theorem State.setCore_links (c : Nat) (x : Core) : (s.setCore c x).links = s.links := rfl
@[simp] theorem State.setCore_ports (c : Nat) (x : Core) : (s.setCore c x).ports = s.ports := rfl
@[simp] theorem State.setCore_routes (c : Nat) (x : Core) : (s.setCore c x).routes = s.routes := rfl
@[simp] theorem State.setCore_routePending (c : Nat) (x : Core) : (s.setCore c x).routePending = s.routePending := rfl
@[simp] theorem State.setCore_fencedPkgs (c : Nat) (x : Core) : (s.setCore c x).fencedPkgs = s.fencedPkgs := rfl
@[simp] theorem State.setCore_fencedRemoteDies (c : Nat) (x : Core) : (s.setCore c x).fencedRemoteDies = s.fencedRemoteDies := rfl
@[simp] theorem State.setCore_remote (c : Nat) (x : Core) : (s.setCore c x).remote = s.remote := rfl
@[simp] theorem State.setCore_mem (c : Nat) (x : Core) : (s.setCore c x).mem = s.mem := rfl
@[simp] theorem State.setCore_poison (c : Nat) (x : Core) : (s.setCore c x).poison = s.poison := rfl
@[simp] theorem State.setCore_clusters (c : Nat) (x : Core) : (s.setCore c x).clusters = s.clusters := rfl
@[simp] theorem State.setCore_contexts (c : Nat) (x : Core) : (s.setCore c x).contexts = s.contexts := rfl
@[simp] theorem State.setCore_notifyLost (c : Nat) (x : Core) : (s.setCore c x).notifyLost = s.notifyLost := rfl
@[simp] theorem State.setCore_queues (c : Nat) (x : Core) : (s.setCore c x).queues = s.queues := rfl
@[simp] theorem State.setCore_staging (c : Nat) (x : Core) : (s.setCore c x).staging = s.staging := rfl
@[simp] theorem State.setCore_tasks (c : Nat) (x : Core) : (s.setCore c x).tasks = s.tasks := rfl
@[simp] theorem State.setCore_gangs (c : Nat) (x : Core) : (s.setCore c x).gangs = s.gangs := rfl
@[simp] theorem State.setCore_dirs (c : Nat) (x : Core) : (s.setCore c x).dirs = s.dirs := rfl
@[simp] theorem State.setCore_nextTask (c : Nat) (x : Core) : (s.setCore c x).nextTask = s.nextTask := rfl
@[simp] theorem State.setCore_ops (c : Nat) (x : Core) : (s.setCore c x).ops = s.ops := rfl
@[simp] theorem State.setCore_imprecise (c : Nat) (x : Core) : (s.setCore c x).imprecise = s.imprecise := rfl
@[simp] theorem State.setCore_profs (c : Nat) (x : Core) : (s.setCore c x).profs = s.profs := rfl
@[simp] theorem State.setCore_testInterval (c : Nat) (x : Core) : (s.setCore c x).testInterval = s.testInterval := rfl
@[simp] theorem State.setCore_tlbinvPending (c : Nat) (x : Core) : (s.setCore c x).tlbinvPending = s.tlbinvPending := rfl
@[simp] theorem State.setCore_tlbinvQueue (c : Nat) (x : Core) : (s.setCore c x).tlbinvQueue = s.tlbinvQueue := rfl
@[simp] theorem State.setCore_tlbinvDone (c : Nat) (x : Core) : (s.setCore c x).tlbinvDone = s.tlbinvDone := rfl
@[simp] theorem State.setCore_handlerEntry (c : Nat) (x : Core) : (s.setCore c x).handlerEntry = s.handlerEntry := rfl
@[simp] theorem State.setCore_hangLimit (c : Nat) (x : Core) : (s.setCore c x).hangLimit = s.hangLimit := rfl
@[simp] theorem State.setCore_hostStatus (c : Nat) (x : Core) : (s.setCore c x).hostStatus = s.hostStatus := rfl
@[simp] theorem State.setCore_cut (c : Nat) (x : Core) : (s.setCore c x).cut = s.cut := rfl
@[simp] theorem State.setCore_bridges (c : Nat) (x : Core) : (s.setCore c x).bridges = s.bridges := rfl
@[simp] theorem State.setCore_sampledAt (c : Nat) (x : Core) : (s.setCore c x).sampledAt = s.sampledAt := rfl
@[simp] theorem State.setCore_startedAt (c : Nat) (x : Core) : (s.setCore c x).startedAt = s.startedAt := rfl
@[simp] theorem State.setCore_fencedRemoteLinks (c : Nat) (x : Core) : (s.setCore c x).fencedRemoteLinks = s.fencedRemoteLinks := rfl
@[simp] theorem State.setCore_completion (c : Nat) (x : Core) : (s.setCore c x).completion = s.completion := rfl
@[simp] theorem State.setCore_caches (c : Nat) (x : Core) : (s.setCore c x).caches = s.caches := rfl
@[simp] theorem State.setCore_notices (c : Nat) (x : Core) : (s.setCore c x).notices = s.notices := rfl
@[simp] theorem State.setCore_domain (c : Nat) (x : Core) : (s.setCore c x).domain = s.domain := rfl
@[simp] theorem State.setCore_homeOps (c : Nat) (x : Core) : (s.setCore c x).homeOps = s.homeOps := rfl
@[simp] theorem State.setCore_trail (c : Nat) (x : Core) : (s.setCore c x).trail = s.trail := rfl

/-! #### mapDie -/

@[simp] theorem State.mapDie_now (d : Nat) (f : Die → Die) : (s.mapDie d f).now = s.now := rfl
@[simp] theorem State.mapDie_moves (d : Nat) (f : Die → Die) : (s.mapDie d f).moves = s.moves := rfl
@[simp] theorem State.mapDie_cur (d : Nat) (f : Die → Die) : (s.mapDie d f).cur = s.cur := rfl
@[simp] theorem State.mapDie_fresh (d : Nat) (f : Die → Die) : (s.mapDie d f).fresh = s.fresh := rfl
@[simp] theorem State.mapDie_nextId (d : Nat) (f : Die → Die) : (s.mapDie d f).nextId = s.nextId := rfl
@[simp] theorem State.mapDie_powered (d : Nat) (f : Die → Die) : (s.mapDie d f).powered = s.powered := rfl
@[simp] theorem State.mapDie_start (d : Nat) (f : Die → Die) : (s.mapDie d f).start = s.start := rfl
@[simp] theorem State.mapDie_security (d : Nat) (f : Die → Die) : (s.mapDie d f).security = s.security := rfl
@[simp] theorem State.mapDie_ownId (d : Nat) (f : Die → Die) : (s.mapDie d f).ownId = s.ownId := rfl
@[simp] theorem State.mapDie_hosts (d : Nat) (f : Die → Die) : (s.mapDie d f).hosts = s.hosts := rfl
@[simp] theorem State.mapDie_packages (d : Nat) (f : Die → Die) : (s.mapDie d f).packages = s.packages := rfl
@[simp] theorem State.mapDie_privileged (d : Nat) (f : Die → Die) : (s.mapDie d f).privileged = s.privileged := rfl
@[simp] theorem State.mapDie_clusterMask (d : Nat) (f : Die → Die) : (s.mapDie d f).clusterMask = s.clusterMask := rfl
@[simp] theorem State.mapDie_links (d : Nat) (f : Die → Die) : (s.mapDie d f).links = s.links := rfl
@[simp] theorem State.mapDie_ports (d : Nat) (f : Die → Die) : (s.mapDie d f).ports = s.ports := rfl
@[simp] theorem State.mapDie_routes (d : Nat) (f : Die → Die) : (s.mapDie d f).routes = s.routes := rfl
@[simp] theorem State.mapDie_routePending (d : Nat) (f : Die → Die) : (s.mapDie d f).routePending = s.routePending := rfl
@[simp] theorem State.mapDie_fencedPkgs (d : Nat) (f : Die → Die) : (s.mapDie d f).fencedPkgs = s.fencedPkgs := rfl
@[simp] theorem State.mapDie_fencedRemoteDies (d : Nat) (f : Die → Die) : (s.mapDie d f).fencedRemoteDies = s.fencedRemoteDies := rfl
@[simp] theorem State.mapDie_remote (d : Nat) (f : Die → Die) : (s.mapDie d f).remote = s.remote := rfl
@[simp] theorem State.mapDie_mem (d : Nat) (f : Die → Die) : (s.mapDie d f).mem = s.mem := rfl
@[simp] theorem State.mapDie_poison (d : Nat) (f : Die → Die) : (s.mapDie d f).poison = s.poison := rfl
@[simp] theorem State.mapDie_clusters (d : Nat) (f : Die → Die) : (s.mapDie d f).clusters = s.clusters := rfl
@[simp] theorem State.mapDie_cores (d : Nat) (f : Die → Die) : (s.mapDie d f).cores = s.cores := rfl
@[simp] theorem State.mapDie_contexts (d : Nat) (f : Die → Die) : (s.mapDie d f).contexts = s.contexts := rfl
@[simp] theorem State.mapDie_notifyLost (d : Nat) (f : Die → Die) : (s.mapDie d f).notifyLost = s.notifyLost := rfl
@[simp] theorem State.mapDie_queues (d : Nat) (f : Die → Die) : (s.mapDie d f).queues = s.queues := rfl
@[simp] theorem State.mapDie_staging (d : Nat) (f : Die → Die) : (s.mapDie d f).staging = s.staging := rfl
@[simp] theorem State.mapDie_tasks (d : Nat) (f : Die → Die) : (s.mapDie d f).tasks = s.tasks := rfl
@[simp] theorem State.mapDie_gangs (d : Nat) (f : Die → Die) : (s.mapDie d f).gangs = s.gangs := rfl
@[simp] theorem State.mapDie_dirs (d : Nat) (f : Die → Die) : (s.mapDie d f).dirs = s.dirs := rfl
@[simp] theorem State.mapDie_nextTask (d : Nat) (f : Die → Die) : (s.mapDie d f).nextTask = s.nextTask := rfl
@[simp] theorem State.mapDie_ops (d : Nat) (f : Die → Die) : (s.mapDie d f).ops = s.ops := rfl
@[simp] theorem State.mapDie_imprecise (d : Nat) (f : Die → Die) : (s.mapDie d f).imprecise = s.imprecise := rfl
@[simp] theorem State.mapDie_profs (d : Nat) (f : Die → Die) : (s.mapDie d f).profs = s.profs := rfl
@[simp] theorem State.mapDie_testInterval (d : Nat) (f : Die → Die) : (s.mapDie d f).testInterval = s.testInterval := rfl
@[simp] theorem State.mapDie_tlbinvPending (d : Nat) (f : Die → Die) : (s.mapDie d f).tlbinvPending = s.tlbinvPending := rfl
@[simp] theorem State.mapDie_tlbinvQueue (d : Nat) (f : Die → Die) : (s.mapDie d f).tlbinvQueue = s.tlbinvQueue := rfl
@[simp] theorem State.mapDie_tlbinvDone (d : Nat) (f : Die → Die) : (s.mapDie d f).tlbinvDone = s.tlbinvDone := rfl
@[simp] theorem State.mapDie_handlerEntry (d : Nat) (f : Die → Die) : (s.mapDie d f).handlerEntry = s.handlerEntry := rfl
@[simp] theorem State.mapDie_hangLimit (d : Nat) (f : Die → Die) : (s.mapDie d f).hangLimit = s.hangLimit := rfl
@[simp] theorem State.mapDie_hostStatus (d : Nat) (f : Die → Die) : (s.mapDie d f).hostStatus = s.hostStatus := rfl
@[simp] theorem State.mapDie_cut (d : Nat) (f : Die → Die) : (s.mapDie d f).cut = s.cut := rfl
@[simp] theorem State.mapDie_bridges (d : Nat) (f : Die → Die) : (s.mapDie d f).bridges = s.bridges := rfl
@[simp] theorem State.mapDie_sampledAt (d : Nat) (f : Die → Die) : (s.mapDie d f).sampledAt = s.sampledAt := rfl
@[simp] theorem State.mapDie_startedAt (d : Nat) (f : Die → Die) : (s.mapDie d f).startedAt = s.startedAt := rfl
@[simp] theorem State.mapDie_fencedRemoteLinks (d : Nat) (f : Die → Die) : (s.mapDie d f).fencedRemoteLinks = s.fencedRemoteLinks := rfl
@[simp] theorem State.mapDie_completion (d : Nat) (f : Die → Die) : (s.mapDie d f).completion = s.completion := rfl
@[simp] theorem State.mapDie_caches (d : Nat) (f : Die → Die) : (s.mapDie d f).caches = s.caches := rfl
@[simp] theorem State.mapDie_notices (d : Nat) (f : Die → Die) : (s.mapDie d f).notices = s.notices := rfl
@[simp] theorem State.mapDie_domain (d : Nat) (f : Die → Die) : (s.mapDie d f).domain = s.domain := rfl
@[simp] theorem State.mapDie_homeOps (d : Nat) (f : Die → Die) : (s.mapDie d f).homeOps = s.homeOps := rfl
@[simp] theorem State.mapDie_trail (d : Nat) (f : Die → Die) : (s.mapDie d f).trail = s.trail := rfl

/-! #### setQueue -/

@[simp] theorem State.setQueue_now (q : Nat) (x : Queue) : (s.setQueue q x).now = s.now := rfl
@[simp] theorem State.setQueue_moves (q : Nat) (x : Queue) : (s.setQueue q x).moves = s.moves := rfl
@[simp] theorem State.setQueue_cur (q : Nat) (x : Queue) : (s.setQueue q x).cur = s.cur := rfl
@[simp] theorem State.setQueue_fresh (q : Nat) (x : Queue) : (s.setQueue q x).fresh = s.fresh := rfl
@[simp] theorem State.setQueue_nextId (q : Nat) (x : Queue) : (s.setQueue q x).nextId = s.nextId := rfl
@[simp] theorem State.setQueue_powered (q : Nat) (x : Queue) : (s.setQueue q x).powered = s.powered := rfl
@[simp] theorem State.setQueue_start (q : Nat) (x : Queue) : (s.setQueue q x).start = s.start := rfl
@[simp] theorem State.setQueue_security (q : Nat) (x : Queue) : (s.setQueue q x).security = s.security := rfl
@[simp] theorem State.setQueue_ownId (q : Nat) (x : Queue) : (s.setQueue q x).ownId = s.ownId := rfl
@[simp] theorem State.setQueue_hosts (q : Nat) (x : Queue) : (s.setQueue q x).hosts = s.hosts := rfl
@[simp] theorem State.setQueue_packages (q : Nat) (x : Queue) : (s.setQueue q x).packages = s.packages := rfl
@[simp] theorem State.setQueue_privileged (q : Nat) (x : Queue) : (s.setQueue q x).privileged = s.privileged := rfl
@[simp] theorem State.setQueue_clusterMask (q : Nat) (x : Queue) : (s.setQueue q x).clusterMask = s.clusterMask := rfl
@[simp] theorem State.setQueue_dies (q : Nat) (x : Queue) : (s.setQueue q x).dies = s.dies := rfl
@[simp] theorem State.setQueue_links (q : Nat) (x : Queue) : (s.setQueue q x).links = s.links := rfl
@[simp] theorem State.setQueue_ports (q : Nat) (x : Queue) : (s.setQueue q x).ports = s.ports := rfl
@[simp] theorem State.setQueue_routes (q : Nat) (x : Queue) : (s.setQueue q x).routes = s.routes := rfl
@[simp] theorem State.setQueue_routePending (q : Nat) (x : Queue) : (s.setQueue q x).routePending = s.routePending := rfl
@[simp] theorem State.setQueue_fencedPkgs (q : Nat) (x : Queue) : (s.setQueue q x).fencedPkgs = s.fencedPkgs := rfl
@[simp] theorem State.setQueue_fencedRemoteDies (q : Nat) (x : Queue) : (s.setQueue q x).fencedRemoteDies = s.fencedRemoteDies := rfl
@[simp] theorem State.setQueue_remote (q : Nat) (x : Queue) : (s.setQueue q x).remote = s.remote := rfl
@[simp] theorem State.setQueue_mem (q : Nat) (x : Queue) : (s.setQueue q x).mem = s.mem := rfl
@[simp] theorem State.setQueue_poison (q : Nat) (x : Queue) : (s.setQueue q x).poison = s.poison := rfl
@[simp] theorem State.setQueue_clusters (q : Nat) (x : Queue) : (s.setQueue q x).clusters = s.clusters := rfl
@[simp] theorem State.setQueue_cores (q : Nat) (x : Queue) : (s.setQueue q x).cores = s.cores := rfl
@[simp] theorem State.setQueue_contexts (q : Nat) (x : Queue) : (s.setQueue q x).contexts = s.contexts := rfl
@[simp] theorem State.setQueue_notifyLost (q : Nat) (x : Queue) : (s.setQueue q x).notifyLost = s.notifyLost := rfl
@[simp] theorem State.setQueue_staging (q : Nat) (x : Queue) : (s.setQueue q x).staging = s.staging := rfl
@[simp] theorem State.setQueue_tasks (q : Nat) (x : Queue) : (s.setQueue q x).tasks = s.tasks := rfl
@[simp] theorem State.setQueue_gangs (q : Nat) (x : Queue) : (s.setQueue q x).gangs = s.gangs := rfl
@[simp] theorem State.setQueue_dirs (q : Nat) (x : Queue) : (s.setQueue q x).dirs = s.dirs := rfl
@[simp] theorem State.setQueue_nextTask (q : Nat) (x : Queue) : (s.setQueue q x).nextTask = s.nextTask := rfl
@[simp] theorem State.setQueue_ops (q : Nat) (x : Queue) : (s.setQueue q x).ops = s.ops := rfl
@[simp] theorem State.setQueue_imprecise (q : Nat) (x : Queue) : (s.setQueue q x).imprecise = s.imprecise := rfl
@[simp] theorem State.setQueue_profs (q : Nat) (x : Queue) : (s.setQueue q x).profs = s.profs := rfl
@[simp] theorem State.setQueue_testInterval (q : Nat) (x : Queue) : (s.setQueue q x).testInterval = s.testInterval := rfl
@[simp] theorem State.setQueue_tlbinvPending (q : Nat) (x : Queue) : (s.setQueue q x).tlbinvPending = s.tlbinvPending := rfl
@[simp] theorem State.setQueue_tlbinvQueue (q : Nat) (x : Queue) : (s.setQueue q x).tlbinvQueue = s.tlbinvQueue := rfl
@[simp] theorem State.setQueue_tlbinvDone (q : Nat) (x : Queue) : (s.setQueue q x).tlbinvDone = s.tlbinvDone := rfl
@[simp] theorem State.setQueue_handlerEntry (q : Nat) (x : Queue) : (s.setQueue q x).handlerEntry = s.handlerEntry := rfl
@[simp] theorem State.setQueue_hangLimit (q : Nat) (x : Queue) : (s.setQueue q x).hangLimit = s.hangLimit := rfl
@[simp] theorem State.setQueue_hostStatus (q : Nat) (x : Queue) : (s.setQueue q x).hostStatus = s.hostStatus := rfl
@[simp] theorem State.setQueue_cut (q : Nat) (x : Queue) : (s.setQueue q x).cut = s.cut := rfl
@[simp] theorem State.setQueue_bridges (q : Nat) (x : Queue) : (s.setQueue q x).bridges = s.bridges := rfl
@[simp] theorem State.setQueue_sampledAt (q : Nat) (x : Queue) : (s.setQueue q x).sampledAt = s.sampledAt := rfl
@[simp] theorem State.setQueue_startedAt (q : Nat) (x : Queue) : (s.setQueue q x).startedAt = s.startedAt := rfl
@[simp] theorem State.setQueue_fencedRemoteLinks (q : Nat) (x : Queue) : (s.setQueue q x).fencedRemoteLinks = s.fencedRemoteLinks := rfl
@[simp] theorem State.setQueue_completion (q : Nat) (x : Queue) : (s.setQueue q x).completion = s.completion := rfl
@[simp] theorem State.setQueue_caches (q : Nat) (x : Queue) : (s.setQueue q x).caches = s.caches := rfl
@[simp] theorem State.setQueue_notices (q : Nat) (x : Queue) : (s.setQueue q x).notices = s.notices := rfl
@[simp] theorem State.setQueue_domain (q : Nat) (x : Queue) : (s.setQueue q x).domain = s.domain := rfl
@[simp] theorem State.setQueue_homeOps (q : Nat) (x : Queue) : (s.setQueue q x).homeOps = s.homeOps := rfl
@[simp] theorem State.setQueue_trail (q : Nat) (x : Queue) : (s.setQueue q x).trail = s.trail := rfl

/-! #### mapDir -/

@[simp] theorem State.mapDir_now (t : Nat) (f : Directory → Directory) : (s.mapDir t f).now = s.now := rfl
@[simp] theorem State.mapDir_moves (t : Nat) (f : Directory → Directory) : (s.mapDir t f).moves = s.moves := rfl
@[simp] theorem State.mapDir_cur (t : Nat) (f : Directory → Directory) : (s.mapDir t f).cur = s.cur := rfl
@[simp] theorem State.mapDir_fresh (t : Nat) (f : Directory → Directory) : (s.mapDir t f).fresh = s.fresh := rfl
@[simp] theorem State.mapDir_nextId (t : Nat) (f : Directory → Directory) : (s.mapDir t f).nextId = s.nextId := rfl
@[simp] theorem State.mapDir_powered (t : Nat) (f : Directory → Directory) : (s.mapDir t f).powered = s.powered := rfl
@[simp] theorem State.mapDir_start (t : Nat) (f : Directory → Directory) : (s.mapDir t f).start = s.start := rfl
@[simp] theorem State.mapDir_security (t : Nat) (f : Directory → Directory) : (s.mapDir t f).security = s.security := rfl
@[simp] theorem State.mapDir_ownId (t : Nat) (f : Directory → Directory) : (s.mapDir t f).ownId = s.ownId := rfl
@[simp] theorem State.mapDir_hosts (t : Nat) (f : Directory → Directory) : (s.mapDir t f).hosts = s.hosts := rfl
@[simp] theorem State.mapDir_packages (t : Nat) (f : Directory → Directory) : (s.mapDir t f).packages = s.packages := rfl
@[simp] theorem State.mapDir_privileged (t : Nat) (f : Directory → Directory) : (s.mapDir t f).privileged = s.privileged := rfl
@[simp] theorem State.mapDir_clusterMask (t : Nat) (f : Directory → Directory) : (s.mapDir t f).clusterMask = s.clusterMask := rfl
@[simp] theorem State.mapDir_dies (t : Nat) (f : Directory → Directory) : (s.mapDir t f).dies = s.dies := rfl
@[simp] theorem State.mapDir_links (t : Nat) (f : Directory → Directory) : (s.mapDir t f).links = s.links := rfl
@[simp] theorem State.mapDir_ports (t : Nat) (f : Directory → Directory) : (s.mapDir t f).ports = s.ports := rfl
@[simp] theorem State.mapDir_routes (t : Nat) (f : Directory → Directory) : (s.mapDir t f).routes = s.routes := rfl
@[simp] theorem State.mapDir_routePending (t : Nat) (f : Directory → Directory) : (s.mapDir t f).routePending = s.routePending := rfl
@[simp] theorem State.mapDir_fencedPkgs (t : Nat) (f : Directory → Directory) : (s.mapDir t f).fencedPkgs = s.fencedPkgs := rfl
@[simp] theorem State.mapDir_fencedRemoteDies (t : Nat) (f : Directory → Directory) : (s.mapDir t f).fencedRemoteDies = s.fencedRemoteDies := rfl
@[simp] theorem State.mapDir_remote (t : Nat) (f : Directory → Directory) : (s.mapDir t f).remote = s.remote := rfl
@[simp] theorem State.mapDir_mem (t : Nat) (f : Directory → Directory) : (s.mapDir t f).mem = s.mem := rfl
@[simp] theorem State.mapDir_poison (t : Nat) (f : Directory → Directory) : (s.mapDir t f).poison = s.poison := rfl
@[simp] theorem State.mapDir_clusters (t : Nat) (f : Directory → Directory) : (s.mapDir t f).clusters = s.clusters := rfl
@[simp] theorem State.mapDir_cores (t : Nat) (f : Directory → Directory) : (s.mapDir t f).cores = s.cores := rfl
@[simp] theorem State.mapDir_contexts (t : Nat) (f : Directory → Directory) : (s.mapDir t f).contexts = s.contexts := rfl
@[simp] theorem State.mapDir_notifyLost (t : Nat) (f : Directory → Directory) : (s.mapDir t f).notifyLost = s.notifyLost := rfl
@[simp] theorem State.mapDir_queues (t : Nat) (f : Directory → Directory) : (s.mapDir t f).queues = s.queues := rfl
@[simp] theorem State.mapDir_staging (t : Nat) (f : Directory → Directory) : (s.mapDir t f).staging = s.staging := rfl
@[simp] theorem State.mapDir_tasks (t : Nat) (f : Directory → Directory) : (s.mapDir t f).tasks = s.tasks := rfl
@[simp] theorem State.mapDir_gangs (t : Nat) (f : Directory → Directory) : (s.mapDir t f).gangs = s.gangs := rfl
@[simp] theorem State.mapDir_nextTask (t : Nat) (f : Directory → Directory) : (s.mapDir t f).nextTask = s.nextTask := rfl
@[simp] theorem State.mapDir_ops (t : Nat) (f : Directory → Directory) : (s.mapDir t f).ops = s.ops := rfl
@[simp] theorem State.mapDir_imprecise (t : Nat) (f : Directory → Directory) : (s.mapDir t f).imprecise = s.imprecise := rfl
@[simp] theorem State.mapDir_profs (t : Nat) (f : Directory → Directory) : (s.mapDir t f).profs = s.profs := rfl
@[simp] theorem State.mapDir_testInterval (t : Nat) (f : Directory → Directory) : (s.mapDir t f).testInterval = s.testInterval := rfl
@[simp] theorem State.mapDir_tlbinvPending (t : Nat) (f : Directory → Directory) : (s.mapDir t f).tlbinvPending = s.tlbinvPending := rfl
@[simp] theorem State.mapDir_tlbinvQueue (t : Nat) (f : Directory → Directory) : (s.mapDir t f).tlbinvQueue = s.tlbinvQueue := rfl
@[simp] theorem State.mapDir_tlbinvDone (t : Nat) (f : Directory → Directory) : (s.mapDir t f).tlbinvDone = s.tlbinvDone := rfl
@[simp] theorem State.mapDir_handlerEntry (t : Nat) (f : Directory → Directory) : (s.mapDir t f).handlerEntry = s.handlerEntry := rfl
@[simp] theorem State.mapDir_hangLimit (t : Nat) (f : Directory → Directory) : (s.mapDir t f).hangLimit = s.hangLimit := rfl
@[simp] theorem State.mapDir_hostStatus (t : Nat) (f : Directory → Directory) : (s.mapDir t f).hostStatus = s.hostStatus := rfl
@[simp] theorem State.mapDir_cut (t : Nat) (f : Directory → Directory) : (s.mapDir t f).cut = s.cut := rfl
@[simp] theorem State.mapDir_bridges (t : Nat) (f : Directory → Directory) : (s.mapDir t f).bridges = s.bridges := rfl
@[simp] theorem State.mapDir_sampledAt (t : Nat) (f : Directory → Directory) : (s.mapDir t f).sampledAt = s.sampledAt := rfl
@[simp] theorem State.mapDir_startedAt (t : Nat) (f : Directory → Directory) : (s.mapDir t f).startedAt = s.startedAt := rfl
@[simp] theorem State.mapDir_fencedRemoteLinks (t : Nat) (f : Directory → Directory) : (s.mapDir t f).fencedRemoteLinks = s.fencedRemoteLinks := rfl
@[simp] theorem State.mapDir_completion (t : Nat) (f : Directory → Directory) : (s.mapDir t f).completion = s.completion := rfl
@[simp] theorem State.mapDir_caches (t : Nat) (f : Directory → Directory) : (s.mapDir t f).caches = s.caches := rfl
@[simp] theorem State.mapDir_notices (t : Nat) (f : Directory → Directory) : (s.mapDir t f).notices = s.notices := rfl
@[simp] theorem State.mapDir_domain (t : Nat) (f : Directory → Directory) : (s.mapDir t f).domain = s.domain := rfl
@[simp] theorem State.mapDir_homeOps (t : Nat) (f : Directory → Directory) : (s.mapDir t f).homeOps = s.homeOps := rfl
@[simp] theorem State.mapDir_trail (t : Nat) (f : Directory → Directory) : (s.mapDir t f).trail = s.trail := rfl

/-! #### status -/

@[simp] theorem State.status_now (v : Nat) : (s.status v).now = s.now := rfl
@[simp] theorem State.status_moves (v : Nat) : (s.status v).moves = s.moves := rfl
@[simp] theorem State.status_cur (v : Nat) : (s.status v).cur = s.cur := rfl
@[simp] theorem State.status_fresh (v : Nat) : (s.status v).fresh = s.fresh := rfl
@[simp] theorem State.status_nextId (v : Nat) : (s.status v).nextId = s.nextId := rfl
@[simp] theorem State.status_powered (v : Nat) : (s.status v).powered = s.powered := rfl
@[simp] theorem State.status_start (v : Nat) : (s.status v).start = s.start := rfl
@[simp] theorem State.status_security (v : Nat) : (s.status v).security = s.security := rfl
@[simp] theorem State.status_ownId (v : Nat) : (s.status v).ownId = s.ownId := rfl
@[simp] theorem State.status_hosts (v : Nat) : (s.status v).hosts = s.hosts := rfl
@[simp] theorem State.status_packages (v : Nat) : (s.status v).packages = s.packages := rfl
@[simp] theorem State.status_privileged (v : Nat) : (s.status v).privileged = s.privileged := rfl
@[simp] theorem State.status_clusterMask (v : Nat) : (s.status v).clusterMask = s.clusterMask := rfl
@[simp] theorem State.status_dies (v : Nat) : (s.status v).dies = s.dies := rfl
@[simp] theorem State.status_links (v : Nat) : (s.status v).links = s.links := rfl
@[simp] theorem State.status_ports (v : Nat) : (s.status v).ports = s.ports := rfl
@[simp] theorem State.status_routes (v : Nat) : (s.status v).routes = s.routes := rfl
@[simp] theorem State.status_routePending (v : Nat) : (s.status v).routePending = s.routePending := rfl
@[simp] theorem State.status_fencedPkgs (v : Nat) : (s.status v).fencedPkgs = s.fencedPkgs := rfl
@[simp] theorem State.status_fencedRemoteDies (v : Nat) : (s.status v).fencedRemoteDies = s.fencedRemoteDies := rfl
@[simp] theorem State.status_remote (v : Nat) : (s.status v).remote = s.remote := rfl
@[simp] theorem State.status_mem (v : Nat) : (s.status v).mem = s.mem := rfl
@[simp] theorem State.status_poison (v : Nat) : (s.status v).poison = s.poison := rfl
@[simp] theorem State.status_clusters (v : Nat) : (s.status v).clusters = s.clusters := rfl
@[simp] theorem State.status_cores (v : Nat) : (s.status v).cores = s.cores := rfl
@[simp] theorem State.status_contexts (v : Nat) : (s.status v).contexts = s.contexts := rfl
@[simp] theorem State.status_notifyLost (v : Nat) : (s.status v).notifyLost = s.notifyLost := rfl
@[simp] theorem State.status_queues (v : Nat) : (s.status v).queues = s.queues := rfl
@[simp] theorem State.status_staging (v : Nat) : (s.status v).staging = s.staging := rfl
@[simp] theorem State.status_tasks (v : Nat) : (s.status v).tasks = s.tasks := rfl
@[simp] theorem State.status_gangs (v : Nat) : (s.status v).gangs = s.gangs := rfl
@[simp] theorem State.status_dirs (v : Nat) : (s.status v).dirs = s.dirs := rfl
@[simp] theorem State.status_nextTask (v : Nat) : (s.status v).nextTask = s.nextTask := rfl
@[simp] theorem State.status_ops (v : Nat) : (s.status v).ops = s.ops := rfl
@[simp] theorem State.status_imprecise (v : Nat) : (s.status v).imprecise = s.imprecise := rfl
@[simp] theorem State.status_profs (v : Nat) : (s.status v).profs = s.profs := rfl
@[simp] theorem State.status_testInterval (v : Nat) : (s.status v).testInterval = s.testInterval := rfl
@[simp] theorem State.status_tlbinvPending (v : Nat) : (s.status v).tlbinvPending = s.tlbinvPending := rfl
@[simp] theorem State.status_tlbinvQueue (v : Nat) : (s.status v).tlbinvQueue = s.tlbinvQueue := rfl
@[simp] theorem State.status_tlbinvDone (v : Nat) : (s.status v).tlbinvDone = s.tlbinvDone := rfl
@[simp] theorem State.status_handlerEntry (v : Nat) : (s.status v).handlerEntry = s.handlerEntry := rfl
@[simp] theorem State.status_hangLimit (v : Nat) : (s.status v).hangLimit = s.hangLimit := rfl
@[simp] theorem State.status_cut (v : Nat) : (s.status v).cut = s.cut := rfl
@[simp] theorem State.status_domain (v : Nat) : (s.status v).domain = s.domain := rfl
@[simp] theorem State.status_bridges (v : Nat) : (s.status v).bridges = s.bridges := rfl
@[simp] theorem State.status_sampledAt (v : Nat) : (s.status v).sampledAt = s.sampledAt := rfl
@[simp] theorem State.status_startedAt (v : Nat) : (s.status v).startedAt = s.startedAt := rfl
@[simp] theorem State.status_fencedRemoteLinks (v : Nat) : (s.status v).fencedRemoteLinks = s.fencedRemoteLinks := rfl
@[simp] theorem State.status_homeOps (v : Nat) : (s.status v).homeOps = s.homeOps := rfl
@[simp] theorem State.status_completion (v : Nat) : (s.status v).completion = s.completion := rfl
@[simp] theorem State.status_trail (v : Nat) : (s.status v).trail = s.trail := rfl
@[simp] theorem State.status_caches (v : Nat) : (s.status v).caches = s.caches := rfl
@[simp] theorem State.status_notices (v : Nat) : (s.status v).notices = s.notices := rfl

/-! #### mapOp -/

@[simp] theorem State.mapOp_now (i : Nat) (f : PendingOp → PendingOp) : (s.mapOp i f).now = s.now := rfl
@[simp] theorem State.mapOp_moves (i : Nat) (f : PendingOp → PendingOp) : (s.mapOp i f).moves = s.moves := rfl
@[simp] theorem State.mapOp_cur (i : Nat) (f : PendingOp → PendingOp) : (s.mapOp i f).cur = s.cur := rfl
@[simp] theorem State.mapOp_fresh (i : Nat) (f : PendingOp → PendingOp) : (s.mapOp i f).fresh = s.fresh := rfl
@[simp] theorem State.mapOp_nextId (i : Nat) (f : PendingOp → PendingOp) : (s.mapOp i f).nextId = s.nextId := rfl
@[simp] theorem State.mapOp_powered (i : Nat) (f : PendingOp → PendingOp) : (s.mapOp i f).powered = s.powered := rfl
@[simp] theorem State.mapOp_start (i : Nat) (f : PendingOp → PendingOp) : (s.mapOp i f).start = s.start := rfl
@[simp] theorem State.mapOp_security (i : Nat) (f : PendingOp → PendingOp) : (s.mapOp i f).security = s.security := rfl
@[simp] theorem State.mapOp_ownId (i : Nat) (f : PendingOp → PendingOp) : (s.mapOp i f).ownId = s.ownId := rfl
@[simp] theorem State.mapOp_hosts (i : Nat) (f : PendingOp → PendingOp) : (s.mapOp i f).hosts = s.hosts := rfl
@[simp] theorem State.mapOp_packages (i : Nat) (f : PendingOp → PendingOp) : (s.mapOp i f).packages = s.packages := rfl
@[simp] theorem State.mapOp_privileged (i : Nat) (f : PendingOp → PendingOp) : (s.mapOp i f).privileged = s.privileged := rfl
@[simp] theorem State.mapOp_clusterMask (i : Nat) (f : PendingOp → PendingOp) : (s.mapOp i f).clusterMask = s.clusterMask := rfl
@[simp] theorem State.mapOp_dies (i : Nat) (f : PendingOp → PendingOp) : (s.mapOp i f).dies = s.dies := rfl
@[simp] theorem State.mapOp_links (i : Nat) (f : PendingOp → PendingOp) : (s.mapOp i f).links = s.links := rfl
@[simp] theorem State.mapOp_ports (i : Nat) (f : PendingOp → PendingOp) : (s.mapOp i f).ports = s.ports := rfl
@[simp] theorem State.mapOp_routes (i : Nat) (f : PendingOp → PendingOp) : (s.mapOp i f).routes = s.routes := rfl
@[simp] theorem State.mapOp_routePending (i : Nat) (f : PendingOp → PendingOp) : (s.mapOp i f).routePending = s.routePending := rfl
@[simp] theorem State.mapOp_fencedPkgs (i : Nat) (f : PendingOp → PendingOp) : (s.mapOp i f).fencedPkgs = s.fencedPkgs := rfl
@[simp] theorem State.mapOp_fencedRemoteDies (i : Nat) (f : PendingOp → PendingOp) : (s.mapOp i f).fencedRemoteDies = s.fencedRemoteDies := rfl
@[simp] theorem State.mapOp_remote (i : Nat) (f : PendingOp → PendingOp) : (s.mapOp i f).remote = s.remote := rfl
@[simp] theorem State.mapOp_mem (i : Nat) (f : PendingOp → PendingOp) : (s.mapOp i f).mem = s.mem := rfl
@[simp] theorem State.mapOp_poison (i : Nat) (f : PendingOp → PendingOp) : (s.mapOp i f).poison = s.poison := rfl
@[simp] theorem State.mapOp_clusters (i : Nat) (f : PendingOp → PendingOp) : (s.mapOp i f).clusters = s.clusters := rfl
@[simp] theorem State.mapOp_cores (i : Nat) (f : PendingOp → PendingOp) : (s.mapOp i f).cores = s.cores := rfl
@[simp] theorem State.mapOp_contexts (i : Nat) (f : PendingOp → PendingOp) : (s.mapOp i f).contexts = s.contexts := rfl
@[simp] theorem State.mapOp_notifyLost (i : Nat) (f : PendingOp → PendingOp) : (s.mapOp i f).notifyLost = s.notifyLost := rfl
@[simp] theorem State.mapOp_queues (i : Nat) (f : PendingOp → PendingOp) : (s.mapOp i f).queues = s.queues := rfl
@[simp] theorem State.mapOp_staging (i : Nat) (f : PendingOp → PendingOp) : (s.mapOp i f).staging = s.staging := rfl
@[simp] theorem State.mapOp_tasks (i : Nat) (f : PendingOp → PendingOp) : (s.mapOp i f).tasks = s.tasks := rfl
@[simp] theorem State.mapOp_gangs (i : Nat) (f : PendingOp → PendingOp) : (s.mapOp i f).gangs = s.gangs := rfl
@[simp] theorem State.mapOp_dirs (i : Nat) (f : PendingOp → PendingOp) : (s.mapOp i f).dirs = s.dirs := rfl
@[simp] theorem State.mapOp_nextTask (i : Nat) (f : PendingOp → PendingOp) : (s.mapOp i f).nextTask = s.nextTask := rfl
@[simp] theorem State.mapOp_imprecise (i : Nat) (f : PendingOp → PendingOp) : (s.mapOp i f).imprecise = s.imprecise := rfl
@[simp] theorem State.mapOp_profs (i : Nat) (f : PendingOp → PendingOp) : (s.mapOp i f).profs = s.profs := rfl
@[simp] theorem State.mapOp_testInterval (i : Nat) (f : PendingOp → PendingOp) : (s.mapOp i f).testInterval = s.testInterval := rfl
@[simp] theorem State.mapOp_tlbinvPending (i : Nat) (f : PendingOp → PendingOp) : (s.mapOp i f).tlbinvPending = s.tlbinvPending := rfl
@[simp] theorem State.mapOp_tlbinvQueue (i : Nat) (f : PendingOp → PendingOp) : (s.mapOp i f).tlbinvQueue = s.tlbinvQueue := rfl
@[simp] theorem State.mapOp_tlbinvDone (i : Nat) (f : PendingOp → PendingOp) : (s.mapOp i f).tlbinvDone = s.tlbinvDone := rfl
@[simp] theorem State.mapOp_handlerEntry (i : Nat) (f : PendingOp → PendingOp) : (s.mapOp i f).handlerEntry = s.handlerEntry := rfl
@[simp] theorem State.mapOp_hangLimit (i : Nat) (f : PendingOp → PendingOp) : (s.mapOp i f).hangLimit = s.hangLimit := rfl
@[simp] theorem State.mapOp_hostStatus (i : Nat) (f : PendingOp → PendingOp) : (s.mapOp i f).hostStatus = s.hostStatus := rfl
@[simp] theorem State.mapOp_cut (i : Nat) (f : PendingOp → PendingOp) : (s.mapOp i f).cut = s.cut := rfl
@[simp] theorem State.mapOp_bridges (i : Nat) (f : PendingOp → PendingOp) : (s.mapOp i f).bridges = s.bridges := rfl
@[simp] theorem State.mapOp_sampledAt (i : Nat) (f : PendingOp → PendingOp) : (s.mapOp i f).sampledAt = s.sampledAt := rfl
@[simp] theorem State.mapOp_startedAt (i : Nat) (f : PendingOp → PendingOp) : (s.mapOp i f).startedAt = s.startedAt := rfl
@[simp] theorem State.mapOp_fencedRemoteLinks (i : Nat) (f : PendingOp → PendingOp) : (s.mapOp i f).fencedRemoteLinks = s.fencedRemoteLinks := rfl
@[simp] theorem State.mapOp_completion (i : Nat) (f : PendingOp → PendingOp) : (s.mapOp i f).completion = s.completion := rfl
@[simp] theorem State.mapOp_caches (i : Nat) (f : PendingOp → PendingOp) : (s.mapOp i f).caches = s.caches := rfl
@[simp] theorem State.mapOp_notices (i : Nat) (f : PendingOp → PendingOp) : (s.mapOp i f).notices = s.notices := rfl
@[simp] theorem State.mapOp_domain (i : Nat) (f : PendingOp → PendingOp) : (s.mapOp i f).domain = s.domain := rfl
@[simp] theorem State.mapOp_homeOps (i : Nat) (f : PendingOp → PendingOp) : (s.mapOp i f).homeOps = s.homeOps := rfl
@[simp] theorem State.mapOp_trail (i : Nat) (f : PendingOp → PendingOp) : (s.mapOp i f).trail = s.trail := rfl

/-! #### mapIngot -/

@[simp] theorem State.mapIngot_now (c i : Nat) (f : Ingot → Ingot) : (s.mapIngot c i f).now = s.now := rfl
@[simp] theorem State.mapIngot_moves (c i : Nat) (f : Ingot → Ingot) : (s.mapIngot c i f).moves = s.moves := rfl
@[simp] theorem State.mapIngot_cur (c i : Nat) (f : Ingot → Ingot) : (s.mapIngot c i f).cur = s.cur := rfl
@[simp] theorem State.mapIngot_fresh (c i : Nat) (f : Ingot → Ingot) : (s.mapIngot c i f).fresh = s.fresh := rfl
@[simp] theorem State.mapIngot_nextId (c i : Nat) (f : Ingot → Ingot) : (s.mapIngot c i f).nextId = s.nextId := rfl
@[simp] theorem State.mapIngot_powered (c i : Nat) (f : Ingot → Ingot) : (s.mapIngot c i f).powered = s.powered := rfl
@[simp] theorem State.mapIngot_start (c i : Nat) (f : Ingot → Ingot) : (s.mapIngot c i f).start = s.start := rfl
@[simp] theorem State.mapIngot_security (c i : Nat) (f : Ingot → Ingot) : (s.mapIngot c i f).security = s.security := rfl
@[simp] theorem State.mapIngot_ownId (c i : Nat) (f : Ingot → Ingot) : (s.mapIngot c i f).ownId = s.ownId := rfl
@[simp] theorem State.mapIngot_hosts (c i : Nat) (f : Ingot → Ingot) : (s.mapIngot c i f).hosts = s.hosts := rfl
@[simp] theorem State.mapIngot_packages (c i : Nat) (f : Ingot → Ingot) : (s.mapIngot c i f).packages = s.packages := rfl
@[simp] theorem State.mapIngot_privileged (c i : Nat) (f : Ingot → Ingot) : (s.mapIngot c i f).privileged = s.privileged := rfl
@[simp] theorem State.mapIngot_clusterMask (c i : Nat) (f : Ingot → Ingot) : (s.mapIngot c i f).clusterMask = s.clusterMask := rfl
@[simp] theorem State.mapIngot_dies (c i : Nat) (f : Ingot → Ingot) : (s.mapIngot c i f).dies = s.dies := rfl
@[simp] theorem State.mapIngot_links (c i : Nat) (f : Ingot → Ingot) : (s.mapIngot c i f).links = s.links := rfl
@[simp] theorem State.mapIngot_ports (c i : Nat) (f : Ingot → Ingot) : (s.mapIngot c i f).ports = s.ports := rfl
@[simp] theorem State.mapIngot_routes (c i : Nat) (f : Ingot → Ingot) : (s.mapIngot c i f).routes = s.routes := rfl
@[simp] theorem State.mapIngot_routePending (c i : Nat) (f : Ingot → Ingot) : (s.mapIngot c i f).routePending = s.routePending := rfl
@[simp] theorem State.mapIngot_fencedPkgs (c i : Nat) (f : Ingot → Ingot) : (s.mapIngot c i f).fencedPkgs = s.fencedPkgs := rfl
@[simp] theorem State.mapIngot_fencedRemoteDies (c i : Nat) (f : Ingot → Ingot) : (s.mapIngot c i f).fencedRemoteDies = s.fencedRemoteDies := rfl
@[simp] theorem State.mapIngot_remote (c i : Nat) (f : Ingot → Ingot) : (s.mapIngot c i f).remote = s.remote := rfl
@[simp] theorem State.mapIngot_mem (c i : Nat) (f : Ingot → Ingot) : (s.mapIngot c i f).mem = s.mem := rfl
@[simp] theorem State.mapIngot_poison (c i : Nat) (f : Ingot → Ingot) : (s.mapIngot c i f).poison = s.poison := rfl
@[simp] theorem State.mapIngot_clusters (c i : Nat) (f : Ingot → Ingot) : (s.mapIngot c i f).clusters = s.clusters := rfl
@[simp] theorem State.mapIngot_cores (c i : Nat) (f : Ingot → Ingot) : (s.mapIngot c i f).cores = s.cores := rfl
@[simp] theorem State.mapIngot_notifyLost (c i : Nat) (f : Ingot → Ingot) : (s.mapIngot c i f).notifyLost = s.notifyLost := rfl
@[simp] theorem State.mapIngot_queues (c i : Nat) (f : Ingot → Ingot) : (s.mapIngot c i f).queues = s.queues := rfl
@[simp] theorem State.mapIngot_staging (c i : Nat) (f : Ingot → Ingot) : (s.mapIngot c i f).staging = s.staging := rfl
@[simp] theorem State.mapIngot_tasks (c i : Nat) (f : Ingot → Ingot) : (s.mapIngot c i f).tasks = s.tasks := rfl
@[simp] theorem State.mapIngot_gangs (c i : Nat) (f : Ingot → Ingot) : (s.mapIngot c i f).gangs = s.gangs := rfl
@[simp] theorem State.mapIngot_dirs (c i : Nat) (f : Ingot → Ingot) : (s.mapIngot c i f).dirs = s.dirs := rfl
@[simp] theorem State.mapIngot_nextTask (c i : Nat) (f : Ingot → Ingot) : (s.mapIngot c i f).nextTask = s.nextTask := rfl
@[simp] theorem State.mapIngot_ops (c i : Nat) (f : Ingot → Ingot) : (s.mapIngot c i f).ops = s.ops := rfl
@[simp] theorem State.mapIngot_imprecise (c i : Nat) (f : Ingot → Ingot) : (s.mapIngot c i f).imprecise = s.imprecise := rfl
@[simp] theorem State.mapIngot_profs (c i : Nat) (f : Ingot → Ingot) : (s.mapIngot c i f).profs = s.profs := rfl
@[simp] theorem State.mapIngot_testInterval (c i : Nat) (f : Ingot → Ingot) : (s.mapIngot c i f).testInterval = s.testInterval := rfl
@[simp] theorem State.mapIngot_tlbinvPending (c i : Nat) (f : Ingot → Ingot) : (s.mapIngot c i f).tlbinvPending = s.tlbinvPending := rfl
@[simp] theorem State.mapIngot_tlbinvQueue (c i : Nat) (f : Ingot → Ingot) : (s.mapIngot c i f).tlbinvQueue = s.tlbinvQueue := rfl
@[simp] theorem State.mapIngot_tlbinvDone (c i : Nat) (f : Ingot → Ingot) : (s.mapIngot c i f).tlbinvDone = s.tlbinvDone := rfl
@[simp] theorem State.mapIngot_handlerEntry (c i : Nat) (f : Ingot → Ingot) : (s.mapIngot c i f).handlerEntry = s.handlerEntry := rfl
@[simp] theorem State.mapIngot_hangLimit (c i : Nat) (f : Ingot → Ingot) : (s.mapIngot c i f).hangLimit = s.hangLimit := rfl
@[simp] theorem State.mapIngot_hostStatus (c i : Nat) (f : Ingot → Ingot) : (s.mapIngot c i f).hostStatus = s.hostStatus := rfl
@[simp] theorem State.mapIngot_cut (c i : Nat) (f : Ingot → Ingot) : (s.mapIngot c i f).cut = s.cut := rfl
@[simp] theorem State.mapIngot_bridges (c i : Nat) (f : Ingot → Ingot) : (s.mapIngot c i f).bridges = s.bridges := rfl
@[simp] theorem State.mapIngot_sampledAt (c i : Nat) (f : Ingot → Ingot) : (s.mapIngot c i f).sampledAt = s.sampledAt := rfl
@[simp] theorem State.mapIngot_startedAt (c i : Nat) (f : Ingot → Ingot) : (s.mapIngot c i f).startedAt = s.startedAt := rfl
@[simp] theorem State.mapIngot_fencedRemoteLinks (c i : Nat) (f : Ingot → Ingot) : (s.mapIngot c i f).fencedRemoteLinks = s.fencedRemoteLinks := rfl
@[simp] theorem State.mapIngot_completion (c i : Nat) (f : Ingot → Ingot) : (s.mapIngot c i f).completion = s.completion := rfl
@[simp] theorem State.mapIngot_caches (c i : Nat) (f : Ingot → Ingot) : (s.mapIngot c i f).caches = s.caches := rfl
@[simp] theorem State.mapIngot_notices (c i : Nat) (f : Ingot → Ingot) : (s.mapIngot c i f).notices = s.notices := rfl
@[simp] theorem State.mapIngot_domain (c i : Nat) (f : Ingot → Ingot) : (s.mapIngot c i f).domain = s.domain := rfl
@[simp] theorem State.mapIngot_homeOps (c i : Nat) (f : Ingot → Ingot) : (s.mapIngot c i f).homeOps = s.homeOps := rfl
@[simp] theorem State.mapIngot_trail (c i : Nat) (f : Ingot → Ingot) : (s.mapIngot c i f).trail = s.trail := rfl

/-! #### mapTimeline -/

@[simp] theorem State.mapTimeline_now (c i : Nat) (f : Timeline → Timeline) : (s.mapTimeline c i f).now = s.now := rfl
@[simp] theorem State.mapTimeline_moves (c i : Nat) (f : Timeline → Timeline) : (s.mapTimeline c i f).moves = s.moves := rfl
@[simp] theorem State.mapTimeline_cur (c i : Nat) (f : Timeline → Timeline) : (s.mapTimeline c i f).cur = s.cur := rfl
@[simp] theorem State.mapTimeline_fresh (c i : Nat) (f : Timeline → Timeline) : (s.mapTimeline c i f).fresh = s.fresh := rfl
@[simp] theorem State.mapTimeline_nextId (c i : Nat) (f : Timeline → Timeline) : (s.mapTimeline c i f).nextId = s.nextId := rfl
@[simp] theorem State.mapTimeline_powered (c i : Nat) (f : Timeline → Timeline) : (s.mapTimeline c i f).powered = s.powered := rfl
@[simp] theorem State.mapTimeline_start (c i : Nat) (f : Timeline → Timeline) : (s.mapTimeline c i f).start = s.start := rfl
@[simp] theorem State.mapTimeline_security (c i : Nat) (f : Timeline → Timeline) : (s.mapTimeline c i f).security = s.security := rfl
@[simp] theorem State.mapTimeline_ownId (c i : Nat) (f : Timeline → Timeline) : (s.mapTimeline c i f).ownId = s.ownId := rfl
@[simp] theorem State.mapTimeline_hosts (c i : Nat) (f : Timeline → Timeline) : (s.mapTimeline c i f).hosts = s.hosts := rfl
@[simp] theorem State.mapTimeline_packages (c i : Nat) (f : Timeline → Timeline) : (s.mapTimeline c i f).packages = s.packages := rfl
@[simp] theorem State.mapTimeline_privileged (c i : Nat) (f : Timeline → Timeline) : (s.mapTimeline c i f).privileged = s.privileged := rfl
@[simp] theorem State.mapTimeline_clusterMask (c i : Nat) (f : Timeline → Timeline) : (s.mapTimeline c i f).clusterMask = s.clusterMask := rfl
@[simp] theorem State.mapTimeline_dies (c i : Nat) (f : Timeline → Timeline) : (s.mapTimeline c i f).dies = s.dies := rfl
@[simp] theorem State.mapTimeline_links (c i : Nat) (f : Timeline → Timeline) : (s.mapTimeline c i f).links = s.links := rfl
@[simp] theorem State.mapTimeline_ports (c i : Nat) (f : Timeline → Timeline) : (s.mapTimeline c i f).ports = s.ports := rfl
@[simp] theorem State.mapTimeline_routes (c i : Nat) (f : Timeline → Timeline) : (s.mapTimeline c i f).routes = s.routes := rfl
@[simp] theorem State.mapTimeline_routePending (c i : Nat) (f : Timeline → Timeline) : (s.mapTimeline c i f).routePending = s.routePending := rfl
@[simp] theorem State.mapTimeline_fencedPkgs (c i : Nat) (f : Timeline → Timeline) : (s.mapTimeline c i f).fencedPkgs = s.fencedPkgs := rfl
@[simp] theorem State.mapTimeline_fencedRemoteDies (c i : Nat) (f : Timeline → Timeline) : (s.mapTimeline c i f).fencedRemoteDies = s.fencedRemoteDies := rfl
@[simp] theorem State.mapTimeline_remote (c i : Nat) (f : Timeline → Timeline) : (s.mapTimeline c i f).remote = s.remote := rfl
@[simp] theorem State.mapTimeline_mem (c i : Nat) (f : Timeline → Timeline) : (s.mapTimeline c i f).mem = s.mem := rfl
@[simp] theorem State.mapTimeline_poison (c i : Nat) (f : Timeline → Timeline) : (s.mapTimeline c i f).poison = s.poison := rfl
@[simp] theorem State.mapTimeline_clusters (c i : Nat) (f : Timeline → Timeline) : (s.mapTimeline c i f).clusters = s.clusters := rfl
@[simp] theorem State.mapTimeline_cores (c i : Nat) (f : Timeline → Timeline) : (s.mapTimeline c i f).cores = s.cores := rfl
@[simp] theorem State.mapTimeline_notifyLost (c i : Nat) (f : Timeline → Timeline) : (s.mapTimeline c i f).notifyLost = s.notifyLost := rfl
@[simp] theorem State.mapTimeline_queues (c i : Nat) (f : Timeline → Timeline) : (s.mapTimeline c i f).queues = s.queues := rfl
@[simp] theorem State.mapTimeline_staging (c i : Nat) (f : Timeline → Timeline) : (s.mapTimeline c i f).staging = s.staging := rfl
@[simp] theorem State.mapTimeline_tasks (c i : Nat) (f : Timeline → Timeline) : (s.mapTimeline c i f).tasks = s.tasks := rfl
@[simp] theorem State.mapTimeline_gangs (c i : Nat) (f : Timeline → Timeline) : (s.mapTimeline c i f).gangs = s.gangs := rfl
@[simp] theorem State.mapTimeline_dirs (c i : Nat) (f : Timeline → Timeline) : (s.mapTimeline c i f).dirs = s.dirs := rfl
@[simp] theorem State.mapTimeline_nextTask (c i : Nat) (f : Timeline → Timeline) : (s.mapTimeline c i f).nextTask = s.nextTask := rfl
@[simp] theorem State.mapTimeline_ops (c i : Nat) (f : Timeline → Timeline) : (s.mapTimeline c i f).ops = s.ops := rfl
@[simp] theorem State.mapTimeline_imprecise (c i : Nat) (f : Timeline → Timeline) : (s.mapTimeline c i f).imprecise = s.imprecise := rfl
@[simp] theorem State.mapTimeline_profs (c i : Nat) (f : Timeline → Timeline) : (s.mapTimeline c i f).profs = s.profs := rfl
@[simp] theorem State.mapTimeline_testInterval (c i : Nat) (f : Timeline → Timeline) : (s.mapTimeline c i f).testInterval = s.testInterval := rfl
@[simp] theorem State.mapTimeline_tlbinvPending (c i : Nat) (f : Timeline → Timeline) : (s.mapTimeline c i f).tlbinvPending = s.tlbinvPending := rfl
@[simp] theorem State.mapTimeline_tlbinvQueue (c i : Nat) (f : Timeline → Timeline) : (s.mapTimeline c i f).tlbinvQueue = s.tlbinvQueue := rfl
@[simp] theorem State.mapTimeline_tlbinvDone (c i : Nat) (f : Timeline → Timeline) : (s.mapTimeline c i f).tlbinvDone = s.tlbinvDone := rfl
@[simp] theorem State.mapTimeline_handlerEntry (c i : Nat) (f : Timeline → Timeline) : (s.mapTimeline c i f).handlerEntry = s.handlerEntry := rfl
@[simp] theorem State.mapTimeline_hangLimit (c i : Nat) (f : Timeline → Timeline) : (s.mapTimeline c i f).hangLimit = s.hangLimit := rfl
@[simp] theorem State.mapTimeline_hostStatus (c i : Nat) (f : Timeline → Timeline) : (s.mapTimeline c i f).hostStatus = s.hostStatus := rfl
@[simp] theorem State.mapTimeline_cut (c i : Nat) (f : Timeline → Timeline) : (s.mapTimeline c i f).cut = s.cut := rfl
@[simp] theorem State.mapTimeline_bridges (c i : Nat) (f : Timeline → Timeline) : (s.mapTimeline c i f).bridges = s.bridges := rfl
@[simp] theorem State.mapTimeline_sampledAt (c i : Nat) (f : Timeline → Timeline) : (s.mapTimeline c i f).sampledAt = s.sampledAt := rfl
@[simp] theorem State.mapTimeline_startedAt (c i : Nat) (f : Timeline → Timeline) : (s.mapTimeline c i f).startedAt = s.startedAt := rfl
@[simp] theorem State.mapTimeline_fencedRemoteLinks (c i : Nat) (f : Timeline → Timeline) : (s.mapTimeline c i f).fencedRemoteLinks = s.fencedRemoteLinks := rfl
@[simp] theorem State.mapTimeline_completion (c i : Nat) (f : Timeline → Timeline) : (s.mapTimeline c i f).completion = s.completion := rfl
@[simp] theorem State.mapTimeline_caches (c i : Nat) (f : Timeline → Timeline) : (s.mapTimeline c i f).caches = s.caches := rfl
@[simp] theorem State.mapTimeline_notices (c i : Nat) (f : Timeline → Timeline) : (s.mapTimeline c i f).notices = s.notices := rfl
@[simp] theorem State.mapTimeline_domain (c i : Nat) (f : Timeline → Timeline) : (s.mapTimeline c i f).domain = s.domain := rfl
@[simp] theorem State.mapTimeline_homeOps (c i : Nat) (f : Timeline → Timeline) : (s.mapTimeline c i f).homeOps = s.homeOps := rfl
@[simp] theorem State.mapTimeline_trail (c i : Nat) (f : Timeline → Timeline) : (s.mapTimeline c i f).trail = s.trail := rfl

/-! #### dropEngineOps -/

@[simp] theorem State.dropEngineOps_now (t g : Nat) : (s.dropEngineOps t g).now = s.now := rfl
@[simp] theorem State.dropEngineOps_moves (t g : Nat) : (s.dropEngineOps t g).moves = s.moves := rfl
@[simp] theorem State.dropEngineOps_cur (t g : Nat) : (s.dropEngineOps t g).cur = s.cur := rfl
@[simp] theorem State.dropEngineOps_fresh (t g : Nat) : (s.dropEngineOps t g).fresh = s.fresh := rfl
@[simp] theorem State.dropEngineOps_nextId (t g : Nat) : (s.dropEngineOps t g).nextId = s.nextId := rfl
@[simp] theorem State.dropEngineOps_powered (t g : Nat) : (s.dropEngineOps t g).powered = s.powered := rfl
@[simp] theorem State.dropEngineOps_start (t g : Nat) : (s.dropEngineOps t g).start = s.start := rfl
@[simp] theorem State.dropEngineOps_security (t g : Nat) : (s.dropEngineOps t g).security = s.security := rfl
@[simp] theorem State.dropEngineOps_ownId (t g : Nat) : (s.dropEngineOps t g).ownId = s.ownId := rfl
@[simp] theorem State.dropEngineOps_hosts (t g : Nat) : (s.dropEngineOps t g).hosts = s.hosts := rfl
@[simp] theorem State.dropEngineOps_packages (t g : Nat) : (s.dropEngineOps t g).packages = s.packages := rfl
@[simp] theorem State.dropEngineOps_privileged (t g : Nat) : (s.dropEngineOps t g).privileged = s.privileged := rfl
@[simp] theorem State.dropEngineOps_clusterMask (t g : Nat) : (s.dropEngineOps t g).clusterMask = s.clusterMask := rfl
@[simp] theorem State.dropEngineOps_dies (t g : Nat) : (s.dropEngineOps t g).dies = s.dies := rfl
@[simp] theorem State.dropEngineOps_links (t g : Nat) : (s.dropEngineOps t g).links = s.links := rfl
@[simp] theorem State.dropEngineOps_ports (t g : Nat) : (s.dropEngineOps t g).ports = s.ports := rfl
@[simp] theorem State.dropEngineOps_routes (t g : Nat) : (s.dropEngineOps t g).routes = s.routes := rfl
@[simp] theorem State.dropEngineOps_routePending (t g : Nat) : (s.dropEngineOps t g).routePending = s.routePending := rfl
@[simp] theorem State.dropEngineOps_fencedPkgs (t g : Nat) : (s.dropEngineOps t g).fencedPkgs = s.fencedPkgs := rfl
@[simp] theorem State.dropEngineOps_fencedRemoteDies (t g : Nat) : (s.dropEngineOps t g).fencedRemoteDies = s.fencedRemoteDies := rfl
@[simp] theorem State.dropEngineOps_remote (t g : Nat) : (s.dropEngineOps t g).remote = s.remote := rfl
@[simp] theorem State.dropEngineOps_mem (t g : Nat) : (s.dropEngineOps t g).mem = s.mem := rfl
@[simp] theorem State.dropEngineOps_poison (t g : Nat) : (s.dropEngineOps t g).poison = s.poison := rfl
@[simp] theorem State.dropEngineOps_clusters (t g : Nat) : (s.dropEngineOps t g).clusters = s.clusters := rfl
@[simp] theorem State.dropEngineOps_cores (t g : Nat) : (s.dropEngineOps t g).cores = s.cores := rfl
@[simp] theorem State.dropEngineOps_contexts (t g : Nat) : (s.dropEngineOps t g).contexts = s.contexts := rfl
@[simp] theorem State.dropEngineOps_notifyLost (t g : Nat) : (s.dropEngineOps t g).notifyLost = s.notifyLost := rfl
@[simp] theorem State.dropEngineOps_queues (t g : Nat) : (s.dropEngineOps t g).queues = s.queues := rfl
@[simp] theorem State.dropEngineOps_staging (t g : Nat) : (s.dropEngineOps t g).staging = s.staging := rfl
@[simp] theorem State.dropEngineOps_tasks (t g : Nat) : (s.dropEngineOps t g).tasks = s.tasks := rfl
@[simp] theorem State.dropEngineOps_gangs (t g : Nat) : (s.dropEngineOps t g).gangs = s.gangs := rfl
@[simp] theorem State.dropEngineOps_dirs (t g : Nat) : (s.dropEngineOps t g).dirs = s.dirs := rfl
@[simp] theorem State.dropEngineOps_nextTask (t g : Nat) : (s.dropEngineOps t g).nextTask = s.nextTask := rfl
@[simp] theorem State.dropEngineOps_imprecise (t g : Nat) : (s.dropEngineOps t g).imprecise = s.imprecise := rfl
@[simp] theorem State.dropEngineOps_profs (t g : Nat) : (s.dropEngineOps t g).profs = s.profs := rfl
@[simp] theorem State.dropEngineOps_testInterval (t g : Nat) : (s.dropEngineOps t g).testInterval = s.testInterval := rfl
@[simp] theorem State.dropEngineOps_tlbinvPending (t g : Nat) : (s.dropEngineOps t g).tlbinvPending = s.tlbinvPending := rfl
@[simp] theorem State.dropEngineOps_tlbinvQueue (t g : Nat) : (s.dropEngineOps t g).tlbinvQueue = s.tlbinvQueue := rfl
@[simp] theorem State.dropEngineOps_tlbinvDone (t g : Nat) : (s.dropEngineOps t g).tlbinvDone = s.tlbinvDone := rfl
@[simp] theorem State.dropEngineOps_handlerEntry (t g : Nat) : (s.dropEngineOps t g).handlerEntry = s.handlerEntry := rfl
@[simp] theorem State.dropEngineOps_hangLimit (t g : Nat) : (s.dropEngineOps t g).hangLimit = s.hangLimit := rfl
@[simp] theorem State.dropEngineOps_hostStatus (t g : Nat) : (s.dropEngineOps t g).hostStatus = s.hostStatus := rfl
@[simp] theorem State.dropEngineOps_cut (t g : Nat) : (s.dropEngineOps t g).cut = s.cut := rfl
@[simp] theorem State.dropEngineOps_bridges (t g : Nat) : (s.dropEngineOps t g).bridges = s.bridges := rfl
@[simp] theorem State.dropEngineOps_sampledAt (t g : Nat) : (s.dropEngineOps t g).sampledAt = s.sampledAt := rfl
@[simp] theorem State.dropEngineOps_startedAt (t g : Nat) : (s.dropEngineOps t g).startedAt = s.startedAt := rfl
@[simp] theorem State.dropEngineOps_fencedRemoteLinks (t g : Nat) : (s.dropEngineOps t g).fencedRemoteLinks = s.fencedRemoteLinks := rfl
@[simp] theorem State.dropEngineOps_completion (t g : Nat) : (s.dropEngineOps t g).completion = s.completion := rfl
@[simp] theorem State.dropEngineOps_caches (t g : Nat) : (s.dropEngineOps t g).caches = s.caches := rfl
@[simp] theorem State.dropEngineOps_notices (t g : Nat) : (s.dropEngineOps t g).notices = s.notices := rfl
@[simp] theorem State.dropEngineOps_domain (t g : Nat) : (s.dropEngineOps t g).domain = s.domain := rfl
@[simp] theorem State.dropEngineOps_homeOps (t g : Nat) : (s.dropEngineOps t g).homeOps = s.homeOps := rfl
@[simp] theorem State.dropEngineOps_trail (t g : Nat) : (s.dropEngineOps t g).trail = s.trail := rfl

/-! #### moveOps -/

@[simp] theorem State.moveOps_now (r : WaveRef) (l : Nats) : (s.moveOps r l).now = s.now := rfl
@[simp] theorem State.moveOps_moves (r : WaveRef) (l : Nats) : (s.moveOps r l).moves = s.moves := rfl
@[simp] theorem State.moveOps_cur (r : WaveRef) (l : Nats) : (s.moveOps r l).cur = s.cur := rfl
@[simp] theorem State.moveOps_fresh (r : WaveRef) (l : Nats) : (s.moveOps r l).fresh = s.fresh := rfl
@[simp] theorem State.moveOps_nextId (r : WaveRef) (l : Nats) : (s.moveOps r l).nextId = s.nextId := rfl
@[simp] theorem State.moveOps_powered (r : WaveRef) (l : Nats) : (s.moveOps r l).powered = s.powered := rfl
@[simp] theorem State.moveOps_start (r : WaveRef) (l : Nats) : (s.moveOps r l).start = s.start := rfl
@[simp] theorem State.moveOps_security (r : WaveRef) (l : Nats) : (s.moveOps r l).security = s.security := rfl
@[simp] theorem State.moveOps_ownId (r : WaveRef) (l : Nats) : (s.moveOps r l).ownId = s.ownId := rfl
@[simp] theorem State.moveOps_hosts (r : WaveRef) (l : Nats) : (s.moveOps r l).hosts = s.hosts := rfl
@[simp] theorem State.moveOps_packages (r : WaveRef) (l : Nats) : (s.moveOps r l).packages = s.packages := rfl
@[simp] theorem State.moveOps_privileged (r : WaveRef) (l : Nats) : (s.moveOps r l).privileged = s.privileged := rfl
@[simp] theorem State.moveOps_clusterMask (r : WaveRef) (l : Nats) : (s.moveOps r l).clusterMask = s.clusterMask := rfl
@[simp] theorem State.moveOps_dies (r : WaveRef) (l : Nats) : (s.moveOps r l).dies = s.dies := rfl
@[simp] theorem State.moveOps_links (r : WaveRef) (l : Nats) : (s.moveOps r l).links = s.links := rfl
@[simp] theorem State.moveOps_ports (r : WaveRef) (l : Nats) : (s.moveOps r l).ports = s.ports := rfl
@[simp] theorem State.moveOps_routes (r : WaveRef) (l : Nats) : (s.moveOps r l).routes = s.routes := rfl
@[simp] theorem State.moveOps_routePending (r : WaveRef) (l : Nats) : (s.moveOps r l).routePending = s.routePending := rfl
@[simp] theorem State.moveOps_fencedPkgs (r : WaveRef) (l : Nats) : (s.moveOps r l).fencedPkgs = s.fencedPkgs := rfl
@[simp] theorem State.moveOps_fencedRemoteDies (r : WaveRef) (l : Nats) : (s.moveOps r l).fencedRemoteDies = s.fencedRemoteDies := rfl
@[simp] theorem State.moveOps_remote (r : WaveRef) (l : Nats) : (s.moveOps r l).remote = s.remote := rfl
@[simp] theorem State.moveOps_mem (r : WaveRef) (l : Nats) : (s.moveOps r l).mem = s.mem := rfl
@[simp] theorem State.moveOps_poison (r : WaveRef) (l : Nats) : (s.moveOps r l).poison = s.poison := rfl
@[simp] theorem State.moveOps_clusters (r : WaveRef) (l : Nats) : (s.moveOps r l).clusters = s.clusters := rfl
@[simp] theorem State.moveOps_cores (r : WaveRef) (l : Nats) : (s.moveOps r l).cores = s.cores := rfl
@[simp] theorem State.moveOps_contexts (r : WaveRef) (l : Nats) : (s.moveOps r l).contexts = s.contexts := rfl
@[simp] theorem State.moveOps_notifyLost (r : WaveRef) (l : Nats) : (s.moveOps r l).notifyLost = s.notifyLost := rfl
@[simp] theorem State.moveOps_queues (r : WaveRef) (l : Nats) : (s.moveOps r l).queues = s.queues := rfl
@[simp] theorem State.moveOps_staging (r : WaveRef) (l : Nats) : (s.moveOps r l).staging = s.staging := rfl
@[simp] theorem State.moveOps_tasks (r : WaveRef) (l : Nats) : (s.moveOps r l).tasks = s.tasks := rfl
@[simp] theorem State.moveOps_gangs (r : WaveRef) (l : Nats) : (s.moveOps r l).gangs = s.gangs := rfl
@[simp] theorem State.moveOps_dirs (r : WaveRef) (l : Nats) : (s.moveOps r l).dirs = s.dirs := rfl
@[simp] theorem State.moveOps_nextTask (r : WaveRef) (l : Nats) : (s.moveOps r l).nextTask = s.nextTask := rfl
@[simp] theorem State.moveOps_imprecise (r : WaveRef) (l : Nats) : (s.moveOps r l).imprecise = s.imprecise := rfl
@[simp] theorem State.moveOps_profs (r : WaveRef) (l : Nats) : (s.moveOps r l).profs = s.profs := rfl
@[simp] theorem State.moveOps_testInterval (r : WaveRef) (l : Nats) : (s.moveOps r l).testInterval = s.testInterval := rfl
@[simp] theorem State.moveOps_tlbinvPending (r : WaveRef) (l : Nats) : (s.moveOps r l).tlbinvPending = s.tlbinvPending := rfl
@[simp] theorem State.moveOps_tlbinvQueue (r : WaveRef) (l : Nats) : (s.moveOps r l).tlbinvQueue = s.tlbinvQueue := rfl
@[simp] theorem State.moveOps_tlbinvDone (r : WaveRef) (l : Nats) : (s.moveOps r l).tlbinvDone = s.tlbinvDone := rfl
@[simp] theorem State.moveOps_handlerEntry (r : WaveRef) (l : Nats) : (s.moveOps r l).handlerEntry = s.handlerEntry := rfl
@[simp] theorem State.moveOps_hangLimit (r : WaveRef) (l : Nats) : (s.moveOps r l).hangLimit = s.hangLimit := rfl
@[simp] theorem State.moveOps_hostStatus (r : WaveRef) (l : Nats) : (s.moveOps r l).hostStatus = s.hostStatus := rfl
@[simp] theorem State.moveOps_cut (r : WaveRef) (l : Nats) : (s.moveOps r l).cut = s.cut := rfl
@[simp] theorem State.moveOps_bridges (r : WaveRef) (l : Nats) : (s.moveOps r l).bridges = s.bridges := rfl
@[simp] theorem State.moveOps_sampledAt (r : WaveRef) (l : Nats) : (s.moveOps r l).sampledAt = s.sampledAt := rfl
@[simp] theorem State.moveOps_startedAt (r : WaveRef) (l : Nats) : (s.moveOps r l).startedAt = s.startedAt := rfl
@[simp] theorem State.moveOps_fencedRemoteLinks (r : WaveRef) (l : Nats) : (s.moveOps r l).fencedRemoteLinks = s.fencedRemoteLinks := rfl
@[simp] theorem State.moveOps_completion (r : WaveRef) (l : Nats) : (s.moveOps r l).completion = s.completion := rfl
@[simp] theorem State.moveOps_caches (r : WaveRef) (l : Nats) : (s.moveOps r l).caches = s.caches := rfl
@[simp] theorem State.moveOps_notices (r : WaveRef) (l : Nats) : (s.moveOps r l).notices = s.notices := rfl
@[simp] theorem State.moveOps_domain (r : WaveRef) (l : Nats) : (s.moveOps r l).domain = s.domain := rfl
@[simp] theorem State.moveOps_homeOps (r : WaveRef) (l : Nats) : (s.moveOps r l).homeOps = s.homeOps := rfl
@[simp] theorem State.moveOps_trail (r : WaveRef) (l : Nats) : (s.moveOps r l).trail = s.trail := rfl

/-! #### setWave -/

@[simp] theorem State.setWave_now (r : WaveRef) (w : Wave) : (s.setWave r w).now = s.now := by cases r <;> rfl
@[simp] theorem State.setWave_moves (r : WaveRef) (w : Wave) : (s.setWave r w).moves = s.moves := by cases r <;> rfl
@[simp] theorem State.setWave_cur (r : WaveRef) (w : Wave) : (s.setWave r w).cur = s.cur := by cases r <;> rfl
@[simp] theorem State.setWave_fresh (r : WaveRef) (w : Wave) : (s.setWave r w).fresh = s.fresh := by cases r <;> rfl
@[simp] theorem State.setWave_nextId (r : WaveRef) (w : Wave) : (s.setWave r w).nextId = s.nextId := by cases r <;> rfl
@[simp] theorem State.setWave_powered (r : WaveRef) (w : Wave) : (s.setWave r w).powered = s.powered := by cases r <;> rfl
@[simp] theorem State.setWave_start (r : WaveRef) (w : Wave) : (s.setWave r w).start = s.start := by cases r <;> rfl
@[simp] theorem State.setWave_security (r : WaveRef) (w : Wave) : (s.setWave r w).security = s.security := by cases r <;> rfl
@[simp] theorem State.setWave_ownId (r : WaveRef) (w : Wave) : (s.setWave r w).ownId = s.ownId := by cases r <;> rfl
@[simp] theorem State.setWave_hosts (r : WaveRef) (w : Wave) : (s.setWave r w).hosts = s.hosts := by cases r <;> rfl
@[simp] theorem State.setWave_packages (r : WaveRef) (w : Wave) : (s.setWave r w).packages = s.packages := by cases r <;> rfl
@[simp] theorem State.setWave_privileged (r : WaveRef) (w : Wave) : (s.setWave r w).privileged = s.privileged := by cases r <;> rfl
@[simp] theorem State.setWave_clusterMask (r : WaveRef) (w : Wave) : (s.setWave r w).clusterMask = s.clusterMask := by cases r <;> rfl
@[simp] theorem State.setWave_dies (r : WaveRef) (w : Wave) : (s.setWave r w).dies = s.dies := by cases r <;> rfl
@[simp] theorem State.setWave_links (r : WaveRef) (w : Wave) : (s.setWave r w).links = s.links := by cases r <;> rfl
@[simp] theorem State.setWave_ports (r : WaveRef) (w : Wave) : (s.setWave r w).ports = s.ports := by cases r <;> rfl
@[simp] theorem State.setWave_routes (r : WaveRef) (w : Wave) : (s.setWave r w).routes = s.routes := by cases r <;> rfl
@[simp] theorem State.setWave_routePending (r : WaveRef) (w : Wave) : (s.setWave r w).routePending = s.routePending := by cases r <;> rfl
@[simp] theorem State.setWave_fencedPkgs (r : WaveRef) (w : Wave) : (s.setWave r w).fencedPkgs = s.fencedPkgs := by cases r <;> rfl
@[simp] theorem State.setWave_fencedRemoteDies (r : WaveRef) (w : Wave) : (s.setWave r w).fencedRemoteDies = s.fencedRemoteDies := by cases r <;> rfl
@[simp] theorem State.setWave_remote (r : WaveRef) (w : Wave) : (s.setWave r w).remote = s.remote := by cases r <;> rfl
@[simp] theorem State.setWave_mem (r : WaveRef) (w : Wave) : (s.setWave r w).mem = s.mem := by cases r <;> rfl
@[simp] theorem State.setWave_poison (r : WaveRef) (w : Wave) : (s.setWave r w).poison = s.poison := by cases r <;> rfl
@[simp] theorem State.setWave_clusters (r : WaveRef) (w : Wave) : (s.setWave r w).clusters = s.clusters := by cases r <;> rfl
@[simp] theorem State.setWave_contexts (r : WaveRef) (w : Wave) : (s.setWave r w).contexts = s.contexts := by cases r <;> rfl
@[simp] theorem State.setWave_notifyLost (r : WaveRef) (w : Wave) : (s.setWave r w).notifyLost = s.notifyLost := by cases r <;> rfl
@[simp] theorem State.setWave_queues (r : WaveRef) (w : Wave) : (s.setWave r w).queues = s.queues := by cases r <;> rfl
@[simp] theorem State.setWave_staging (r : WaveRef) (w : Wave) : (s.setWave r w).staging = s.staging := by cases r <;> rfl
@[simp] theorem State.setWave_tasks (r : WaveRef) (w : Wave) : (s.setWave r w).tasks = s.tasks := by cases r <;> rfl
@[simp] theorem State.setWave_dirs (r : WaveRef) (w : Wave) : (s.setWave r w).dirs = s.dirs := by cases r <;> rfl
@[simp] theorem State.setWave_nextTask (r : WaveRef) (w : Wave) : (s.setWave r w).nextTask = s.nextTask := by cases r <;> rfl
@[simp] theorem State.setWave_ops (r : WaveRef) (w : Wave) : (s.setWave r w).ops = s.ops := by cases r <;> rfl
@[simp] theorem State.setWave_imprecise (r : WaveRef) (w : Wave) : (s.setWave r w).imprecise = s.imprecise := by cases r <;> rfl
@[simp] theorem State.setWave_profs (r : WaveRef) (w : Wave) : (s.setWave r w).profs = s.profs := by cases r <;> rfl
@[simp] theorem State.setWave_testInterval (r : WaveRef) (w : Wave) : (s.setWave r w).testInterval = s.testInterval := by cases r <;> rfl
@[simp] theorem State.setWave_tlbinvPending (r : WaveRef) (w : Wave) : (s.setWave r w).tlbinvPending = s.tlbinvPending := by cases r <;> rfl
@[simp] theorem State.setWave_tlbinvQueue (r : WaveRef) (w : Wave) : (s.setWave r w).tlbinvQueue = s.tlbinvQueue := by cases r <;> rfl
@[simp] theorem State.setWave_tlbinvDone (r : WaveRef) (w : Wave) : (s.setWave r w).tlbinvDone = s.tlbinvDone := by cases r <;> rfl
@[simp] theorem State.setWave_handlerEntry (r : WaveRef) (w : Wave) : (s.setWave r w).handlerEntry = s.handlerEntry := by cases r <;> rfl
@[simp] theorem State.setWave_hangLimit (r : WaveRef) (w : Wave) : (s.setWave r w).hangLimit = s.hangLimit := by cases r <;> rfl
@[simp] theorem State.setWave_hostStatus (r : WaveRef) (w : Wave) : (s.setWave r w).hostStatus = s.hostStatus := by cases r <;> rfl
@[simp] theorem State.setWave_cut (r : WaveRef) (w : Wave) : (s.setWave r w).cut = s.cut := by cases r <;> rfl
@[simp] theorem State.setWave_bridges (r : WaveRef) (w : Wave) : (s.setWave r w).bridges = s.bridges := by cases r <;> rfl
@[simp] theorem State.setWave_sampledAt (r : WaveRef) (w : Wave) : (s.setWave r w).sampledAt = s.sampledAt := by cases r <;> rfl
@[simp] theorem State.setWave_startedAt (r : WaveRef) (w : Wave) : (s.setWave r w).startedAt = s.startedAt := by cases r <;> rfl
@[simp] theorem State.setWave_fencedRemoteLinks (r : WaveRef) (w : Wave) : (s.setWave r w).fencedRemoteLinks = s.fencedRemoteLinks := by cases r <;> rfl
@[simp] theorem State.setWave_completion (r : WaveRef) (w : Wave) : (s.setWave r w).completion = s.completion := by cases r <;> rfl
@[simp] theorem State.setWave_caches (r : WaveRef) (w : Wave) : (s.setWave r w).caches = s.caches := by cases r <;> rfl
@[simp] theorem State.setWave_notices (r : WaveRef) (w : Wave) : (s.setWave r w).notices = s.notices := by cases r <;> rfl

variable (w : Wave)

/-! #### setPath -/

@[simp] theorem Wave.setPath_vregs (p : Nat) (x : Path) : (w.setPath p x).vregs = w.vregs := rfl
@[simp] theorem Wave.setPath_xsums (p : Nat) (x : Path) : (w.setPath p x).xsums = w.xsums := rfl
@[simp] theorem Wave.setPath_preds (p : Nat) (x : Path) : (w.setPath p x).preds = w.preds := rfl
@[simp] theorem Wave.setPath_slices (p : Nat) (x : Path) : (w.setPath p x).slices = w.slices := rfl
@[simp] theorem Wave.setPath_partn (p : Nat) (x : Path) : (w.setPath p x).partn = w.partn := rfl
@[simp] theorem Wave.setPath_replayPc (p : Nat) (x : Path) : (w.setPath p x).replayPc = w.replayPc := rfl
@[simp] theorem Wave.setPath_doneMask (p : Nat) (x : Path) : (w.setPath p x).doneMask = w.doneMask := rfl
@[simp] theorem Wave.setPath_slip (p : Nat) (x : Path) : (w.setPath p x).slip = w.slip := rfl
@[simp] theorem Wave.setPath_pourMask (p : Nat) (x : Path) : (w.setPath p x).pourMask = w.pourMask := rfl
@[simp] theorem Wave.setPath_sealMask (p : Nat) (x : Path) : (w.setPath p x).sealMask = w.sealMask := rfl
@[simp] theorem Wave.setPath_sealGrade (p : Nat) (x : Path) : (w.setPath p x).sealGrade = w.sealGrade := rfl
@[simp] theorem Wave.setPath_killed (p : Nat) (x : Path) : (w.setPath p x).killed = w.killed := rfl
@[simp] theorem Wave.setPath_bpSeen (p : Nat) (x : Path) : (w.setPath p x).bpSeen = w.bpSeen := rfl
@[simp] theorem Wave.setPath_issued (p : Nat) (x : Path) : (w.setPath p x).issued = w.issued := rfl

/-! #### setSlice -/

@[simp] theorem Wave.setSlice_vregs (i : Nat) (x : Slice) : (w.setSlice i x).vregs = w.vregs := rfl
@[simp] theorem Wave.setSlice_xsums (i : Nat) (x : Slice) : (w.setSlice i x).xsums = w.xsums := rfl
@[simp] theorem Wave.setSlice_preds (i : Nat) (x : Slice) : (w.setSlice i x).preds = w.preds := rfl
@[simp] theorem Wave.setSlice_paths (i : Nat) (x : Slice) : (w.setSlice i x).paths = w.paths := rfl
@[simp] theorem Wave.setSlice_partn (i : Nat) (x : Slice) : (w.setSlice i x).partn = w.partn := rfl
@[simp] theorem Wave.setSlice_replayPc (i : Nat) (x : Slice) : (w.setSlice i x).replayPc = w.replayPc := rfl
@[simp] theorem Wave.setSlice_doneMask (i : Nat) (x : Slice) : (w.setSlice i x).doneMask = w.doneMask := rfl
@[simp] theorem Wave.setSlice_slip (i : Nat) (x : Slice) : (w.setSlice i x).slip = w.slip := rfl
@[simp] theorem Wave.setSlice_pourMask (i : Nat) (x : Slice) : (w.setSlice i x).pourMask = w.pourMask := rfl
@[simp] theorem Wave.setSlice_sealMask (i : Nat) (x : Slice) : (w.setSlice i x).sealMask = w.sealMask := rfl
@[simp] theorem Wave.setSlice_sealGrade (i : Nat) (x : Slice) : (w.setSlice i x).sealGrade = w.sealGrade := rfl
@[simp] theorem Wave.setSlice_killed (i : Nat) (x : Slice) : (w.setSlice i x).killed = w.killed := rfl
@[simp] theorem Wave.setSlice_bpSeen (i : Nat) (x : Slice) : (w.setSlice i x).bpSeen = w.bpSeen := rfl
@[simp] theorem Wave.setSlice_issued (i : Nat) (x : Slice) : (w.setSlice i x).issued = w.issued := rfl

/-! #### mapSlice -/

@[simp] theorem Wave.mapSlice_vregs (i : Nat) (f : Slice → Slice) : (w.mapSlice i f).vregs = w.vregs := rfl
@[simp] theorem Wave.mapSlice_xsums (i : Nat) (f : Slice → Slice) : (w.mapSlice i f).xsums = w.xsums := rfl
@[simp] theorem Wave.mapSlice_preds (i : Nat) (f : Slice → Slice) : (w.mapSlice i f).preds = w.preds := rfl
@[simp] theorem Wave.mapSlice_paths (i : Nat) (f : Slice → Slice) : (w.mapSlice i f).paths = w.paths := rfl
@[simp] theorem Wave.mapSlice_partn (i : Nat) (f : Slice → Slice) : (w.mapSlice i f).partn = w.partn := rfl
@[simp] theorem Wave.mapSlice_replayPc (i : Nat) (f : Slice → Slice) : (w.mapSlice i f).replayPc = w.replayPc := rfl
@[simp] theorem Wave.mapSlice_doneMask (i : Nat) (f : Slice → Slice) : (w.mapSlice i f).doneMask = w.doneMask := rfl
@[simp] theorem Wave.mapSlice_slip (i : Nat) (f : Slice → Slice) : (w.mapSlice i f).slip = w.slip := rfl
@[simp] theorem Wave.mapSlice_pourMask (i : Nat) (f : Slice → Slice) : (w.mapSlice i f).pourMask = w.pourMask := rfl
@[simp] theorem Wave.mapSlice_sealMask (i : Nat) (f : Slice → Slice) : (w.mapSlice i f).sealMask = w.sealMask := rfl
@[simp] theorem Wave.mapSlice_sealGrade (i : Nat) (f : Slice → Slice) : (w.mapSlice i f).sealGrade = w.sealGrade := rfl
@[simp] theorem Wave.mapSlice_killed (i : Nat) (f : Slice → Slice) : (w.mapSlice i f).killed = w.killed := rfl
@[simp] theorem Wave.mapSlice_bpSeen (i : Nat) (f : Slice → Slice) : (w.mapSlice i f).bpSeen = w.bpSeen := rfl
@[simp] theorem Wave.mapSlice_issued (i : Nat) (f : Slice → Slice) : (w.mapSlice i f).issued = w.issued := rfl

/-! #### setV -/

@[simp] theorem Wave.setV_xsums (r l : Nat) (v : RegVal) : (w.setV r l v).xsums = w.xsums := rfl
@[simp] theorem Wave.setV_preds (r l : Nat) (v : RegVal) : (w.setV r l v).preds = w.preds := rfl
@[simp] theorem Wave.setV_slices (r l : Nat) (v : RegVal) : (w.setV r l v).slices = w.slices := rfl
@[simp] theorem Wave.setV_paths (r l : Nat) (v : RegVal) : (w.setV r l v).paths = w.paths := rfl
@[simp] theorem Wave.setV_partn (r l : Nat) (v : RegVal) : (w.setV r l v).partn = w.partn := rfl
@[simp] theorem Wave.setV_replayPc (r l : Nat) (v : RegVal) : (w.setV r l v).replayPc = w.replayPc := rfl
@[simp] theorem Wave.setV_doneMask (r l : Nat) (v : RegVal) : (w.setV r l v).doneMask = w.doneMask := rfl
@[simp] theorem Wave.setV_slip (r l : Nat) (v : RegVal) : (w.setV r l v).slip = w.slip := rfl
@[simp] theorem Wave.setV_pourMask (r l : Nat) (v : RegVal) : (w.setV r l v).pourMask = w.pourMask := rfl
@[simp] theorem Wave.setV_sealMask (r l : Nat) (v : RegVal) : (w.setV r l v).sealMask = w.sealMask := rfl
@[simp] theorem Wave.setV_sealGrade (r l : Nat) (v : RegVal) : (w.setV r l v).sealGrade = w.sealGrade := rfl
@[simp] theorem Wave.setV_killed (r l : Nat) (v : RegVal) : (w.setV r l v).killed = w.killed := rfl
@[simp] theorem Wave.setV_bpSeen (r l : Nat) (v : RegVal) : (w.setV r l v).bpSeen = w.bpSeen := rfl
@[simp] theorem Wave.setV_issued (r l : Nat) (v : RegVal) : (w.setV r l v).issued = w.issued := rfl

/-! #### setS -/

@[simp] theorem Wave.setS_vregs (r i : Nat) (v : RegVal) : (w.setS r i v).vregs = w.vregs := rfl
@[simp] theorem Wave.setS_xsums (r i : Nat) (v : RegVal) : (w.setS r i v).xsums = w.xsums := rfl
@[simp] theorem Wave.setS_preds (r i : Nat) (v : RegVal) : (w.setS r i v).preds = w.preds := rfl
@[simp] theorem Wave.setS_paths (r i : Nat) (v : RegVal) : (w.setS r i v).paths = w.paths := rfl
@[simp] theorem Wave.setS_partn (r i : Nat) (v : RegVal) : (w.setS r i v).partn = w.partn := rfl
@[simp] theorem Wave.setS_replayPc (r i : Nat) (v : RegVal) : (w.setS r i v).replayPc = w.replayPc := rfl
@[simp] theorem Wave.setS_doneMask (r i : Nat) (v : RegVal) : (w.setS r i v).doneMask = w.doneMask := rfl
@[simp] theorem Wave.setS_slip (r i : Nat) (v : RegVal) : (w.setS r i v).slip = w.slip := rfl
@[simp] theorem Wave.setS_pourMask (r i : Nat) (v : RegVal) : (w.setS r i v).pourMask = w.pourMask := rfl
@[simp] theorem Wave.setS_sealMask (r i : Nat) (v : RegVal) : (w.setS r i v).sealMask = w.sealMask := rfl
@[simp] theorem Wave.setS_sealGrade (r i : Nat) (v : RegVal) : (w.setS r i v).sealGrade = w.sealGrade := rfl
@[simp] theorem Wave.setS_killed (r i : Nat) (v : RegVal) : (w.setS r i v).killed = w.killed := rfl
@[simp] theorem Wave.setS_bpSeen (r i : Nat) (v : RegVal) : (w.setS r i v).bpSeen = w.bpSeen := rfl
@[simp] theorem Wave.setS_issued (r i : Nat) (v : RegVal) : (w.setS r i v).issued = w.issued := rfl

/-! #### setX -/

@[simp] theorem Wave.setX_vregs (x l : Nat) (v : XSum) : (w.setX x l v).vregs = w.vregs := rfl
@[simp] theorem Wave.setX_preds (x l : Nat) (v : XSum) : (w.setX x l v).preds = w.preds := rfl
@[simp] theorem Wave.setX_slices (x l : Nat) (v : XSum) : (w.setX x l v).slices = w.slices := rfl
@[simp] theorem Wave.setX_paths (x l : Nat) (v : XSum) : (w.setX x l v).paths = w.paths := rfl
@[simp] theorem Wave.setX_partn (x l : Nat) (v : XSum) : (w.setX x l v).partn = w.partn := rfl
@[simp] theorem Wave.setX_replayPc (x l : Nat) (v : XSum) : (w.setX x l v).replayPc = w.replayPc := rfl
@[simp] theorem Wave.setX_doneMask (x l : Nat) (v : XSum) : (w.setX x l v).doneMask = w.doneMask := rfl
@[simp] theorem Wave.setX_slip (x l : Nat) (v : XSum) : (w.setX x l v).slip = w.slip := rfl
@[simp] theorem Wave.setX_pourMask (x l : Nat) (v : XSum) : (w.setX x l v).pourMask = w.pourMask := rfl
@[simp] theorem Wave.setX_sealMask (x l : Nat) (v : XSum) : (w.setX x l v).sealMask = w.sealMask := rfl
@[simp] theorem Wave.setX_sealGrade (x l : Nat) (v : XSum) : (w.setX x l v).sealGrade = w.sealGrade := rfl
@[simp] theorem Wave.setX_killed (x l : Nat) (v : XSum) : (w.setX x l v).killed = w.killed := rfl
@[simp] theorem Wave.setX_bpSeen (x l : Nat) (v : XSum) : (w.setX x l v).bpSeen = w.bpSeen := rfl
@[simp] theorem Wave.setX_issued (x l : Nat) (v : XSum) : (w.setX x l v).issued = w.issued := rfl

/-! #### orSticky -/

@[simp] theorem Wave.orSticky_vregs (p : Nat) (f : Flags) : (w.orSticky p f).vregs = w.vregs := rfl
@[simp] theorem Wave.orSticky_xsums (p : Nat) (f : Flags) : (w.orSticky p f).xsums = w.xsums := rfl
@[simp] theorem Wave.orSticky_preds (p : Nat) (f : Flags) : (w.orSticky p f).preds = w.preds := rfl
@[simp] theorem Wave.orSticky_slices (p : Nat) (f : Flags) : (w.orSticky p f).slices = w.slices := rfl
@[simp] theorem Wave.orSticky_partn (p : Nat) (f : Flags) : (w.orSticky p f).partn = w.partn := rfl
@[simp] theorem Wave.orSticky_replayPc (p : Nat) (f : Flags) : (w.orSticky p f).replayPc = w.replayPc := rfl
@[simp] theorem Wave.orSticky_doneMask (p : Nat) (f : Flags) : (w.orSticky p f).doneMask = w.doneMask := rfl
@[simp] theorem Wave.orSticky_slip (p : Nat) (f : Flags) : (w.orSticky p f).slip = w.slip := rfl
@[simp] theorem Wave.orSticky_pourMask (p : Nat) (f : Flags) : (w.orSticky p f).pourMask = w.pourMask := rfl
@[simp] theorem Wave.orSticky_sealMask (p : Nat) (f : Flags) : (w.orSticky p f).sealMask = w.sealMask := rfl
@[simp] theorem Wave.orSticky_sealGrade (p : Nat) (f : Flags) : (w.orSticky p f).sealGrade = w.sealGrade := rfl
@[simp] theorem Wave.orSticky_killed (p : Nat) (f : Flags) : (w.orSticky p f).killed = w.killed := rfl
@[simp] theorem Wave.orSticky_bpSeen (p : Nat) (f : Flags) : (w.orSticky p f).bpSeen = w.bpSeen := rfl
@[simp] theorem Wave.orSticky_issued (p : Nat) (f : Flags) : (w.orSticky p f).issued = w.issued := rfl

/-! #### refreshActive -/

@[simp] theorem Wave.refreshActive_vregs (p : Nat) : (w.refreshActive p).vregs = w.vregs := rfl
@[simp] theorem Wave.refreshActive_xsums (p : Nat) : (w.refreshActive p).xsums = w.xsums := rfl
@[simp] theorem Wave.refreshActive_preds (p : Nat) : (w.refreshActive p).preds = w.preds := rfl
@[simp] theorem Wave.refreshActive_slices (p : Nat) : (w.refreshActive p).slices = w.slices := rfl
@[simp] theorem Wave.refreshActive_partn (p : Nat) : (w.refreshActive p).partn = w.partn := rfl
@[simp] theorem Wave.refreshActive_replayPc (p : Nat) : (w.refreshActive p).replayPc = w.replayPc := rfl
@[simp] theorem Wave.refreshActive_doneMask (p : Nat) : (w.refreshActive p).doneMask = w.doneMask := rfl
@[simp] theorem Wave.refreshActive_slip (p : Nat) : (w.refreshActive p).slip = w.slip := rfl
@[simp] theorem Wave.refreshActive_pourMask (p : Nat) : (w.refreshActive p).pourMask = w.pourMask := rfl
@[simp] theorem Wave.refreshActive_sealMask (p : Nat) : (w.refreshActive p).sealMask = w.sealMask := rfl
@[simp] theorem Wave.refreshActive_sealGrade (p : Nat) : (w.refreshActive p).sealGrade = w.sealGrade := rfl
@[simp] theorem Wave.refreshActive_killed (p : Nat) : (w.refreshActive p).killed = w.killed := rfl
@[simp] theorem Wave.refreshActive_bpSeen (p : Nat) : (w.refreshActive p).bpSeen = w.bpSeen := rfl
@[simp] theorem Wave.refreshActive_issued (p : Nat) : (w.refreshActive p).issued = w.issued := rfl

/-! #### setPred -/

@[simp] theorem Wave.setPred_vregs (p : Nat) (m v : Word) : (w.setPred p m v).vregs = w.vregs := by unfold Wave.setPred; split <;> rfl
@[simp] theorem Wave.setPred_xsums (p : Nat) (m v : Word) : (w.setPred p m v).xsums = w.xsums := by unfold Wave.setPred; split <;> rfl
@[simp] theorem Wave.setPred_slices (p : Nat) (m v : Word) : (w.setPred p m v).slices = w.slices := by unfold Wave.setPred; split <;> rfl
@[simp] theorem Wave.setPred_paths (p : Nat) (m v : Word) : (w.setPred p m v).paths = w.paths := by unfold Wave.setPred; split <;> rfl
@[simp] theorem Wave.setPred_partn (p : Nat) (m v : Word) : (w.setPred p m v).partn = w.partn := by unfold Wave.setPred; split <;> rfl
@[simp] theorem Wave.setPred_replayPc (p : Nat) (m v : Word) : (w.setPred p m v).replayPc = w.replayPc := by unfold Wave.setPred; split <;> rfl
@[simp] theorem Wave.setPred_doneMask (p : Nat) (m v : Word) : (w.setPred p m v).doneMask = w.doneMask := by unfold Wave.setPred; split <;> rfl
@[simp] theorem Wave.setPred_slip (p : Nat) (m v : Word) : (w.setPred p m v).slip = w.slip := by unfold Wave.setPred; split <;> rfl
@[simp] theorem Wave.setPred_pourMask (p : Nat) (m v : Word) : (w.setPred p m v).pourMask = w.pourMask := by unfold Wave.setPred; split <;> rfl
@[simp] theorem Wave.setPred_sealMask (p : Nat) (m v : Word) : (w.setPred p m v).sealMask = w.sealMask := by unfold Wave.setPred; split <;> rfl
@[simp] theorem Wave.setPred_sealGrade (p : Nat) (m v : Word) : (w.setPred p m v).sealGrade = w.sealGrade := by unfold Wave.setPred; split <;> rfl
@[simp] theorem Wave.setPred_killed (p : Nat) (m v : Word) : (w.setPred p m v).killed = w.killed := by unfold Wave.setPred; split <;> rfl
@[simp] theorem Wave.setPred_bpSeen (p : Nat) (m v : Word) : (w.setPred p m v).bpSeen = w.bpSeen := by unfold Wave.setPred; split <;> rfl
@[simp] theorem Wave.setPred_issued (p : Nat) (m v : Word) : (w.setPred p m v).issued = w.issued := by unfold Wave.setPred; split <;> rfl

end Sys2Proof.Machine
end

