-- ==== Sys2Proof/Laws/Table.lean ====
section
/-! SUPPORT. What tables and indexed lists do: reading after writing, and the canonical form that every write keeps. -/

namespace Sys2Proof

variable {α : Type}

@[simp] theorem Table.get_nil (d : α) (k : Nat) : Table.get d ([] : Table α) k = d := rfl

theorem Table.get_drop_same (d : α) (k : Nat) : ∀ t : Table α, Table.get d (Table.drop k t) k = d
  | [] => rfl
  | (j, v) :: t => by
    unfold Table.drop
    split
    · exact Table.get_drop_same d k t
    · next h => simp [Table.get, Ne.symm h, Table.get_drop_same d k t]

theorem Table.get_drop_ne (d : α) {k i : Nat} (h : i ≠ k) : ∀ t : Table α, Table.get d (Table.drop k t) i = Table.get d t i
  | [] => rfl
  | (j, v) :: t => by
    unfold Table.drop
    split
    · next hj => simp [Table.get, hj, h, Table.get_drop_ne d h t]
    · simp [Table.get, Table.get_drop_ne d h t]

/-! ### Indexed lists -/

theorem nth_setNth_same (d v : α) : ∀ (l : List α) (i : Nat), i < l.length → nth d (setNth l i v) i = v
  | [], i, h => absurd h (Nat.not_lt_zero i)
  | _ :: _, 0, _ => rfl
  | _ :: t, i + 1, h => nth_setNth_same d v t i (Nat.lt_of_succ_lt_succ h)

theorem nth_setNth_ne (d v : α) : ∀ (l : List α) (i j : Nat), j ≠ i → nth d (setNth l i v) j = nth d l j
  | [], _, _, _ => rfl
  | _ :: _, 0, 0, h => absurd rfl h
  | _ :: _, 0, _ + 1, _ => rfl
  | _ :: _, _ + 1, 0, _ => rfl
  | _ :: t, i + 1, j + 1, h => nth_setNth_ne d v t i j (fun e => h (by rw [e]))

theorem length_setNth (v : α) : ∀ (l : List α) (i : Nat), (setNth l i v).length = l.length
  | [], _ => rfl
  | _ :: _, 0 => rfl
  | _ :: t, i + 1 => congrArg (· + 1) (length_setNth v t i)

theorem setNth_setNth (v u : α) : ∀ (l : List α) (i : Nat), setNth (setNth l i v) i u = setNth l i u
  | [], _ => rfl
  | _ :: _, 0 => rfl
  | x :: t, i + 1 => congrArg (x :: ·) (setNth_setNth v u t i)

theorem setNth_of_le (v : α) : ∀ (l : List α) (i : Nat), l.length ≤ i → setNth l i v = l
  | [], _, _ => rfl
  | _ :: _, 0, h => absurd h (by simp)
  | x :: t, i + 1, h => congrArg (x :: ·) (setNth_of_le v t i (Nat.le_of_succ_le_succ h))

theorem setNth_nth (d : α) : ∀ (l : List α) (i : Nat), setNth l i (nth d l i) = l
  | [], _ => rfl
  | _ :: _, 0 => rfl
  | x :: t, i + 1 => congrArg (x :: ·) (setNth_nth d t i)

theorem getElem?_setNth (v : α) : ∀ (l : List α) (i : Nat), i < l.length → (setNth l i v)[i]? = some v
  | [], i, h => absurd h (Nat.not_lt_zero i)
  | _ :: _, 0, _ => rfl
  | _ :: t, i + 1, h => by simpa [setNth] using getElem?_setNth v t i (Nat.lt_of_succ_lt_succ h)

theorem map_setNth {β : Type} (f : α → β) (v : α) : ∀ (l : List α) (i : Nat), (setNth l i v).map f = setNth (l.map f) i (f v)
  | [], _ => rfl
  | _ :: _, 0 => rfl
  | x :: t, i + 1 => congrArg (f x :: ·) (map_setNth f v t i)

/-! ### Tables written -/

variable [DecidableEq α]

/-- Reading the key just written gives the value written. -/
theorem Table.get_set_same (d : α) (k : Nat) (v : α) : ∀ t : Table α, Table.get d (Table.set d t k v) k = v
  | [] => by unfold Table.set; split <;> simp_all [Table.get]
  | (j, u) :: t => by
    unfold Table.set
    split
    · next h => split <;> simp_all [Table.get, Table.get_drop_same, Nat.ne_of_lt h]
    · split
      · split <;> simp_all [Table.get, Table.get_drop_same]
      · next h => simp [Table.get, h, Table.get_set_same d k v t]

/-- Writing one key leaves every other as it was. -/
theorem Table.get_set_ne (d : α) {k i : Nat} (h : i ≠ k) (v : α) :
    ∀ t : Table α, Table.get d (Table.set d t k v) i = Table.get d t i
  | [] => by unfold Table.set; split <;> simp [Table.get, h]
  | (j, u) :: t => by
    unfold Table.set
    split
    · split <;> simp [Table.get, h, Table.get_drop_ne d h]
    · split
      · next hk => subst hk; split <;> simp [Table.get, h, Table.get_drop_ne d h]
      · simp [Table.get, Table.get_set_ne d h v t]

theorem Table.get_set (d : α) (t : Table α) (k i : Nat) (v : α) :
    Table.get d (Table.set d t k v) i = if i = k then v else Table.get d t i := by
  split
  · next h => subst h; exact Table.get_set_same d _ v t
  · next h => exact Table.get_set_ne d h v t

theorem Table.wfFrom_mono (d : α) {lo lo' : Nat} (h : lo' ≤ lo) :
    ∀ {t : Table α}, Table.wfFrom d lo t = true → Table.wfFrom d lo' t = true
  | [], _ => rfl
  | (k, v) :: t, hw => by
    simp only [Table.wfFrom, Bool.and_eq_true, decide_eq_true_eq] at hw ⊢
    exact ⟨⟨Nat.le_trans h hw.1.1, hw.1.2⟩, hw.2⟩

theorem Table.wfFrom_drop (d : α) (k : Nat) : ∀ {lo : Nat} {t : Table α}, Table.wfFrom d lo t = true →
    Table.wfFrom d lo (Table.drop k t) = true
  | _, [], _ => rfl
  | lo, (j, v) :: t, hw => by
    simp only [Table.wfFrom, Bool.and_eq_true, decide_eq_true_eq] at hw
    unfold Table.drop
    split
    · exact Table.wfFrom_mono d (by omega) (Table.wfFrom_drop d k hw.2)
    · simp only [Table.wfFrom, Bool.and_eq_true, decide_eq_true_eq]
      exact ⟨hw.1, Table.wfFrom_drop d k hw.2⟩

theorem Table.wfFrom_set (d : α) (k : Nat) (v : α) : ∀ {lo : Nat} {t : Table α}, lo ≤ k → Table.wfFrom d lo t = true →
    Table.wfFrom d lo (Table.set d t k v) = true
  | lo, [], hk, _ => by
    unfold Table.set; split <;> simp_all [Table.wfFrom]
  | lo, (j, u) :: t, hk, hw => by
    have hw' := hw
    simp only [Table.wfFrom, Bool.and_eq_true, decide_eq_true_eq] at hw
    unfold Table.set
    split
    · split
      · simp only [Table.wfFrom, Bool.and_eq_true, decide_eq_true_eq]
        exact ⟨hw.1, Table.wfFrom_drop d k hw.2⟩
      · next hj hv =>
        simp only [Table.wfFrom, Bool.and_eq_true, decide_eq_true_eq]
        exact ⟨⟨hk, hv⟩, ⟨by omega, hw.1.2⟩, hw.2⟩
    · split
      · next _ hj =>
        subst hj
        split
        · exact Table.wfFrom_mono d (by omega) (Table.wfFrom_drop d k hw.2)
        · next hv => simp only [Table.wfFrom, Bool.and_eq_true, decide_eq_true_eq]; exact ⟨⟨hk, hv⟩, hw.2⟩
      · simp only [Table.wfFrom, Bool.and_eq_true, decide_eq_true_eq]
        exact ⟨hw.1, Table.wfFrom_set d k v (by omega) hw.2⟩

/-- Every write keeps the canonical form. -/
theorem Table.wf_set (d : α) (k : Nat) (v : α) {t : Table α} (h : Table.wf d t = true) : Table.wf d (Table.set d t k v) = true :=
  Table.wfFrom_set d k v (Nat.zero_le k) h

/-- Writing a value that is not the default twice is writing the second. -/
theorem Table.set_set (d : α) {v : α} (hv : v ≠ d) (k : Nat) (u : α) :
    ∀ t : Table α, Table.set d (Table.set d t k v) k u = Table.set d t k u
  | [] => by simp only [Table.set, hv, if_false, Nat.lt_irrefl, if_true, Table.drop]
  | (j, w) :: t => by
    by_cases h1 : k < j
    · have h2 : ¬ j = k := by omega
      simp only [Table.set, h1, hv, if_false, if_true, Nat.lt_irrefl, Table.drop, h2]
    · by_cases h2 : k = j
      · subst h2; simp only [Table.set, hv, if_false, if_true, Nat.lt_irrefl]
      · simp only [Table.set, h1, h2, if_false]; rw [Table.set_set d hv k u t]

namespace Machine

/-! ### Byte tables -/

/-- A block of bytes written keeps the canonical form. -/
theorem putBytes_wf : ∀ (bs : Bytes) (t : Table Byte) (off : Nat), Memory.wf t = true → Memory.wf (putBytes t off bs) = true
  | [], _, _, h => h
  | b :: bs, t, off, h => putBytes_wf bs (t.set 0 off b) (off + 1) (Table.wf_set 0 off b h)

/-- Reading a byte after a block write: the block's byte inside it, the old byte outside. -/
theorem get_putBytes : ∀ (bs : Bytes) (t : Table Byte) (off a : Nat),
    Table.get 0 (putBytes t off bs) a = if off ≤ a ∧ a < off + bs.length then nth 0 bs (a - off) else Table.get 0 t a
  | [], t, off, a => by
    simp only [putBytes, List.length_nil, Nat.add_zero]
    rw [if_neg (by omega)]
  | b :: bs, t, off, a => by
    simp only [putBytes, List.length_cons]
    rw [get_putBytes bs (t.set 0 off b) (off + 1) a, Table.get_set]
    by_cases h : a = off
    · subst h
      rw [if_neg (by omega), if_pos rfl, if_pos (by omega), Nat.sub_self]
      rfl
    · by_cases h1 : off + 1 ≤ a ∧ a < off + 1 + bs.length
      · have h2 : off ≤ a ∧ a < off + (bs.length + 1) := by omega
        have h3 : a - off = (a - (off + 1)) + 1 := by omega
        simp only [h1, and_self, if_true, h2, h3, nth]
      · have h2 : ¬ (off ≤ a ∧ a < off + (bs.length + 1)) := by omega
        simp only [h1, h2, if_false, h]

theorem nth_getElem {α : Type} (d : α) : ∀ (l : List α) (i : Nat) (h : i < l.length), nth d l i = l[i]
  | [], i, h => absurd h (Nat.not_lt_zero i)
  | _ :: _, 0, _ => rfl
  | _ :: t, i + 1, h => nth_getElem d t i (Nat.lt_of_succ_lt_succ h)

/-- Bytes read back from a block just written. -/
theorem getBytes_putBytes (t : Table Byte) (off : Nat) (bs : Bytes) : getBytes (putBytes t off bs) off bs.length = bs := by
  apply List.ext_getElem
  · simp [getBytes, upto]
  · intro i h1 h2
    simp only [getBytes, upto, List.getElem_map, List.getElem_range]
    rw [get_putBytes, if_pos ⟨by omega, by omega⟩, Nat.add_sub_cancel_left, nth_getElem _ _ _ h2]

end Machine
end Sys2Proof
end

