-- ==== Sys2Proof/Laws/Wave.lean ====
section
/-! SUPPORT. Waves and their registers: finding a wave that has been replaced, reading registers, predicates, paths and
slices after they have been written, and what the delivery of an instruction's results does. -/

namespace Sys2Proof.Machine

/-! ### Paths and slices -/

theorem Wave.path_setPath_same (w : Wave) (p : Nat) (x : Path) (h : p < w.paths.length) : (w.setPath p x).path p = x :=
  nth_setNth_same _ _ _ _ h

theorem Wave.path_setPath_ne (w : Wave) {p q : Nat} (h : q ≠ p) (x : Path) : (w.setPath p x).path q = w.path q :=
  nth_setNth_ne _ _ _ _ _ h

theorem Wave.setPath_setPath (w : Wave) (p : Nat) (x y : Path) : (w.setPath p x).setPath p y = w.setPath p y := by
  simp only [Wave.setPath, setNth_setNth]

theorem Wave.setPath_of_le (w : Wave) (p : Nat) (x : Path) (h : w.paths.length ≤ p) : w.setPath p x = w := by
  simp only [Wave.setPath, setNth_of_le _ _ _ h]

theorem Wave.setPath_path (w : Wave) (p : Nat) : w.setPath p (w.path p) = w := by
  simp only [Wave.setPath, Wave.path, setNth_nth]

theorem Wave.slice_setSlice_same (w : Wave) (i : Nat) (x : Slice) (h : i < w.slices.length) : (w.setSlice i x).slice i = x :=
  nth_setNth_same _ _ _ _ h

theorem Wave.slice_setSlice_ne (w : Wave) {i j : Nat} (h : j ≠ i) (x : Slice) : (w.setSlice i x).slice j = w.slice j :=
  nth_setNth_ne _ _ _ _ _ h

@[simp] theorem Wave.path_setSlice (w : Wave) (i p : Nat) (x : Slice) : (w.setSlice i x).path p = w.path p := rfl
@[simp] theorem Wave.path_mapSlice (w : Wave) (i p : Nat) (f : Slice → Slice) : (w.mapSlice i f).path p = w.path p := rfl
@[simp] theorem Wave.path_setV (w : Wave) (r l p : Nat) (v : RegVal) : (w.setV r l v).path p = w.path p := rfl
@[simp] theorem Wave.path_setS (w : Wave) (r i p : Nat) (v : RegVal) : (w.setS r i v).path p = w.path p := rfl
@[simp] theorem Wave.path_setX (w : Wave) (x l p : Nat) (v : XSum) : (w.setX x l v).path p = w.path p := rfl
@[simp] theorem Wave.slice_setPath (w : Wave) (p i : Nat) (x : Path) : (w.setPath p x).slice i = w.slice i := rfl
@[simp] theorem Wave.slice_setV (w : Wave) (r l i : Nat) (v : RegVal) : (w.setV r l v).slice i = w.slice i := rfl
@[simp] theorem Wave.slice_setX (w : Wave) (x l i : Nat) (v : XSum) : (w.setX x l v).slice i = w.slice i := rfl
@[simp] theorem Wave.slice_orSticky (w : Wave) (p i : Nat) (f : Flags) : (w.orSticky p f).slice i = w.slice i := rfl

/-! ### Registers -/

theorem vkey_inj {r l r' l' : Nat} (h : l < 32) (h' : l' < 32) : vkey r l = vkey r' l' ↔ r = r' ∧ l = l' := by
  unfold vkey; omega

theorem Wave.getV_setV (w : Wave) (r l : Nat) (v : RegVal) (r' l' : Nat) (h : l < 32) (h' : l' < 32) :
    (w.setV r l v).getV r' l' = if r' = r ∧ l' = l then v else w.getV r' l' := by
  simp only [Wave.getV, Wave.setV, Table.get_set, vkey_inj h' h]

@[simp] theorem Wave.getV_setS (w : Wave) (r i : Nat) (v : RegVal) (r' l : Nat) : (w.setS r i v).getV r' l = w.getV r' l := rfl
@[simp] theorem Wave.getV_setPath (w : Wave) (p : Nat) (x : Path) (r l : Nat) : (w.setPath p x).getV r l = w.getV r l := rfl
@[simp] theorem Wave.getV_orSticky (w : Wave) (p : Nat) (f : Flags) (r l : Nat) : (w.orSticky p f).getV r l = w.getV r l := rfl
@[simp] theorem Wave.getS_setV (w : Wave) (r l : Nat) (v : RegVal) (r' i : Nat) : (w.setV r l v).getS r' i = w.getS r' i := rfl
@[simp] theorem Wave.getS_setPath (w : Wave) (p : Nat) (x : Path) (r i : Nat) : (w.setPath p x).getS r i = w.getS r i := rfl
@[simp] theorem Wave.getS_orSticky (w : Wave) (p : Nat) (f : Flags) (r i : Nat) : (w.orSticky p f).getS r i = w.getS r i := rfl

theorem Wave.getS_setS (w : Wave) (r i : Nat) (v : RegVal) (r' i' : Nat) (h : i < w.slices.length) :
    (w.setS r i v).getS r' i' = if r' = r ∧ i' = i then v else w.getS r' i' := by
  unfold Wave.setS Wave.mapSlice Wave.getS
  by_cases hi : i' = i
  · subst hi
    rw [Wave.slice_setSlice_same _ _ _ h]
    simp only [Table.get_set, and_true]
  · rw [Wave.slice_setSlice_ne _ hi]; simp [hi]

/-- A write of a slice that the wave does not have changes nothing. -/
theorem Wave.setS_of_le (w : Wave) (r i : Nat) (v : RegVal) (h : w.slices.length ≤ i) : w.setS r i v = w := by
  simp only [Wave.setS, Wave.mapSlice, Wave.setSlice, setNth_of_le _ _ _ h]

/-- A predicate after a write: the lanes of the mask take the value, p0 stays all ones. -/
theorem Wave.pred_setPred (w : Wave) (p : Nat) (m v : Word) (q : Nat) :
    (w.setPred p m v).pred q = if q = p ∧ p ≠ 0 then (w.pred p &&& ~~~m) ||| (v &&& m) else w.pred q := by
  unfold Wave.setPred
  by_cases hp : p = 0
  · simp [hp]
  · rw [if_neg hp]
    by_cases hq : q = p
    · subst hq
      rw [if_pos ⟨rfl, hp⟩]
      simp only [Wave.pred, if_neg hp, Table.get_set_same]
    · rw [if_neg (by simp [hq])]
      simp only [Wave.pred, Table.get_set_ne _ hq]

/-! ### Replacing a wave -/

theorem find?_map_key {α : Type} (P : α → Bool) (f : α → α) (hf : ∀ x, P (f x) = P x) (l : List α) :
    (l.map f).find? P = (l.find? P).map f := by
  induction l with
  | nil => rfl
  | cons a t ih =>
    simp only [List.map_cons, List.find?_cons, hf]
    cases P a <;> simp [ih]

/-- A gang after a change that keeps its task and index. -/
theorem State.gang?_mapGang (s : State) (t g : Nat) (f : Gang → Gang) (hf : ∀ x, (f x).task = x.task ∧ (f x).index = x.index) :
    (s.mapGang t g f).gang? t g = (s.gang? t g).map f := by
  unfold State.gang? State.mapGang
  dsimp only
  induction s.gangs with
  | nil => rfl
  | cons a l ih =>
    simp only [List.map_cons, List.find?_cons]
    by_cases h : (a.task == t && a.index == g) = true
    · simp only [h, (hf a).1, (hf a).2, if_true, Option.map_some]
    · simp only [Bool.not_eq_true] at h
      simp only [h, Bool.false_eq_true, if_false]
      exact ih

/-- Other gangs are as they were. -/
theorem State.gang?_mapGang_ne (s : State) {t g t' g' : Nat} (h : ¬(t' = t ∧ g' = g)) (f : Gang → Gang)
    (hf : ∀ x, (f x).task = x.task ∧ (f x).index = x.index) : (s.mapGang t g f).gang? t' g' = s.gang? t' g' := by
  unfold State.gang? State.mapGang
  dsimp only
  induction s.gangs with
  | nil => rfl
  | cons a l ih =>
    simp only [List.map_cons, List.find?_cons]
    by_cases ha : (a.task == t && a.index == g) = true
    · have hb : (a.task == t' && a.index == g') = false := by
        simp only [Bool.and_eq_true, beq_iff_eq] at ha
        cases hc : (a.task == t' && a.index == g') with
        | false => rfl
        | true =>
          simp only [Bool.and_eq_true, beq_iff_eq] at hc
          exact absurd ⟨hc.1.symm.trans ha.1, hc.2.symm.trans ha.2⟩ h
      rw [if_pos ha, (hf a).1, (hf a).2, hb]
      exact ih
    · rw [if_neg ha]
      split
      · rfl
      · exact ih

/-- Two changes of one gang are one. -/
theorem State.mapGang_mapGang (s : State) (t g : Nat) (f f' : Gang → Gang)
    (hf : ∀ x, (f x).task = x.task ∧ (f x).index = x.index) :
    (s.mapGang t g f).mapGang t g f' = s.mapGang t g fun x => f' (f x) := by
  unfold State.mapGang
  dsimp only
  congr 1
  rw [List.map_map]
  apply List.map_congr_left
  intro a _
  by_cases h : (a.task == t && a.index == g) = true
  · simp only [Function.comp, h, if_true, (hf a).1, (hf a).2]
  · simp only [Bool.not_eq_true] at h
    simp only [Function.comp, h, Bool.false_eq_true, if_false]

/-- The wave just put in place is the wave found. -/
theorem State.wave?_setWave (s : State) (r : WaveRef) (w w' : Wave) (h : s.wave? r = some w) :
    (s.setWave r w').wave? r = some w' := by
  cases r with
  | user t g i =>
    simp only [State.wave?, State.setWave] at h ⊢
    rw [State.gang?_mapGang _ _ _ _ (by intro x; exact ⟨rfl, rfl⟩)]
    cases hg : s.gang? t g with
    | none => simp [hg] at h
    | some x =>
      simp only [hg, Option.bind_some, Option.map_some] at h ⊢
      obtain ⟨hi, -⟩ := List.getElem?_eq_some_iff.mp h
      exact getElem?_setNth _ _ _ hi
  | caster t g =>
    simp only [State.wave?, State.setWave] at h ⊢
    rw [State.gang?_mapGang _ _ _ _ (by intro x; exact ⟨rfl, rfl⟩)]
    cases hg : s.gang? t g with
    | none => simp [hg] at h
    | some x => rfl
  | handler c =>
    simp only [State.wave?, State.setWave, State.core, State.setCore, Table.get_set_same]

/-- Replacing a wave twice is replacing it once. -/
theorem State.setWave_setWave (s : State) (r : WaveRef) (w w' : Wave) : (s.setWave r w).setWave r w' = s.setWave r w' := by
  cases r with
  | user t g i =>
    simp only [State.setWave]
    rw [State.mapGang_mapGang _ _ _ _ _ (by intro x; exact ⟨rfl, rfl⟩)]
    simp only [setNth_setNth]
  | caster t g =>
    simp only [State.setWave]
    rw [State.mapGang_mapGang _ _ _ _ _ (by intro x; exact ⟨rfl, rfl⟩)]
  | handler c =>
    have hne : ({ s.core c with wave := some w } : Core) ≠ {} := by
      intro h
      have h' := congrArg Core.wave h
      simp at h'
    simp only [State.setWave, State.setCore, State.core, Table.get_set_same] at hne ⊢
    rw [Table.set_set _ hne]

/-- Every other wave is as it was. -/
theorem State.wave?_setWave_ne (s : State) {r q : WaveRef} (h : q ≠ r) (w : Wave) : (s.setWave r w).wave? q = s.wave? q := by
  cases r with
  | handler c =>
    cases q with
    | handler c' =>
      have : c' ≠ c := fun e => h (by rw [e])
      simp only [State.wave?, State.setWave, State.core, State.setCore, Table.get_set_ne _ this]
    | user t g i => rfl
    | caster t g => rfl
  | user t g i =>
    cases q with
    | handler c => rfl
    | user t' g' i' =>
      simp only [State.wave?, State.setWave]
      by_cases hg : t' = t ∧ g' = g
      · obtain ⟨rfl, rfl⟩ := hg
        rw [State.gang?_mapGang _ _ _ _ (by intro x; exact ⟨rfl, rfl⟩)]
        cases s.gang? t' g' with
        | none => rfl
        | some x =>
          have hi : i' ≠ i := fun e => h (by rw [e])
          simp only [Option.map_some, Option.bind_some]
          have hl : ∀ (l : List Wave) (i j : Nat), j ≠ i → (setNth l i w)[j]? = l[j]? := by
            intro l
            induction l with
            | nil => intros; rfl
            | cons a t ih =>
              intro i j hij
              cases i with
              | zero => cases j with
                | zero => exact absurd rfl hij
                | succ j => rfl
              | succ i => cases j with
                | zero => rfl
                | succ j => simpa [setNth] using ih i j (fun e => hij (by rw [e]))
          exact hl _ _ _ hi
      · rw [State.gang?_mapGang_ne _ hg _ (by intro x; exact ⟨rfl, rfl⟩)]
    | caster t' g' =>
      simp only [State.wave?, State.setWave]
      by_cases hg : t' = t ∧ g' = g
      · obtain ⟨rfl, rfl⟩ := hg
        rw [State.gang?_mapGang _ _ _ _ (by intro x; exact ⟨rfl, rfl⟩)]
        cases s.gang? t' g' <;> rfl
      · rw [State.gang?_mapGang_ne _ hg _ (by intro x; exact ⟨rfl, rfl⟩)]
  | caster t g =>
    cases q with
    | handler c => rfl
    | user t' g' i' =>
      simp only [State.wave?, State.setWave]
      by_cases hg : t' = t ∧ g' = g
      · obtain ⟨rfl, rfl⟩ := hg
        rw [State.gang?_mapGang _ _ _ _ (by intro x; exact ⟨rfl, rfl⟩)]
        cases s.gang? t' g' <;> rfl
      · rw [State.gang?_mapGang_ne _ hg _ (by intro x; exact ⟨rfl, rfl⟩)]
    | caster t' g' =>
      have hg : ¬(t' = t ∧ g' = g) := fun e => h (by rw [e.1, e.2])
      simp only [State.wave?, State.setWave]
      rw [State.gang?_mapGang_ne _ hg _ (by intro x; exact ⟨rfl, rfl⟩)]

end Sys2Proof.Machine
end

