-- ==== Sys2Proof/Laws/Issue.lean ====
section
/-! SUPPORT. What an issue does: it answers a next state unless no path is in hand; how it completes in line, waits or
faults; and what the delivery of results writes. -/

namespace Sys2Proof.Machine

/-! ### The outcomes of an issue -/

/-- With a path in hand an issue always answers a next state. -/
theorem issue_next {s : State} {r : WaveRef} {p : Nat} {e : Env} (op : Nat) (f : Env → Except Flt Out)
    (hc : s.cur = some (r, p)) (he : s.env? r p = some e) :
    issue op s f = .next (match e.refuse op with
      | some flt => s.takeFault r p flt
      | none => s.close e op (f e)) := by
  unfold issue
  simp only [hc, he]
  cases e.refuse op <;> rfl

/-- An issue never refuses, and faults only for want of a path. -/
theorem issue_cases (op : Nat) (s : State) (f : Env → Except Flt Out) :
    (∃ t, issue op s f = .next t) ∨ issue op s f = .fault .noIssuer := by
  unfold issue
  split
  · exact .inr rfl
  · split
    · exact .inr rfl
    · split
      · exact .inl ⟨_, rfl⟩
      · exact .inl ⟨_, rfl⟩

theorem Issuing.close {s : State} {e : Env} {op : Nat} (h : Issuing s e op) (f : Env → Except Flt Out) :
    issue op s f = .next (s.close e op (f e)) := by
  rw [issue_next op f h.hand h.env, h.may]

theorem Issuing.go {s : State} {e : Env} {op : Nat} (h : Issuing s e op) {f : Env → Except Flt Out} {x : Eff}
    (hf : f e = .ok (.go x)) : issue op s f = .next (x.s.finish e op x) := by
  rw [h.close, hf]; rfl

theorem Issuing.stop {s : State} {e : Env} {op : Nat} (h : Issuing s e op) {f : Env → Except Flt Out} {t : State}
    (hf : f e = .ok (.stop t)) : issue op s f = .next t := by
  rw [h.close, hf]; rfl

theorem Issuing.wait {s : State} {e : Env} {op : Nat} (h : Issuing s e op) {f : Env → Except Flt Out} {t : State} {w : Wait}
    (hf : f e = .ok (.wait t w)) : issue op s f = .next (t.block e w) := by
  rw [h.close, hf]; rfl

theorem Issuing.fault {s : State} {e : Env} {op : Nat} (h : Issuing s e op) {f : Env → Except Flt Out} {x : Flt}
    (hf : f e = .error x) : issue op s f = .next (s.takeFault e.ref e.p x) := by
  rw [h.close, hf]; rfl

/-- The environment of an issue holds the wave and path as they stand. -/
theorem State.env?_wave {s : State} {r : WaveRef} {p : Nat} {e : Env} (h : s.env? r p = some e) :
    s.wave? r = some e.w ∧ e.ref = r ∧ e.p = p ∧ e.path = e.w.path p := by
  unfold State.env? at h
  cases hw : s.wave? r with
  | none => simp [hw] at h
  | some w =>
    simp only [hw] at h
    cases r with
    | user t g i =>
      dsimp only at h
      split at h
      · cases h; exact ⟨rfl, rfl, rfl, rfl⟩
      · cases h
    | caster t g =>
      dsimp only at h
      split at h
      · cases h; exact ⟨rfl, rfl, rfl, rfl⟩
      · cases h
    | handler c =>
      cases h; exact ⟨rfl, rfl, rfl, rfl⟩

theorem Issuing.wave {s : State} {e : Env} {op : Nat} (h : Issuing s e op) : s.wave? e.ref = some e.w :=
  (State.env?_wave h.env).1

theorem Issuing.path {s : State} {e : Env} {op : Nat} (h : Issuing s e op) : e.path = e.w.path e.p :=
  (State.env?_wave h.env).2.2.2

/-! ### Completing in line -/

/-- A path that completes in line: its wave as it then stands, gone on. -/
theorem State.finish_seq {s : State} {e : Env} {w : Wave} (op lits : Nat) (hw : s.wave? e.ref = some w) :
    s.finish e op { s := s, lits := lits } = s.setWave e.ref (w.wentOn e op lits) := by
  unfold State.finish Wave.wentOn
  simp only [hw, Bool.false_eq_true, if_false, if_true]
  congr 1
  by_cases hp : e.p < w.paths.length
  · rw [Wave.path_setPath_same _ _ _ hp, Wave.setPath_setPath]
  · simp only [Wave.setPath_of_le _ _ _ (Nat.le_of_not_lt hp)]

/-- The same, when the instruction has put a wave in place. -/
theorem State.finish_setWave {s : State} {e : Env} {w : Wave} (op lits : Nat) (w' : Wave) (hw : s.wave? e.ref = some w) :
    (s.setWave e.ref w').finish e op { s := s.setWave e.ref w', lits := lits } = s.setWave e.ref (w'.wentOn e op lits) := by
  rw [State.finish_seq op lits (State.wave?_setWave s e.ref w w' hw), State.setWave_setWave]

/-- An instruction that leaves wave `w'` and goes on in line. -/
theorem Issuing.goOn {s : State} {e : Env} {op lits : Nat} (h : Issuing s e op) {f : Env → Except Flt Out} {w' : Wave}
    (hf : f e = Machine.goOn (s.setWave e.ref w') lits) :
    issue op s f = .next (s.setWave e.ref (w'.wentOn e op lits)) := by
  rw [h.go hf, State.finish_setWave op lits w' h.wave]

/-- An instruction that changes nothing but its path's place. -/
theorem Issuing.goOn_same {s : State} {e : Env} {op lits : Nat} (h : Issuing s e op) {f : Env → Except Flt Out}
    (hf : f e = Machine.goOn s lits) : issue op s f = .next (s.setWave e.ref (e.w.wentOn e op lits)) := by
  rw [h.go hf, State.finish_seq op lits h.wave]

/-- Writing registers replaces the issuing wave. -/
theorem State.write_eq {s : State} {e : Env} {w : Wave} (ws : List RegWrite) (hw : s.wave? e.ref = some w) :
    s.write e ws = s.setWave e.ref (w.deliver e.p ws) := by
  unfold State.write; rw [hw]

/-- An operation with no completion flag delivers at once. -/
theorem State.deliver_eq {s : State} {e : Env} {w : Wave} (c : Bool) (ws : List RegWrite) (hf : e.flagFor c = none)
    (hw : s.wave? e.ref = some w) : s.deliver e c ws = s.setWave e.ref (w.deliver e.p ws) := by
  unfold State.deliver; rw [hf, hw]; rfl

/-! ### Delivering results -/

theorem Wave.deliver_append (w : Wave) (p : Nat) (a b : List RegWrite) : w.deliver p (a ++ b) = (w.deliver p a).deliver p b := by
  induction a generalizing w with
  | nil => rfl
  | cons x t ih => cases x <;> exact ih _

theorem Wave.blank_setV (w : Wave) (r l : Nat) (v : RegVal) : (w.setV r l v).blank = w.blank := rfl

theorem Wave.blank_setS (w : Wave) (r i : Nat) (v : RegVal) : (w.setS r i v).blank = w.blank := by
  unfold Wave.blank Wave.setS Wave.mapSlice Wave.setSlice
  congr 1
  rw [map_setNth]
  by_cases h : i < w.slices.length
  · have : ∀ (l : List Slice) (i : Nat), i < l.length →
        setNth (l.map fun x => ({ x with regs := [] } : Slice)) i
          { nth {} l i with regs := [] } = l.map fun x => ({ x with regs := [] } : Slice) := by
      intro l
      induction l with
      | nil => intro i h; exact absurd h (Nat.not_lt_zero i)
      | cons a t ih => intro i h; cases i with
        | zero => rfl
        | succ i => simpa [setNth, nth] using ih i (Nat.lt_of_succ_lt_succ h)
    exact this _ _ h
  · rw [setNth_of_le _ _ _ (by simpa using h)]

theorem Wave.slices_length_deliver (w : Wave) (p : Nat) (ws : List RegWrite) : (w.deliver p ws).slices.length = w.slices.length := by
  induction ws generalizing w with
  | nil => rfl
  | cons x t ih =>
    cases x <;> unfold Wave.deliver <;> rw [ih]
    · rfl
    · exact length_setNth _ _ _
    · rfl

/-- The words of one position; a scalar result stands at lane 4·s of its slice. -/
theorem Wave.deliver_unit (w : Wave) (p : Nat) (d : Dst) (n L v : Nat) (pz : Bool) (hL : L < 32)
    (hS : d.isVec = false → L % 4 = 0) :
    Wrote w (w.deliver p (d.writes n L v pz)) d n [L] (fun _ => (v, pz)) := by
  cases d with
  | none => exact ⟨fun _ _ _ => rfl, fun _ _ _ => rfl, rfl⟩
  | vec r0 =>
    have key : ∀ (k : Nat) (w : Wave), ((∀ r l, l < 32 →
        (w.deliver p ((List.range k).map fun i => .vec (r0 + i) L { bits := wordOf v i, poison := pz })).getV r l =
          if r0 ≤ r ∧ r < r0 + k ∧ l = L then { bits := wordOf v (r - r0), poison := pz } else w.getV r l)
        ∧ (∀ r i, (w.deliver p ((List.range k).map fun i => .vec (r0 + i) L { bits := wordOf v i, poison := pz })).getS r i = w.getS r i)
        ∧ (w.deliver p ((List.range k).map fun i => .vec (r0 + i) L { bits := wordOf v i, poison := pz })).blank = w.blank) := by
      intro k
      induction k with
      | zero => intro w; refine ⟨fun r l _ => ?_, fun _ _ => rfl, rfl⟩; rw [if_neg (by omega)]; rfl
      | succ k ih =>
        intro w
        obtain ⟨h1, h2, h3⟩ := ih w
        rw [List.range_succ, List.map_append, Wave.deliver_append]
        refine ⟨fun r l hl => ?_, fun r i => h2 r i, h3⟩
        show ((w.deliver p _).setV _ _ _).getV r l = _
        rw [Wave.getV_setV _ _ _ _ _ _ hL hl, h1 r l hl]
        by_cases hr : r = r0 + k ∧ l = L
        · obtain ⟨rfl, rfl⟩ := hr
          rw [if_pos ⟨rfl, rfl⟩, if_pos ⟨by omega, by omega, rfl⟩]
          rw [Nat.add_sub_cancel_left]
        · rw [if_neg hr]
          by_cases hq : r0 ≤ r ∧ r < r0 + k ∧ l = L
          · rw [if_pos hq, if_pos ⟨hq.1, by omega, hq.2.2⟩]
          · rw [if_neg hq, if_neg (by omega)]
    obtain ⟨h1, h2, h3⟩ := key n w
    refine ⟨fun r l hl => ?_, fun r i _ => h2 r i, h3⟩
    simpa only [Dst.writes, upto, List.mem_singleton] using h1 r l hl
  | sca r0 =>
    have key : ∀ (k : Nat) (w : Wave),
        ((∀ r l, (w.deliver p ((List.range k).map fun i => .sca (r0 + i) (L / 4) { bits := wordOf v i, poison := pz })).getV r l = w.getV r l)
        ∧ (∀ r i, i < w.slices.length →
          (w.deliver p ((List.range k).map fun i => .sca (r0 + i) (L / 4) { bits := wordOf v i, poison := pz })).getS r i =
          if r0 ≤ r ∧ r < r0 + k ∧ i = L / 4 then { bits := wordOf v (r - r0), poison := pz } else w.getS r i)
        ∧ (w.deliver p ((List.range k).map fun i => .sca (r0 + i) (L / 4) { bits := wordOf v i, poison := pz })).blank = w.blank) := by
      intro k
      induction k with
      | zero => intro w; refine ⟨fun _ _ => rfl, fun r i _ => ?_, rfl⟩; rw [if_neg (by omega)]; rfl
      | succ k ih =>
        intro w
        obtain ⟨h1, h2, h3⟩ := ih w
        rw [List.range_succ, List.map_append, Wave.deliver_append]
        refine ⟨fun r l => h1 r l, fun r i hi => ?_, ?_⟩
        · show ((w.deliver p _).setS _ _ _).getS r i = _
          by_cases hb : L / 4 < w.slices.length
          · rw [Wave.getS_setS _ _ _ _ _ _ (by rw [Wave.slices_length_deliver]; exact hb), h2 r i hi]
            by_cases hr : r = r0 + k ∧ i = L / 4
            · obtain ⟨rfl, rfl⟩ := hr
              rw [if_pos ⟨rfl, rfl⟩, if_pos ⟨by omega, by omega, rfl⟩, Nat.add_sub_cancel_left]
            · rw [if_neg hr]
              by_cases hq : r0 ≤ r ∧ r < r0 + k ∧ i = L / 4
              · rw [if_pos hq, if_pos ⟨hq.1, by omega, hq.2.2⟩]
              · rw [if_neg hq, if_neg (by omega)]
          · rw [Wave.setS_of_le _ _ _ _ (by rw [Wave.slices_length_deliver]; omega), h2 r i hi,
              if_neg (by omega), if_neg (by omega)]
        · show ((w.deliver p _).setS _ _ _).blank = _
          rw [Wave.blank_setS, h3]
    have h4 : L % 4 = 0 := hS rfl
    obtain ⟨h1, h2, h3⟩ := key n w
    refine ⟨fun r l _ => h1 r l, fun r i hi => ?_, h3⟩
    have h := h2 r i hi
    have hl : (i = L / 4) = (4 * i = L) := by apply propext; omega
    simp only [hl] at h
    simpa only [Dst.writes, upto, List.mem_singleton] using h

theorem Wrote.length {w w' : Wave} {d : Dst} {n : Nat} {us : Nats} {v : Nat → Nat × Bool} (h : Wrote w w' d n us v) :
    w'.slices.length = w.slices.length := by
  have := congrArg (fun x : Wave => x.slices.length) h.rest
  simpa [Wave.blank] using this

theorem Wrote.nil (w : Wave) (d : Dst) (n : Nat) (v : Nat → Nat × Bool) : Wrote w w d n [] v := by
  refine ⟨fun r L _ => ?_, fun r i _ => ?_, rfl⟩
  · cases d <;> simp
  · cases d <;> simp

/-- Results written position after position. -/
theorem Wrote.trans {w w1 w2 : Wave} {d : Dst} {n : Nat} {a b : Nats} {v : Nat → Nat × Bool} (h1 : Wrote w w1 d n a v)
    (h2 : Wrote w1 w2 d n b v) : Wrote w w2 d n (a ++ b) v := by
  refine ⟨fun r L hL => ?_, fun r i hi => ?_, h2.rest.trans h1.rest⟩
  · have e1 := h1.vec r L hL
    have e2 := h2.vec r L hL
    cases d with
    | vec r0 =>
      dsimp only at e1 e2 ⊢
      rw [e2, e1]
      by_cases hr : r0 ≤ r ∧ r < r0 + n
      · by_cases ha : L ∈ a <;> by_cases hb : L ∈ b <;> simp [hr, ha, hb]
      · have : ∀ P : Prop, ¬(r0 ≤ r ∧ r < r0 + n ∧ P) := fun P h => hr ⟨h.1, h.2.1⟩
        simp only [this, if_false]
    | sca r0 => exact e2.trans e1
    | none => exact e2.trans e1
  · have e1 := h1.sca r i hi
    have e2 := h2.sca r i (by rw [h1.length]; exact hi)
    cases d with
    | sca r0 =>
      dsimp only at e1 e2 ⊢
      rw [e2, e1]
      by_cases hr : r0 ≤ r ∧ r < r0 + n
      · by_cases ha : 4 * i ∈ a <;> by_cases hb : 4 * i ∈ b <;> simp [hr, ha, hb]
      · have : ∀ P : Prop, ¬(r0 ≤ r ∧ r < r0 + n ∧ P) := fun P h => hr ⟨h.1, h.2.1⟩
        simp only [this, if_false]
    | vec r0 => exact e2.trans e1
    | none => exact e2.trans e1

/-- Results of an instruction in every position where it runs. -/
theorem Wave.deliver_writes (w : Wave) (p : Nat) (d : Dst) (n : Nat) (us : Nats) (v : Nat → Nat × Bool)
    (hu : ∀ L ∈ us, L < 32 ∧ (d.isVec = false → L % 4 = 0)) :
    Wrote w (w.deliver p (us.flatMap fun L => d.writes n L (v L).1 (v L).2)) d n us v := by
  induction us generalizing w with
  | nil => exact Wrote.nil w d n v
  | cons L t ih =>
    rw [List.flatMap_cons, Wave.deliver_append]
    have h0 := hu L List.mem_cons_self
    have h1 := Wave.deliver_unit w p d n L (v L).1 (v L).2 h0.1 h0.2
    have h2 := ih (w.deliver p (d.writes n L (v L).1 (v L).2)) (fun M hM => hu M (List.mem_cons_of_mem _ hM))
    have h1' : Wrote w (w.deliver p (d.writes n L (v L).1 (v L).2)) d n [L] v := by
      refine ⟨fun r l hl => ?_, fun r i hi => ?_, h1.rest⟩
      · rw [h1.vec r l hl]
        cases d <;> simp only [List.mem_singleton]
        split
        · next h => rw [h.2.2]
        · rfl
      · rw [h1.sca r i hi]
        cases d <;> simp only [List.mem_singleton]
        split
        · next h => rw [h.2.2]
        · rfl
    exact h1'.trans h2

theorem lanesOf_lt {m : Word} {L : Nat} (h : L ∈ lanesOf m) : L < 32 := by
  simp only [lanesOf, bitsBelow, upto, List.mem_filter, List.mem_range] at h
  exact h.1

/-- The positions of an instruction are lanes, those of a scalar result the first lane of a slice. -/
theorem Env.units_lt {e : Env} {vec : Bool} {L : Nat} (h : L ∈ e.units vec) : L < 32 ∧ (vec = false → L % 4 = 0) := by
  unfold Env.units at h
  cases vec with
  | true => exact ⟨lanesOf_lt h, by simp⟩
  | false =>
    simp only [Bool.false_eq_true, if_false, List.mem_map] at h
    obtain ⟨i, hi, rfl⟩ := h
    refine ⟨?_, fun _ => Nat.mul_mod_right 4 i⟩
    unfold Env.slices at hi
    split at hi
    · simp at hi
    · simp only [Env.pathSlices, Wave.pathSlices, bitsBelow, upto, List.mem_filter, List.mem_range] at hi
      omega

theorem Wave.orSticky_wentOn (w : Wave) (e : Env) (op lits : Nat) (f : Flags) (r l : Nat) :
    ((w.orSticky e.p f).wentOn e op lits).getV r l = w.getV r l := rfl

/-! ### The shared run of an instruction's positions -/

theorem checkClass_ok {vec : Bool} {l : List Src} (h : vec = true ∨ ∀ x ∈ l, x.isVec = false) : checkClass vec l = .ok () := by
  unfold checkClass
  rcases h with h | h
  · simp [h]
  · have : l.any Src.isVec = false := by simpa using h
    simp [this]

theorem Env.checkPoison_ok {e : Env} {us : Nats} {l : List (Src × Nat)}
    (h : ∀ L ∈ us, ∀ x ∈ l, (e.read x.2 L x.1).2 = false) : e.checkPoison us l = .ok () := by
  unfold Env.checkPoison Env.checkPoisonAt
  have : us.find? (fun L => l.any fun x => (e.read x.2 L x.1).2) = none := by
    rw [List.find?_eq_none]
    intro L hL
    simp only [Bool.not_eq_true, List.any_eq_false]
    intro x hx
    simp [h L hL x hx]
  rw [this]

theorem Wave.orSticky_zero (w : Wave) (p : Nat) : w.orSticky p 0 = w := by
  unfold Wave.orSticky
  have h0 : (w.path p).sticky ||| (0 : Flags) = (w.path p).sticky := BitVec.or_zero
  have : ({ w.path p with sticky := (w.path p).sticky ||| 0 } : Path) = w.path p := by
    rw [h0]
  rw [this, Wave.setPath_path]

/-- The register writes of a run: its results, then the flags it raises. -/
def Env.runWrites (e : Env) (d : Dst) (m : Nat) (xs : List (Src × Nat)) (g : Nat → List Nat → Nat × Flags) : List RegWrite :=
  let rs := (e.units d.isVec).map fun L => (L, g L (xs.map fun x => (e.read x.2 L x.1).1))
  rs.flatMap (fun r => d.writes m r.1 r.2.1 false) ++ [.sticky (orFlags (rs.map (·.2.2)))]

theorem Env.run_eq {e : Env} {s : State} {d : Dst} {m lits : Nat} {xs : List (Src × Nat)} {cls : Option Bool}
    {g : Nat → List Nat → Nat × Flags} (hc : checkClass d.isVec (xs.map (·.1)) = .ok ())
    (hp : e.checkPoison (e.units d.isVec) xs = .ok ()) :
    e.run s d m xs lits cls g = Machine.goOn (match cls with
      | some c => if e.units d.isVec = [] then s else s.deliver e c (e.runWrites d m xs g)
      | none => s.write e (e.runWrites d m xs g)) lits := by
  have h : e.run s d m xs lits cls g = (checkClass d.isVec (xs.map (·.1)) >>= fun _ => e.checkPoison (e.units d.isVec) xs >>= fun _ =>
    Machine.goOn (match cls with
      | some c => if e.units d.isVec = [] then s else s.deliver e c (e.runWrites d m xs g)
      | none => s.write e (e.runWrites d m xs g)) lits) := rfl
  rw [h, hc, hp]
  rfl

/-- An instruction that runs `f` in every position of its destination (R282, R288): the wave it leaves, what it wrote there,
and the flags it raised. A flagged class with no flag assigned completes at once. -/
theorem Issuing.run {s : State} {e : Env} {op lits m : Nat} {d : Dst} {xs : List (Src × Nat)} {cls : Option Bool}
    {g : Nat → List Nat → Nat × Flags} {f : Env → Except Flt Out} (h : Issuing s e op)
    (hf : f e = e.run s d m xs lits cls g)
    (hflag : ∀ c, cls = some c → e.flagFor c = none)
    (hc : d.isVec = true ∨ ∀ x ∈ xs, x.1.isVec = false)
    (hp : ∀ L ∈ e.units d.isVec, ∀ x ∈ xs, (e.read x.2 L x.1).2 = false) :
    ∃ w', issue op s f = .next (s.setWave e.ref ((w'.orSticky e.p
        (orFlags ((e.units d.isVec).map fun L => (g L (xs.map fun x => (e.read x.2 L x.1).1)).2))).wentOn e op lits))
      ∧ Wrote e.w w' d m (e.units d.isVec) (fun L => ((g L (xs.map fun x => (e.read x.2 L x.1).1)).1, false)) := by
  have hc' : checkClass d.isVec (xs.map (·.1)) = .ok () := checkClass_ok (by
    rcases hc with hc | hc
    · exact .inl hc
    · right
      intro x hx
      obtain ⟨y, hy, rfl⟩ := List.mem_map.mp hx
      exact hc y hy)
  have hw := Wave.deliver_writes e.w e.p d m (e.units d.isVec)
    (fun L => ((g L (xs.map fun x => (e.read x.2 L x.1).1)).1, false)) (fun L hL => Env.units_lt hL)
  refine ⟨_, ?_, hw⟩
  have he := Env.run_eq (s := s) (lits := lits) (cls := cls) (g := g) (m := m) hc' (Env.checkPoison_ok hp)
  generalize hws : e.runWrites d m xs g = ws at he
  have key : e.w.deliver e.p ws = (e.w.deliver e.p ((e.units d.isVec).flatMap fun L =>
        d.writes m L (g L (xs.map fun x => (e.read x.2 L x.1).1)).1 false)).orSticky e.p
        (orFlags ((e.units d.isVec).map fun L => (g L (xs.map fun x => (e.read x.2 L x.1).1)).2)) := by
    rw [← hws, Env.runWrites, Wave.deliver_append, List.flatMap_map, List.map_map]
    rfl
  cases cls with
  | none =>
    dsimp only at he
    rw [State.write_eq ws h.wave, key] at he
    exact h.goOn (hf.trans he)
  | some c =>
    dsimp only at he
    by_cases hu : e.units d.isVec = []
    · rw [if_pos hu] at he
      have := h.goOn_same (hf.trans he)
      simp only [hu, List.flatMap_nil, List.map_nil, Wave.deliver]
      rw [show orFlags [] = 0 from rfl, Wave.orSticky_zero]
      exact this
    · rw [if_neg hu, State.deliver_eq c ws (hflag c rfl) h.wave, key] at he
      exact h.goOn (hf.trans he)

end Sys2Proof.Machine
end

