-- ==== Sys2Proof/Laws/Fault.lean ====
section
/-! SUPPORT. What taking a fault can do, said once: a fault outside a handler takes the lowest free record place of the core
and holds the path, or leaves the state as it is; it never touches memory, tasks, contexts or queues. -/

namespace Sys2Proof.Machine

/-- Everything a precise fault outside a handler wave can do (R250, R252, R254). -/
theorem State.takeFaultAt_cases (s : State) (r : WaveRef) (p : Nat) (pc : DWord) (f : Flt) (h : ∀ c, r ≠ .handler c) :
    (s.takeFaultAt r p pc f = s ∧ (s.wave? r = none ∨ (s.core (s.coreOf r)).freePlace = none))
      ∨ ∃ w i, s.wave? r = some w ∧ (s.core (s.coreOf r)).freePlace = some i ∧
        s.takeFaultAt r p pc f = (s.setCore (s.coreOf r)
          { s.core (s.coreOf r) with
            records := (s.core (s.coreOf r)).records.set none i (some (s.faultRec r p pc f))
            queue := (s.core (s.coreOf r)).queue ++ [i] }).setWave r (w.holdAtFault p f) := by
  unfold State.takeFaultAt
  cases hw : s.wave? r with
  | none => exact .inl ⟨rfl, .inl rfl⟩
  | some w =>
    cases r with
    | handler c => exact absurd rfl (h c)
    | user t g i =>
      dsimp only
      cases hp : (s.core (s.coreOf (.user t g i))).freePlace with
      | none => exact .inl ⟨rfl, .inr rfl⟩
      | some j => exact .inr ⟨w, j, rfl, rfl, rfl⟩
    | caster t g =>
      dsimp only
      cases hp : (s.core (s.coreOf (.caster t g))).freePlace with
      | none => exact .inl ⟨rfl, .inr rfl⟩
      | some j => exact .inr ⟨w, j, rfl, rfl, rfl⟩

/-- A precise fault outside a handler wave touches gangs and cores alone. -/
theorem State.takeFaultAt_frame (s : State) (r : WaveRef) (p : Nat) (pc : DWord) (f : Flt) (h : ∀ c, r ≠ .handler c) :
    s.takeFaultAt r p pc f = { s with gangs := (s.takeFaultAt r p pc f).gangs, cores := (s.takeFaultAt r p pc f).cores } := by
  rcases State.takeFaultAt_cases s r p pc f h with ⟨h', _⟩ | ⟨w, i, _, _, h'⟩
  · rw [h']
  · rw [h']
    cases r with
    | handler c => exact absurd rfl (h c)
    | user t g j => rfl
    | caster t g => rfl

theorem State.takeFault_frame (s : State) (r : WaveRef) (p : Nat) (f : Flt) (h : ∀ c, r ≠ .handler c) :
    s.takeFault r p f = { s with gangs := (s.takeFault r p f).gangs, cores := (s.takeFault r p f).cores } :=
  State.takeFaultAt_frame s r p _ f h

/-- A precise fault outside a handler wave leaves memory. -/
theorem State.takeFault_mem (s : State) (r : WaveRef) (p : Nat) (f : Flt) (h : ∀ c, r ≠ .handler c) :
    (s.takeFault r p f).mem = s.mem := by
  rw [State.takeFault_frame s r p f h]

end Sys2Proof.Machine
end

