-- ==== Sys2Proof/Laws/Memory.lean ====
section
/-! SUPPORT. What the operations on memory do: what a write leaves at every byte, that it touches nothing but the ingots that
watch it, and the canonical form that every operation on memory keeps. -/

namespace Sys2Proof.Machine

/-! ### What watches a write (R185) -/

theorem State.mapIngot_frame (s : State) (c i : Nat) (f : Ingot → Ingot) :
    s.mapIngot c i f = { s with contexts := (s.mapIngot c i f).contexts } := rfl

theorem State.foldl_mapIngot_frame (l : List (Nat × Nat)) : ∀ s : State,
    l.foldl (fun s ci => s.mapIngot ci.1 ci.2 Ingot.hit) s =
      { s with contexts := (l.foldl (fun s ci => s.mapIngot ci.1 ci.2 Ingot.hit) s).contexts } := by
  induction l with
  | nil => intro s; rfl
  | cons x l ih => intro s; rw [List.foldl_cons, ih]; rfl

/-- A write's watch changes ingots alone. -/
theorem State.hitWatch_frame (s : State) (off : Nat) : s.hitWatch off = { s with contexts := (s.hitWatch off).contexts } :=
  State.foldl_mapIngot_frame _ s

theorem State.foldl_hitWatch_frame (l : List Nat) : ∀ s : State,
    l.foldl (fun s g => s.hitWatch (4096 * g)) s = { s with contexts := (l.foldl (fun s g => s.hitWatch (4096 * g)) s).contexts } := by
  induction l with
  | nil => intro s; rfl
  | cons x l ih =>
    intro s
    rw [List.foldl_cons, ih, State.hitWatch_frame s]

/-! ### Writes -/

/-- A write changes memory, its poison, what is kept of an open slot and the ingots that watch it, and nothing else. -/
theorem State.writeLocal_frame (s : State) (off : Nat) (bs : Bytes) (whole : Bool) :
    s.writeLocal off bs whole =
      { s with mem := putBytes s.mem off bs, poison := (s.writeLocal off bs whole).poison, trail := (s.writeLocal off bs whole).trail,
               contexts := (s.writeLocal off bs whole).contexts } := by
  unfold State.writeLocal
  split
  · rfl
  · rw [State.foldl_hitWatch_frame]

@[simp] theorem State.writeLocal_mem (s : State) (off : Nat) (bs : Bytes) (whole : Bool) :
    (s.writeLocal off bs whole).mem = putBytes s.mem off bs := by
  rw [State.writeLocal_frame]

/-- Every byte after a write. -/
theorem State.writeLocal_byte (s : State) (off : Nat) (bs : Bytes) (whole : Bool) (a : Nat) :
    (s.writeLocal off bs whole).byte a = if off ≤ a ∧ a < off + bs.length then nth 0 bs (a - off) else s.byte a := by
  unfold State.byte
  rw [State.writeLocal_mem, get_putBytes]

/-! ### The canonical form -/

/-- A write keeps the canonical form of memory. -/
theorem State.writeLocal_memWf (s : State) (off : Nat) (bs : Bytes) (whole : Bool) (h : s.memWf = true) :
    (s.writeLocal off bs whole).memWf = true := by
  unfold State.memWf
  rw [State.writeLocal_mem]
  exact putBytes_wf bs s.mem off h

theorem Table.wfFrom_filter {α : Type} [DecidableEq α] (d : α) (f : Nat × α → Bool) : ∀ {lo : Nat} {t : Table α},
    Table.wfFrom d lo t = true → Table.wfFrom d lo (t.filter f) = true
  | _, [], _ => rfl
  | lo, (k, v) :: t, h => by
    simp only [Table.wfFrom, Bool.and_eq_true, decide_eq_true_eq] at h
    rw [List.filter_cons]
    split
    · simp only [Table.wfFrom, Bool.and_eq_true, decide_eq_true_eq]
      exact ⟨h.1, Table.wfFrom_filter d f h.2⟩
    · exact Table.wfFrom_mono d (by omega) (Table.wfFrom_filter d f h.2)

/-- Dropping bytes of dies or ports whose contents are lost keeps the canonical form (R16). -/
theorem Memory.wf_filter (t : Table Byte) (f : Nat × Byte → Bool) (h : Memory.wf t = true) : Memory.wf (t.filter f) = true :=
  Table.wfFrom_filter 0 f h

/-- The memory after reset lists nothing. -/
theorem State.reset_memWf : State.reset.memWf = true := rfl

/-- A state whose memory is another's has its canonical form. -/
theorem State.memWf_of_mem {s t : State} (h : t.mem = s.mem) (hs : s.memWf = true) : t.memWf = true := by
  unfold State.memWf at *
  rw [h]
  exact hs

/-! ### Translation (R179, R184) -/

/-- An access that lies in one page, of an address outside the gang's scratch and outside the fault records. -/
theorem State.span_of_leaf {s : State} {w : Who} {acc : Access} {va n e sz : Nat} {p : Place} (h0 : va < aperture) (h1 : inRecords va = false)
    (h2 : s.leaf w va = some (e, sz)) (h3 : ((acc = .store && !(leafW e)) || (acc = .fetch && !(leafX e)) || (leafP e && !w.priv)) = false)
    (h4 : s.reach w.priv (leafP e) (e / 2 ^ 16 * 2 ^ 16 + va % 2 ^ sz) = .ok p) (h5 : va + n ≤ pageStop va sz) :
    s.span w acc va n = .ok { va := va, parts := [(p, n)], so := leafKind e == 1, formed := leafFormed e, ts := leafTS e } := by
  have h : s.translate w acc va =
      .ok { place := p, kind := leafKind e, formed := leafFormed e, ts := leafTS e, stop := pageStop va sz } := by
    have ha : ¬ 2 ^ 57 ≤ va := by unfold aperture at h0; omega
    simp only [State.translate, if_neg ha, if_neg (Nat.not_le.mpr h0), h1, h2, h3, h4, Bool.false_eq_true, if_false]
  simp only [State.span, h, if_pos h5]

end Sys2Proof.Machine
end

