-- ==== Sys2Proof/Tests/Slice0.lean ====
section
/-! SUPPORT. Tests: words of the manual's own tables decoded, terms that the well-formedness check refuses, a state and operands
that meet the hypotheses of each statement, and single steps whose results the manual gives. -/

set_option maxRecDepth 100000

namespace Sys2Proof.Tests

open Sys2Proof Sys2Proof.Machine Sys2Proof.Claims

/-! ### Small states -/

/-- A state in which a stream issues the word `w`, after `f` has changed the issuing wave. -/
def S (w : Nat) (f : Wave → Wave := id) : State :=
  let s := State.reset.placeWord w
  let r := probeRef 1 w
  { s with moves := [], cur := some (r, 0) }.resumeWave r f

/-- The same with the caster thread as the issuing stream. -/
def C (w : Nat) (f : Wave → Wave := id) : State :=
  { S w with cur := some (.caster 1 0, 0) }.resumeWave (.caster 1 0) f

/-- What the instruction in hand finds in its stream. -/
def E (s : State) : Env :=
  match s.cur with
  | some (r, p) => (s.env? r p).getD ⟨r, p, {}, {}, 0, 0, 0, 0, 0, 0, 0, 0, 0, 0, 0, false, false, false⟩
  | none => ⟨.handler 0, 0, {}, {}, 0, 0, 0, 0, 0, 0, 0, 0, 0, 0, 0, false, false, false⟩

/-- Every slice of a wave in a mode (R292). -/
def inMode (m : BitVec 24) (w : Wave) : Wave := { w with slices := w.slices.map fun x => { x with mode := m } }

/-- A wave whose issuing clause ends with the literal words `l` after its instruction. -/
def withLits (l : List Word) (w : Wave) : Wave :=
  let p := w.path 0
  let b : LineBuf := p.buf.getD { base := 0, words := [] }
  w.setPath 0 { p with
    buf := some { b with words := b.words.take 4 ++ l ++ b.words.drop (4 + l.length) }
    clause := some { last := 3 + l.length, fa := none, fb := none } }

/-- Scalar register `r` of every slice holds `v`. -/
def scalar (r : Nat) (v : Word) (w : Wave) : Wave := (upto 8).foldl (fun w i => w.setS r i { bits := v }) w

/-- Vector register `r` holds `f L` in lane `L`. -/
def vector (r : Nat) (f : Nat → Word) (w : Wave) : Wave := (upto 32).foldl (fun w l => w.setV r l { bits := f l }) w

/-- The issuing path's ACTIVE is `m`. -/
def activeOnly (m : Word) (w : Wave) : Wave :=
  let v := { w with slices := (upto 8).map fun j => { w.slice j with enabled := laneBits m j } }
  v.setPath 0 { v.path 0 with active := m }

/-- Page tables that map the first GiB of every address space to itself, for stores and fetches (R179, R180), and eight more bits
of the leaf. -/
def mapped (bits : Nat) (s : State) : State :=
  let m := putBytes (putBytes (putBytes [] 0x1000 (leBytes 8 0x2001)) 0x2000 (leBytes 8 0x3001)) 0x3000 (leBytes 8 (0x33 + bits))
  { s with mem := m }.mapCtx 0 fun c => { c with root := 0x1000 }

theorem unwaiting {e : Env} (h : e.path.wait = .none) : Fresh e := fun id => by rw [h]; exact Wait.noConfusion

/-- What lane 0 meets, all of its positions meet. -/
theorem at_zero {us : Nats} {P : Nat → Prop} (hu : us = [0]) (h : P 0) : ∀ L ∈ us, P L := by
  intro L hL
  rw [hu] at hL
  cases List.mem_singleton.1 hL
  exact h

/-! ### A state and operands for each statement on registers -/

/-- IADD v1, v2, v3 under T = i32. -/
theorem test_integer_witness : let s := S 0x20010203
    ∃ f d xs, arithEntry (.iadd (.v 1) (.v 2) (.v 3)) = some f ∧ Issuing s (E s) f.op ∧ Resolved (E s) f 1 d xs 0 :=
  ⟨_, .vec 1, [(.vec 2, 1), (.vec 3, 1)], rfl, ⟨rfl, rfl, rfl⟩, rfl, rfl, ⟨_, _, rfl, rfl, rfl⟩, .inl rfl, by decide, fun h => by cases h⟩

/-- SHL v9, v9, #3. -/
theorem test_shift_witness : let s := S 0x2E0909FE (withLits [3])
    ∃ f d xs, shiftEntry (.shl (.v 9) (.v 9) .lit) = some f ∧ Issuing s (E s) f.op ∧ Resolved (E s) f 1 d xs 1 :=
  ⟨_, .vec 9, [(.vec 9, 1), (.imm 3, 1)], rfl, ⟨rfl, rfl, rfl⟩, rfl, rfl, ⟨_, _, rfl, rfl, rfl⟩, .inl rfl, by decide, fun h => by cases h⟩

/-- ANDN s1, s2, s3. -/
theorem test_logic_witness : let s := S 0x2DC1C2C3
    ∃ f d xs, logicEntry (.andn (.s 1) (.s 2) (.s 3)) = some f ∧ Issuing s (E s) f.op ∧ Resolved (E s) f 1 d xs 0 :=
  ⟨_, .sca 1, [(.sca 2, 1), (.sca 3, 1)], rfl, ⟨rfl, rfl, rfl⟩, rfl, rfl, ⟨_, _, rfl, rfl, rfl⟩, .inr (by decide), by decide, fun h => by cases h⟩

/-- BFI v5, v6, #0x0810. -/
theorem test_field_witness : let s := S 0x330506FE (withLits [0x0810])
    ∃ f d xs, fieldEntry (.bfi (.v 5) (.v 6) .lit) = some f ∧ Issuing s (E s) f.op ∧ Resolved (E s) f 1 d xs 1 :=
  ⟨_, .vec 5, [(.vec 6, 1), (.imm 0x0810, 1), (.vec 5, 1)], rfl, ⟨rfl, rfl, rfl⟩, rfl, rfl, ⟨_, _, rfl, rfl, rfl⟩, .inl rfl, by decide,
    fun h => by cases h⟩

/-- IADDC v1, v2, v3, with bit 0 of p15 set. -/
theorem test_carry_witness : let s := S 0x25010203 fun w => w.setPred 15 1 1
    carryEntry (.iaddc (.v 1) (.v 2) (.v 3)) = some (0x25, .v 1, .v 2, .v 3) ∧ Issuing s (E s) 0x25
      ∧ (E s).types (fun t => t.isInt && decide (32 ≤ t.width)) = .ok 1 ∧ (E s).dst (.v 1) 1 = .ok (.vec 1)
      ∧ (E s).srcs [(.v 2, 1), (.v 3, 1)] (E s).lits = .ok ([.vec 2, .vec 3], []) ∧ Clean (E s) ((E s).units true) [(.vec 2, 1), (.vec 3, 1)] :=
  ⟨rfl, ⟨rfl, rfl, rfl⟩, rfl, rfl, rfl, by unfold Clean; decide⟩

/-- ICMP lt p5, v1, s3. -/
theorem test_compare_witness : let s := S 0x372501C3
    compareEntry (.icmp 2 ⟨5, false, 0⟩ (.v 1) (.s 3)) = some (0x37, ETy.isInt, 6, 2, ⟨5, false, 0⟩, .v 1, .s 3) ∧ Issuing s (E s) 0x37
      ∧ (E s).types ETy.isInt = .ok 1 ∧ (E s).srcs [(.v 1, 1), (.s 3, 1)] (E s).lits = .ok ([.vec 1, .sca 3], [])
      ∧ 1 = (((E s).pathSlices.map fun j => ((E s).ety j).count).foldl max 1) ∧ Clean (E s) (E s).lanes [(.vec 1, 1), (.sca 3, 1)] :=
  ⟨rfl, ⟨rfl, rfl, rfl⟩, rfl, rfl, rfl, by unfold Clean; decide⟩

/-- PLOP p1 = p2 or not p3; MOV v1, v2; SEL v1, v2, v3 by p4; PMOV v1, v2 under not p4. -/
theorem test_move_witness : Issuing (S 0x3D000000) (E (S 0x3D000000)) 0x3D
    ∧ (let s := S 0x39010200; Issuing s (E s) 0x39 ∧ (E s).types (fun _ => true) = .ok 1 ∧ (E s).dst (.v 1) 1 = .ok (.vec 1)
      ∧ (E s).src (.v 2) 1 (E s).lits = .ok (.vec 2, []))
    ∧ (let s := S 0x38010203 (withLits [4]); Issuing s (E s) 0x38 ∧ (E s).dst (.v 1) 1 = .ok (.vec 1)
      ∧ (E s).srcs [(.v 2, 1), (.v 3, 1)] (E s).lits = .ok ([.vec 2, .vec 3], [4]))
    ∧ (let s := S 0x3C010214; Issuing s (E s) 0x3C ∧ (E s).dst (.v 1) 1 = .ok (.vec 1) ∧ (E s).src (.v 2) 1 (E s).lits = .ok (.vec 2, [])) :=
  ⟨⟨rfl, rfl, rfl⟩, ⟨⟨rfl, rfl, rfl⟩, rfl, rfl, rfl⟩, ⟨⟨rfl, rfl, rfl⟩, rfl, rfl⟩, ⟨rfl, rfl, rfl⟩, rfl, rfl⟩

/-- MODE with T = f32. -/
def modeF32 : BitVec 24 := 0x100

/-- FFMA v4, v2, v3 and FRCP v4, v2 under T = f32. -/
theorem test_float_witness : (let s := S 0x43040203 (inMode modeF32)
    ∃ f d xs, floatEntry (.ffma (.v 4) (.v 2) (.v 3)) = some f ∧ Issuing s (E s) f.op ∧ Resolved (E s) f 1 d xs 0)
    ∧ (let s := S 0x4D040200 (inMode modeF32)
    ∃ f d xs, floatEntry (.frcp (.v 4) (.v 2)) = some f ∧ Issuing s (E s) f.op ∧ Resolved (E s) f 1 d xs 0) :=
  ⟨⟨_, .vec 4, [(.vec 2, 1), (.vec 3, 1), (.vec 4, 1)], rfl, ⟨rfl, rfl, rfl⟩, rfl, rfl, ⟨_, _, rfl, rfl, rfl⟩, .inl rfl, by decide, fun h => by cases h⟩,
    ⟨_, .vec 4, [(.vec 2, 1)], rfl, ⟨rfl, rfl, rfl⟩, rfl, rfl, ⟨_, _, rfl, rfl, rfl⟩, .inl rfl, by decide, fun _ => rfl⟩⟩

/-- FSCALE v4, v2, #5 under T = f32. -/
theorem test_other_float_witness : let s := S 0x4B0402FE fun w => withLits [5] (inMode modeF32 w)
    ∃ f d xs, otherFloatEntry (.fscale (.v 4) (.v 2) .lit) = some f ∧ Issuing s (E s) f.op ∧ Resolved (E s) f 1 d xs 1 :=
  ⟨_, .vec 4, [(.vec 2, 1), (.imm 5, 1)], rfl, ⟨rfl, rfl, rfl⟩, rfl, rfl, ⟨_, _, rfl, rfl, rfl⟩, .inl rfl, by decide, fun h => by cases h⟩

/-- CVT v4, v2 from i32 to f32, and CVTR v4, v2 from f32 to f16. -/
theorem test_conversion_witness : (let s := S 0x60040200 (inMode modeF32)
    ETy.ofCode 0 = some .i32 ∧ (∀ j ∈ (E s).pathSlices, positionOk .i32 ((E s).ety j) 0 = true) ∧ (E s).src (.v 2) 1 (E s).lits = .ok (.vec 2, [])
      ∧ Issuing s (E s) 0x60 ∧ (E s).types (fun _ => true) = .ok 1 ∧ (E s).dst (.v 4) 1 = .ok (.vec 4) ∧ Clean (E s) ((E s).units true) [(.vec 2, 1)]
      ∧ ¬∃ j ∈ (E s).pathSlices, ETy.i32.count < ((E s).ety j).count)
    ∧ (let s := S 0x61040208 (inMode 0x140)
    ETy.ofCode 8 = some .f32 ∧ (∀ j ∈ (E s).pathSlices, positionOk .f32 ((E s).ety j) 0 = true) ∧ (E s).src (.v 2) 1 (E s).lits = .ok (.vec 2, [])
      ∧ Issuing s (E s) 0x61 ∧ (E s).dst (.v 4) 2 = .ok (.vec 4) ∧ Clean (E s) ((E s).units true) [(.vec 2, 1), (.vec 4, 1)]) :=
  ⟨⟨rfl, by decide, rfl, ⟨rfl, rfl, rfl⟩, rfl, rfl, by unfold Clean; decide, by decide⟩,
    rfl, by decide, rfl, ⟨rfl, rfl, rfl⟩, rfl, by unfold Clean; decide⟩

/-- XCLR x1, #9; XADD x1, x2; XADD x1, v2; XMAD x1, v2, v3; XRED x1, x2; the forms of XMOV; XRND v4, x1. -/
theorem test_sum_witness : (let s := S 0x6501FE00 (withLits [9]); Issuing s (E s) 0x65 ∧ (E s).src .lit 1 (E s).lits = .ok (.imm 9, []))
    ∧ (let s := S 0x66010042; Issuing s (E s) 0x66 ∧ SumsClean (E s) [1, 2])
    ∧ (let s := S 0x66010200; Issuing s (E s) 0x66 ∧ (E s).types summand = .ok 1 ∧ (E s).src (.v 2) 1 (E s).lits = .ok (.vec 2, [])
      ∧ Clean (E s) (E s).lanes [(.vec 2, 1)])
    ∧ (let s := S 0x67010203; Issuing s (E s) 0x67 ∧ (E s).srcs [(.v 2, 1), (.v 3, 1)] (E s).lits = .ok ([.vec 2, .vec 3], []))
    ∧ (let s := S 0x77010200; Issuing s (E s) 0x77 ∧ SumsClean (E s) [2])
    ∧ (let s := S 0x69010200; Issuing s (E s) 0x69 ∧ (E s).dst (.v 4) 1 = .ok (.vec 4) ∧ (E s).src (.v 3) 1 (E s).lits = .ok (.vec 3, []))
    ∧ (let s := S 0x68040100 (inMode modeF32); Issuing s (E s) 0x68 ∧ (E s).types ETy.isFloat = .ok 1 ∧ (E s).dst (.v 4) 1 = .ok (.vec 4)
      ∧ (∀ j ∈ (E s).pathSlices, 0 < ((E s).ety j).count) ∧ SumsClean (E s) [1] ∧ Clean (E s) (E s).lanes [(.vec 4, 1)]) :=
  ⟨⟨⟨rfl, rfl, rfl⟩, rfl⟩, ⟨⟨rfl, rfl, rfl⟩, by unfold SumsClean; decide⟩, ⟨⟨rfl, rfl, rfl⟩, rfl, rfl, by unfold Clean; decide⟩, ⟨⟨rfl, rfl, rfl⟩, rfl⟩,
    ⟨⟨rfl, rfl, rfl⟩, by unfold SumsClean; decide⟩, ⟨⟨rfl, rfl, rfl⟩, rfl, rfl⟩,
    ⟨rfl, rfl, rfl⟩, rfl, rfl, by decide, by unfold SumsClean; decide, by unfold Clean; decide⟩

/-- FORM v4 from v8 with class 0; UNFORM of a zero line; QHAD; KGEN with its generators in v8 and in s8. -/
theorem test_form_witness : (let s := S 0x63040800 fun w => withLits [127] (inMode modeF32 w)
    Issuing s (E s) 0x63 ∧ (E s).ety (E s).low = .f32 ∧ (E s).dst (.v 4) 1 = .ok (.vec 4) ∧ (E s).lits = [127] ∧ (E s).caster = false
      ∧ 8 + max 1 (((lineCount 0).getD 0 + 31) / 32) ≤ 16 * (E s).blocks
      ∧ ∀ j, j < (lineCount 0).getD 0 → j % 32 ∈ (E s).lanes → ((E s).w.getV (8 + j / 32) (j % 32)).poison = false)
    ∧ (let s := S 0x64040800 (inMode modeF32)
    Issuing s (E s) 0x64 ∧ (E s).dst (.v 4) (((E s).ety (E s).low).width / 32) = .ok (.vec 4) ∧ (∀ L ∈ (E s).lanes, L / 16 = 0 → ((E s).w.getV 8 L).poison = false)
      ∧ checkLine ((E s).image 8 false) = none ∧ byteAt ((E s).image 8 false) 0 = 0)
    ∧ (let s := S 0x62040208
    Issuing s (E s) 0x62 ∧ (E s).ety (E s).low ∈ [ETy.f32, .f16, .bf16, .i32, .i16, .i8] ∧ (E s).w.partn = 5 ∧ (E s).src (.v 2) 1 (E s).lits = .ok (.vec 2, [])
      ∧ groupSrc (.s 8) 4 = .ok (.sca 8) ∧ Clean (E s) (E s).lanes [(.vec 2, 1)] ∧ ((E s).read 4 (4 * (E s).low) (.sca 8)).2 = false)
    ∧ (let s := S 0x6A040800
    Issuing s (E s) 0x6A ∧ (E s).dst (.v 4) 1 = .ok (.vec 4) ∧ (E s).src (.v 8) 4 (E s).lits = .ok (.vec 8, []) ∧ Clean (E s) ((E s).units true) [(.vec 8, 4)]
      ∧ ∀ L ∈ (E s).units true, ((E s).read 4 L (.vec 8)).1 / 2 ^ 64 % 2 ^ 24 ≠ 2 ^ 24 - 1)
    ∧ (let s := S 0x6A04C800
    Issuing s (E s) 0x6A ∧ (E s).src (.s 8) 4 (E s).lits = .ok (.sca 8, []) ∧ Clean (E s) ((E s).units false) [(.sca 8, 4)]
      ∧ ∀ L ∈ (E s).units false, ((E s).read 4 L (.sca 8)).1 / 2 ^ 64 % 2 ^ 24 ≠ 2 ^ 24 - 1)
    ∧ (let s := S 0x6A04F000
    Issuing s (E s) 0x6A ∧ (E s).src .zero 4 (E s).lits = .ok (.imm 0, []) ∧ ∀ L ∈ (E s).units false, ((E s).read 4 L (.imm 0)).1 / 2 ^ 64 % 2 ^ 24 ≠ 2 ^ 24 - 1) :=
  ⟨⟨⟨rfl, rfl, rfl⟩, rfl, rfl, rfl, rfl, by decide, by decide⟩, ⟨⟨rfl, rfl, rfl⟩, rfl, by decide, by decide, by decide⟩,
    ⟨⟨rfl, rfl, rfl⟩, by decide, rfl, rfl, rfl, by unfold Clean; decide, rfl⟩, ⟨⟨rfl, rfl, rfl⟩, rfl, rfl, by unfold Clean; decide, by decide⟩,
    ⟨⟨rfl, rfl, rfl⟩, rfl, by unfold Clean; decide, by decide⟩, ⟨rfl, rfl, rfl⟩, rfl, by decide⟩

/-- SHFL, SHFX, BCAST and NBR into v4. -/
theorem test_lane_move_witness : (let s := S 0x70040203
    (E s).dst (.v 4) (((E s).ety (E s).low).opWidth / 32) = .ok (.vec 4) ∧ (E s).srcs [(.v 2, 1), (.v 3, 1)] (E s).lits = .ok ([.vec 2, .vec 3], [])
      ∧ Clean (E s) (E s).lanes [(.vec 3, 1)] ∧ Issuing s (E s) 0x70)
    ∧ Issuing (S 0x71040203) (E (S 0x71040203)) 0x71
    ∧ (let s := S 0x79040207; Issuing s (E s) 0x79 ∧ 7 < 2 ^ (E s).w.partn ∧ (E s).src (.v 2) 1 (E s).lits = .ok (.vec 2, []))
    ∧ (let s := S 0x72040203; Issuing s (E s) 0x72 ∧ 2 + 1 ≤ 16 * (E s).blocks ∧ (E s).caster = false
      ∧ (E s).group * (E s).waves + (E s).wave < (E s).groups * (E s).waves) :=
  ⟨⟨rfl, rfl, by unfold Clean; decide, rfl, rfl, rfl⟩, ⟨rfl, rfl, rfl⟩, ⟨⟨rfl, rfl, rfl⟩, by decide, rfl⟩, ⟨rfl, rfl, rfl⟩, by decide, rfl, by decide⟩

/-- BALLOT v4, p3; VOTE p1, p2; ELECT p1. -/
theorem test_lane_vote_witness : (let s := S 0x73040300; Issuing s (E s) 0x73 ∧ (E s).dst (.v 4) 1 = .ok (.vec 4))
    ∧ Issuing (S 0x74010200) (E (S 0x74010200)) 0x74 ∧ Issuing (S 0x12010000) (E (S 0x12010000)) 0x12 :=
  ⟨⟨⟨rfl, rfl, rfl⟩, rfl⟩, ⟨rfl, rfl, rfl⟩, rfl, rfl, rfl⟩

/-- REDI max, REDF add and an exclusive SCAN add into v4. -/
theorem test_reduction_witness : (let s := S 0x75040202; ∃ f, reduceEntry (.redi (.v 4) (.v 2) 2) = some (0x75, ETy.isInt, fun _ => 6, .v 4, .v 2, 2, f)
      ∧ Issuing s (E s) 0x75 ∧ ((E s).ety (E s).low).isInt = true ∧ (E s).dst (.v 4) 1 = .ok (.vec 4) ∧ (E s).src (.v 2) 1 (E s).lits = .ok (.vec 2, [])
      ∧ Clean (E s) (E s).lanes [(.vec 2, 1)])
    ∧ (let s := S 0x76040200 (inMode modeF32); Issuing s (E s) 0x76 ∧ ((E s).ety (E s).low).isFloat = true)
    ∧ (let s := S 0x78040280; Issuing s (E s) 0x78 ∧ ∃ f g h, reduceEntry (.scan (.v 4) (.v 2) true 0) = some (0x78, f, g, .v 4, .v 2, 0, h)) :=
  ⟨⟨_, rfl, ⟨rfl, rfl, rfl⟩, rfl, rfl, rfl, by unfold Clean; decide⟩, ⟨⟨rfl, rfl, rfl⟩, rfl⟩, ⟨rfl, rfl, rfl⟩, _, _, _, rfl⟩

/-! ### Memory -/

/-- The pair s8 holds `a`. -/
def pairAt (a : Nat) (w : Wave) : Wave := scalar 9 (BitVec.ofNat 32 (a / 2 ^ 32)) (scalar 8 (BitVec.ofNat 32 a) w)

/-- An access of a page that is not strongly ordered, at a known address. -/
theorem own_access {s : State} {e : Env} {acc : Access} {n align : Nat} {va place : Nat → Nat} {L : Nat} (v o : Nat) (sp : Span) (h0 : va L = v)
    (h1 : s.span e.who acc v n = .ok sp) (h2 : sp.parts = [(.mem o, n)]) (h3 : place L = o) (h4 : o < 2 ^ 40) (h5 : v % align = 0) (h6 : sp.so = false)
    (h7 : s.sideEffect e.who e.task (s.insidePass e) sp = false) : OwnAccess s e acc n align va place L :=
  ⟨sp, by rw [h0]; exact h1, by rw [h3]; exact h2, by rw [h3]; exact h4, by rw [h0]; exact h5, fun h => (by rw [h6] at h; cases h), fun _ => .inr h7⟩

/-- LDW v4, s8, ZERO at 0x10000 in lane 0, and LDAW the same. -/
theorem test_load_witness : (let s := mapped 0 (S 0x8404C8F0 fun w => activeOnly 1 (pairAt 0x10000 w))
    let va := fun L => effective ((E s).read 2 L (.sca 8)).1 ((E s).read 1 L (.imm 0)).1
    loadEntry (.ldw (.v 4) (.s 8) .zero) = some (0x84, 4, false, false, .v 4, .s 8, .zero) ∧ Issuing s (E s) 0x84 ∧ Fresh (E s)
      ∧ (E s).dst (.v 4) 1 = .ok (.vec 4) ∧ (E s).src (.s 8) 2 (E s).lits = .ok (.sca 8, []) ∧ (E s).src .zero 1 [] = .ok (.imm 0, [])
      ∧ (E s).vectorForm (.v 4) [.sca 8, .imm 0] = .ok true ∧ Clean (E s) ((E s).units true) [(.sca 8, 2), (.imm 0, 1)] ∧ (E s).flagFor true = none
      ∧ Agrees s (E s) ∧ ∀ L ∈ (E s).units true, OwnAccess (translated s (E s) 4 ((E s).units true) va) (E s) .load 4 1 va (fun _ => 0x10000) L)
    ∧ (let s := mapped 0 (S 0x8C04C8F0 fun w => activeOnly 1 (pairAt 0x10000 w))
    let va := fun L => effective ((E s).read 2 L (.sca 8)).1 ((E s).read 1 L (.imm 0)).1
    Issuing s (E s) 0x8C ∧ ∀ L ∈ (E s).units true, OwnAccess (translated s (E s) 4 ((E s).units true) va) (E s) .load 4 4 va (fun _ => 0x10000) L) :=
  ⟨⟨rfl, ⟨rfl, rfl, rfl⟩, unwaiting rfl, rfl, rfl, rfl, rfl, by unfold Clean; decide, rfl, (fun x h => by cases h), at_zero (by decide)
    (own_access 0x10000 0x10000 { va := 0x10000, parts := [(.mem 0x10000, 4)] } rfl rfl rfl rfl (by decide) (by decide) rfl rfl)⟩,
   ⟨rfl, rfl, rfl⟩, at_zero (by decide)
    (own_access 0x10000 0x10000 { va := 0x10000, parts := [(.mem 0x10000, 4)] } rfl rfl rfl rfl (by decide) (by decide) rfl rfl)⟩

/-- STW, STQ and STLW v4, s8, ZERO at 0x10000 in lane 0. -/
theorem test_store_witness : ∀ x ∈ [(0x89, 4, 1, 1), (0x8B, 16, 4, 1), (0x8E, 4, 1, 4)], let (op, n, k, al) := x
    let s := mapped 0 (S (op * 2 ^ 24 + 0x04C8F0) fun w => activeOnly 1 (pairAt 0x10000 w))
    let va := fun L => effective ((E s).read 2 L (.sca 8)).1 ((E s).read 1 L (.imm 0)).1
    Issuing s (E s) op ∧ Fresh (E s) ∧ (E s).doneMask = 0 ∧ s.writeHeld (E s) = false ∧ s.cut = false
      ∧ (E s).src (.v 4) k (E s).lits = .ok (.vec 4, []) ∧ (E s).src (.s 8) 2 [] = .ok (.sca 8, []) ∧ (E s).src .zero 1 [] = .ok (.imm 0, [])
      ∧ (E s).vectorForm (.v 4) [.sca 8, .imm 0] = .ok true ∧ Clean (E s) ((E s).units true) [(.vec 4, k), (.sca 8, 2), (.imm 0, 1)]
      ∧ s.quiet (E s) (E s).scope = true ∧ (E s).flagFor false = none
      ∧ ∀ L ∈ (E s).units true, OwnAccess (translated s (E s) n ((E s).units true) va) (E s) .store n al va (fun _ => 0x10000) L := by
  intro x hx
  simp only [List.mem_cons, List.not_mem_nil, or_false] at hx
  rcases hx with rfl | rfl | rfl
  all_goals
    refine ⟨⟨rfl, rfl, rfl⟩, unwaiting rfl, rfl, rfl, rfl, rfl, rfl, rfl, rfl, ?_, rfl, rfl, at_zero (by decide)
      (own_access 0x10000 0x10000 { va := 0x10000, parts := [(.mem 0x10000, _)] } rfl rfl rfl rfl (by decide) (by decide) rfl rfl)⟩
    unfold Clean
    decide

/-- AADD v4, v8, v6: lanes 0 and 1 add at distinct cells, 64 bytes apart. -/
theorem test_atomic_witness : let s := mapped 0 (S 0x90040806 fun w => activeOnly 3 (vector 8 (fun L => BitVec.ofNat 32 (0x10000 + 64 * L)) w))
    let va := fun L => ((E s).read 2 L (.vec 8)).1
    let place := fun L => 0x10000 + 64 * L
    atomicEntry (.aadd (.v 4) (.v 8) (.v 6)) = some (0x90, atomicInt, .v 4, .v 8, .v 6, false) ∧ Issuing s (E s) 0x90 ∧ Fresh (E s) ∧ (E s).doneMask = 0
      ∧ s.writeHeld (E s) = false ∧ (E s).types atomicInt = .ok 1 ∧ (E s).dst (.v 4) 1 = .ok (.vec 4) ∧ (E s).src (.v 8) 2 (E s).lits = .ok (.vec 8, [])
      ∧ (E s).src (.v 6) 1 [] = .ok (.vec 6, []) ∧ (E s).vectorForm (.v 4) [.vec 8, .vec 6] = .ok true
      ∧ Clean (E s) ((E s).units true) [(.vec 8, 2), (.vec 6, 1)] ∧ (∀ c, (E s).flagFor c = none)
      ∧ (((E s).units true).map va).Nodup
      ∧ (∀ L ∈ (E s).units true, ∀ M ∈ (E s).units true, L ≠ M → place L + 4 ≤ place M ∨ place M + 4 ≤ place L)
      ∧ ∀ L ∈ (E s).units true, OwnAccess (translated s (E s) 4 ((E s).units true) va) (E s) .store 4 4 va place L := by
  refine ⟨rfl, ⟨rfl, rfl, rfl⟩, unwaiting rfl, rfl, rfl, rfl, rfl, rfl, rfl, rfl, by unfold Clean; decide, by decide, by decide, by decide, ?_⟩
  intro L hL
  rw [show (E _).units true = [0, 1] by decide] at hL
  simp only [List.mem_cons, List.not_mem_nil, or_false] at hL
  rcases hL with rfl | rfl
  · exact own_access 0x10000 0x10000 { va := 0x10000, parts := [(.mem 0x10000, 4)] } rfl rfl rfl rfl (by decide) (by decide) rfl rfl
  · exact own_access 0x10040 0x10040 { va := 0x10040, parts := [(.mem 0x10040, 4)] } rfl rfl rfl rfl (by decide) (by decide) rfl rfl

/-- AXSUM v4, v2, x1: lane 0 alone is active, at 0x10000. -/
theorem test_sum_atomic_witness : let s := mapped 0 (S 0x99040201 fun w => activeOnly 1 (vector 2 (fun _ => 0x10000) w))
    let va := fun L => ((E s).read 2 L (.vec 2)).1
    Issuing s (E s) 0x99 ∧ Fresh (E s) ∧ (E s).doneMask = 0 ∧ s.writeHeld (E s) = false ∧ (E s).caster = false ∧ (E s).dst (.v 4) 1 = .ok (.vec 4)
      ∧ (E s).src (.v 2) 2 (E s).lits = .ok (.vec 2, []) ∧ Clean (E s) (E s).lanes [(.vec 2, 2)] ∧ Clean (E s) (E s).lanes [(.vec 4, 1)]
      ∧ SumsClean (E s) [1] ∧ (∀ c, (E s).flagFor c = none) ∧ (E s).lanes = [0]
      ∧ ∀ L ∈ (E s).lanes, OwnAccess (translated s (E s) 48 (E s).lanes va) (E s) .store 48 16 va (fun _ => 0x10000) L :=
  ⟨⟨rfl, rfl, rfl⟩, unwaiting rfl, rfl, rfl, rfl, rfl, rfl, by unfold Clean; decide, by unfold Clean; decide, by unfold SumsClean; decide, by decide, by decide,
    at_zero (by decide) (own_access 0x10000 0x10000 { va := 0x10000, parts := [(.mem 0x10000, 48)] } rfl rfl rfl rfl (by decide) (by decide) rfl rfl)⟩

/-- TAGL s4, s8; TAGS s4, s8 and TAGI s4, s8 at the slots 0 to 7, one for each slice. -/
theorem test_tag_witness : (let s := S 0x9DC4C800
    (∃ g, s.gang? (E s).task (E s).gang = some g) ∧ Issuing s (E s) 0x9D ∧ (E s).dst (.s 4) 1 = .ok (.sca 4) ∧ (E s).src (.s 8) 2 (E s).lits = .ok (.sca 8, [])
      ∧ (E s).vectorForm (.s 4) [.sca 8] = .ok false ∧ Clean (E s) ((E s).units false) [(.sca 8, 2)])
    ∧ (let s := S 0x9E00C4C8 fun w => (upto 8).foldl (fun w i => w.setS 4 i { bits := BitVec.ofNat 32 i }) w
    (∃ g, s.gang? (E s).task (E s).gang = some g) ∧ Issuing s (E s) 0x9E ∧ (E s).srcs [(.s 4, 1), (.s 8, 2)] (E s).lits = .ok ([.sca 4, .sca 8], [])
      ∧ Clean (E s) ((E s).units false) [(.sca 4, 1), (.sca 8, 2)]
      ∧ (∀ L ∈ (E s).units false, ((E s).read 1 L (.sca 4)).1 < s.scratchBytes (E s).task / 1024)
      ∧ (∀ L ∈ (E s).units false, ∀ M ∈ (E s).units false, ((E s).read 1 L (.sca 4)).1 = ((E s).read 1 M (.sca 4)).1 → L = M))
    ∧ (let s := S 0x9FC4C800 fun w => (upto 8).foldl (fun w i => w.setS 8 i { bits := BitVec.ofNat 32 i }) w
    Issuing s (E s) 0x9F ∧ (E s).dst (.s 4) 2 = .ok (.sca 4) ∧ (E s).src (.s 8) 1 (E s).lits = .ok (.sca 8, []) ∧ (E s).vectorForm (.s 4) [.sca 8] = .ok false
      ∧ (∀ L ∈ (E s).units false, ((E s).read 1 L (.sca 8)).1 < s.scratchBytes (E s).task / 1024)) :=
  ⟨⟨⟨_, rfl⟩, ⟨rfl, rfl, rfl⟩, rfl, rfl, rfl, by unfold Clean; decide⟩,
    ⟨⟨_, rfl⟩, ⟨rfl, rfl, rfl⟩, rfl, by unfold Clean; decide, by decide, by decide⟩, ⟨rfl, rfl, rfl⟩, rfl, rfl, rfl, by decide⟩

/-- LDFE v4, s8, LANE in lane 0 from a formed page that holds zero lines. -/
theorem test_formed_element_witness : let s := mapped 0x40 (S 0xA204C8F1 fun w => activeOnly 1 (pairAt 0x10000 (inMode modeF32 w)))
    let va := fun L => ((E s).read 2 L (.sca 8)).1
    let u := translated s (E s) 64 ((E s).units true) va
    Issuing s (E s) 0xA2 ∧ Fresh (E s) ∧ (E s).types (fun t => t == .f32 || t == .f64) = .ok 1 ∧ (E s).dst (.v 4) 1 = .ok (.vec 4)
      ∧ (E s).src (.s 8) 2 (E s).lits = .ok (.sca 8, []) ∧ (E s).src .lane 1 [] = .ok (.lane, []) ∧ (E s).vectorForm (.v 4) [.sca 8, .lane] = .ok true
      ∧ Clean (E s) ((E s).units true) [(.sca 8, 2), (.lane, 1)] ∧ (E s).flagFor true = none
      ∧ ∀ L ∈ (E s).units true, OwnAccess u (E s) .load 64 64 va (fun _ => 0x10000) L ∧ va L = 0x10000 ∧ (∃ sp, u.span (E s).who .load 0x10000 64 = .ok sp ∧ sp.formed = true)
        ∧ checkLine (s.readLocal 0x10000 64) = none ∧ ∀ z ∈ l1Lines s (E s), z.line = 0x10000 / 64 → checkLine (z.bytes.take 64) = none :=
  ⟨⟨rfl, rfl, rfl⟩, unwaiting rfl, rfl, rfl, rfl, rfl, rfl, by unfold Clean; decide, rfl, at_zero (by decide)
    ⟨own_access 0x10000 0x10000 { va := 0x10000, parts := [(.mem 0x10000, 64)], formed := true } rfl rfl rfl rfl (by decide) (by decide) rfl rfl,
     rfl, ⟨{ va := 0x10000, parts := [(.mem 0x10000, 64)], formed := true }, rfl, rfl⟩, by decide +kernel, fun z h => by cases h⟩⟩

/-! ### Control -/

/-- A clause that ends at word `last`, before whose end only literals stand. -/
theorem last_in_clause (e : Env) (n last : Nat) (hc : (e.path.clause.map (·.last)) = some last) (hn : last ≤ wordIx e.path.pc + n)
    {l : LineBuf} (hl : e.path.buf = some l) (hk : ∀ k, k ≤ last → wordIx e.path.pc < k → l.kind k = 2) : LastInClause e n := by
  intro l' c h1 h2 k hk1 hk2
  rw [hl] at h1
  rw [h2] at hc
  cases h1
  cases hc
  exact ⟨Nat.le_trans hk2 hn, hk k hk2 hk1⟩

/-- The displacement from the instruction back to the header of its own clause (word 2 of the line). -/
def back : Word := BitVec.ofInt 32 (136 - 140)

/-- BRA back to the header of its own clause, whose line is fetched from memory. -/
def lineInMemory (w : Nat) (s : State) : State := { s with mem := putBytes s.mem 128 ((probeLine w).words.flatMap fun x => leBytes 4 x.toNat) }

theorem test_branch_witness : let s := lineInMemory 0x020000FE (mapped 0 (S 0x020000FE (withLits [back])))
    Shaped (E s) ∧ Issuing s (E s) 0x02 ∧ (E s).lits = [back] ∧ Target s (E s) (displaced (E s) back) :=
  ⟨⟨rfl, by decide, .inl rfl⟩, ⟨rfl, rfl, rfl⟩, rfl, _, rfl, rfl⟩

/-- BRS, BRX, CALL and RET: all slices go to the one target. -/
theorem test_scalar_branch_witness : (let s := lineInMemory 0x0400C0FE (mapped 0 (S 0x0400C0FE (withLits [back])))
    Issuing s (E s) 0x04 ∧ LastInClause (E s) 1 ∧ (E s).src (.s 0) 1 (E s).lits = .ok (.sca 0, [back]) ∧ Clean (E s) ((E s).pathSlices.map (4 * ·)) [(.sca 0, 1)]
      ∧ Target s (E s) (displaced (E s) back) ∧ Room (E s) (fun _ => displaced (E s) back))
    ∧ (let s := lineInMemory 0x1B02C0FE (mapped 0 (S 0x1B02C0FE (withLits [back])))
    Issuing s (E s) 0x1B ∧ LastInClause (E s) 1 ∧ (E s).src (.s 0) 1 (E s).lits = .ok (.sca 0, [back])
      ∧ (∀ j ∈ (E s).pathSlices, ((E s).read 1 (4 * j) (.sca 0)).1 = 0))
    ∧ (let s := lineInMemory 0x06C4C800 (mapped 0 (S 0x06C4C800 (scalar 8 136)))
    Issuing s (E s) 0x06 ∧ LastInClause (E s) 0 ∧ Clean (E s) ((E s).pathSlices.map (4 * ·)) [(.sca 8, 2)] ∧ Target s (E s) 136 ∧ (E s).pathSlices ≠ []
      ∧ (∀ j ∈ (E s).pathSlices, BitVec.ofNat 64 ((E s).read 2 (4 * j) (.sca 8)).1 = 136) ∧ Room (E s) (fun _ => 136))
    ∧ (let s := lineInMemory 0x0700C800 (mapped 0 (S 0x0700C800 (scalar 8 136)))
    Issuing s (E s) 0x07 ∧ Clean (E s) ((E s).pathSlices.map (4 * ·)) [(.sca 8, 2)] ∧ Target s (E s) 136
      ∧ (∀ j ∈ (E s).pathSlices, BitVec.ofNat 64 ((E s).read 2 (4 * j) (.sca 8)).1 = 136)) :=
  ⟨⟨⟨rfl, rfl, rfl⟩, last_in_clause _ _ 4 rfl (by decide) rfl (by decide), rfl, by unfold Clean; decide, ⟨_, rfl, rfl⟩, by unfold Room; decide⟩,
    ⟨⟨rfl, rfl, rfl⟩, last_in_clause _ _ 4 rfl (by decide) rfl (by decide), rfl, by decide⟩,
    ⟨⟨rfl, rfl, rfl⟩, last_in_clause _ _ 3 rfl (by decide) rfl (by decide), by unfold Clean; decide, ⟨_, rfl, rfl⟩, by decide, by decide, by unfold Room; decide⟩,
    ⟨rfl, rfl, rfl⟩, by unfold Clean; decide, ⟨_, rfl, rfl⟩, by decide⟩

/-- BRP !p3 with some lanes of p3 set: the slices split; BRP with a full stack; JOIN of a split slice; both on a caster thread. -/
theorem test_split_witness : (let s := lineInMemory 0x031300FE (mapped 0 (S 0x031300FE fun w => withLits [back] (w.setPred 3 0xFFFFFFFF 0x33333333)))
    Shaped (E s) ∧ Issuing s (E s) 0x03 ∧ LastInClause (E s) 1 ∧ (E s).lits = [back] ∧ (E s).caster = false ∧ Target s (E s) (displaced (E s) back)
      ∧ Room (E s) (fun _ => displaced (E s) back) ∧ ∀ j ∈ (E s).pathSlices, (brpRule ((E s).w.slice j) (laneBits (E s).path.sleep j) 0xC (E s).nextClause).1 = true
        ∧ (brpRule ((E s).w.slice j) (laneBits (E s).path.sleep j) 0xC (E s).nextClause).2.2.length ≤ 8)
    ∧ (let s := S 0x031300FE fun w => withLits [back] { w.setPred 3 0xFFFFFFFF 0x33333333 with
        slices := w.slices.map fun x => { x with stack := List.replicate 8 { mask := 0xF, resume := 0 } } }
    Issuing s (E s) 0x03 ∧ (E s).caster = false ∧ 0 ∈ (E s).pathSlices ∧ 8 ≤ ((E s).w.slice 0).stack.length
      ∧ (brpRule ((E s).w.slice 0) (laneBits (E s).path.sleep 0) 0xC (E s).nextClause).2.2.length = ((E s).w.slice 0).stack.length + 1)
    ∧ (let s := C 0x031300FE fun w => withLits [back] (w.setPred 3 1 1)
    Shaped (E s) ∧ Issuing s (E s) 0x03 ∧ (E s).caster = true ∧ predFBit (E s).w ⟨3, true, 0⟩ 0 = false)
    ∧ (let s := S 0x05000000
    Issuing s (E s) 0x05 ∧ LastInClause (E s) 0 ∧ (E s).caster = false ∧ Room (E s) (fun j => (joinRule ((E s).w.slice j) (E s).nextClause).1))
    ∧ (let s := C 0x05000000
    Issuing s (E s) 0x05 ∧ LastInClause (E s) 0 ∧ (E s).caster = true) :=
  ⟨⟨⟨rfl, by decide, .inl rfl⟩, ⟨rfl, rfl, rfl⟩, last_in_clause _ _ 4 rfl (by decide) rfl (by decide), rfl, rfl, ⟨_, rfl, rfl⟩, by unfold Room; decide, by decide⟩,
    ⟨⟨rfl, rfl, rfl⟩, rfl, by decide, by decide, by decide⟩, ⟨⟨rfl, by decide, .inl rfl⟩, ⟨rfl, rfl, rfl⟩, rfl, by decide⟩,
    ⟨⟨rfl, rfl, rfl⟩, last_in_clause _ _ 3 rfl (by decide) rfl (by decide), rfl, by unfold Room; decide⟩,
    ⟨rfl, rfl, rfl⟩, last_in_clause _ _ 3 rfl (by decide) rfl (by decide), rfl⟩

/-- EXIT of a whole path, of some of its lanes, and on a caster thread under a set and a clear guard bit; SLEEP and WAKE. -/
theorem test_exit_witness : (let s := S 0x08000000
    Shaped (E s) ∧ Issuing s (E s) 0x08 ∧ (∀ L, L < 32 → (E s).path.sleep.getLsbD L = false) ∧ (E s).caster = false
      ∧ ∀ L, L < 32 → L ∈ (E s).lanes)
    ∧ (let s := S 0x08000000 (activeOnly 0xFFFF)
    Shaped (E s) ∧ Issuing s (E s) 0x08 ∧ (E s).path.slices.getLsbD 7 = true ∧ ((E s).w.slice 7).ended = 0 ∧ 31 ∉ (E s).lanes ∧ (E s).path.sleep = 0
      ∧ ∀ j ∈ (E s).pathSlices, ((E s).w.slice j).stack = [])
    ∧ (let s := C 0x08000000
    Shaped (E s) ∧ Issuing s (E s) 0x08 ∧ (E s).caster = true ∧ 0 ∈ (E s).lanes)
    ∧ (let s := C 0x08000000 (activeOnly 0)
    Shaped (E s) ∧ Issuing s (E s) 0x08 ∧ (E s).caster = true ∧ 0 ∉ (E s).lanes)
    ∧ Issuing (S 0x10000000) (E (S 0x10000000)) 0x10 ∧ Issuing (S 0x11000000) (E (S 0x11000000)) 0x11 :=
  ⟨⟨⟨rfl, by decide, .inl rfl⟩, ⟨rfl, rfl, rfl⟩, by decide, rfl, by decide⟩, ⟨⟨rfl, by decide, .inl rfl⟩, ⟨rfl, rfl, rfl⟩, by decide, rfl, by decide, rfl, by decide⟩,
    ⟨⟨rfl, by decide, .inl rfl⟩, ⟨rfl, rfl, rfl⟩, rfl, by decide⟩, ⟨⟨rfl, by decide, .inl rfl⟩, ⟨rfl, rfl, rfl⟩, rfl, by decide⟩, ⟨rfl, rfl, rfl⟩, rfl, rfl, rfl⟩

/-- The wave with a second path, in entry 1, that has the upper four slices and stands in state `x` at `pc`. -/
def twoPaths (x : PathState) (pc : DWord) (w : Wave) : Wave :=
  let p := w.path 0
  (w.setPath 1 { p with state := x, pc := pc, slices := 0xF0, active := 0xFFFF0000, ref := 0xFFFF0000 }).setPath 0
    { p with slices := 0x0F, active := 0xFFFF, ref := 0xFFFF }

/-- The upper sixteen lanes of a wave are those of its upper four slices. -/
theorem asleep (L : Nat) (h : L / 4 ∈ (E (S 0x09000000 fun w => let v := twoPaths .run 200 w; v.setPath 1 { v.path 1 with sleep := 0xFFFF0000 })).w.pathSlices 1) :
    ((E (S 0x09000000 fun w => let v := twoPaths .run 200 w; v.setPath 1 { v.path 1 with sleep := 0xFFFF0000 })).w.path 1).sleep.getLsbD L = true := by
  have h1 : L / 4 ∈ [4, 5, 6, 7] := h
  have h3 : ∀ L, L < 32 → 16 ≤ L → (0xFFFF0000 : Word).getLsbD L = true := by decide
  simp only [List.mem_cons, List.not_mem_nil, or_false] at h1
  exact h3 L (by omega) (by omega)

/-- REGANG where another path still runs, where it has arrived at the same word, and where it has arrived elsewhere; and on a caster thread. -/
theorem test_regang_witness : let live := fun (e : Env) => (List.range 8).filter fun q => (e.w.path q).state != .free && e.w.pathSlices q != []
    (let s := S 0x09000000 (twoPaths .run 200)
    Issuing s (E s) 0x09 ∧ Shaped (E s) ∧ live (E s) = [0, 1] ∧ (E s).caster = false ∧ ((E s).w.path 1).state ≠ .regang)
    ∧ (let s := S 0x09000000 (twoPaths .regang 140)
    Issuing s (E s) 0x09 ∧ Shaped (E s) ∧ live (E s) = [0, 1] ∧ ((E s).w.path 1).state = .regang ∧ ((E s).w.path 1).pc = (E s).pc)
    ∧ (let s := S 0x09000000 (twoPaths .regang 200)
    Issuing s (E s) 0x09 ∧ Shaped (E s) ∧ live (E s) = [0, 1] ∧ ((E s).w.path 1).state = .regang ∧ ((E s).w.path 1).pc ≠ (E s).pc ∧ (E s).p = 0)
    ∧ (let s := C 0x09000000
    Issuing s (E s) 0x09 ∧ Shaped (E s) ∧ live (E s) = [0] ∧ (E s).caster = true)
    ∧ (let s := S 0x09000000 fun w => let v := twoPaths .run 200 w; v.setPath 1 { v.path 1 with sleep := 0xFFFF0000 }
    Issuing s (E s) 0x09 ∧ Shaped (E s) ∧ live (E s) = [0, 1] ∧ ((E s).w.path 1).state = .run
      ∧ ∀ L, L / 4 ∈ (E s).w.pathSlices 1 → ((E s).w.path 1).sleep.getLsbD L = true) :=
  ⟨⟨⟨rfl, rfl, rfl⟩, ⟨rfl, by decide, .inl rfl⟩, by decide, rfl, by decide⟩, ⟨⟨rfl, rfl, rfl⟩, ⟨rfl, by decide, .inl rfl⟩, by decide, rfl, rfl⟩,
    ⟨⟨rfl, rfl, rfl⟩, ⟨rfl, by decide, .inl rfl⟩, by decide, rfl, by decide, rfl⟩, ⟨⟨rfl, rfl, rfl⟩, ⟨rfl, by decide, .inl rfl⟩, by decide, rfl⟩,
    ⟨rfl, rfl, rfl⟩, ⟨rfl, by decide, .inl rfl⟩, by decide, rfl, fun L h => asleep L h⟩

/-- Every slice with completion flag 0 set. -/
def flagged (w : Wave) : Wave := { w with slices := w.slices.map fun x => { x with flags := 1 } }

/-- WAITF with its flags clear and set; WAITT of a timeline at 0 for 0 and for 1; WAITM of a FREE mould for FREE and for FULL. -/
theorem test_wait_witness : (let s := S 0x0A000001
    Shaped (E s) ∧ Issuing s (E s) 0x0A ∧ ∀ j ∈ (E s).pathSlices, ((E s).w.slice j).flags = 0)
    ∧ (let s := S 0x0A000001 flagged
    Issuing s (E s) 0x0A ∧ ((E s).w.slice 0).flags.getLsbD 0 = true ∧ 0 ∈ (E s).pathSlices)
    ∧ (let s := S 0x0BC4C8CA (scalar 8 0)
    Issuing s (E s) 0x0B ∧ (E s).stDst (.s 4) 1 true = .ok (.sca 4) ∧ (E s).src (.s 8) 2 (E s).lits = .ok (.sca 8, []) ∧ (E s).src (.s 10) 2 [] = .ok (.sca 10, [])
      ∧ Clean (E s) [4 * (E s).low] [(.sca 8, 2), (.sca 10, 2)] ∧ ∃ r, s.tlRef (E s) 0 = some r
      ∧ waitStatus (s.timeline (E s) r) ((E s).read 2 (4 * (E s).low) (.sca 10)).1 false false = some 0)
    ∧ (let s := S 0x0BC4C8CA fun w => scalar 10 1 (scalar 8 0 w)
    ∃ r, s.tlRef (E s) 0 = some r ∧ waitStatus (s.timeline (E s) r) ((E s).read 2 (4 * (E s).low) (.sca 10)).1 false false = none)
    ∧ (let s := S 0x0C000500
    Issuing s (E s) 0x0C ∧ s.mouldExists (E s) 5 = true ∧ s.foreign (E s) 5 = false ∧ (s.mould (E s) 5).state = .free ∧ (s.mould (E s) 5).phase = false) :=
  ⟨⟨⟨rfl, by decide, .inl rfl⟩, ⟨rfl, rfl, rfl⟩, by decide⟩, ⟨⟨rfl, rfl, rfl⟩, by decide, by decide⟩,
    ⟨⟨rfl, rfl, rfl⟩, rfl, rfl, rfl, by unfold Clean; decide, _, rfl, by decide⟩, ⟨_, rfl, by decide⟩, ⟨rfl, rfl, rfl⟩, by decide, by decide, by decide, by decide⟩

/-- A state whose handler wave issues the word `w`. -/
def H (w : Nat) (f : Wave → Wave := id) : State :=
  ({ S w with cur := some (.handler 0, 0) }.setCore 0 { (S w).core 0 with
      records := (S w).core 0 |>.records.set none 0 (some { code := 0x72, disposition := 1, task := 1, wave := .user 1 0 0 })
      current := some 0, wave := some { handlerWave 136 with paths := probePath w 0xFFFFFFFF 0xFF :: List.replicate 7 {} } }).resumeWave (.handler 0) f

/-- MODE legal and reserved; GETS of TIME; SETS of FLAGS, of HMASK in a handler wave and of an unlisted number; SIGCHK that holds and that does
not; LIVE; PARTN. -/
theorem test_special_witness : (let s := S 0x01000120
    Shaped (E s) ∧ Issuing s (E s) 0x01)
    ∧ (let s := S 0x13C40000
    Issuing s (E s) 0x13 ∧ stateValue s (E s) 0 0 = some (0, 2) ∧ (E s).stDst (.s 4) 2 true = .ok (.sca 4))
    ∧ (let s := S 0x14C00005
    Issuing s (E s) 0x14 ∧ (E s).src (.s 0) 1 (E s).lits = .ok (.sca 0, []) ∧ Clean (E s) [4 * (E s).low] [(.sca 0, 1)] ∧ ((E s).read 1 (4 * (E s).low) (.sca 0)).1 < 512)
    ∧ (let s := H 0x14C0000D
    Issuing s (E s) 0x14 ∧ (E s).handler = true ∧ (E s).src (.s 0) 1 (E s).lits = .ok (.sca 0, []))
    ∧ (let s := S 0x15000000 (withLits [0])
    Issuing s (E s) 0x15 ∧ (E s).lits = [0] ∧ ∃ k, s.task? (E s).task = some k ∧ k.sigcheck = false)
    ∧ (let s := { S 0x15000000 (withLits [1]) with tasks := (S 0x15000000).tasks.map fun k => { k with packet := setNth k.packet 0x1E 8 } }
    Issuing s (E s) 0x15 ∧ (E s).lits = [1] ∧ ∃ k, s.task? (E s).task = some k ∧ k.sigcheck = true ∧ (E s).path.sig ≠ 1)
    ∧ Issuing (S 0x16000005) (E (S 0x16000005)) 0x16 ∧ Issuing (S 0x1A000003) (E (S 0x1A000003)) 0x1A :=
  ⟨⟨⟨rfl, by decide, .inl rfl⟩, rfl, rfl, rfl⟩, ⟨⟨rfl, rfl, rfl⟩, rfl, rfl⟩, ⟨⟨rfl, rfl, rfl⟩, rfl, by unfold Clean; decide, by decide⟩,
    ⟨⟨rfl, rfl, rfl⟩, rfl, rfl⟩, ⟨⟨rfl, rfl, rfl⟩, rfl, _, rfl, rfl⟩, ⟨⟨rfl, rfl, rfl⟩, rfl, _, rfl, rfl, by decide⟩, ⟨rfl, rfl, rfl⟩, rfl, rfl, rfl⟩

/-- NOP, YIELD, PREFI, IFENCE, PREF, FENCE, FENCEE and CFLUSH in a state with no access outstanding, and FENCE in one that has one. -/
theorem test_fence_witness : Issuing (S 0) (E (S 0)) 0x00 ∧ Issuing (S 0x0F000000) (E (S 0x0F000000)) 0x0F ∧ Issuing (S 0x0E000000) (E (S 0x0E000000)) 0x0E
    ∧ (let s := S 0x0D00C801
    Shaped (E s) ∧ Issuing s (E s) 0x0D ∧ (E s).src (.s 8) 2 (E s).lits = .ok (.sca 8, []) ∧ Clean (E s) [4 * (E s).low] [(.sca 8, 2)])
    ∧ (let s := S 0xA100C8F0
    Issuing s (E s) 0xA1 ∧ (E s).src (.s 8) 2 (E s).lits = .ok (.sca 8, []) ∧ (E s).src .zero 1 [] = .ok (.imm 0, [])
      ∧ Clean (E s) (E s).lanes [(.sca 8, 2), (.imm 0, 1)])
    ∧ (let s := S 0x9B000000; Issuing s (E s) 0x9B ∧ s.quiet (E s) (E s).scope = true)
    ∧ (let s := S 0x9C000000; Issuing s (E s) 0x9C ∧ (s.quiet (E s) (E s).scope && s.enginesQuiet (E s)) = true)
    ∧ (let s := S 0xA000C8F0
    Issuing s (E s) 0xA0 ∧ Fresh (E s) ∧ (E s).src (.s 8) 2 (E s).lits = .ok (.sca 8, []) ∧ Clean (E s) [4 * (E s).low] [(.sca 8, 2), (.imm 0, 1)]
      ∧ ((E s).read 1 (4 * (E s).low) (.imm 0)).1 ≤ 1048576 ∧ (E s).flagFor false = none ∧ (s.ops.map (·.id)).Nodup ∧ s.earlier (E s) = []) :=
  ⟨⟨rfl, rfl, rfl⟩, ⟨rfl, rfl, rfl⟩, ⟨rfl, rfl, rfl⟩, ⟨⟨rfl, by decide, .inl rfl⟩, ⟨rfl, rfl, rfl⟩, rfl, by unfold Clean; decide⟩,
    ⟨⟨rfl, rfl, rfl⟩, rfl, rfl, by unfold Clean; decide⟩, ⟨⟨rfl, rfl, rfl⟩, rfl⟩, ⟨⟨rfl, rfl, rfl⟩, rfl⟩,
    ⟨rfl, rfl, rfl⟩, unwaiting rfl, rfl, by unfold Clean; decide, by decide, rfl, by decide, rfl⟩

/-! ### Faults -/

/-- A fault of a user wave with a free place, and with none; one inside a handler wave, and inside its nested handler. -/
theorem test_fault_witness : (let s := S 0
    InHand s (E s) ∧ (E s).handler = false ∧ (s.core (E s).core).records.get none 0 = none)
    ∧ (let s := (S 0).setCore 0 { (S 0).core 0 with records := (upto 32).map fun i => (i, some { code := 0x02 }) }
    InHand s (E s) ∧ (E s).handler = false ∧ ∀ i, i < 32 → (s.core (E s).core).records.get none i ≠ none)
    ∧ (let s := H 0
    InHand s (E s) ∧ (E s).handler = true ∧ (s.core (E s).core).outerWave = none ∧ LowestFree (s.core (E s).core) 1)
    ∧ (let s := (H 0).setCore 0 { (H 0).core 0 with outer := some 2, outerWave := some (handlerWave 136) }
    InHand s (E s) ∧ (E s).handler = true ∧ (s.core (E s).core).outerWave.isSome = true ∧ (s.core (E s).core).outer = some 2)
    ∧ (∀ o ∈ (H 0).ops, o.wave = (E (H 0)).ref → o.engine = true)
    ∧ (let s : State := { H 0 with ops := [{ id := 1, wave := .handler 0, path := 0, pc := 0, flag := none }] }
    InHand s (E s) ∧ LowestFree (s.core (E s).core) 1 ∧ ∃ o ∈ s.ops, o.wave = (E s).ref ∧ o.engine = false)
    ∧ (let s := (H 0).setCore 0 { (H 0).core 0 with records := (upto 32).map fun i => (i, some { code := 0x02 }) }
    InHand s (E s) ∧ (E s).handler = true ∧ (s.core (E s).core).outerWave = none ∧ ∀ i, i < 32 → (s.core (E s).core).records.get none i ≠ none) :=
  ⟨⟨⟨rfl, rfl⟩, rfl, rfl⟩, ⟨⟨rfl, rfl⟩, rfl, by decide⟩, ⟨⟨rfl, rfl⟩, rfl, rfl, by decide, rfl, by decide⟩, ⟨⟨rfl, rfl⟩, rfl, rfl, rfl⟩, (fun o h => by cases h),
    ⟨⟨rfl, rfl⟩, ⟨by decide, rfl, by decide⟩, _, .head _, rfl, rfl⟩, ⟨rfl, rfl⟩, rfl, rfl, by decide⟩

/-- MMA from a wave, RFT from a wave, LCOPY from a wave that is no producer, and IADD on a handler wave that may issue it. -/
theorem test_rights_witness : (Instr.mma false 0 0 (.s 0)).wf = true ∧ encode (.mma false 0 0 (.s 0)) = some 0xB60000C0
    ∧ InHand (S 0xB60000C0 |> fun s => { s with cur := some (.user 1 0 0, 0) }) (E { S 0xB60000C0 with cur := some (.user 1 0 0, 0) })
    ∧ rightsRule (E { S 0xB60000C0 with cur := some (.user 1 0 0, 0) }) 0xB6 = some 0x01
    ∧ rightsRule (E (S 0)) 0x18 = some 0x05 ∧ rightsRule { E (S 0) with producer := false } 0xC0 = some 0x40 ∧ rightsRule (E (C 0)) 0x70 = some 0x01 :=
  ⟨rfl, rfl, ⟨rfl, rfl⟩, by decide, by decide, by decide, by decide⟩

/-- An unassigned word and a word with a reserved field, each inside a clause. -/
theorem test_refused_word_witness : (let s := S 0x1C000000
    InHand s (E s) ∧ ∃ l c, (E s).path.buf = some l ∧ (E s).path.clause = some c ∧ wordIx (E s).pc ≤ c.last ∧ l.kind (wordIx (E s).pc) = 0)
    ∧ (let s := S 0x00000001
    InHand s (E s) ∧ ∃ l c, (E s).path.buf = some l ∧ (E s).path.clause = some c ∧ wordIx (E s).pc ≤ c.last ∧ l.kind (wordIx (E s).pc) = 0) :=
  ⟨⟨⟨rfl, rfl⟩, _, _, rfl, rfl, by decide, by decide⟩, ⟨rfl, rfl⟩, _, _, rfl, rfl, by decide, by decide⟩

/-- TRAP and BRK with lanes and with none. -/
theorem test_trap_witness : (let s := S 0x17000005; Issuing s (E s) 0x17 ∧ 0 ∈ (E s).lanes ∧ (E s).handler = false ∧ (s.core (E s).core).records.get none 0 = none)
    ∧ (let s := S 0x17000005 (activeOnly 0); Issuing s (E s) 0x17 ∧ (E s).lanes = [])
    ∧ (let s := S 0x19000000; Issuing s (E s) 0x19 ∧ 0 ∈ (E s).lanes)
    ∧ (let s := S 0x19000000 (activeOnly 0); Issuing s (E s) 0x19 ∧ (E s).lanes = []) :=
  ⟨⟨⟨rfl, rfl, rfl⟩, by decide, rfl, rfl⟩, ⟨⟨rfl, rfl, rfl⟩, by decide⟩, ⟨⟨rfl, rfl, rfl⟩, by decide⟩, ⟨rfl, rfl, rfl⟩, by decide⟩

/-- The issuing path stands at the header (word 2) of its clause, outside any clause. -/
def atHeader (w : Wave) : Wave := w.setPath 0 { w.path 0 with pc := 136, clause := none }

/-- A header of LEN 0, one of LEN 1, one that waits for flag 0, and a pre-emption point before a LIVE. -/
theorem test_header_witness : (let s := S 0 atHeader
    InHand s (E s) ∧ (E s).handler = false ∧ ∃ l, (E s).path.buf = some l ∧ ¬HeaderLegal l (wordIx (E s).pc) (decodeHeader 0)
      ∧ HeaderLegal l (wordIx (E s).pc) (decodeHeader 0x400000))
    ∧ (let s := S 0x16000005 atHeader
    InHand s (E s) ∧ (∀ g, s.gang? (E s).task (E s).gang = some g → g.chosen = [])
      ∧ ∃ l, (E s).path.buf = some l ∧ HeaderLegal l (wordIx (E s).pc) (decodeHeader 0x8400000))
    ∧ (let s := (S 0x16000005 atHeader).mapGang 1 0 fun g => { g with chosen := [(.ckpt, 0)] }
    InHand s (E s) ∧ (E s).caster = false ∧ ∃ g k, s.gang? (E s).task (E s).gang = some g ∧ s.task? (E s).task = some k
      ∧ ∃ c ∈ g.chosen, k.idempotent = false ∨ c.1 = .ckpt)
    ∧ (let s := S 0 fun w => flagged (atHeader w)
    ∃ j ∈ (E s).pathSlices, ∃ f, f < 12 ∧ (decodeHeader 0x401001).wait.testBit f = true ∧ ((E s).w.slice j).flags.getLsbD f = true) := by
  refine ⟨⟨⟨rfl, rfl⟩, rfl, _, rfl, fun h => absurd h.2.1 (by decide), rfl, by decide, by decide, by decide, by decide, by decide, by decide, fun h => absurd h (by decide)⟩,
    ⟨⟨rfl, rfl⟩, fun g h => by cases h; rfl, _, rfl, rfl, by decide, by decide, by decide, by decide, by decide, by decide, fun _ => ⟨by decide, 5, rfl⟩⟩,
    ⟨⟨rfl, rfl⟩, rfl, _, _, rfl, rfl, _, .head _, .inr rfl⟩, 0, by decide, 0, by decide, by decide, by decide⟩

/-- The handler wave of core 0 issues RFT on record 0, a precise fault of the user wave, with disposition `d`. -/
def faulted (d : Nat) : State :=
  let s := H 0x18000000
  let u : State := s.resumeWave (.user 1 0 0) fun w => w.setPath 0 { w.path 0 with state := .blocked, wait := .fault }
  u.setCore 0 { u.core 0 with records := (u.core 0).records.set none 0 (some { code := 0x12, disposition := d, task := 1, wave := .user 1 0 0, pc := 140 }) }

/-- RFT with every disposition. -/
theorem test_return_witness : ∀ d, d < 8 → let s := faulted d
    ∃ r g w, Issuing s (E s) 0x18 ∧ Serving s (E s).core 0 r ∧ r.imprecise = false ∧ r.exited = false ∧ r.wave = .user 1 0 0 ∧ r.disposition = d
      ∧ s.gang? 1 0 = some g ∧ g.state = .running ∧ g.waves[0]? = some w ∧ w.shaped = true ∧ r.pathIx < 8 ∧ (w.path r.pathIx).wait = .fault
      ∧ (w.path r.pathIx).state = .blocked ∧ (w.path r.pathIx).pc = r.pc ∧ (∀ id, r.path.wait ≠ .op id)
      ∧ ∀ o ∈ g.seq, o.faulted = true → o.pc ≠ r.pc :=
  fun _ _ => ⟨_, _, _, ⟨rfl, rfl, rfl⟩, ⟨rfl, rfl, ⟨rfl, rfl⟩, rfl, rfl, rfl, rfl⟩, rfl, rfl, rfl, rfl, rfl, rfl, rfl, rfl, Nat.zero_lt_succ _, rfl, rfl, rfl,
    (fun _ h => by cases h), (fun _ h => by cases h)⟩

/-- FAULT_DELIVERY with a record in the queue, at the full level and at the basic level. -/
theorem test_delivery_witness : let s := ((S 0).takeFault (.user 1 0 0) 0 { code := 0x12 }).setTask { id := 1, ctx := 0, queue := 0, tag := 0, notify := none, packet := probePacket, limits := {}, cls := 3 }
    (s.core 0).current = none ∧ (s.core 0).queue = [0] ∧ s.handlerEntry = 0 ∧ (∃ r k x, (s.core 0).records.get none 0 = some r ∧ s.task? r.task = some k
      ∧ s.ctx? k.ctx = some x ∧ x.session = none ∧ ¬Flying s r) ∧ ({ s with handlerEntry := 128 } : State).handlerEntry ≠ 0 ∧ (s.core 1).queue = [] :=
  ⟨rfl, rfl, rfl, ⟨_, _, _, rfl, rfl, rfl, rfl, fun h => by obtain ⟨_, o, ho, _⟩ := h; cases ho⟩, by decide, rfl⟩

/-- A precise fault whose path has a write to a CXL window outstanding. -/
theorem test_flying_witness : let s := { (S 0).takeFault (.user 1 0 0) 0 { code := 0x12 } with
      ops := [{ id := 1, wave := .user 1 0 0, path := 0, pc := 0, flag := none, cxl := [{ port := 0, lane := 0, va := 0x10000, off := 0, bytes := 4 }] }] }
    ∃ i r, (s.core 0).current = none ∧ (s.core 0).queue = [i] ∧ (s.core 0).records.get none i = some r ∧ Flying s r :=
  ⟨0, _, rfl, rfl, rfl, rfl, _, .head _, rfl, rfl, rfl, .inl (by decide), 0, by decide, by decide, rfl⟩

/-- An imprecise fault of the user wave's path, which stands at an instruction boundary. -/
theorem test_imprecise_witness : let m : Imprecise := { wave := .user 1 0 0, path := 0, code := 0x10, addr := 7, pc := 140, ladle := false }
    let s := { S 0 with imprecise := [m] }
    s.imprecise.find? (fun x => x.wave == .user 1 0 0 && x.path == m.path) = some m ∧ (∃ g w, s.gang? 1 0 = some g ∧ g.state = .running
      ∧ g.waves[0]? = some w ∧ w.shaped = true ∧ w.finished = false ∧ (w.path 0).state = .run ∧ (w.path 0).wait = .none)
      ∧ (∀ k, s.task? 1 = some k → k.status = 0) ∧ LowestFree (s.core (s.coreOf m.wave)) 0 :=
  ⟨rfl, ⟨_, _, rfl, rfl, rfl, rfl, rfl, rfl, rfl⟩, fun _ h => by cases h; rfl, by decide, rfl, by decide⟩

/-- A stream that an error can strike, and a lone path that has waited longer than HANG_LIMIT. -/
theorem test_watchdog_witness : (∃ e, (S 0).env? (.user 1 0 0) 0 = some e ∧ 1 < 16 * e.blocks)
    ∧ (let s := { S 0x0C000502 (fun w => w.setPath 0 { w.path 0 with state := .blocked, wait := .waitm }) with now := 2000000001 }
    s.hangLimit ≠ 0 ∧ (s.allPaths.filter fun y => !(refCaster y.1) && (s.pathAt y).state == .blocked && (s.pathAt y).wait.watched
        && decide ((s.pathAt y).waitSince + 1000000 * s.hangLimit < s.now)) = [(.user 1 0 0, 0)])
    ∧ ({ S 0 with hangLimit := 0 } : State).hangLimit = 0 :=
  ⟨⟨_, rfl, by decide⟩, ⟨by decide, by decide⟩, rfl⟩

/-! ### Tiles, the crucible, ingots -/

/-- A change of the probe's gang. -/
def gangOf (f : Gang → Gang) (s : State) : State := s.mapGang 1 0 f

/-- A scalar source that holds a known value in the lowest slice. -/
theorem scalar_in {e : Env} {r n v : Nat} {ls : List Word} (h : e.src (.s r) n ls = .ok (.sca r, ls)) (h2 : e.read n (4 * e.low) (.sca r) = (v, false)) :
    ScalarIn e (.s r) n ls ls v := ⟨.sca r, h, rfl, h2⟩

/-- Bytes of a page that is not strongly ordered. -/
theorem own_bytes {s : State} {e : Env} {acc : Access} {va n off : Nat} {formed : Bool} (sp : Span) (h1 : s.span e.who acc va n = .ok sp)
    (h2 : sp.parts = [(.mem off, n)]) (h3 : off < 2 ^ 40) (h4 : formed = true → sp.formed = true)
    (h5 : s.sideEffect e.who e.task (s.insidePass e) sp = false) (h6 : sp.so = false := by rfl) : OwnBytes s e acc va n off formed :=
  ⟨sp, h1, h2, h3, h4, fun h => absurd h (by simp [h6]), fun _ => h5⟩

/-- TCFG with 8 rows of 64 elements and with a reserved bit; TZERO; TLD and TST of one row at 0x10000; TWR and TRD of a zero line. -/
theorem test_tile_witness : (let s := S 0xB003C800 (scalar 8 0x00080020)
    ∃ g x, MyTile s (E s) 3 g x ∧ Issuing s (E s) 0xB0 ∧ (E s).off = false ∧ ScalarIn (E s) (.s 8) 1 (E s).lits (E s).lits 0x00080020
      ∧ 1 ≤ 0x00080020 / 2 ^ 16 % 128 ∧ 0x00080020 % 128 ≤ classCount (0x00080020 / 2 ^ 30))
    ∧ (let s := S 0xB003C800 (scalar 8 0x00880020)
    Issuing s (E s) 0xB0 ∧ ScalarIn (E s) (.s 8) 1 (E s).lits (E s).lits 0x00880020 ∧ 0x00880020 / 2 ^ 23 % 128 ≠ 0)
    ∧ Issuing (S 0xB5030000) (E (S 0xB5030000)) 0xB5
    ∧ (let s := gangOf (fun g => { g with tiles := setNth g.tiles 3 { ctl := 0x00010020 } }) (mapped 0x40 (S 0xB103C8CA (pairAt 0x10000)))
    ∃ g x, MyTile s (E s) 3 g x ∧ Issuing s (E s) 0xB1 ∧ Fresh (E s) ∧ (E s).flagFor false = none ∧ ScalarIn (E s) (.s 8) 2 (E s).lits (E s).lits 0x10000
      ∧ ScalarIn (E s) (.s 10) 1 (E s).lits (E s).lits 0 ∧ (g.moulds.get {} 3).state = .free ∧ ctlRows x = 1 ∧ rowAt 0x10000 0 0 = 0x10000
      ∧ OwnBytes (rowsHeld s (E s) x 0x10000 0) (E s) .load 0x10000 64 0x10000 true ∧ checkLine (s.readLocal 0x10000 64) = none ∧ byteAt (s.readLocal 0x10000 64) 0 = 0)
    ∧ (let s := gangOf (fun g => { g with tiles := setNth g.tiles 3 { ctl := 0x00010020 } }) (mapped 0x40 (S 0xB203C8CA (pairAt 0x10000)))
    ∃ g x, MyTile s (E s) 3 g x ∧ Issuing s (E s) 0xB2 ∧ Fresh (E s) ∧ (E s).flagFor false = none ∧ s.cut = false ∧ s.writeHeld (E s) = false ∧ ctlRows x = 1
      ∧ OwnBytes (rowsHeld s (E s) x 0x10000 0) (E s) .store 0x10000 64 0x10000 true)
    ∧ (let s := S 0xB303047E
    ∃ g x, MyTile s (E s) 3 g x ∧ Issuing s (E s) 0xB3 ∧ (E s).lanes ≠ [] ∧ (E s).imagePoison 4 true = .ok () ∧ Admits x ((E s).image 4 true))
    ∧ Issuing (S 0xB404037E) (E (S 0xB404037E)) 0xB4 ∧ 4 < 16 * (E (S 0xB404037E)).blocks :=
  ⟨⟨_, _, ⟨rfl, rfl⟩, ⟨rfl, rfl, rfl⟩, rfl, scalar_in rfl rfl, by decide, by decide⟩, ⟨⟨rfl, rfl, rfl⟩, scalar_in rfl rfl, by decide⟩, ⟨rfl, rfl, rfl⟩,
    ⟨_, _, ⟨rfl, rfl⟩, ⟨rfl, rfl, rfl⟩, unwaiting rfl, rfl, scalar_in rfl rfl, scalar_in rfl rfl, rfl, rfl, by decide,
      own_bytes { va := 0x10000, parts := [(.mem 0x10000, 64)], formed := true } rfl rfl (by decide) (fun _ => rfl) rfl, by decide +kernel, by decide +kernel⟩,
    ⟨_, _, ⟨rfl, rfl⟩, ⟨rfl, rfl, rfl⟩, unwaiting rfl, rfl, rfl, by decide, rfl,
      own_bytes { va := 0x10000, parts := [(.mem 0x10000, 64)], formed := true } rfl rfl (by decide) (fun _ => rfl) rfl⟩,
    ⟨_, _, ⟨rfl, rfl⟩, ⟨rfl, rfl, rfl⟩, by decide, rfl, by decide +kernel, .inl (by decide +kernel)⟩, ⟨rfl, rfl, rfl⟩, by decide⟩

/-- A change of the probe's context. -/
def ctxOf (f : Context → Context) (s : State) : State := s.mapCtx 0 f

/-- Ingot 5 of the context, of one plane of class 1 on cluster 0's crucible 0, in state `x`. -/
def ingotIn (x : IngotState) : State → State :=
  ctxOf fun c => { c with ingots := c.ingots.set {} 5 { state := x, wc := 1, planes := 1, place := some (0, 0, 0) }, quotaCluster := 1024, quotaPackage := 1024 }

/-- The handle of ingot 5: GEN 1. -/
def handle5 : Word := 0x10005

/-- MMA of a RESIDENT ingot, MMAT, ACLR with and without a queued operation of its bank, ARD. -/
theorem test_matrix_witness : (let s := gangOf (fun g => { g with tiles := setNth g.tiles 2 { ctl := 0x40010020 } }) (ingotIn .resident (S 0xB60102C8 (scalar 8 handle5)))
    ∃ g b a, MyBank s (E s) 1 g b ∧ Issuing s (E s) 0xB6 ∧ Fresh (E s) ∧ (E s).off = false ∧ (E s).flagFor false = none
      ∧ (E s).read 2 (4 * (E s).low) (.sca 8) = (0x10005, false) ∧ Handle s (E s).ctx 0x10005 5 ∧ g.tiles[2]? = some a ∧ 0 + 1 ≤ (s.ingot (E s).ctx 5).planes
      ∧ (s.ingot (E s).ctx 5).wc = ctlClass a ∧ (s.ingot (E s).ctx 5).state = .resident ∧ (s.ingot (E s).ctx 5).place.map (·.1) = some (E s).cluster
      ∧ CrucibleFree g 1 ∧ s.quiet (E s) 4 = true)
    ∧ (let s := S 0xB7010204
    ∃ g b a b0 b1, MyBank s (E s) 1 g b ∧ Issuing s (E s) 0xB7 ∧ Fresh (E s) ∧ g.tiles[2]? = some a ∧ g.tiles[4]? = some b0 ∧ g.tiles[5]? = some b1
      ∧ ctlClass a = ctlClass b0 ∧ ctlClass a = ctlClass b1 ∧ s.planeTaken (E s) (g.crucible 1) 0 = false)
    ∧ (let s := S 0xB9010000
    ∃ g b, MyBank s (E s) 1 g b ∧ Issuing s (E s) 0xB9 ∧ (E s).off = false ∧ ∀ o ∈ g.seq, o.bank ≠ 1)
    ∧ (let s := gangOf (fun g => { g with seq := [{ kind := 0, last := false, bank := 1, tile := 2, count := 1, off := 0, handle := handle5, u := 0, btile := 0, pc := 0, number := 1, opId := 1 }] }) (S 0xB9010000)
    ∃ g b, MyBank s (E s) 1 g b ∧ Issuing s (E s) 0xB9 ∧ Shaped (E s) ∧ ∃ o ∈ g.seq, o.bank = 1)
    ∧ (let s := S 0xB80401F1 (inMode modeF32)
    ∃ g b, MyBank s (E s) 0 g b ∧ Issuing s (E s) 0xB8 ∧ (E s).types (fun t => t == .f32) = .ok 1 ∧ (E s).src .lane 1 (E s).lits = .ok (.lane, [])
      ∧ Clean (E s) (E s).lanes [(.lane, 1)] ∧ ∀ L ∈ (E s).lanes, ((E s).read 1 L .lane).1 < 64)
    ∧ (let s := S 0xB80401C3 (inMode modeF32)
    Issuing s (E s) 0xB8 ∧ (E s).types (fun t => t == .f32) = .ok 1 ∧ 4 < 16 * (E s).blocks) :=
  ⟨⟨_, _, _, ⟨rfl, rfl⟩, ⟨rfl, rfl, rfl⟩, unwaiting rfl, rfl, rfl, rfl, ⟨by decide, by decide, by decide, by decide, by decide⟩, rfl, by decide, by decide, rfl, rfl, (fun o h => by cases h), rfl⟩,
    ⟨_, _, _, _, _, ⟨rfl, rfl⟩, ⟨rfl, rfl, rfl⟩, unwaiting rfl, rfl, rfl, rfl, rfl, rfl, rfl⟩, ⟨_, _, ⟨rfl, rfl⟩, ⟨rfl, rfl, rfl⟩, rfl, fun o h => by cases h⟩,
    ⟨_, _, ⟨rfl, rfl⟩, ⟨rfl, rfl, rfl⟩, ⟨rfl, by decide, .inl rfl⟩, _, .head _, rfl⟩, ⟨_, _, ⟨rfl, rfl⟩, ⟨rfl, rfl, rfl⟩, rfl, rfl, by unfold Clean; decide, by decide⟩,
    ⟨rfl, rfl, rfl⟩, rfl, by decide⟩

/-- The probe's task asks for planes: a reservation of 8 on its cluster. -/
def reserving (s : State) : State := { s with tasks := s.tasks.map fun k => { k with packet := setNth k.packet 0x60 8 } }

/-- The caster thread issues IGALLOC s4, s8 for `req` under these quotas. -/
def allocating (req quota package : Nat) : State :=
  ctxOf (fun c => { c with quotaCluster := quota, quotaPackage := package }) (reserving (S 0xBAC4C800 (scalar 8 (BitVec.ofNat 32 req))))

/-- IGALLOC: a reserved request, no room in the reservation, a cluster quota and a package quota too small, and one that is granted. -/
theorem test_ingot_alloc_witness : (let s := allocating 0x10401 8 8
    ∃ c, s.ctx? (E s).ctx = some c ∧ (E s).off = false ∧ Issuing s (E s) 0xBA ∧ (E s).stDst (.s 4) 2 true = .ok (.sca 4)
      ∧ ScalarIn (E s) (.s 8) 1 (E s).lits (E s).lits 0x10401 ∧ 0x10401 / 2 ^ 10 % 64 ≠ 0)
    ∧ (let s := allocating 9 16 16; Issuing s (E s) 0xBA ∧ s.room (E s).task (E s).cluster < 9)
    ∧ (let s := allocating 4 2 16; Issuing s (E s) 0xBA ∧ 4 ≤ s.room (E s).task (E s).cluster ∧ 2 < s.planesOf (E s).ctx (· == (E s).cluster) + 4)
    ∧ (let s := allocating 4 8 2; Issuing s (E s) 0xBA ∧ s.planesOf (E s).ctx (· == (E s).cluster) + 4 ≤ 8 ∧ 2 < s.planesOf (E s).ctx (fun _ => true) + 4)
    ∧ (let s := allocating 4 8 8; Issuing s (E s) 0xBA ∧ 4 ≤ s.room (E s).task (E s).cluster ∧ s.freeRun (E s).cluster 0 4 = some 0
      ∧ (s.ingot (E s).ctx 0).state = .free) :=
  ⟨⟨_, rfl, rfl, ⟨rfl, rfl, rfl⟩, rfl, scalar_in rfl rfl, by decide⟩, ⟨⟨rfl, rfl, rfl⟩, by decide⟩, ⟨⟨rfl, rfl, rfl⟩, by decide, by decide⟩,
    ⟨⟨rfl, rfl, rfl⟩, by decide, by decide⟩, ⟨rfl, rfl, rfl⟩, by decide, by decide, by decide⟩

/-- The caster thread issues IGLOAD s4, s8, s12 of `n` bytes from 0x10000 for ingot 5. -/
def loading (x : IngotState) (n : Nat) : State :=
  ingotIn x (mapped 0x40 (S 0xBBC4C8CC fun w => scalar 14 (BitVec.ofNat 32 n) (scalar 12 0x10000 (scalar 8 handle5 w))))

/-- IGLOAD of ingot 5 from 0x10000, while it loads, with a wrong length and with its planes' length. -/
theorem test_ingot_load_witness : (let s := loading .loading 8192
    Issuing s (E s) 0xBB ∧ Fresh (E s) ∧ (E s).stDst (.s 4) 1 true = .ok (.sca 4) ∧ (E s).read 1 (4 * (E s).low) (.sca 8) = (0x10005, false)
      ∧ (E s).read 4 (4 * (E s).low) (.sca 12) = (0x10000 + 8192 * 2 ^ 64 + 0 * 2 ^ 96, false) ∧ Handle s (E s).ctx 0x10005 5 ∧ s.quiet (E s) 4 = true
      ∧ (s.ingot (E s).ctx 5).state = .loading)
    ∧ (let s := loading .cold 64; (s.ingot (E s).ctx 5).state ≠ .loading ∧ 64 ≠ 64 * 128 * (s.ingot (E s).ctx 5).planes)
    ∧ (let s := loading .cold 8192
    Issuing s (E s) 0xBB ∧ (s.ingot (E s).ctx 5).place.map (·.1) = some (E s).cluster ∧ (E s).flagFor false = none ∧ (∃ g, s.gang? (E s).task (E s).gang = some g)
      ∧ ((s.unwatch (E s).ctx 5).watch ((E s).ctx, 5) (s.watchedBy (E s).who 0x10000 8192)).isSome = true) :=
  ⟨⟨⟨rfl, rfl, rfl⟩, unwaiting rfl, rfl, rfl, rfl, ⟨by decide, by decide, by decide, by decide, by decide⟩, rfl, by decide⟩, ⟨by decide, by decide⟩,
    ⟨rfl, rfl, rfl⟩, by decide, rfl, ⟨_, rfl⟩, by decide⟩

/-- The caster thread issues `w` with a handle in s8 that is live, and with one that is dead. -/
def live (w : Nat) : State := ingotIn .cold (S w (scalar 8 handle5))
def dead (w : Nat) : State := S w (scalar 8 handle5)

/-- IGPIN, IGUNPIN, IGREVOKE and IGSTAT of a live and of a dead handle. -/
theorem test_ingot_state_witness : Handle (live 0xBC00C800) 0 0x10005 5 ∧ (E (live 0xBC00C800)).read 1 (4 * (E (live 0xBC00C800)).low) (.sca 8) = (0x10005, false)
    ∧ (∀ w ∈ [0xBC00C800, 0xBD00C800, 0xBE00C800, 0xBFC4C800], (live w).cur = some ((E (live w)).ref, (E (live w)).p) ∧ (E (live w)).refuse (w / 2 ^ 24) = none
      ∧ (E (dead w)).refuse (w / 2 ^ 24) = none)
    ∧ ((live 0xBE00C800).ingot 0 5).load = none ∧ (E (live 0xBFC4C800)).stDst (.s 4) 1 true = .ok (.sca 4) ∧ Dead (dead 0xBC00C800) 0 0x10005 :=
  ⟨⟨by decide, by decide, by decide, by decide, by decide⟩, rfl, by decide, by decide, rfl, fun i h => h.2.2.2.1 rfl⟩

/-- A line of 48 ones, for tile rows and plane lines of class 1. -/
def onesLine : Bytes := (buildLine { rm := 0, dr := 0, sat := false, dn := false } 3 127 (List.replicate 48 (.fin false 1 0))).1

/-- A caster's gang whose sequencer holds an MMA of a RESIDENT ingot that has passed its check, its one step queued. -/
def castingOp : SeqOp :=
  { kind := 0, last := true, bank := 1, tile := 2, count := 1, off := 0, handle := handle5, u := 0, btile := 0, pc := 0, number := 1, opId := 7, checked := true
    queued := 1, blocks := 1, ingot := 5 }
def casting (s : State) : State :=
  (gangOf (fun g => { g with tiles := setNth g.tiles 2 { ctl := 0x40010020, bitmap := 0, rows := putBytes [] 0 onesLine }, seq := [castingOp], bankPhys := upto 8 }) s).mapCluster 0
    fun c => { c with crucibles := [{ queue := [{ task := 1, gang := 0, opId := 7, step := 0 }] }, {}] }

/-- STEP_TOKEN of a queued step; CRUCIBLE_STOP of a halted gang and of one that goes on; the end of a load; INGOT_RELOAD. -/
theorem test_crucible_witness : (let s := casting (ctxOf (fun c => { c with ingots := c.ingots.set {} 5 { state := .resident, wc := 1, planes := 1, place := some (0, 0, 0), data := putBytes [] 0 onesLine } }) (S 0))
    ∃ d g o b k, Heads s 0 0 d g o ∧ d.skip = false ∧ s.task? g.task = some k ∧ 1 ≤ o.blocks ∧ g.banks[o.bank]? = some b ∧ o.blocks * o.count ≤ d.step + 1
      ∧ (s.crucible 0 0).queue.length ≤ 4)
    ∧ (let s := gangOf (fun g => { g with halted := true }) (casting (S 0)); ∃ x, s.gang? 1 0 = some x ∧ x.halted = true)
    ∧ (let s := casting (S 0); ∃ x, s.gang? 1 0 = some x ∧ x.state = .running ∧ x.kill = none ∧ x.halted = false ∧ (x.caster.path 0).state ≠ .halted ∧ x.chosen = [] ∧ x.saved = none)
    ∧ (let s := ctxOf (fun c => { c with ingots := c.ingots.set {} 5 { state := .loading, wc := 1, planes := 1, place := some (0, 0, 0), src := some (0x10000, 8192, false), load := some (1, 0, 0, 0, 0) } }) (mapped 0x40 (S 0))
    (s.ingot 0 5).load = some (1, 0, 0, 0, 0) ∧ (s.ctx? 0).isSome = true ∧ s.ingotBusy 0 5 = false)
    ∧ (let s := gangOf (fun g => { g with reload := [(5, false)] }) (ctxOf (fun c => { c with ingots := c.ingots.set {} 5 { state := .cold, wc := 1, planes := 1, place := some (0, 0, 0), src := some (0x10000, 8192, false) } }) (S 0))
    ∃ x k, s.gang? 1 0 = some x ∧ s.task? 1 = some k ∧ x.reload.find? (fun r => !r.2) = some (5, false) ∧ x.steps = true ∧ (s.ingot k.ctx 5).state = .cold
      ∧ (s.ingot k.ctx 5).src.isSome = true ∧ (s.ingot k.ctx 5).place.map (·.1) = some x.cluster ∧ (s.ctx? k.ctx).isSome = true) := by
  refine ⟨⟨_, _, castingOp, _, _, ⟨⟨_, rfl⟩, ⟨rfl, rfl, rfl⟩, ⟨rfl, rfl⟩, ⟨rfl, rfl, by decide, by decide⟩, ?_, ?_⟩, rfl, rfl, by decide, rfl, by decide, by decide⟩,
    ⟨_, rfl, rfl⟩, ⟨_, rfl, rfl, rfl, rfl, by decide, rfl, rfl⟩, ⟨by decide, rfl, by decide⟩, _, _, rfl, rfl, rfl, rfl, by decide, by decide, by decide, rfl⟩
  · intro q hq _
    cases hq with
    | head => rfl
    | tail _ h => cases h
  · decide

/-- A descriptor in s8 to s15: destination 0x10000, source 0x10040, 64 bytes. -/
def copyDesc (w : Wave) : Wave := scalar 14 64 (scalar 10 0x10040 (scalar 8 0x10000 w))

/-- LCOPY s4 by the descriptor in s8, with neither a mould nor a slot. -/
theorem test_ladle_issue_witness : let s := S 0xC0C4C800 copyDesc
    let w := fun j => ((E s).w.getS (8 + j) (E s).low).bits.toNat
    ladleEntry (.lcopy (.s 4) (.s 8) false false false 0) = some (0xC0, .copy, .s 4, .s 8, false, false, false, 0)
    ∧ ∃ g, Issuing s (E s) 0xC0 ∧ Shaped (E s) ∧ Fresh (E s) ∧ s.gang? (E s).task (E s).gang = some g ∧ (E s).group < g.ladle.length ∧ (E s).flagFor false = none
      ∧ (E s).dst (.s 4) 2 = .ok (.sca 4) ∧ (∀ j, j < 8 → ((E s).w.getS (8 + j) (E s).low).poison = false)
      ∧ (∀ i, i < 8 → readsWord .copy false false i = false → w i = 0) ∧ w 6 = 64 ∧ descAligned .copy false ((List.range 8).map w) none = true
      ∧ (nth ({} : LadleQueue) g.ladle (E s).group).ops.length < 32 :=
  ⟨rfl, _, ⟨rfl, rfl, rfl⟩, ⟨rfl, by decide, .inl rfl⟩, unwaiting rfl, rfl, by decide, rfl, rfl, by decide, by decide, by decide, by decide, by decide⟩

/-- A fill of 64 bytes at 0x10000 in the ladle queue of group 0. -/
def fillOp (begun : Bool) : LadleOp :=
  { n := 1, kind := .fill, desc := [0x10000, 0, 0xAABBCCDD, 0, 0, 0, 64, 0], x := false, slot := none, mould := none, pc := 140, wave := .user 1 0 0, path := 0, inPass := false, opId := 9, begun := begun }
def filling (begun : Bool) : State := gangOf (fun g => { g with ladle := [{ tl := { taken := 1 }, ops := [fillOp begun] }] }) (mapped 0 (S 0))

/-- A shape record of rank 1 with one-byte elements. -/
def shapeBytes : Bytes := leBytes 4 0x52444854 ++ [0xFF, 1, 0, 1] ++ List.replicate 56 0

/-- LADLE_OP_BEGIN, LADLE_OP_PERFORMED of a fill, SHLD of a legal record and SHEV. -/
theorem test_ladle_operation_witness : (let s := filling false
    ∃ g o, s.gang? 1 0 = some g ∧ s.gang? g.task g.index = some g ∧ 0 < g.ladle.length ∧ (nth ({} : LadleQueue) g.ladle 0).ops = [o] ∧ o.begun = false
      ∧ (nth ({} : LadleQueue) g.ladle 0).stopped = none ∧ ∀ p ∈ s.ops, p.wave ≠ o.wave ∨ p.engine = true)
    ∧ (let s := filling true
    ∃ g o k sp, s.gang? 1 0 = some g ∧ s.gang? g.task g.index = some g ∧ s.task? g.task = some k ∧ nth ({} : LadleQueue) g.ladle 0 = { ops := [o], tl := (nth ({} : LadleQueue) g.ladle 0).tl, stopped := none }
      ∧ o.begun = true ∧ o.kind = .fill ∧ o.x = false ∧ o.pos = 0 ∧ o.mould = none ∧ nth 0 o.desc 6 = 64 ∧ pairOf o.desc 0 = 0x10000 ∧ s.op? o.opId = none
      ∧ s.span (o.who k.ctx g.cluster) .store 0x10000 64 = .ok sp ∧ sp.parts = [(.mem 0x10000, 64)] ∧ sp.formed = false
      ∧ s.sideEffect (o.who k.ctx g.cluster) ((refGang o.wave).map (·.1) |>.getD 0) o.inPass sp = false ∧ s.ladleTurn g.cluster (4 * g.thread + 0) = true)
    ∧ (let s := gangOf (fun g => { g with ladle := g.ladle ++ g.ladle }) (filling true)
    ∃ g o, s.gang? 1 0 = some g ∧ nth ({} : LadleQueue) g.ladle 1 = { ops := [o], tl := (nth ({} : LadleQueue) g.ladle 1).tl, stopped := none } ∧ o.begun = true
      ∧ o.kind = .fill ∧ s.ladleTurn g.cluster (4 * g.thread + 1) = false)
    ∧ (let s := { mapped 0 (S 0xC400C803 (pairAt 0x10000)) with mem := putBytes (mapped 0 (S 0xC400C803)).mem 0x10000 shapeBytes }
    ∃ g, s.gang? (E s).task (E s).gang = some g ∧ (shapeSlot s (E s) 3).owner = none ∧ Issuing s (E s) 0xC4 ∧ ScalarIn (E s) (.s 8) 2 (E s).lits (E s).lits 0x10000
      ∧ OwnBytes s (E s) .load 0x10000 64 0x10000 false ∧ shapeLegal (s.readLocal 0x10000 64) = true)
    ∧ Issuing (S 0xCF000003) (E (S 0xCF000003)) 0xCF :=
  ⟨⟨_, fillOp false, rfl, rfl, by decide, rfl, rfl, rfl, fun p h => by cases h⟩,
    ⟨_, fillOp true, _, { va := 0x10000, parts := [(.mem 0x10000, 64)] }, rfl, rfl, rfl, rfl, rfl, rfl, rfl, rfl, rfl, rfl, by decide, by decide, rfl, rfl, rfl, rfl, by decide⟩,
    ⟨_, fillOp true, rfl, rfl, rfl, rfl, by decide⟩,
    ⟨_, rfl, by decide, ⟨rfl, rfl, rfl⟩, scalar_in rfl rfl, own_bytes { va := 0x10000, parts := [(.mem 0x10000, 64)] } rfl rfl (by decide) (fun h => by cases h) rfl,
      by decide +kernel⟩, ⟨rfl, rfl, rfl⟩⟩

/-- MSET of a FREE mould to FILLING, and to FULL from FULL; MSTAT; TLSIG of a timeline that is not fenced and of one that is; TLRD. -/
theorem test_mould_witness : (let s := S 0xC5C10501
    Issuing s (E s) 0xC5 ∧ (E s).off = false ∧ (E s).stDst (.s 1) 1 true = .ok (.sca 1) ∧ s.mouldExists (E s) 5 = true ∧ s.foreign (E s) 5 = false
      ∧ s.quiet (E s) 4 = true ∧ (s.mould (E s) 5).owned = true ∧ (s.mould (E s) 5).state = .free)
    ∧ Issuing (S 0xC6C10500) (E (S 0xC6C10500)) 0xC6
    ∧ (let s := S 0xC7C4C800
    ∃ c, Issuing s (E s) 0xC7 ∧ Fresh (E s) ∧ (E s).stDst (.s 4) 2 true = .ok (.sca 4) ∧ ScalarIn (E s) (.s 8) 1 (E s).lits (E s).lits 0
      ∧ s.tlRef (E s) 0 = some (.soft 0) ∧ s.insidePass (E s) = false ∧ s.quiet (E s) (max 4 (E s).scope) = true ∧ s.ctx? (E s).ctx = some c
      ∧ 0 < c.timelines.length ∧ (nth ({} : Timeline) c.timelines 0).fenced = false ∧ (nth ({} : Timeline) c.timelines 0).performed = []
      ∧ (nth ({} : Timeline) c.timelines 0).reached = (nth ({} : Timeline) c.timelines 0).taken)
    ∧ (let s := ctxOf (fun c => { c with timelines := List.replicate 16 { fenced := true } }) (S 0xC7C4C800)
    ∃ c, s.ctx? (E s).ctx = some c ∧ (nth ({} : Timeline) c.timelines 0).fenced = true)
    ∧ (let s := S 0xC8C4C800
    Issuing s (E s) 0xC8 ∧ (E s).stDst (.s 4) 2 false = .ok (.sca 4) ∧ ScalarIn (E s) (.s 8) 1 (E s).lits (E s).lits 0) :=
  ⟨⟨⟨rfl, rfl, rfl⟩, rfl, rfl, by decide, by decide, rfl, by decide, by decide⟩, ⟨rfl, rfl, rfl⟩,
    ⟨_, ⟨rfl, rfl, rfl⟩, unwaiting rfl, rfl, scalar_in rfl rfl, by decide, by decide, rfl, rfl, by decide, rfl, rfl, rfl⟩, ⟨_, rfl, rfl⟩, ⟨rfl, rfl, rfl⟩, rfl, scalar_in rfl rfl⟩

/-- A gang of two waves, of which wave 0 issues. -/
def twoWaves (s : State) : State :=
  gangOf (fun g => { g with waves := g.waves ++ g.waves }) { s with tasks := s.tasks.map fun k => { k with packet := setNth k.packet 0x15 2 } }

/-- Barrier 3 of 1 party completes with its wave and of 2 parties does not; an abandoned barrier; BARW with and without a pending arrival. -/
theorem test_barrier_witness : (let s := S 0xC9030100
    ∃ g, MayArrive s (E s) g 3 1 true ∧ Issuing s (E s) 0xC9 ∧ (E s).path.barrier = none ∧ s.quiet (E s) (E s).scope = true)
    ∧ (let s := S 0xCA030100
    ∃ g, MayArrive s (E s) g 3 1 true ∧ Issuing s (E s) 0xCA)
    ∧ (let s := S 0xCA030100 (twoPaths .run 200)
    ∃ g, MayArrive s (E s) g 3 1 false ∧ Issuing s (E s) 0xCA)
    ∧ (let s := gangOf (fun g => { g with barriers := setNth g.barriers 3 { abandoned := true } }) (S 0xCBC40300)
    ∃ g, s.gang? (E s).task (E s).gang = some g ∧ (nth ({} : Barrier) g.barriers 3).abandoned = true ∧ Issuing s (E s) 0xCB ∧ (E s).stDst (.s 4) 1 true = .ok (.sca 4))
    ∧ (let s := S 0xCBC40300
    ∃ g, s.gang? (E s).task (E s).gang = some g ∧ g.barriers.length = 16 ∧ (nth ({} : Barrier) g.barriers 3).abandoned = false
      ∧ g.arriving (nth {} g.barriers 3) = [] ∧ Issuing s (E s) 0xCB ∧ ¬Arrived g (nth {} g.barriers 3) (refWave (E s).ref))
    ∧ (let s := gangOf (fun g => { g with barriers := setNth g.barriers 3 { party := some 1, arrivals := [(0, 0xFF)], arrived := [0] } }) (S 0xCBC40300)
    ∃ g, s.gang? (E s).task (E s).gang = some g ∧ g.arriving (nth {} g.barriers 3) = [] ∧ Arrived g (nth {} g.barriers 3) (refWave (E s).ref) ∧ Shaped (E s)) := by
  refine ⟨⟨_, ⟨rfl, by decide, by decide, rfl, (fun m h => by cases h), by decide, by decide, by decide, by decide⟩, ⟨rfl, rfl, rfl⟩, rfl, rfl⟩,
    ⟨_, ⟨rfl, by decide, by decide, rfl, (fun m h => by cases h), by decide, by decide, by decide, by decide⟩, ⟨rfl, rfl, rfl⟩⟩,
    ⟨_, ⟨rfl, by decide, by decide, rfl, (fun m h => by cases h), by decide, by decide, by decide, by decide⟩, ⟨rfl, rfl, rfl⟩⟩,
    ⟨_, rfl, rfl, ⟨rfl, rfl, rfl⟩, rfl⟩, ⟨_, rfl, rfl, rfl, by decide, ⟨rfl, rfl, rfl⟩, by unfold Arrived; decide⟩,
    ⟨_, rfl, by decide, by unfold Arrived; decide, ⟨rfl, by decide, .inl rfl⟩⟩⟩

/-- Barrier 3 is abandoned, with the arrivals `l`, and the issuing path waits in BAR 3 where `waits`. -/
def abandonedAt (op : Nat) (l : List (Nat × BitVec 8)) (waits : Bool) : State :=
  gangOf (fun g => { g with barriers := setNth g.barriers 3 { abandoned := true, arrivals := l } })
    (S op fun w => w.setPath 0 { w.path 0 with barrier := if waits then some 3 else none })

/-- BAR and BARA at an abandoned barrier; a waiting BAR whose round has completed before and one whose round has not; BARW there. -/
theorem test_abandoned_witness : (let s := abandonedAt 0xC9030100 [] false
    ∃ g, s.gang? (E s).task (E s).gang = some g ∧ (nth ({} : Barrier) g.barriers 3).abandoned = true ∧ 1 ≤ g.waves.length ∧ (E s).path.barrier = none
      ∧ Issuing s (E s) 0xC9)
    ∧ Issuing (abandonedAt 0xCA030100 [] false) (E (abandonedAt 0xCA030100 [] false)) 0xCA
    ∧ (let s := abandonedAt 0xC9030100 [] true
    ∃ g, s.gang? (E s).task (E s).gang = some g ∧ Issuing s (E s) 0xC9 ∧ Shaped (E s) ∧ (E s).path.barrier = some 3
      ∧ ∀ j ∈ (E s).pathSlices, ((nth ({} : Barrier) g.barriers 3).arrivals.get 0 (refWave (E s).ref)).getLsbD j = false)
    ∧ (let s := abandonedAt 0xC9030100 [(0, 0xFF)] true
    ∃ g, s.gang? (E s).task (E s).gang = some g ∧ (E s).path.barrier = some 3
      ∧ ∃ j ∈ (E s).pathSlices, ((nth ({} : Barrier) g.barriers 3).arrivals.get 0 (refWave (E s).ref)).getLsbD j = true)
    ∧ (let s := abandonedAt 0xCBC40300 [(0, 0xFF)] false
    ∃ g, s.gang? (E s).task (E s).gang = some g ∧ Issuing s (E s) 0xCB ∧ Arrived g (nth ({} : Barrier) g.barriers 3) (refWave (E s).ref)) :=
  ⟨⟨_, rfl, rfl, by decide, rfl, ⟨rfl, rfl, rfl⟩⟩, ⟨rfl, rfl, rfl⟩, ⟨_, rfl, ⟨rfl, rfl, rfl⟩, ⟨rfl, by decide, .inl rfl⟩, rfl, by decide⟩,
    ⟨_, rfl, rfl, by decide⟩, _, rfl, ⟨rfl, rfl, rfl⟩, by unfold Arrived; decide⟩

/-! ### Launches, graphs, mailboxes -/

/-- A ready device whose queue 2 is bound to context 0. -/
def bound (s : State) : State := { s with start := { s.start with ready := true } }.setQueue 2 { s.queue 2 with bound := some 0, cls := 1 }

/-- Bytes `l` stand at offset `a` of memory. -/
def bytesAt (a : Nat) (l : Bytes) (s : State) : State := { s with mem := putBytes s.mem a l }

/-- LAUNCH s4, s8, s10 of the packet at 0x10000 to queue `q`. -/
def launching (q : Nat) (packet : Bytes) : State := bound (bytesAt 0x10000 packet (mapped 0 (S 0xCCC4C8CA fun w => scalar 10 (BitVec.ofNat 32 q) (pairAt 0x10000 w))))

/-- LAUNCH: accepted, and refused because the packet is not legal, the queue is not the context's, or the device is not ready. -/
theorem test_launch_witness : (let s := launching 2 probePacket
    ∃ c, Issuing s (E s) 0xCC ∧ (E s).stDst (.s 4) 2 true = .ok (.sca 4) ∧ ScalarIn (E s) (.s 8) 2 (E s).lits (E s).lits 0x10000
      ∧ ScalarIn (E s) (.s 10) 1 (E s).lits (E s).lits 2 ∧ s.insidePass (E s) = false ∧ OwnBytes s (E s) .load 0x10000 128 0x10000 false
      ∧ s.quiet (E s) 4 = true ∧ (E s).flagFor false = none ∧ s.ctx? (E s).ctx = some c ∧ s.start.ready = true
      ∧ s.launchLegal (s.readLocal 0x10000 128) = true ∧ (s.queue 2).bound = some (E s).ctx ∧ (s.queue 2).pending.length < 64
      ∧ fieldAt (s.readLocal 0x10000 128) 0x60 2 ≤ c.quotaCluster)
    ∧ (let s := launching 2 []; s.launchLegal (s.readLocal 0x10000 128) = false) ∧ (let s := launching 3 probePacket; (s.queue 3).bound ≠ some (E s).ctx)
    ∧ (let s : State := { launching 2 probePacket with start := {} }; s.start.ready = false) := by
  refine ⟨⟨_, ⟨rfl, rfl, rfl⟩, rfl, scalar_in rfl rfl, scalar_in rfl rfl, rfl, own_bytes { va := 0x10000, parts := [(.mem 0x10000, 128)] } rfl rfl (by decide) (fun h => by cases h) rfl,
    rfl, rfl, rfl, rfl, ?_, ?_, ?_, ?_⟩, ?_, ?_, rfl⟩ <;> decide +kernel

/-- A node record: predecessors, type, status, successors and their list, payload, queue, flags. -/
def nodeBytes (pred ty st n succ pay q fl : Nat) : Bytes :=
  leBytes 2 pred ++ leBytes 1 ty ++ leBytes 1 st ++ leBytes 4 n ++ leBytes 8 succ ++ leBytes 8 pay ++ leBytes 2 q ++ leBytes 1 fl ++ List.replicate 5 0

/-- The graph of queue 2: two nodes at 0x10000. -/
def graphOf (f : Graph → Graph) (nodes : Bytes) (s : State) : State :=
  (bytesAt 0x10000 nodes s).setQueue 2 { s.queue 2 with
    graph := some (f { packet := { kind := 2, ctx := 0, tag := 0, notify := none, ordered := false, body := [] }, ctx := 0, nodes := 0x10000, count := 2 }) }

/-- GSIG of no node, of a copy node, of a node of a failed graph, of one already signalled, and of a signal node that is running, waiting or done; GADD of an edge between the two nodes. -/
theorem test_graph_witness : (let s := mapped 0 (S 0xCDC4C800 (pairAt 0x10000))
    s.insidePass (E s) = false ∧ Issuing s (E s) 0xCD ∧ (E s).stDst (.s 4) 1 true = .ok (.sca 4) ∧ ScalarIn (E s) (.s 8) 2 (E s).lits (E s).lits 0x10000
      ∧ s.quiet (E s) 4 = true ∧ s.findNode (E s).ctx 0x10000 = none)
    ∧ (let s := graphOf id (nodeBytes 0 1 0 0 0 0 0 0) (mapped 0 (S 0xCDC4C800 (pairAt 0x10000)))
    ∃ g, NodeAt s (E s).ctx 0x10000 2 0 g ∧ s.nodeField g 0 2 1 ≠ 2)
    ∧ (let s := graphOf (fun g => { g with failed := some (3, 0) }) (nodeBytes 0 2 0 0 0 0 0 1) (mapped 0 (S 0xCDC4C800 (pairAt 0x10000)))
    NoNode s (E s).ctx 0x10000)
    ∧ (let s := graphOf (fun g => { g with signalHeld := [0] }) (nodeBytes 0 2 0 0 0 0 0 1) (mapped 0 (S 0xCDC4C800 (pairAt 0x10000)))
    ∃ g, NodeAt s (E s).ctx 0x10000 2 0 g ∧ s.nodeField g 0 2 1 = 2 ∧ s.nodeField g 0 0x1A 1 % 2 = 1 ∧ 0 ∈ g.signalHeld)
    ∧ (∀ st ∈ [0x10, 0, 1], let s := graphOf id (nodeBytes 0 2 st 0 0 0 0 1) (mapped 0 (S 0xCDC4C800 (pairAt 0x10000)))
    ∃ g, NodeAt s (E s).ctx 0x10000 2 0 g ∧ s.nodeField g 0 2 1 = 2 ∧ s.nodeField g 0 0x1A 1 % 2 = 1 ∧ 0 ∉ g.signalHeld ∧ s.nodeStatus g 0 = st)
    ∧ (let s := graphOf id (nodeBytes 0 1 0 0 0x20000 0 0 0 ++ nodeBytes 0 1 0 0 0 0 0 0) (mapped 0 (S 0xCEC4C8CA fun w => scalar 10 0x10020 (pairAt 0x10000 w)))
    ∃ g, Issuing s (E s) 0xCE ∧ ScalarIn (E s) (.s 8) 2 (E s).lits (E s).lits 0x10000 ∧ ScalarIn (E s) (.s 10) 2 (E s).lits (E s).lits 0x10020
      ∧ NodeAt s (E s).ctx 0x10000 2 0 g ∧ NodeAt s (E s).ctx 0x10020 2 1 g ∧ s.nodeStatus g 1 = 0 ∧ s.nodeStatus g 0 = 0 ∧ s.nodeField g 0 4 4 < 2 ^ 20
      ∧ s.nodeField g 1 0 2 < 65535) := by
  refine ⟨⟨rfl, ⟨rfl, rfl, rfl⟩, rfl, scalar_in rfl rfl, rfl, by decide +kernel⟩, ⟨_, ⟨rfl, rfl, by decide +kernel⟩, by decide +kernel⟩,
    .inr ⟨2, 0, _, by decide +kernel, rfl, by decide⟩, ⟨_, ⟨rfl, rfl, by decide +kernel⟩, by decide +kernel, by decide +kernel, by decide +kernel⟩, ?_,
    ⟨_, ⟨rfl, rfl, rfl⟩, scalar_in rfl rfl, scalar_in rfl rfl, ⟨rfl, rfl, by decide +kernel⟩, ⟨rfl, rfl, by decide +kernel⟩, ?_, ?_, ?_, ?_⟩⟩
  · intro st h
    rcases h with _ | ⟨_, _ | ⟨_, _ | ⟨_, h⟩⟩⟩
    iterate 3 exact ⟨_, ⟨rfl, rfl, by decide +kernel⟩, by decide +kernel, by decide +kernel, by decide +kernel, by decide +kernel⟩
    cases h
  all_goals decide +kernel

/-- The fault records do not cover both of these addresses. -/
theorem clear_place : inRecords 0x10000000 = false ∨ inRecords 0x20000000 = false := by
  unfold inRecords recordBytes
  simp only [Bool.and_eq_false_iff, decide_eq_false_iff_not]
  omega

/-- A handler wave issues MBOX s4, s8 with F set; the reply to post stands at `a`. -/
def replying (a ty : Nat) (f : Context → Context) : State := ctxOf f (bytesAt a [BitVec.ofNat 8 ty] (mapped 0 (H 0xD6C4C880 (pairAt a))))

/-- MBOX of an event with no session and with one; from a handler wave, with each kind of message; from another wave; PMARK with profiling off and
with a full buffer. -/
theorem test_mailbox_witness : (let s := mapped 0 (S 0xD6C4C800)
    ∃ c, s.ctx? (E s).ctx = some c ∧ Issuing s (E s) 0xD6 ∧ (E s).stDst (.s 4) 1 true = .ok (.sca 4) ∧ ((E s).read 4 (4 * (E s).low) (.sca 8)).2 = false
      ∧ s.quiet (E s) 5 = true ∧ c.session = none ∧ (E s).handler = false)
    ∧ (let s := ctxOf (fun c => { c with session := some { ring := 0x10000, entries := 4 } }) (mapped 0 (S 0xD6C4C800)); ∃ c x, s.ctx? (E s).ctx = some c ∧ c.session = some x)
    ∧ (∃ a, ∀ ty ∈ [0x40, 0x20, 0x81], let s := replying a ty id
    Issuing s (E s) 0xD6 ∧ (E s).handler = true ∧ ScalarIn (E s) (.s 8) 2 (E s).lits (E s).lits a ∧ OwnBytes s (E s) .load a 64 a false
      ∧ s.quiet (E s) 5 = true ∧ (s.byte a).toNat = ty)
    ∧ (let s := S 0xD7000005; Issuing s (E s) 0xD7 ∧ (s.profs.get ({} : Prof) (E s).ctx).en = false)
    ∧ (let s := { S 0xD7000005 with profs := [(0, { en := true, size := 4, written := 4, full := [0, 1, 2, 3] })] }
    (s.profs.get ({} : Prof) (E s).ctx).en = true
      ∧ (s.profs.get ({} : Prof) (E s).ctx).written % (s.profs.get ({} : Prof) (E s).ctx).size ∈ (s.profs.get ({} : Prof) (E s).ctx).full)
    ∧ (let s := { mapped 0 (S 0xD7000005) with profs := [(0, { en := true, size := 4, buffer := 0x20000 })] }
    let p : Prof := s.profs.get {} (E s).ctx
    p.en = true ∧ 0 < p.size ∧ p.written % p.size ∉ p.full
      ∧ (E s).ctx = 0 ∧ p.buffer.toNat + 128 * (p.written % p.size) = 0x20000
      ∧ ∃ sp, s.span { ctx := 0 } .store 0x20000 128 = .ok sp ∧ sp.parts = [(.mem 0x20000, 128)]) := by
  refine ⟨⟨_, rfl, ⟨rfl, rfl, rfl⟩, rfl, rfl, rfl, rfl, rfl⟩, ⟨_, _, rfl, rfl⟩, ?_, ⟨⟨rfl, rfl, rfl⟩, rfl⟩, ⟨by decide, by decide⟩, by decide, by decide, by decide, by decide, by decide,
    _, rfl, rfl⟩
  rcases clear_place with hc | hc
  · refine ⟨0x10000000, fun ty h => ?_⟩
    rcases h with _ | ⟨_, _ | ⟨_, _ | ⟨_, h⟩⟩⟩
    iterate 3 exact ⟨⟨rfl, rfl, rfl⟩, rfl, scalar_in rfl rfl, own_bytes _ (State.span_of_leaf (e := 0x33) (sz := 30) (p := .mem 0x10000000) (by decide) hc (by decide +kernel) rfl rfl (by decide)) rfl (by decide) (fun h => by cases h) rfl, rfl, by decide +kernel⟩
    cases h
  · refine ⟨0x20000000, fun ty h => ?_⟩
    rcases h with _ | ⟨_, _ | ⟨_, _ | ⟨_, h⟩⟩⟩
    iterate 3 exact ⟨⟨rfl, rfl, rfl⟩, rfl, scalar_in rfl rfl, own_bytes _ (State.span_of_leaf (e := 0x33) (sz := 30) (p := .mem 0x20000000) (by decide) hc (by decide +kernel) rfl rfl (by decide)) rfl (by decide) (fun h => by cases h) rfl, rfl, by decide +kernel⟩
    cases h

/-! ### Passes, versions, privileged control -/

/-- The probe's task is an anytime task with two version slots of 64 bytes at 0x20000. -/
def anytimeOf (f : Directory → Directory) (s : State) : State :=
  { s with tasks := s.tasks.map fun k => { k with packet := setNth k.packet 0x1E 2 }
           dirs := [f { task := 1, ctx := 0, slots := [{}, {}], base := 0x20000, slotBytes := 64 }] }

theorem nth_mem {α : Type} (d : α) : ∀ (l : List α) (i : Nat), nth d l i = d ∨ nth d l i ∈ l
  | [], _ => .inl rfl
  | _ :: _, 0 => .inr (.head _)
  | _ :: t, i + 1 => (nth_mem d t i).imp id (.tail _)

/-- A task whose one gang holds no instruction that a quench may cut. -/
theorem no_cut {s : State} {t : Nat} (i₀ : Instr) (hi₀ : (∀ d a b, i₀ ≠ .stq d a b) ∧ ∀ y a b, i₀ ≠ .tst y a b) (h : ∀ n, n ≠ 0 → s.gang? t n = none)
    {g : Gang} (hg : s.gang? t 0 = some g) (hw : ∀ w ∈ g.waves, ∀ p ∈ w.paths, p.meets = none ∨ p.meets = some i₀) : NoCut s t := by
  intro n i p x hx
  have none_of : ∀ q : Path, (q = {} ∨ ∃ w ∈ g.waves, q ∈ w.paths) → q.meets = some x → x = i₀ := by
    rintro q (rfl | ⟨w, h1, h2⟩) h3
    · cases h3
    · rcases hw w h1 q h2 with h4 | h4 <;> rw [h4] at h3 <;> cases h3
      rfl
  have hp : ∀ w : Wave, (w = {} ∨ w ∈ g.waves) → w.path p = {} ∨ ∃ v ∈ g.waves, w.path p ∈ v.paths := by
    rintro w (rfl | h1)
    · rcases nth_mem ({} : Path) ({} : Wave).paths p with h2 | h2
      · exact .inl h2
      · exact .inl (by revert h2; simp only [Wave.path]; intro h2; exact (List.eq_of_mem_replicate (n := 8) h2))
    · rcases nth_mem ({} : Path) w.paths p with h2 | h2
      · exact .inl h2
      · exact .inr ⟨w, h1, h2⟩
  have : x = i₀ := by
    refine none_of _ (hp ((s.wave? (.user t n i)).getD {}) ?_) hx
    show ((s.gang? t n).bind fun x => x.waves[i]?).getD {} = {} ∨ ((s.gang? t n).bind fun x => x.waves[i]?).getD {} ∈ g.waves
    by_cases hn : n = 0
    · subst hn
      rw [hg]
      show (g.waves[i]?).getD {} = {} ∨ (g.waves[i]?).getD {} ∈ g.waves
      cases hi : g.waves[i]? with
      | none => exact .inl rfl
      | some w => exact .inr (List.mem_of_getElem? hi)
    · rw [h n hn]
      exact .inl rfl
  rw [this]
  exact hi₀

/-- POUR that opens a pass and one that joins one; SEAL that ends a pass and one that lowers the grade; DONE. -/
theorem test_pass_witness : (let s := anytimeOf id (S 0xD0C40000)
    ∃ k d g, Anytime s (E s) k d g ∧ Issuing s (E s) 0xD0 ∧ Shaped (E s) ∧ (E s).stDst (.s 4) 2 false = .ok (.sca 4) ∧ (E s).path.barrier = none
      ∧ GangArrives (E s) g (·.pourMask) ∧ d.openSlot = none ∧ (nth ({} : VSlot) d.slots 0).state = .free)
    ∧ (let s := anytimeOf (fun d => { d with openSlot := some 0 }) (S 0xD0C40000)
    ∃ k d g, Anytime s (E s) k d g ∧ d.openSlot = some 0 ∧ g.sealedBit = false)
    ∧ (let s := gangOf (fun g => { g with joined := true }) (anytimeOf (fun d => { d with openSlot := some 0, pass := 1, slots := [{ state := .filling }, {}] }) (S 0xD100C800 (scalar 8 9)))
    ∃ k d g, Anytime s (E s) k d g ∧ Issuing s (E s) 0xD1 ∧ Shaped (E s) ∧ ScalarIn (E s) (.s 8) 1 (E s).lits (E s).lits 9 ∧ d.openSlot = some 0 ∧ g.joined = true ∧ g.sealedBit = false
      ∧ (E s).pathSlices ≠ [] ∧ GangArrives (E s) g (·.sealMask) ∧ (∀ q ∈ g.ladle, q.ops = []) ∧ s.ops = [] ∧ d.latest = none ∧ Least 9 (waveGrades (E s) g 9)
      ∧ (s.gangs.filter (·.task == (E s).task)).length = k.gangCount ∧ (s.gangs.filter fun h => h.task == (E s).task && h.index != (E s).gang) = [])
    ∧ (let s := gangOf (fun g => { g with joined := true }) (anytimeOf (fun d => { d with openSlot := some 0, latest := some (1, 1, 20) }) (S 0xD100C800 (scalar 8 9)))
    ∃ k d g, Anytime s (E s) k d g ∧ d.latest = some (1, 1, 20) ∧ k.limits.lower = false)
    ∧ (let s := anytimeOf id (S 0xD5000000)
    ∃ k d g, Anytime s (E s) k d g ∧ Issuing s (E s) 0xD5 ∧ k.status = 0 ∧ k.quench = none ∧ s.faultBefore (E s).task = none ∧ NoCut s (E s).task) := by
  refine ⟨⟨_, _, _, ⟨rfl, rfl, rfl, rfl, rfl⟩, ⟨rfl, rfl, rfl⟩, ⟨rfl, by decide, .inl rfl⟩, rfl, rfl, ?_, rfl, rfl⟩, ⟨_, _, _, ⟨rfl, rfl, rfl, rfl, rfl⟩, rfl, rfl⟩,
    ⟨_, _, _, ⟨rfl, rfl, rfl, rfl, rfl⟩, ⟨rfl, rfl, rfl⟩, ⟨rfl, by decide, .inl rfl⟩, scalar_in rfl rfl, rfl, rfl, rfl, by decide, ?_, ?_, rfl, rfl, ?_, rfl, rfl⟩,
    ⟨_, _, _, ⟨rfl, rfl, rfl, rfl, rfl⟩, rfl, rfl⟩, ⟨_, _, _, ⟨rfl, rfl, rfl, rfl, rfl⟩, ⟨rfl, rfl, rfl⟩, rfl, rfl, ?_, ?_⟩⟩
  · unfold GangArrives; decide
  · unfold GangArrives; decide
  · decide
  · unfold Least; decide
  · decide +kernel
  · exact no_cut .doneTask ⟨fun _ _ _ h => (by cases h), fun _ _ _ h => (by cases h)⟩ (fun n h => (by cases n with | zero => cases h rfl | succ n => rfl)) rfl (by decide +kernel)

/-- ACQV s8, ZERO, s2 for grade 0 with a latest version, with a full count, with the task over, with no task, and one that waits; RELV of a version that is
held and of one that is not; VSTAT. -/
theorem test_version_witness : (∀ f ∈ [id, fun (d : Directory) => { d with latest := some (0, 1, 5), slots := [{ state := .full, version := 1 }, {}] },
      fun d => { d with latest := some (0, 1, 5), slots := [{ state := .full, version := 1, pins := 65535 }, {}] }, fun d => { d with status := 1 }],
    let s := anytimeOf f (S 0xD2C8F0C2)
    Names (E s) .zero 1 ∧ Issuing s (E s) 0xD2 ∧ Shaped (E s) ∧ Fresh (E s) ∧ ScalarIn (E s) (.s 2) 1 (E s).lits (E s).lits 0 ∧ ∃ d, Holds s (E s) 1 d ∧ d = f { task := 1, ctx := 0, slots := [{}, {}], base := 0x20000, slotBytes := 64 })
    ∧ HoldsNone (S 0xD2C8F0C2) (E (S 0xD2C8F0C2)) 1
    ∧ (let s := anytimeOf (fun d => { d with latest := some (0, 1, 5), slots := [{ state := .draining, version := 1, pins := 1 }, {}] }) (S 0xD3C4F0C2 (scalar 2 1))
    Issuing s (E s) 0xD3 ∧ Fresh (E s) ∧ (E s).stDst (.s 4) 1 true = .ok (.sca 4) ∧ ScalarIn (E s) (.s 2) 1 (E s).lits (E s).lits 1 ∧ s.quiet (E s) 5 = true
      ∧ ∃ d, Holds s (E s) 1 d ∧ (nth ({} : VSlot) d.slots 0).version = 1 ∧ (nth ({} : VSlot) d.slots 0).pins = 1)
    ∧ (let s := anytimeOf id (S 0xD4C4F000); Issuing s (E s) 0xD4 ∧ Fresh (E s) ∧ ∃ d, Holds s (E s) 1 d)
    ∧ (let s := S 0xD4C4F000; HoldsNone s (E s) 1 ∧ ∃ k, s.task? 1 = some k ∧ k.ctx = (E s).ctx) := by
  refine ⟨?_, fun d h => (by cases h), ⟨⟨rfl, rfl, rfl⟩, unwaiting rfl, rfl, scalar_in rfl rfl, rfl, _, ⟨rfl, rfl⟩, rfl, rfl⟩,
    ⟨⟨rfl, rfl, rfl⟩, unwaiting rfl, _, rfl, rfl⟩, (fun d h => by cases h), _, rfl, rfl⟩
  intro f h
  rcases h with _ | ⟨_, _ | ⟨_, _ | ⟨_, _ | ⟨_, h⟩⟩⟩⟩
  iterate 4 exact ⟨.inl ⟨rfl, rfl⟩, ⟨rfl, rfl, rfl⟩, ⟨rfl, by decide, .inl rfl⟩, unwaiting rfl, scalar_in rfl rfl, _, ⟨rfl, rfl⟩, rfl⟩
  cases h

/-- The handler wave issues `w` with task 1 in s8 and gang 0 in s9. -/
def privileged (w : Nat) (f : Gang → Gang) : State := gangOf f (mapped 0 (H w (scalar 8 1)))

/-- CKPT with no gang to take, and one while another runs; HALTB of no task, of a retired, a waiting and a running gang; SCRUB of a gang that is
not halted and of one that is. -/
theorem test_privileged_witness : (∃ a, let s := gangOf (fun g => { g with state := .retired }) (mapped 0 (H 0xD8C4C8CA fun w => scalar 10 1 (pairAt a w)))
    ∃ c, (E s).handler = true ∧ Issuing s (E s) 0xD8 ∧ (E s).stDst (.s 4) 2 false = .ok (.sca 4) ∧ ScalarIn (E s) (.s 8) 2 (E s).lits (E s).lits a
      ∧ ScalarIn (E s) (.s 10) 1 (E s).lits (E s).lits 1 ∧ s.ctx? (E s).ctx = some c ∧ (E s).path.wait ≠ .privileged ∧ c.ckptBusy = false
      ∧ OwnBytes s (E s) .store a 64 a false
      ∧ ∀ h ∈ s.gangs, (s.task? h.task).map (·.ctx) = some (E s).ctx → h.state = .retired ∧ h.chosen = [])
    ∧ (let s := ctxOf (fun c => { c with ckptBusy := true }) (H 0xD8C4C8CA); ∃ c, s.ctx? (E s).ctx = some c ∧ c.ckptBusy = true)
    ∧ (let s := mapped 0 (H 0xD9C4C800 (scalar 8 5))
    (E s).handler = true ∧ Issuing s (E s) 0xD9 ∧ (E s).stDst (.s 4) 1 true = .ok (.sca 4) ∧ ScalarIn (E s) (.s 8) 2 (E s).lits (E s).lits 5 ∧ s.task? (5 % 2 ^ 32) = none)
    ∧ (∀ x ∈ [GangState.retired, .waiting, .running], let s := privileged 0xD9C4C800 fun g => { g with state := x }
    ScalarIn (E s) (.s 8) 2 (E s).lits (E s).lits 1 ∧ ∃ k g, s.task? (1 % 2 ^ 32) = some k ∧ k.ctx = (E s).ctx ∧ k.status = 0 ∧ s.gang? (1 % 2 ^ 32) (1 / 2 ^ 32) = some g ∧ g.state = x
      ∧ ∀ w ∈ g.caster :: g.waves, ∀ p ∈ w.paths, p.wait = .none)
    ∧ (∀ x, let s := privileged 0xDAC4C807 fun g => { g with halted := x }
    Issuing s (E s) 0xDA ∧ (E s).stDst (.s 4) 1 true = .ok (.sca 4) ∧ ScalarIn (E s) (.s 8) 2 (E s).lits (E s).lits 1
      ∧ ∃ k g, s.task? (1 % 2 ^ 32) = some k ∧ k.ctx = (E s).ctx ∧ s.gang? (1 % 2 ^ 32) (1 / 2 ^ 32) = some g ∧ g.state ≠ .retired ∧ g.halted = x ∧ ∀ q ∈ g.ladle, q.ops = []) := by
  refine ⟨?_, ⟨_, rfl, rfl⟩,
    ⟨rfl, ⟨rfl, rfl, rfl⟩, rfl, scalar_in rfl rfl, rfl⟩, ?_, ?_⟩
  · rcases clear_place with hc | hc
    · exact ⟨0x10000000, _, rfl, ⟨rfl, rfl, rfl⟩, rfl, scalar_in rfl rfl, scalar_in rfl rfl, rfl, by decide, rfl,
        own_bytes _ (State.span_of_leaf (e := 0x33) (sz := 30) (p := .mem 0x10000000) (by decide) hc (by decide +kernel) rfl rfl (by decide)) rfl (by decide) (fun h => by cases h) rfl, by decide⟩
    · exact ⟨0x20000000, _, rfl, ⟨rfl, rfl, rfl⟩, rfl, scalar_in rfl rfl, scalar_in rfl rfl, rfl, by decide, rfl,
        own_bytes _ (State.span_of_leaf (e := 0x33) (sz := 30) (p := .mem 0x20000000) (by decide) hc (by decide +kernel) rfl rfl (by decide)) rfl (by decide) (fun h => by cases h) rfl, by decide⟩
  · intro x h
    rcases h with _ | ⟨_, _ | ⟨_, _ | ⟨_, h⟩⟩⟩
    iterate 3 exact ⟨scalar_in rfl rfl, _, _, rfl, rfl, rfl, rfl, rfl, by decide⟩
    cases h
  · intro x
    cases x
    iterate 2 exact ⟨⟨rfl, rfl, rfl⟩, rfl, scalar_in rfl rfl, _, _, rfl, rfl, rfl, by decide, rfl, by decide⟩

/-! ### Events: a powered device with context 0, an owner and two hosts -/

/-- A state whose next move is an event; endpoint 5 has the rights of a privileged host, endpoint 6 is a host, and 6 owns context 0. -/
def device (f : State → State := id) : State :=
  f ({ S 0 with cur := none, hosts := [5, 6], privileged := [5], powered := true }.mapCtx 0 fun c => { c with owner := 6 })

/-- A context of endpoint `o` with nothing in it. -/
def newCtx (o : Nat) : Context := { owner := o, tenant := 0, debuggable := false, retain := false, root := 0 }

/-- Die 1 is fenced and hot. -/
def hotDie (s : State) : State := { s with dies := setNth s.dies 1 { (nth ({} : Die) s.dies 1) with fenced := true, sensors := [400] } }

/-- No fenced die is hot where none is fenced. -/
theorem not_hot {s : State} (h : ∀ d ∈ s.dies, d.fenced = false) : ¬Hot s := by
  rintro ⟨i, d, h1, h2, _⟩
  rw [h d (List.mem_of_getElem? h1)] at h2
  cases h2

/-- Powers and cold starts, by a privileged host and by another; warm starts, with a hot die and with none, of a device with a retained context and
one that is not retained; recovery; starts that wait. -/
theorem test_start_witness : (let s := device; Privileged s 5 ∧ ¬Privileged s 6 ∧ s.powered = true ∧ s.start.err ≠ 2)
    ∧ (device fun s => { s with start := { s.start with err := 2 } }).start.err = 2
    ∧ Hot (device hotDie)
    ∧ (let s := device fun s => (s.mapCtx 0 fun c => { c with retain := true }).setCtx 1 (some (newCtx 6)) |>.setQueue 0 { bound := some 0 }
    ¬Hot s ∧ (s.contexts.map (·.1)).Nodup ∧ (∃ c, s.ctx? 0 = some c ∧ c.retain = true)
      ∧ (∃ c, s.ctx? 1 = some c ∧ c.retain = false) ∧ (s.queue 0).bound = some 0 ∧ ∀ p, p < 4 → bitOf 0 p = true ∨ bitOf 0 p = false)
    ∧ (let s := device fun s => hotDie { s with start := { s.start with pendingWarm := true } }
    s.start.pendingCold = false ∧ s.start.pendingWarm = true ∧ Hot s)
    ∧ (let s := device fun s => { s with start := { s.start with pendingWarm := true } }
    s.start.pendingCold = false ∧ s.start.pendingWarm = true ∧ ¬Hot s)
    ∧ (let s := device fun s => { s with start := { s.start with pendingCold := true } }; s.start.pendingCold = true ∧ s.powered = true) := by
  refine ⟨?_, rfl, ⟨1, _, rfl, rfl, .inl ⟨400, .head _, by decide⟩⟩, ⟨not_hot ?_, ?_, ⟨_, rfl, rfl⟩, ⟨_, rfl, rfl⟩, rfl, ?_⟩,
    ⟨rfl, rfl, 1, _, rfl, rfl, .inl ⟨400, .head _, by decide⟩⟩, ⟨rfl, rfl, not_hot ?_⟩, rfl, rfl⟩ <;> (try unfold Privileged) <;> decide +kernel

/-- Writes of the recovery window, good and malformed, in recovery and not; a check and a fuse write under way and not; a report asked
for; tokens. -/
theorem test_firmware_witness : (let s := device fun s => { s with start := { s.start with err := 2 } }
    Privileged s 5 ∧ ¬Privileged s 6 ∧ s.start.err = 2 ∧ (List.replicate 8 (1 : Byte)).length = 8 ∧ (List.replicate 9 (1 : Byte)).length = 9 ∧ 8 + 8 ≤ 16777216)
    ∧ (Privileged device 5 ∧ device.start.err ≠ 2 ∧ device.security.fwBusy ≠ 1 ∧ device.security.attBusy = false)
    ∧ (let s := device fun s => { s with security := { s.security with fwBusy := 1 } }; s.security.fwBusy = 1 ∧ s.powered = true)
    ∧ (let s := device; 6 ∈ s.hosts ∧ ¬(7 ∈ s.hosts ∨ Privileged s 7))
    ∧ (let s := device fun s => { s with security := { s.security with attBusy := true, measurement := List.replicate 48 0 } }
    ∃ c, s.security.attBusy = true ∧ s.ctx? s.security.attFor = some c ∧ s.security.measurement.length = 48) := by
  refine ⟨?_, ?_, ?_, ?_, ⟨_, rfl, rfl, rfl⟩⟩ <;> (try unfold Privileged) <;> decide +kernel

/-- An outstanding request to package `p`. -/
def request (p : Nat) (k : RemoteKind := .store) : RemoteReq := { id := 7, opId := 3, pkg := p, off := 0, data := [], kind := k, since := 0 }

/-- Endpoints with each of the rights, in recovery and not; a pending invalidation with none and with one behind it; a route with and without an
outstanding request, and with one that has not left, over a link that is up and over none, to a package fenced and not; a test of cluster 3. -/
theorem test_register_witness : (let s := device
    MayWrite s 6 ∧ ¬Privileged s 6 ∧ Privileged s 5 ∧ MayWrite s 5 ∧ ¬MayWrite s 7 ∧ s.start.lifecycle ≠ 1 ∧ s.start.err ≠ 2 ∧ s.start.ready = false)
    ∧ (device fun s => { s with start := { s.start with err := 2 } }).start.err = 2
    ∧ (StagingArea Config.apertureOffset ∧ ¬Aperture Config.expertOffset ∧ ¬RecoveryWindow Config.expertOffset ∧ Config.expertOffset ≠ Config.identityOffset + 0x838
      ∧ Config.expertOffset % 4 = 0 ∧ RecoveryWindow Config.recoveryOffset)
    ∧ (device fun s => { s with start := { s.start with lifecycle := 1 } }).start.lifecycle = 1
    ∧ (let s := device fun s => { s with tlbinvPending := some 0x10000 }; s.tlbinvPending = some 0x10000 ∧ s.tlbinvQueue = [])
    ∧ (let s := device fun s => { s with tlbinvPending := some 0x10000, tlbinvQueue := [1] }; s.tlbinvPending = some 0x10000 ∧ s.tlbinvQueue = [1])
    ∧ (let s := device fun s => { s with remote := [request 4] }; Privileged s 5 ∧ ∃ q ∈ s.remote, q.pkg = 4 ∧ q.sent = true)
    ∧ (let s := device fun s => { s with remote := [{ request 4 with sent := false }] }; ∀ q ∈ s.remote, q.pkg = 4 → q.sent = false)
    ∧ (let s := device fun s => { s with links := setNth s.links 2 { up := true } }
    Privileged s 5 ∧ (∀ q ∈ s.remote, q.pkg ≠ 4) ∧ (∃ n, n < 12 ∧ bitOf 0x4 n = true ∧ linkUp s n = true) ∧ (∀ n, n < 12 → bitOf 0x8 n = true → linkUp s n = false)
      ∧ 4 ∉ s.fencedPkgs)
    ∧ (device fun s => { s with fencedPkgs := [4] }).fencedPkgs = [4]
    ∧ (let s := device fun s => { s with clusterMask := BitVec.allOnes 128 }
    (∀ i, i < 32 → (s.cluster (3 / 32 * 32 + i)).test.attempt = none ∧ (s.cluster (3 / 32 * 32 + i)).test.running = none) ∧ (s.cluster 3).test.failed = false
      ∧ s.clusterMask.getLsbD 3 = true) := by
  refine ⟨?_, rfl, ⟨?_, ?_, ?_, ?_, ?_, ?_⟩, ?_, ?_, ?_, ?_, ?_, ⟨?_, ?_, ⟨2, ?_⟩, ?_, ?_⟩, rfl, ?_, ?_, ?_⟩ <;> (try unfold MayWrite) <;> (try unfold Privileged)
    <;> (try unfold StagingArea) <;> (try unfold Aperture) <;> (try unfold RecoveryWindow) <;> decide +kernel

/-- Link `n` of the device. -/
def withLink (n : Nat) (l : Link) (s : State) : State := { s with links := setNth s.links n l }

/-- A flit of sequence number `seq`, its CRC in place. -/
def flitOf (seq : Nat) : Bytes :=
  let b := leBytes 2 seq ++ List.replicate 122 0
  b ++ leBytes 4 (crc32c b)

/-- An operation of wave 0 that waits. -/
def waitingOp (f : PendingOp → PendingOp) : PendingOp := f { id := 3, wave := .user 1 0 0, path := 0, pc := 0x10008, flag := none }

/-- Requests to this package: while it is ready, while it is not, and to a fenced die; from no endpoint. -/
theorem test_request_witness : (let s := device fun s => { s with start := { s.start with ready := true }, packages := [1, 2] }
    s.start.ready = true ∧ s.endpoint 2 = true ∧ s.fencedAt 0x100 = false ∧ 0x100 + 8 ≤ 2 ^ 38 ∧ s.endpoint 9 = false)
    ∧ device.start.ready = false
    ∧ (let s := device fun s => { s with start := { s.start with ready := true }, dies := s.dies.map fun d => { d with fenced := true } }
    s.start.ready = true ∧ s.fencedAt 0x100 = true) := by
  refine ⟨?_, rfl, ?_⟩ <;> decide +kernel

/-- An acknowledgement of a store, of a load's and of a notify record's request, and of one that has not left; completions of a port. -/
theorem test_reply_witness : (∀ k ∈ [RemoteKind.load, .store, .notify 0 1 true], ∀ b, let q := { request 4 k with sent := b, dest := some (0, 0) }
    let s := device fun s => { s with remote := [q], ops := [waitingOp fun o => { o with remote := [7], isLoad := k == .load, fill := some { vector := true, reg := 0, bytes := 4, units := [0] } }] }
    q ∈ s.remote ∧ (∀ r ∈ s.remote, r.id = q.id → r = q) ∧ ∃ o f, s.op? q.opId = some o ∧ o.failed = [] ∧ o.isLoad = (k == .load) ∧ o.engine = false ∧ o.node = none
      ∧ o.fill = some f ∧ ∃ t, s.task? 1 = some t)
    ∧ (∀ b, let s := device fun s => { s with ops := [waitingOp fun o => { o with isLoad := b, cxl := [{ port := 0, lane := 2, va := 0x10000, off := 0, bytes := 4 }], fill := some { vector := true, reg := 0, bytes := 4, units := [2] } }] }
    ∃ o f, s.op? 3 = some o ∧ (∃ x ∈ o.cxl, x.port = 0) ∧ o.failed = [] ∧ o.isLoad = b ∧ o.engine = false ∧ o.node = none ∧ o.fill = some f ∧ f.vector = true) := by
  refine ⟨?_, fun b => ⟨_, _, rfl, ⟨_, .head _, rfl⟩, rfl, rfl, rfl, rfl, rfl, rfl⟩⟩
  intro k h b
  exact ⟨.head _, fun r h _ => (by cases h with | head => rfl | tail _ h => cases h), _, _, rfl, rfl, rfl, rfl, rfl, rfl, _, rfl⟩

/-- A port that is up; links in each state. -/
theorem test_link_witness : (2 < device.ports.length ∧ 2 < device.links.length ∧ (nth ({} : Link) device.links 2).up = false)
    ∧ (let s := device fun s => { s with ports := setNth s.ports 2 { up := true } }; (nth ({} : CxlPort) s.ports 2).up = true)
    ∧ (let s := device (withLink 2 { up := true, recvSeq := 6 })
    let l := nth ({} : Link) s.links 2
    l.up = true ∧ l.waiting = [] ∧ (flitOf 7).length = 128 ∧ fieldAt (flitOf 7) 124 4 = crc32c ((flitOf 7).take 124) ∧ fieldAt (flitOf 7) 0 2 % 4096 = (l.recvSeq + 1) % 4096
      ∧ fieldAt (flitOf 7) 0 2 / 4096 = 0 ∧ fieldAt (flitOf 9) 0 2 % 4096 ≠ (l.recvSeq + 1) % 4096 ∧ fieldAt (flitOf 9) 124 4 = crc32c ((flitOf 9).take 124)
      ∧ ((flitOf 7).take 100).length ≠ 128 ∧ l.retry.length < 512)
    ∧ (let s := device (withLink 2 { up := true, retry := [{ seq := 3, parcel := { kind := 3, payload := [] } }] })
    let l := nth ({} : Link) s.links 2
    l.up = true ∧ (l.retry.filter fun f => decide ((f.seq + 4096 - 2 % 4096) % 4096 < 2048)) ≠ [] ∧ (l.retry.filter fun f => decide ((f.seq + 4096 - 5 % 4096) % 4096 < 2048)) = [])
    ∧ (let s := device fun s => { withLink 2 { up := true } s with now := 20000 }; (nth ({} : Link) s.links 2).lastValid + 20000 ≤ s.now)
    ∧ (let s := device fun s => { withLink 2 { retraining := some 0 } s with now := 100000 }
    (nth ({} : Link) s.links 2).retraining = some 0 ∧ s.now < 0 + 200000 ∧ (nth ({} : Link) s.links 2).waiting = [])
    ∧ (let s := device fun s => { withLink 2 { retraining := some 0 } s with now := 200000 }
    (nth ({} : Link) s.links 2).retraining = some 0 ∧ 0 + 200000 ≤ s.now) := by
  refine ⟨?_, ?_, ?_, ?_, ?_, ?_, ?_⟩ <;> decide +kernel

/-- A package, a die and a link fenced; requests whose time is over. -/
theorem test_fence_notice_witness : (4 ≠ device.ownId ∧ device.remote = [] ∧ 4 ∉ device.fencedPkgs ∧ (4, 0) ∉ device.fencedRemoteDies ∧ (4, 0) ∉ device.fencedRemoteLinks)
    ∧ (∀ k ∈ [RemoteKind.store, .notify 0 1 true], let s := device fun s => { s with remote := [request 4 k], now := 2000000 }
    s.remote = [request 4 k] ∧ (request 4 k).sent = true ∧ (request 4 k).since + 2000000 ≤ s.now ∧ 4 ∉ s.fencedPkgs ∧ ∃ t, s.task? 1 = some t) := by
  refine ⟨by decide +kernel, fun k h => ?_⟩
  rcases h with _ | ⟨_, _ | ⟨_, h⟩⟩
  iterate 2 exact ⟨rfl, rfl, by decide, by decide, _, rfl⟩
  cases h

/-! ### Packets -/

/-- A packet with no notify record. -/
def packetOf (ty ctx : Nat) (body : Bytes) : Bytes := leBytes 1 ty ++ leBytes 1 0 ++ leBytes 1 ctx ++ leBytes 1 0 ++ leBytes 2 body.length ++ leBytes 26 0 ++ body

/-- A ready device whose endpoint `ep` has staged `raw` in window `win`; queue 2 is bound to context 0. -/
def staged (ep win : Nat) (raw : Bytes) (f : State → State := id) : State :=
  device fun s => f ({ s with start := { s.start with ready := true }, staging := [(win, [{ ep := ep, last := 0, bytes := putBytes [] 0 raw }])] }.setQueue 2 { bound := some 0 })

theorem nth_replicate (d : Byte) : ∀ n i : Nat, nth d (List.replicate n d) i = d
  | 0, _ => rfl
  | _ + 1, 0 => rfl
  | n + 1, i + 1 => nth_replicate d n i

theorem nth_padded (n : Nat) : ∀ (l : Bytes) (i : Nat), nth 0 (l ++ List.replicate n 0) i = if i < l.length then nth 0 l i else 0
  | [], i => by simp only [List.nil_append, nth_replicate]; rfl
  | _ :: _, 0 => rfl
  | x :: t, i + 1 => by
    rw [List.length_cons, List.cons_append]
    show nth 0 (t ++ List.replicate n 0) i = if i + 1 < t.length + 1 then nth 0 t i else 0
    rw [nth_padded n t i]
    simp only [Nat.add_lt_add_iff_right]

/-- What an endpoint has staged, padded with zeros. -/
theorem staged_bytes {s : State} {ep win : Nat} {raw : Bytes} (h : liveAreas s win = [{ ep := ep, last := 0, bytes := putBytes [] 0 raw }]) (n i : Nat) :
    nth 0 (raw ++ List.replicate n 0) i = stagedBytes s ep win i := by
  simp only [stagedBytes, h, List.find?, beq_self_eq_true, get_putBytes, Nat.zero_le, true_and, Nat.sub_zero, Nat.zero_add, nth_padded]
  rfl

theorem packed_of {s : State} {ep win ty ctx : Nat} {raw body : Bytes} (h3 : ctx < 64)
    (h4 : s.staging.get [] win = [{ ep := ep, last := 0, bytes := putBytes [] 0 raw }]) (hn : s.now = 0) (h5 : s.start.ready = true)
    (h7 : (raw ++ List.replicate (256 - raw.length) 0).length = 256
      ∧ body = ((raw ++ List.replicate (256 - raw.length) 0).take raw.length).drop 32
      ∧ fieldAt (raw ++ List.replicate (256 - raw.length) 0) 0 1 = ty ∧ fieldAt (raw ++ List.replicate (256 - raw.length) 0) 2 1 = ctx
      ∧ fieldAt (raw ++ List.replicate (256 - raw.length) 0) 3 1 = 0 ∧ fieldAt (raw ++ List.replicate (256 - raw.length) 0) 4 2 = raw.length - 32
      ∧ fieldAt (raw ++ List.replicate (256 - raw.length) 0) 6 2 = 0 ∧ fieldAt (raw ++ List.replicate (256 - raw.length) 0) 0x10 16 = 0
      ∧ fieldAt (raw ++ List.replicate (256 - raw.length) 0) 1 1 = 0 ∧ fieldAt (raw ++ List.replicate (256 - raw.length) 0) 8 8 = 0) :
    Packed s ep win raw.length ty ctx 0 none false body := by
  have ha : liveAreas s win = [{ ep := ep, last := 0, bytes := putBytes [] 0 raw }] := by unfold liveAreas; rw [h4, hn]; rfl
  exact ⟨⟨_, h7.1, fun i _ => staged_bytes ha _ i, h7.2.1, h7.2.2.1, h7.2.2.2.1, h7.2.2.2.2.1, h7.2.2.2.2.2.1, h7.2.2.2.2.2.2.1, h7.2.2.2.2.2.2.2.1,
    h7.2.2.2.2.2.2.2.2.1, h7.2.2.2.2.2.2.2.2.2⟩, h3, fun _ h => (by cases h), h5, by rw [h4, ha]⟩

def signalBody : Bytes := List.replicate 16 0
def waitBody : Bytes := List.replicate 32 0
/-- One entry node of one node. -/
def graphBody : Bytes := leBytes 8 0 ++ leBytes 4 1 ++ leBytes 4 1 ++ leBytes 16 0

/-- Staging writes of a device that is not ready, of a wrong length, to a free window and to one with eight other areas; SIGNAL, WAIT, GRAPH and LAUNCH
packets of a bound queue; a LAUNCH above the quota; SIGNAL to a queue that is not bound and to a full one. -/
theorem test_packet_witness : (device.start.ready = false ∧ (device.staging.map (·.1)).Nodup)
    ∧ (let s := staged 6 2 []; s.start.ready = true ∧ (s.staging.map (·.1)).Nodup ∧ (∃ a ∈ liveAreas s 2, a.ep = 6) ∧ (liveAreas s 3).length < 8)
    ∧ (let s := staged 6 2 [] fun s => { s with staging := [(2, (List.range 8).map fun i => { ep := 10 + i, last := 0, bytes := [] })] }
    (∀ a ∈ liveAreas s 2, a.ep ≠ 6) ∧ 8 ≤ (liveAreas s 2).length)
    ∧ (∀ x ∈ [(3, signalBody), (4, waitBody), (2, graphBody), (1, probePacket), (1, setNth probePacket 0x60 1)], let s := staged 6 2 (packetOf x.1 0 x.2)
    Packed s 6 2 (packetOf x.1 0 x.2).length x.1 0 0 none false x.2 ∧ (∃ c, s.ctx? 0 = some c ∧ c.owner = 6) ∧ (s.queue 2).bound = some 0
      ∧ (s.queue 2).pending.length < 64 ∧ (s.staging.map (·.1)).Nodup)
    ∧ ((packetOf 3 0 signalBody).length = 48 ∧ (packetOf 4 0 waitBody).length = 64 ∧ (packetOf 2 0 graphBody).length = 64 ∧ (packetOf 1 0 probePacket).length = 160)
    ∧ (let f := fieldAt signalBody; f 0 2 < 16 ∧ f 2 1 < 2 ∧ f 3 13 = 0)
    ∧ (let f := fieldAt waitBody; f 0 2 < 16 ∧ f 2 6 = 0 ∧ f 0x18 8 = 0)
    ∧ (let f := fieldAt graphBody; f 0 8 % 32 = 0 ∧ 1 ≤ f 8 4 ∧ f 8 4 ≤ 2 ^ 20 ∧ 1 ≤ f 12 4 ∧ f 12 4 ≤ f 8 4 ∧ f 16 8 % 4 = 0 ∧ f 24 8 = 0)
    ∧ (let s := staged 6 2 (packetOf 1 0 probePacket) fun s => { s with nextTask := 2 }
    s.launchLegal probePacket = true ∧ s.nextTask ≠ 0 ∧ (∀ k ∈ s.tasks, k.id ≠ s.nextTask) ∧ (∀ d ∈ s.dirs, d.task ≠ s.nextTask)
      ∧ (∀ q ∈ s.queues, ∀ r ∈ q.2.pending, r.taskId ≠ s.nextTask) ∧ ∃ c, s.ctx? 0 = some c ∧ fieldAt probePacket 0x60 2 ≤ c.quotaCluster)
    ∧ (let b := setNth probePacket 0x60 (1 : Byte); (device.launchLegal b = true) ∧ 0 < fieldAt b 0x60 2)
    ∧ (staged 6 3 (packetOf 3 0 signalBody)).queue 3 = {}
    ∧ (let s := staged 6 2 (packetOf 3 0 signalBody) fun s => s.setQueue 2 { bound := some 0, pending := List.replicate 64 { kind := 3, ctx := 0, tag := 0, notify := none, ordered := false, body := [] } }
    64 ≤ (s.queue 2).pending.length) := by
  refine ⟨?_, ?_, ?_, ?_, ?_, ?_, ?_, ?_, ?_, ?_, rfl, ?_⟩
  iterate 3 decide +kernel
  · intro x h
    rcases h with _ | ⟨_, _ | ⟨_, _ | ⟨_, _ | ⟨_, _ | ⟨_, h⟩⟩⟩⟩⟩
    iterate 5 exact ⟨packed_of (by decide) rfl rfl rfl (by decide +kernel), ⟨_, rfl, rfl⟩, rfl, by decide, by decide⟩
    cases h
  iterate 4 decide +kernel
  · refine ⟨?_, ?_, ?_, ?_, ?_, _, rfl, ?_⟩ <;> decide +kernel
  iterate 2 decide +kernel

/-- The body of a control packet of size `n` that begins with the bytes `l`. -/
def bodyOf (n : Nat) (l : Bytes) : Bytes := l ++ List.replicate (n - l.length) 0

/-- CREATE of context 1, by the privileged host; BIND, UNBIND and DESTROY by it and BIND of a queue of another context; QUOTA and LIMITS by it
and by a host that is not privileged. -/
theorem test_context_packet_witness : (∀ x ∈ [(5, 1, bodyOf 32 [1]), (5, 0, bodyOf 32 [3, 2]), (5, 0, bodyOf 32 [4, 2]), (5, 0, bodyOf 32 [2]), (6, 0, bodyOf 16 []), (7, 0, bodyOf 32 [1])],
    ∀ ep ∈ [5, 6], let s := staged ep 64 (packetOf x.1 x.2.1 x.2.2)
    Packed s ep 64 (packetOf x.1 x.2.1 x.2.2).length x.1 x.2.1 0 none false x.2.2 ∧ (s.staging.map (·.1)).Nodup)
    ∧ (let s := staged 5 64 []
    Privileged s 5 ∧ ¬Privileged s 6 ∧ s.ctx? 1 = none ∧ (s.queue 3).bound = none ∧ (s.queue 2).bound = some 0 ∧ (s.queue 2).pending = [])
    ∧ (∃ c, (staged 5 64 []).ctx? 0 = some c ∧ c.ingots = [])
    ∧ ((staged 5 64 [] fun s => s.setQueue 2 { bound := some 7 }).queue 2).bound = some 7
    ∧ (let s := staged 5 64 [] fun s => { s with tasks := [] }
    (∀ k ∈ s.tasks, k.ctx ≠ 0 ∨ k.status ≠ 0) ∧ ∀ q, q < 64 → (s.queue q).bound = some 0 → (s.queue q).pending = [] ∧ (s.queue q).waiting = none ∧ (s.queue q).graph = none)
    ∧ (let f := fieldAt (bodyOf 32 [1]); f 0 1 = 1 ∧ f 1 3 = 0 ∧ f 4 2 < 1024 ∧ f 6 1 < 4 ∧ f 7 1 = 0 ∧ f 0x0C 4 = 0 ∧ f 0x10 8 % 4096 = 0 ∧ f 0x18 8 = 0 ∧ f 1 7 = 0 ∧ f 24 8 = 0)
    ∧ (let f := fieldAt (bodyOf 32 [3, 2]); f 0 1 = 3 ∧ f 1 1 = 2 ∧ f 2 1 < 4 ∧ f 4 28 = 0)
    ∧ (let f := fieldAt (bodyOf 32 [4, 2]); f 0 1 = 4 ∧ f 1 1 = 2 ∧ f 2 30 = 0)
    ∧ (let f := fieldAt (bodyOf 32 [2]); f 0 1 = 2 ∧ f 1 31 = 0)
    ∧ (let f := fieldAt (bodyOf 16 []); f 0 2 ≤ 1024 ∧ f 2 2 = 0 ∧ f 4 4 ≤ 131072 ∧ f 8 8 = 0) := by
  refine ⟨?_, ?_, ⟨_, rfl, ?_⟩, ?_, ⟨?_, ?_⟩, ?_, ?_, ?_, ?_, ?_⟩
  · intro x h ep h2
    rcases h with _ | ⟨_, _ | ⟨_, _ | ⟨_, _ | ⟨_, _ | ⟨_, _ | ⟨_, h⟩⟩⟩⟩⟩⟩
    iterate 6
      rcases h2 with _ | ⟨_, _ | ⟨_, h2⟩⟩
      iterate 2 exact ⟨packed_of (by decide) rfl rfl rfl (by decide +kernel), by decide⟩
      cases h2
    cases h
  · unfold Privileged
    decide +kernel
  all_goals decide +kernel

/-! ### Monitor messages -/

/-- A message of type `ty`, scope `sc`, task 1, gang 0, place `g`, `w`, `p` and payload `pay`. -/
def messageOf (ty sc g w p : Nat) (pay : Bytes) : Bytes :=
  [BitVec.ofNat 8 ty, 0x42, 0, BitVec.ofNat 8 sc, 1, 0, 0, 0, 0, 0, 0, 0, BitVec.ofNat 8 g, BitVec.ofNat 8 w, BitVec.ofNat 8 p, 0] ++ pay
    ++ List.replicate (48 - pay.length) 0

/-- The header of a MAILBOX packet of context 0 whose reply goes to 0x30000 (R50). -/
def mailHead : Bytes := [8, 1, 0, 0, 64, 0, 0, 0, 0, 0, 3, 0, 0, 0, 0, 0, 0, 0, 0, 0, 0, 0, 0, 0, 0, 0, 0, 0, 0, 0, 0, 0]

/-- The owner of context 0 has staged the message as a MAILBOX packet. -/
def mailed (m : Bytes) (f : State → State := id) : State :=
  staged 6 64 (mailHead ++ m) fun s => f { s with start := { s.start with lifecycle := 1 } }

/-- The context has a session. -/
def inSession (s : State) : State := ctxOf (fun c => { c with session := some { ring := 0x10000, entries := 4 } }) s

theorem mailed_of {s : State} {m : Bytes} {c : Context} (h0 : s.ctx? 0 = some c) (h1 : c.owner = 6) (h2 : c.mailbox = [])
    (h3 : s.reach true true 0x30000 = .ok (.mem 0x30000)) (h4 : s.start.ready = true) (h5 : s.now = 0)
    (h6 : s.staging = [(64, [{ ep := 6, last := 0, bytes := putBytes [] 0 (mailHead ++ m) }])]) (h7 : m.length = 64) :
    Mailed s 6 0 c m (byteAt m 0) 0x30000 := by
  have hl : s.staging.get [] 64 = [{ ep := 6, last := 0, bytes := putBytes [] 0 (mailHead ++ m) }] := by rw [h6]; rfl
  have ha : liveAreas s 64 = [{ ep := 6, last := 0, bytes := putBytes [] 0 (mailHead ++ m) }] := by unfold liveAreas; rw [hl, h5]; rfl
  refine ⟨⟨0, 0x30000, false, ⟨⟨_, by simp [mailHead, h7], fun i _ => staged_bytes ha 160 i, ?_, ?_, ?_, ?_, ?_, ?_, ?_, ?_, ?_⟩, by decide, fun a h => by cases h; decide, h4, ?_⟩,
    by decide, h3⟩, ?_, h0, .inl h1, h2, rfl, by decide⟩
  · simp [mailHead, h7]
  iterate 8 (simp [mailHead, fieldAt, leNat])
  · rw [hl, ha]
  · rw [h6]; simp

/-- The messages of the tests of the statement: OPEN, CLOSE, HALT, STEP, READREG of two classes, WRITEREG, READMEM, SETBP, DUMP, RESUME, and a HALT with a reserved
byte set. -/
def messages : List Bytes :=
  [messageOf 9 0 0 0 0 (leBytes 8 0x10000 ++ [4]), messageOf 10 0 0 0 0 [], messageOf 1 3 0 0 0 [], messageOf 3 0 0 0 0 [], messageOf 4 0 0 0 0 [0, 3, 2],
    messageOf 4 0 0 0 0 [1, 3, 2], messageOf 5 0 0 0 0 ([0, 3, 2, 0, 0, 0, 0, 0] ++ leBytes 32 7), messageOf 6 0 0 0 0 (leBytes 8 0x10000 ++ [32]),
    messageOf 7 0 0 0 0 ([2, 1, 0, 0, 0, 0, 0, 0] ++ leBytes 8 0x10008), messageOf 8 0 0 0 0 (leBytes 8 0x20000 ++ leBytes 8 64),
    messageOf 2 3 0 0 0 [6], setNth (messageOf 1 3 0 0 0 []) 0x0F 1]

theorem messages_length : ∀ m ∈ messages, m.length = 64 := by decide

/-- Every message of the list is in service of a context without and with a session, which the monitor serves; all but the last are sound. -/
theorem test_monitor_witness : (∀ m ∈ messages, let s := mailed m; ∃ c, Mailed s 6 0 c m (byteAt m 0) 0x30000 ∧ c.session = none ∧ Serves s c)
    ∧ (∀ m ∈ messages, let s := mailed m inSession; ∃ c, Mailed s 6 0 c m (byteAt m 0) 0x30000 ∧ c.session ≠ none ∧ Serves s c)
    ∧ (∀ i, i < 11 → Sound (nth [] messages i)) ∧ ¬Sound (nth [] messages 11) := by
  refine ⟨fun m h => ⟨_, mailed_of rfl rfl rfl rfl rfl rfl rfl (messages_length m h), rfl, .inl rfl⟩,
    fun m h => ⟨_, mailed_of rfl rfl rfl rfl rfl rfl rfl (messages_length m h), fun h => (by cases h), .inl rfl⟩, ?_, ?_⟩
  · intro i h
    iterate 11
      rcases i with _ | i
      · exact ⟨by decide, by decide, by decide, by unfold namedPayload; decide +kernel⟩
    omega
  · intro h
    exact absurd h.reserved (by decide)

/-- Gang 0 of task 1. -/
def probeGang (s : State) : Gang := (s.gang? 1 0).getD { task := 0, index := 0 }

/-- The message names the gang of the probe and its path 0, halted and not; task 9 is no task; a DUMP's buffer is the package's own DRAM. -/
theorem test_monitor_place_witness : (∀ m ∈ [nth [] messages 2, nth [] messages 10], let s := mailed m inSession
    ∃ k, NamesGang s 0 m (probeGang s) k ∧ byteAt m 3 = 3 ∧ (probeGang s).held = [])
    ∧ (∀ m ∈ [nth [] messages 3, nth [] messages 4, nth [] messages 5, nth [] messages 6, nth [] messages 9], ∀ x ∈ [PathState.run, PathState.halted],
      let s := mailed m fun s => inSession (mapped 0 (s.resumeWave (.user 1 0 0) fun w => w.setPath 0 { w.path 0 with state := x }))
      ∃ k, NamesPath s 0 m (probeGang s) k 0 0 ∧ ((nth ({} : Wave) (probeGang s).waves 0).path 0).state = x ∧ 0 < (nth ({} : Wave) (probeGang s).waves 0).paths.length ∧ (probeGang s).held = []
        ∧ (∀ q ∈ (probeGang s).ladle, q.tl.fenced = true ∨ q.tl.taken ≤ q.tl.reached) ∧ 3 < 16 * k.blocks
        ∧ ∃ sp, s.span { ctx := 0 } .store 0x20000 64 = .ok sp ∧ sp.parts = [(.mem 0x20000, 64)])
    ∧ (mailed (setNth (nth [] messages 2) 4 9) inSession).task? (fieldAt (setNth (nth [] messages 2) 4 9) 4 4) = none
    ∧ (let s := mailed (nth [] messages 7) fun s => inSession (mapped 0 s)
    ∃ sp, s.span { ctx := 0 } .load 0x10000 32 = .ok sp ∧ sp.parts = [(.mem 0x10000, 32)])
    ∧ (mailed (nth [] messages 7) inSession).span { ctx := 0 } .load 0x10000 32 = .error 0x10 := by
  refine ⟨?_, ?_, rfl, ⟨_, rfl, rfl⟩, rfl⟩
  · intro m h
    rcases h with _ | ⟨_, _ | ⟨_, h⟩⟩
    iterate 2 exact ⟨_, ⟨rfl, ⟨rfl, rfl⟩, rfl, by decide, by decide⟩, by decide, by decide⟩
    cases h
  · intro m h x hx
    rcases h with _ | ⟨_, _ | ⟨_, _ | ⟨_, _ | ⟨_, _ | ⟨_, h⟩⟩⟩⟩⟩
    iterate 5
      rcases hx with _ | ⟨_, _ | ⟨_, hx⟩⟩
      iterate 2 refine ⟨_, ⟨⟨rfl, ⟨rfl, rfl⟩, rfl, ?_, ?_⟩, ?_, ?_, ?_, ?_, ?_, ?_, ?_⟩, ?_, ?_, ?_, ?_, ?_, _, rfl, rfl⟩ <;> decide +kernel
      cases hx
    cases h

/-! ### The runner -/

/-- Packet `p` of kind `kind` at the head of queue 2. -/
def queued (kind : Nat) (body : Bytes) (f : State → State := id) : State :=
  device fun s => f (bound s |>.setQueue 2 { bound := some 0, pending := [{ kind := kind, ctx := 0, tag := 0, notify := none, ordered := false, body := body, taskId := 9 }] })

/-- A SIGNAL that resets; a WAIT for the count 5 with a time limit of 100 ns; a GRAPH of one node at 0x10000 whose entry list is at 0x18000. -/
def resetBody : Bytes := leBytes 2 0 ++ leBytes 1 1 ++ leBytes 13 0
def wait5 : Bytes := leBytes 8 0 ++ leBytes 8 5 ++ leBytes 8 100 ++ leBytes 8 0
def oneNode : Bytes := leBytes 8 0x10000 ++ leBytes 4 1 ++ leBytes 4 1 ++ leBytes 8 0x18000 ++ leBytes 8 0

/-- Timeline 0 of context 0. -/
def timeline (x : Timeline) (s : State) : State := ctxOf (fun c => { c with timelines := setNth c.timelines 0 x }) s

/-- The one-node graph of queue 2 with the record `b`. -/
def graph1 (n : Nat) (b : Bytes) (f : Graph → Graph) : State :=
  let g : Graph := f { packet := { kind := 2, ctx := 0, tag := 0, notify := none, ordered := false, body := [] }, ctx := 0, nodes := 0x10000, count := n }
  device fun s => (bytesAt 0x10000 b (mapped 0 (bound s))).setQueue 2 { bound := some 0, graph := some g }

/-- Where only queue `q` is listed, every other queue waits for nothing. -/
theorem other_queue {s : State} {q r : Nat} {x : Queue} (h : s.queues = [(q, x)]) (hr : r ≠ q) : (s.queue r).waiting = none := by
  rw [State.queue, h]
  unfold Table.get
  split
  · rename_i h1
    exact absurd (by simpa using h1) hr
  · rfl

/-- SIGNAL of a free and a fenced timeline and with a reset; WAIT that is met, fenced and held; LAUNCH; GRAPH; a waiting WAIT before and after its time. -/
theorem test_runner_witness : (∀ x ∈ [(3, signalBody), (3, resetBody), (4, wait5), (1, probePacket), (2, oneNode)], let s := queued x.1 x.2
    ∃ p c, AtHead s 2 p [] c ∧ p.kind = x.1 ∧ p.body = x.2 ∧ (∀ r, r < 64 → (s.queue r).waiting = none))
    ∧ (let s := queued 4 wait5 (timeline { taken := 7, reached := 7 }); ∃ p c, AtHead s 2 p [] c ∧ (nth ({} : Timeline) c.timelines 0).fenced = false
      ∧ fieldAt wait5 8 8 ≤ (nth ({} : Timeline) c.timelines 0).reached)
    ∧ (∀ x ∈ [(3, signalBody), (4, wait5)], let s := queued x.1 x.2 (timeline { fenced := true }); ∃ p c, AtHead s 2 p [] c ∧ (nth ({} : Timeline) c.timelines 0).fenced = true)
    ∧ (let f := fieldAt probePacket; f 0x1E 1 / 2 % 2 = 0 ∧ f 0x30 2 = 0xFFFF) ∧ ((queued 1 probePacket).tasks.filter fun k => !k.notified).length < 1024
    ∧ (let s := queued 2 oneNode fun s => bytesAt 0x18000 [0, 0, 0, 0] (mapped 0 s)
    ∃ p c, AtHead s 2 p [] c ∧ fieldAt oneNode 12 4 = 1 ∧ s.runnerRead p.ctx (fieldAt oneNode 16 8) 4 = some [0, 0, 0, 0] ∧ 0 < fieldAt oneNode 8 4
      ∧ ∃ sp, s.span (agentOf p.ctx) .store 0x10003 1 = .ok sp ∧ sp.parts = [(.mem 0x10003, 1)])
    ∧ (∀ t ∈ [50, 100], ∀ n ∈ [0, 5], let s := device fun s => { timeline { taken := n, reached := n } s with now := t }.setQueue 2 { bound := some 0, waiting := some ({ kind := 4, ctx := 0, tag := 0, notify := none, ordered := false, body := wait5 }, 0) }
    ∃ p c x, (s.queue 2).waiting = some (p, 0) ∧ p.notify = none ∧ fieldAt p.body 16 8 = 100 ∧ Plain (s.queue 2).pending ∧ (∀ r, r ≠ 2 → (s.queue r).waiting = none)
      ∧ s.ctx? p.ctx = some c ∧ nth ({} : Timeline) c.timelines (fieldAt p.body 0 2) = x ∧ x.fenced = false ∧ x.reached = n) := by
  refine ⟨?_, ⟨_, _, ⟨by decide, rfl, ⟨rfl, rfl⟩, (fun h => (by cases h)), rfl, rfl, rfl, fun _ h => (by cases h)⟩, rfl, by decide⟩, ?_, by decide +kernel, by decide, ?_, ?_⟩
  · intro x h
    rcases h with _ | ⟨_, _ | ⟨_, _ | ⟨_, _ | ⟨_, _ | ⟨_, h⟩⟩⟩⟩⟩
    iterate 5 exact ⟨_, _, ⟨by decide, rfl, ⟨rfl, rfl⟩, (fun h => (by cases h)), rfl, rfl, rfl, fun _ h => (by cases h)⟩, rfl, rfl, by decide⟩
    cases h
  · intro x h
    rcases h with _ | ⟨_, _ | ⟨_, h⟩⟩
    iterate 2 exact ⟨_, _, ⟨by decide, rfl, ⟨rfl, rfl⟩, (fun h => (by cases h)), rfl, rfl, rfl, fun _ h => (by cases h)⟩, rfl⟩
    cases h
  · exact ⟨_, _, ⟨by decide, rfl, ⟨rfl, rfl⟩, (fun h => (by cases h)), rfl, rfl, rfl, fun _ h => (by cases h)⟩, by decide +kernel, by decide +kernel, by decide +kernel, _, rfl, rfl⟩
  · intro t h n hn
    rcases h with _ | ⟨_, _ | ⟨_, h⟩⟩
    iterate 2
      rcases hn with _ | ⟨_, _ | ⟨_, hn⟩⟩
      iterate 2 exact ⟨_, _, _, rfl, rfl, by decide +kernel, fun p h => (by cases h), fun r hr => other_queue (q := 2) rfl hr, rfl, rfl, by decide +kernel, by decide +kernel⟩
      cases hn
    cases h

/-- A signal node that is ready; a copy node that has completed with each status, that failed, and one with a successor. -/
theorem test_node_witness : (let s := graph1 1 (nodeBytes 0 2 0x10 0 0 0x10020 0 0 ++ [0xFF, 0xFF]) fun g => { g with ready := [0] }
    ∃ g b, NodeOf s 2 g 0 b 0x10003 ∧ g.failed = none ∧ g.ready = [0] ∧ g.signalHeld = [] ∧ g.finished = [] ∧ fieldAt b 2 1 = 2 ∧ fieldAt b 0x1A 1 = 0
      ∧ ∃ pay, s.runnerRead g.ctx (fieldAt b 0x10 8) 8 = some pay ∧ fieldAt pay 0 2 = 0xFFFF ∧ fieldAt pay 2 6 = 0)
    ∧ (∀ st ∈ [1, 2, 3], let s := graph1 2 (nodeBytes 0 1 0x11 0 0 0 0 0) fun g => { g with running := [0], finished := [(0, st)] }
    ∃ g b, NodeOf s 2 g 0 b 0x10003 ∧ g.failed = none ∧ g.finished = [(0, st)] ∧ g.running = [0] ∧ 0 ∉ g.ready ∧ 0 ∉ g.signalHeld ∧ fieldAt b 2 1 = 1 ∧ fieldAt b 4 4 = 0
      ∧ g.packet.notify = none ∧ g.ready = [])
    ∧ (∀ n ∈ [1, 2], let s := bytesAt 0x18000 [1, 0, 0, 0] (graph1 2 (nodeBytes 0 1 0x11 1 0x18000 0 0 0 ++ nodeBytes n 1 0 0 0 0 0 0) fun g => { g with running := [0], finished := [(0, 1)] })
    ∃ g b, NodeOf s 2 g 0 b 0x10003 ∧ g.finished = [(0, 1)] ∧ g.running = [0] ∧ fieldAt b 4 4 = 1 ∧ s.runnerRead g.ctx (fieldAt b 8 8) 4 = some [1, 0, 0, 0] ∧ 1 < g.count
      ∧ (doneWith g 0).length < g.count ∧ ∃ x, (s.setNodeStatus 2 g 0 1).runnerRead g.ctx (g.addr 1) 32 = some x ∧ fieldAt x 0 2 = n) := by
  have h : ∀ (s : State) (g : Graph) (b : Bytes), (s.queue 2).graph = some g → s.runnerRead g.ctx (g.addr 0) 32 = some b →
      (0 < g.count ∧ fieldAt b 2 1 ≤ 2 ∧ (fieldAt b 4 4 ≤ 2 ^ 20 ∧ fieldAt b 8 8 % 4 = 0) ∧ (fieldAt b 0x18 2 < 64 ∧ (fieldAt b 2 1 = 0 ∨ fieldAt b 0x18 2 = 0))
        ∧ (fieldAt b 0x1A 1 < 2 ∧ (fieldAt b 2 1 = 2 ∨ fieldAt b 0x1A 1 = 0)) ∧ fieldAt b 0x1B 5 = 0) →
      g.addr 0 = 0x10000 → (∃ sp, s.span (agentOf g.ctx) .store 0x10003 1 = .ok sp ∧ sp.parts = [(.mem 0x10003, 1)]) → NodeOf s 2 g 0 b 0x10003 :=
    fun s g b h1 h2 h3 h5 h4 => ⟨h1, h2, h3.1, h3.2.1, h3.2.2.1, h3.2.2.2.1, h3.2.2.2.2.1, h3.2.2.2.2.2, by rw [h5]; exact h4⟩
  refine ⟨?_, ?_, ?_⟩
  · exact ⟨_, nodeBytes 0 2 0x10 0 0 0x10020 0 0, h _ _ _ rfl (by decide +kernel) (by decide +kernel) (by decide +kernel) ⟨_, rfl, rfl⟩, rfl, rfl, rfl, rfl, by decide, by decide,
      [0xFF, 0xFF, 0, 0, 0, 0, 0, 0], by decide +kernel, by decide, by decide⟩
  · intro st hs
    rcases hs with _ | ⟨_, _ | ⟨_, _ | ⟨_, h⟩⟩⟩
    iterate 3 exact ⟨_, nodeBytes 0 1 0x11 0 0 0 0 0, h _ _ _ rfl (by decide +kernel) (by decide +kernel) (by decide +kernel) ⟨_, rfl, rfl⟩, rfl, rfl, rfl, by decide, by decide, by decide, by decide, rfl, rfl⟩
    cases h
  · intro n hn
    rcases hn with _ | ⟨_, _ | ⟨_, h⟩⟩
    iterate 2 exact ⟨_, nodeBytes 0 1 0x11 1 0x18000 0 0 0, h _ _ _ rfl (by decide +kernel) (by decide +kernel) (by decide +kernel) ⟨_, rfl, rfl⟩, rfl, rfl, by decide, by decide +kernel, by decide, by decide,
      (by first | exact ⟨nodeBytes 1 1 0 0 0 0 0 0, by decide +kernel, by decide⟩ | exact ⟨nodeBytes 2 1 0 0 0 0 0 0, by decide +kernel, by decide⟩)⟩
    cases h

/-! ### Placement and time -/

/-- The probe's task alone, with the record changed by `f`. -/
def loneTask (f : Task → Task) (s : State) : State := { s with tasks := s.tasks.map f }

/-- Every lane of the probe's gang has exited. -/
def exitedGang (s : State) : State :=
  gangOf (fun g => { g with waves := g.waves.map fun w => { w with slices := w.slices.map fun x => { x with ended := 0xF } }
                            caster := { g.caster with slices := g.caster.slices.map fun x => { x with ended := 0xF } } }) s

/-- The task is an anytime task with a time limit of 100 ns and one of 50 µJ, whose first instruction issued at 0. -/
def limited (k : Task) : Task :=
  { k with packet := setNth k.packet 0x1E 2, limits := { timeNs := 100, energyUj := 50 }, firstIssue := some 0 }

/-- The probe's word of zeros is no instruction that a quench may cut. -/
theorem probe_cut {s : State} {g : Gang} (h1 : s.gangs = [g] := by rfl) (h2 : g.task = 1 := by rfl) (h4 : g.index = 0 := by rfl)
    (h3 : ∀ w ∈ g.waves, ∀ p ∈ w.paths, p.meets = none ∨ p.meets = some .nop := by decide +kernel) : NoCut s 1 := by
  refine no_cut .nop ⟨fun _ _ _ h => (by cases h), fun _ _ _ h => (by cases h)⟩ (fun n hn => ?_) (g := g) ?_ h3
  · simp [State.gang?, h1, h2, h4, Ne.symm hn]
  · simp [State.gang?, h1, h2, h4]

/-- A first gang to place; a gang whose work is over; a task at and past its time limit, with energy to account, and with a quench under way; a gang that has
run 1 ms of an evacuation. -/
theorem test_placement_witness : (let s := device fun s => loneTask (fun k => { k with nextGang := 0 }) { s with gangs := [], clusterMask := BitVec.allOnes 128 }
    ∃ k, FirstGang s k ∧ Open s 0 ∧ (∀ d, d < 128 → d ≠ 0 → (s.cluster d).allow = (s.cluster 0).allow) ∧ (s.cluster 0).allow ≤ 255)
    ∧ (let s := device exitedGang
    s.gang? (probeGang s).task (probeGang s).index = some (probeGang s) ∧ WorkOver s (probeGang s)
      ∧ ∃ k, s.task? (probeGang s).task = some k ∧ k.status = 0 ∧ k.kill = none ∧ k.quench = none ∧ k.gangCount = 1 ∧ k.nextGang = 1 ∧ s.gangs = [probeGang s] ∧ k.notify = none)
    ∧ (∀ t ∈ [90, 100], let s := device fun s => loneTask limited { s with now := t }
    ∃ k, s.tasks = [k] ∧ k.status = 0 ∧ k.anytime = true ∧ k.timeLimit = 100 ∧ k.quench = none ∧ k.firstIssue = some 0
      ∧ (s.gangs.map fun g => (g.task, g.index)).Nodup ∧ NoCut s k.id ∧ s.faultBefore k.id = none)
    ∧ (let s := device (loneTask limited)
    ∃ k, s.task? 1 = some k ∧ k.status = 0 ∧ (s.gangs.map fun g => (g.task, g.index)).Nodup ∧ NoCut s 1 ∧ s.faultBefore 1 = none)
    ∧ (let s := device fun s => loneTask (fun k => { k with quench := some (2, 0) }) s
    ∃ k, s.task? 1 = some k ∧ k.status = 0 ∧ k.quench = some (2, 0) ∧ s.ops = [] ∧ k.notify = none)
    ∧ (let s := device fun s => gangOf (fun g => { g with chosen := [(.test, 0)] }) ({ s with now := 1000000 }.mapCluster 0 fun c => { c with test := { c.test with attempt := some 0 } })
    ∃ g p w, s.gangs = [g] ∧ g.state = .running ∧ g.halted = false ∧ g.saved = none ∧ g.kill = none ∧ (s.cluster g.cluster).test.attempt ≠ none ∧ g.lastPp + 1000000 ≤ s.now
      ∧ g.waves = [w] ∧ w.liveSlices ≠ [] ∧ w.paths[0]? = some p ∧ p.state = .run ∧ p.wait = .none ∧ w.pathSlices 0 ≠ []) := by
  refine ⟨⟨_, ⟨⟨rfl, rfl⟩, ⟨rfl, rfl, rfl⟩, ?_, ⟨rfl, by decide +kernel⟩, by decide +kernel, by decide +kernel⟩, ?_, by decide +kernel, by decide +kernel⟩,
    ⟨rfl, ⟨.inl rfl, by decide +kernel, by decide +kernel, fun o h => (by cases h), ⟨fun m h => (by cases h), fun c h => (by cases h)⟩, ?_⟩, _, rfl, rfl, rfl, rfl, by decide, rfl, rfl, rfl⟩,
    ?_, ⟨_, rfl, rfl, by decide, probe_cut, by decide +kernel⟩, ⟨_, rfl, rfl, rfl, rfl, rfl⟩, _, _, _, rfl, rfl, rfl, rfl, rfl, by decide, by decide, rfl, by decide, rfl, rfl, rfl, by decide⟩
  · decide +kernel
  · exact ⟨by decide, by decide, rfl, rfl, rfl⟩
  · intro c y h x hx
    obtain ⟨c0, h0, h1⟩ : ∃ c0 : Context, (device exitedGang).contexts = [(0, some c0)] ∧ c0.ingots = [] := ⟨_, rfl, rfl⟩
    rw [State.ctx?, h0] at h
    unfold Table.get at h
    split at h
    · cases h; rw [h1] at hx; cases hx
    · cases h
  · intro t h
    rcases h with _ | ⟨_, _ | ⟨_, h⟩⟩
    iterate 2 exact ⟨_, rfl, rfl, rfl, by decide, rfl, rfl, by decide, probe_cut, by decide +kernel⟩
    cases h

/-! ### Evictions and idle slots -/

/-- The probe's gang is chosen at time 0, and stands at a pre-emption point when `pp` holds. -/
def chosenAt (now : Nat) (pp : Bool) : State :=
  device fun s => gangOf (fun g => { g with chosen := [(.slice, 0)] })
    ({ s with now := now }.resumeWave (.user 1 0 0) fun w => if pp then w.setPath 0 { w.path 0 with state := .blocked, atPp := true } else w)

/-- Task 1 runs alone of its class on a full package while task 2 of the same class waits. -/
def crowded : State :=
  device fun s => { s with now := 4000000, tasks := s.tasks ++ s.tasks.map fun k => { k with id := 2, nextGang := 0 } }

/-- A chosen gang at a pre-emption point, before and after 20 µs; a slice that has expired; seven idle intervals of a period; one gang on a
cluster. -/
theorem test_eviction_witness : (∀ t ∈ [100, 20000], ∀ pp, let s := chosenAt t pp
    ∃ k, Chosen s (probeGang s) k .slice 0 ∧ k.idempotent = false ∧ (probeGang s).halted = false
      ∧ (pp = true → ∀ w ∈ (probeGang s).waves, w.liveSlices = [] ∨ ∀ p, p < 8 → (w.path p).state = .free ∨ ((w.path p).atPp = true ∧ (w.path p).state = .blocked)))
    ∧ (let s := crowded
    ∃ g k h x, s.gangs.filter (fun x => x.state == .running || x.state == .placing) = [g] ∧ s.gang? g.task g.index = some g ∧ s.task? g.task = some k ∧ k.persistent = false ∧ g.chosen = []
      ∧ g.placedAt + 4000000 ≤ s.now ∧ h ∈ s.tasks ∧ h.status = 0 ∧ h.quench = none ∧ h.kill = none ∧ h.cls = k.cls ∧ s.nextWaiting h = some x ∧ s.bestFit h x = none)
    ∧ (let s := device fun s => loneTask (fun k => { k with packet := setNth k.packet 0x1E 4 }) (gangOf (fun g => { g with chosen := [(.slice, 0)] }) s)
    ∃ k, Chosen s (probeGang s) k .slice 0 ∧ k.idempotent = true ∧ NoFault s (probeGang s))
    ∧ (let s := device fun s => s.mapCluster 3 fun c => { c with bubble := { c.bubble with idles := (List.range 7).map (fun i => (700000 - (7 - i) * 100000, 30000)), seen := some (700000, 30000) } }
    (s.cluster 3).bubble.seen = some (700000, 30000) ∧ (s.cluster 3).bubble.idles = (List.range 7).map (fun i => (700000 - (7 - i) * 100000, 30000)) ∧ (s.cluster 3).bubble.host = false ∧ (s.cluster 3).bubble.isOpen = false)
    ∧ (∃ g k, device.gangs = [g] ∧ device.task? g.task = some k ∧ g.state = .running ∧ g.chosen = []) := by
  refine ⟨?_, ?_, ?_, ⟨?_, ?_, ?_, ?_⟩, _, _, rfl, rfl, rfl, rfl⟩
  · intro t h pp
    rcases h with _ | ⟨_, _ | ⟨_, h⟩⟩
    iterate 2
      rcases pp with _ | _
      iterate 2 exact ⟨_, ⟨rfl, rfl, .head _, .inr (.inr rfl), ⟨.inl rfl, by decide, rfl, rfl, rfl⟩, ⟨by decide, fun o h => (by cases h)⟩, fun o h => (by cases h), by
        intro w hw p hp id
        have : p.wait = .none := by revert w p; decide +kernel
        rw [this]; exact Wait.noConfusion⟩, by decide +kernel, rfl, by decide +kernel⟩
    cases h
  · exact ⟨_, _, List.getLast crowded.tasks (by decide), { task := 2, index := 0 }, rfl, rfl, rfl, by decide +kernel, rfl, by decide, by decide, by decide, by decide, by decide, by decide, by decide +kernel, by decide +kernel⟩
  · exact ⟨_, ⟨rfl, rfl, .head _, .inr (.inr rfl), ⟨.inl rfl, by decide, rfl, rfl, rfl⟩, ⟨by decide, fun o h => (by cases h)⟩, fun o h => (by cases h), by
      intro w hw p hp id
      have : p.wait = .none := by revert w p; decide +kernel
      rw [this]; exact Wait.noConfusion⟩, by decide +kernel, fun m h => (by cases h), fun c h => (by cases h)⟩
  all_goals decide +kernel

/-! ### Heat, tests and memory -/

/-- A test of cluster 3 may begin; one is due, one under way and done, one deferred. -/
theorem test_thermal_witness : (device.sampledAt = none ∧ device.now < device.startedAt + 1000000)
    ∧ (let s := device fun s => { s with clusterMask := BitVec.allOnes 128, now := 1000000, sampledAt := some 0 }
    s.sampledAt = some 0 ∧ 0 + 100000 ≤ s.now ∧ s.startedAt + 1000000 ≤ s.now ∧ s.dies.length = 4 ∧ (∀ d ∈ s.dies, d.fenced = false ∧ d.pendingBand ≤ 3) ∧ (∀ c, c < 128 → (s.cluster c).dramBand ≤ 3) ∧ MayTest s 3 ∧ (s.cluster 3).test.nextAt ≤ s.now)
    ∧ (let s := device fun s => { s with dies := setNth s.dies 0 { (nth ({} : Die) s.dies 0) with fenceDue := some 0 } }
    s.dies.length = 4 ∧ (s.die 0).fenceDue = some 0 ∧ (s.die 0).fenced = false ∧ s.gangs = [probeGang s] ∧ (probeGang s).state = .running ∧ (probeGang s).cluster / 32 = 0)
    ∧ (let s := device fun s => s.mapCluster 3 fun c => { c with test := { c.test with attempt := some 0 } }
    (s.cluster 3).test.attempt = some 0 ∧ (s.cluster 3).test.running = none ∧ ∀ g ∈ s.gangs, g.cluster = 3 → g.state = .waiting ∨ g.state = .retired)
    ∧ (∀ t ∈ [2999999, 3000000], let s := device fun s => { s with now := t }.mapCluster 3 fun c => { c with test := { c.test with attempt := some 0, running := some 0 } }
    (s.cluster 3).test.running = some 0)
    ∧ (∀ t ∈ [99999999, 100000000], let s := device fun s => { s with now := t }.mapCluster 0 fun c => { c with test := { c.test with attempt := some 0 } }
    (s.cluster 0).test.attempt = some 0 ∧ (s.cluster 0).test.running = none ∧ (∀ d, d < 128 → d ≠ 0 → (s.cluster d).test.attempt = none)
      ∧ probeGang s ∈ s.gangs ∧ (probeGang s).cluster = 0 ∧ (probeGang s).state = .running) := by
  refine ⟨?_, ⟨rfl, ?_, ?_, rfl, ?_, ?_, ⟨?_, ?_, ?_, ?_⟩, ?_⟩, ?_, ?_, ?_, ?_⟩ <;> decide +kernel

/-- An operation with two writes that has nothing to wait for. -/
def finished : PendingOp := { id := 3, wave := .user 1 0 0, path := 0, pc := 0x10008, flag := some (2, 0xFF), writes := [.vec 4 0 { bits := 7 }, .sca 5 1 { bits := 9 }] }

/-- A complete operation; a flagged load; a page that is mapped and one that is not; a path without a line; a profile tick; a WAITT whose time is over. -/
theorem test_memory_event_witness : (let s := device fun s => { s with ops := [finished] }; ∃ w, Ready s finished w)
    ∧ (let s := device (mapped 0); ∃ x leaf l, s.ctx? 0 = some x ∧ s.walk 0x10000 4 x.root.toNat = some (leaf, l) ∧ (∀ u ∈ s.l2Tlb 3, u.ctx ≠ 0)
      ∧ (s.l2Tlb 3).length < 8192)
    ∧ (∃ x, device.ctx? 0 = some x ∧ device.walk 0x10000 4 x.root.toNat = none) := by
  refine ⟨⟨_, ?_, ?_, (fun i h => (by cases h)), rfl, ?_, ?_⟩, ⟨_, _, _, rfl, rfl, ?_, ?_⟩, _, rfl, ?_⟩
  · decide +kernel
  · decide +kernel
  · decide +kernel
  · intro r l v h
    rcases h with _ | ⟨_, _ | ⟨_, h⟩⟩
    · decide
    · cases h
  all_goals decide +kernel

/-- Only the wave's path is live. -/
def noCaster (s : State) : State := s.resumeWave (.caster 1 0) fun w => w.setPath 0 { w.path 0 with state := .free }

/-- LDW v4, s8, ZERO at 0x10000 in a clause that gives it flag 2; LDAW the same; lane 0 alone is active. -/
theorem test_flagged_witness : ∀ x ∈ [(0x84, 1), (0x8C, 4)],
    let s := mapped 0 (S (x.1 * 2 ^ 24 + 0x04C8F0) fun w => activeOnly 1 (pairAt 0x10000 (w.setPath 0 { w.path 0 with clause := some { last := 3, fa := some 2, fb := none } })))
    let va := fun L => effective ((E s).read 2 L (.sca 8)).1 ((E s).read 1 L (.imm 0)).1
    Issuing s (E s) x.1 ∧ Fresh (E s) ∧ Agrees s (E s) ∧ Shaped (E s) ∧ (E s).units true ≠ [] ∧ (E s).dst (.v 4) 1 = .ok (.vec 4) ∧ (E s).src (.s 8) 2 (E s).lits = .ok (.sca 8, [])
      ∧ (E s).src .zero 1 [] = .ok (.imm 0, []) ∧ (E s).vectorForm (.v 4) [.sca 8, .imm 0] = .ok true ∧ Clean (E s) ((E s).units true) [(.sca 8, 2), (.imm 0, 1)]
      ∧ (E s).flagFor true = some 2
      ∧ ∀ L ∈ (E s).units true, OwnAccess (translated s (E s) 4 ((E s).units true) va) (E s) .load 4 x.2 va (fun _ => 0x10000) L := by
  intro x h
  rcases h with _ | ⟨_, _ | ⟨_, h⟩⟩
  iterate 2 exact ⟨⟨rfl, rfl, rfl⟩, unwaiting rfl, (fun x h => by cases h), ⟨rfl, by decide, .inl rfl⟩, by decide, rfl, rfl, rfl, rfl, by unfold Clean; decide, rfl,
    at_zero (by decide) (own_access 0x10000 0x10000 { va := 0x10000, parts := [(.mem 0x10000, 4)] } rfl rfl rfl rfl (by decide) (by decide) rfl rfl)⟩
  cases h

/-- The path's line, a good one and one that is not mapped; a profile tick on the one gang; WAITT s4, s8, s10 whose time limit is over. -/
theorem test_line_tick_wait_witness : (let s := bytesAt 132 (leBytes 4 0x10000000) (mapped 0 (S 0 fun w => w.setPath 0 { w.path 0 with buf := none }))
    s.env? (E s).ref (E s).p = some (E s) ∧ (E s).path.state = .run ∧ (E s).path.wait = .none ∧ (E s).path.buf = none ∧ (s.cluster (E s).cluster).icache = [] ∧ Shaped (E s)
      ∧ (E s).pc.toNat / 128 * 128 = 128 ∧ lineVer (leNat (s.readLocal 132 4)) = 1
      ∧ ∃ sp, ((s.slip (E s)).holdPage (E s).who (E s).pc.toNat).span (E s).who .fetch 128 128 = .ok sp ∧ sp.parts = [(.mem 128, 128)])
    ∧ (let s := S 0 fun w => w.setPath 0 { w.path 0 with buf := none }
    (E s).pc.toNat / 128 * 128 = 128 ∧ ((s.slip (E s)).holdPage (E s).who (E s).pc.toNat).span (E s).who .fetch 128 128 = .error 0x10)
    ∧ (let s := device fun s => { mapped 0 s with now := 1024, profs := [(0, { en := true, k := 10, size := 4, buffer := 0x20000 })] }
    ∃ p g k, s.profs = [(0, p)] ∧ p.en = true ∧ 10 ≤ p.k ∧ p.k ≤ 24 ∧ s.now / 2 ^ p.k ≠ p.lastTick ∧ s.gangs = [g] ∧ g.state = .running ∧ g.cluster = 0 ∧ s.task? g.task = some k ∧ k.ctx = 0
      ∧ 0 < p.size ∧ p.written % p.size ∉ p.full ∧ (s.cluster 0).counters.stepsTaken.length = 2 ∧ (s.cluster 0).counters.stepsSkipped.length = 2
      ∧ p.buffer.toNat + 128 * (p.written % p.size) = 0x20000 ∧ ∃ sp, s.span { ctx := 0 } .store 0x20000 128 = .ok sp ∧ sp.parts = [(.mem 0x20000, 128)])
    ∧ (let s := noCaster { S 0x0BC4C8CA fun w => scalar 10 1 (scalar 9 7 ((w.setPath 0 { w.path 0 with state := .blocked, wait := .waitt 0 0 7000 }))) with now := 7000 }
    s.allPaths = [((E s).ref, (E s).p)] ∧ s.env? (E s).ref (E s).p = some (E s) ∧ (E s).path.wait = .waitt 0 0 7000 ∧ (E s).path.instr? = some (.waitt (.s 4) (.s 8) (.s 10))
      ∧ s.pathAt ((E s).ref, (E s).p) = (E s).path ∧ Issuing { s with cur := some ((E s).ref, (E s).p) } (E s) 0x0B ∧ Shaped (E s) ∧ (E s).path.state = .blocked
      ∧ (E s).path.stepping = false ∧ (E s).stDst (.s 4) 1 true = .ok (.sca 4) ∧ (E s).src (.s 8) 2 (E s).lits = .ok (.sca 8, []) ∧ (E s).src (.s 10) 2 [] = .ok (.sca 10, [])
      ∧ Clean (E s) [4 * (E s).low] [(.sca 8, 2), (.sca 10, 2)] ∧ ((E s).read 2 (4 * (E s).low) (.sca 8)).1 = 7 * 2 ^ 32 ∧ ((E s).read 2 (4 * (E s).low) (.sca 10)).1 = 1
      ∧ ∃ r, s.tlRef (E s) 0 = some r ∧ (s.timeline (E s) r).fenced = false ∧ (s.timeline (E s) r).resets = 0 ∧ (s.timeline (E s) r).reached < 1 ∧ 0 + 1000 * 7 ≤ s.now) := by
  refine ⟨⟨rfl, rfl, rfl, rfl, rfl, ⟨rfl, by decide, .inl rfl⟩, by decide, by decide +kernel, _, rfl, rfl⟩, ⟨by decide, rfl⟩,
    ⟨_, _, _, rfl, rfl, by decide, by decide, by decide, rfl, rfl, rfl, rfl, rfl, by decide, by decide, rfl, rfl, by decide, _, rfl, rfl⟩,
    ⟨rfl, rfl, rfl, ?_, rfl, ⟨rfl, rfl, rfl⟩, ⟨rfl, by decide, .inr (.inl rfl)⟩, rfl, rfl, rfl, rfl, rfl, by unfold Clean; decide, ?_, ?_, _, rfl, rfl, rfl, ?_, by decide⟩⟩ <;> decide +kernel

/-! ### Words of the encoding tables (chapters 13 to 19) -/

/-- The source statements of the encodings table of 13 (control). -/
theorem test_decode_control : ∀ x ∈ [(0x00000000, Instr.nop), (0x01004100, .mode 0x4100), (0x020000FE, .bra .lit), (0x031200FE, .brp ⟨2, true, 0⟩ .lit),
    (0x0400C6FE, .brs 0 (.s 6) .lit), (0x05000000, .join), (0x06E800FE, .call (.s 40) .lit), (0x06E800CA, .call (.s 40) (.s 10)),
    (0x0700E800, .ret (.s 40)), (0x08000000, .exitLanes), (0x09000000, .regang), (0x0A000009, .waitf 9),
    (0x0A000800, .waitf 0x800), (0x0BCCFED6, .waitt (.s 12) .lit (.s 22)), (0x0C002806, .waitm 40 false true 2), (0x0D00C804, .prefi (.s 8) 4),
    (0x0E000000, .ifence), (0x0F000000, .yield), (0x10000000, .sleep), (0x11000000, .wake),
    (0x12030000, .elect ⟨3, false, 0⟩), (0x13C20000, .gets (.s 2) 0 0), (0x13CA0004, .gets (.s 10) 0 4), (0x13CB230F, .gets (.s 11) 0x23 15),
    (0x1400F005, .sets .zero 5), (0x15000000, .sigchk), (0x16000002, .live 2), (0x17000009, .trap 9),
    (0x18000000, .rft), (0x19000000, .brk), (0x1A000003, .partn 3), (0x1B04C7FE, .brx 4 (.s 7) .lit)],
    decodeTableWord 32 x.1 = some x.2 := by decide +kernel

/-- The source statements of the encodings table of 14 (integer, predicate and float arithmetic). -/
theorem test_decode_arithmetic : ∀ x ∈ [(0x200504FE, Instr.iadd (.v 5) (.v 4) .lit), (0x21C6C6FE, .isub (.s 6) (.s 6) .lit), (0x220A0B0C, .imul (.v 10) (.v 11) (.v 12)), (0x230D0B0C, .imulh (.v 13) (.v 11) (.v 12)),
    (0x240A0BC6, .imad (.v 10) (.v 11) (.s 6)), (0x25141416, .iaddc (.v 20) (.v 20) (.v 22)), (0x26151719, .isubb (.v 21) (.v 23) (.v 25)), (0x27030300, .iabs (.v 3) (.v 3)),
    (0x28040405, .imin (.v 4) (.v 4) (.v 5)), (0x290404F0, .imax (.v 4) (.v 4) .zero), (0x2A0606FE, .andOp (.v 6) (.v 6) .lit), (0x2BC8C8C9, .orOp (.s 8) (.s 8) (.s 9)),
    (0x2C070708, .xorOp (.v 7) (.v 7) (.v 8)), (0x2D070708, .andn (.v 7) (.v 7) (.v 8)), (0x2E0909FE, .shl (.v 9) (.v 9) .lit), (0x2F0909C4, .shr (.v 9) (.v 9) (.s 4)),
    (0x300909FE, .sra (.v 9) (.v 9) .lit), (0x310909FE, .rotl (.v 9) (.v 9) .lit), (0x320A0BFE, .bfe (.v 10) (.v 11) .lit), (0x330A0CFE, .bfi (.v 10) (.v 12) .lit),
    (0x34C5C700, .popc (.s 5) (.s 7)), (0x35020300, .clz (.v 2) (.v 3)), (0x36020200, .brev (.v 2) (.v 2)), (0x37040607, .icmp 0 ⟨4, false, 0⟩ (.v 6) (.v 7)),
    (0x37820607, .icmp 4 ⟨2, false, 0⟩ (.v 6) (.v 7)), (0x37440A0B, .icmp 2 ⟨4, false, 0⟩ (.v 10) (.v 11)), (0x38080607, .sel (.v 8) (.v 6) (.v 7)), (0x3904F100, .mov (.v 4) .lane),
    (0x3A0E0F10, .idiv (.v 14) (.v 15) (.v 16)), (0x3B0E0FFE, .irem (.v 14) (.v 15) .lit), (0x3C050613, .pmov (.v 5) (.v 6) ⟨3, true, 0⟩), (0x3D050213, .plop 0 ⟨5, false, 0⟩ ⟨2, false, 0⟩ ⟨3, true, 0⟩),
    (0x3D4F0000, .plop 2 ⟨15, false, 0⟩ ⟨0, false, 0⟩ ⟨0, false, 0⟩), (0x40141516, .fadd (.v 20) (.v 21) (.v 22)), (0x411415FE, .fsub (.v 20) (.v 21) .lit), (0x42090708, .fmul (.v 9) (.v 7) (.v 8)),
    (0x43141516, .ffma (.v 20) (.v 21) (.v 22)), (0x44080607, .ffms (.v 8) (.v 6) (.v 7)), (0x45030304, .fmin (.v 3) (.v 3) (.v 4)), (0x460303F0, .fmax (.v 3) (.v 3) .zero),
    (0x47050500, .fabs (.v 5) (.v 5)), (0x48050600, .fneg (.v 5) (.v 6)), (0x49461415, .fcmp 2 ⟨6, false, 0⟩ (.v 20) (.v 21)), (0x4A071400, .fclass (.v 7) (.v 20)),
    (0x4B1414FE, .fscale (.v 20) (.v 20) .lit), (0x4C141500, .frnd (.v 20) (.v 21)), (0x4D161400, .frcp (.v 22) (.v 20)), (0x4E161400, .frsq (.v 22) (.v 20)),
    (0x4F040600, .fsqrt (.v 4) (.v 6)), (0x50161415, .fdiv (.v 22) (.v 20) (.v 21)), (0x51171800, .fexp2 (.v 23) (.v 24)), (0x52171800, .flog2 (.v 23) (.v 24)),
    (0x53191A00, .fsin (.v 25) (.v 26)), (0x541B1A00, .fcos (.v 27) (.v 26)), (0x551C1D00, .ftanh (.v 28) (.v 29)), (0x561E1F20, .fdot2 (.v 30) (.v 31) (.v 32))],
    decodeTableWord 32 x.1 = some x.2 := by decide +kernel

/-- The source statements of the encodings table of 15 (conversions and lanes). -/
theorem test_decode_lanes : ∀ x ∈ [(0x60040618, Instr.cvt (.v 4) (.v 6) 1 8), (0x6007082C, .cvt (.v 7) (.v 8) 2 12), (0x610A0608, .cvtr (.v 10) (.v 6) 0 8), (0x621415C8, .qhad (.v 20) (.v 21) (.s 8)),
    (0x631E2803, .form (.v 30) (.v 40) false 3), (0x631F2888, .form (.v 31) (.v 40) true 8), (0x64321E01, .unform (.v 50) (.v 30) false 1), (0x6501FE00, .xclr 1 .lit),
    (0x66010400, .xadd 1 (.v 4) false 0), (0x66010082, .xadd 1 (.v 0) true 2), (0x67000607, .xmad 0 (.v 6) (.v 7)), (0x68080100, .xrnd (.v 8) 1 0),
    (0x68080101, .xrnd (.v 8) 1 1), (0x69020100, .xmov (.v 2) (.v 1) 0 0), (0x690C014A, .xmov (.v 12) (.v 1) 1 10), (0x69030C80, .xmov (.v 3) (.v 12) 2 0),
    (0x6A09CC00, .kgen (.v 9) (.s 12)), (0x70050607, .shfl (.v 5) (.v 6) (.v 7)), (0x71050DFE, .shfx (.v 5) (.v 13) .lit), (0x72080901, .nbr (.v 8) (.v 9) false 1),
    (0x720809A0, .nbr (.v 8) (.v 9) true 32), (0x73D40400, .ballot (.s 20) ⟨4, false, 0⟩), (0x74051400, .vote ⟨5, false, 0⟩ ⟨4, true, 0⟩ 0), (0x750A0D00, .redi (.v 10) (.v 13) 0),
    (0x760A0B02, .redf (.v 10) (.v 11) 2), (0x77000100, .xred 0 1), (0x780C0D80, .scan (.v 12) (.v 13) true 0), (0x790E0D02, .bcast (.v 14) (.v 13) 2)],
    decodeTableWord 32 x.1 = some x.2 := by decide +kernel

/-- The source statements of the encodings table of 16 (memory). -/
theorem test_decode_memory : ∀ x ∈ [(0x8007C409, Instr.ldb (.v 7) (.s 4) (.v 9)), (0x810702FE, .ldsb (.v 7) (.v 2) .lit), (0x820802F0, .ldh (.v 8) (.v 2) .zero), (0x8308C4C6, .ldsh (.v 8) (.s 4) (.s 6)),
    (0x840602FE, .ldw (.v 6) (.v 2) .lit), (0x84C6C4FE, .ldw (.s 6) (.s 4) .lit), (0x850A02F0, .ldd (.v 10) (.v 2) .zero), (0x860C02FE, .ldq (.v 12) (.v 2) .lit),
    (0x870702FE, .stb (.v 7) (.v 2) .lit), (0x880802F0, .sth (.v 8) (.v 2) .zero), (0x8906C409, .stw (.v 6) (.s 4) (.v 9)), (0x89FEC4F0, .stw .lit (.s 4) .zero),
    (0x8A0A02FE, .std (.v 10) (.v 2) .lit), (0x8B0C02F0, .stq (.v 12) (.v 2) .zero), (0x8C06C4F0, .ldaw (.v 6) (.s 4) .zero), (0x8DCAC4F0, .ldad (.s 10) (.s 4) .zero),
    (0x8E06C4FE, .stlw (.v 6) (.s 4) .lit), (0x8FCAC4F0, .stld (.s 10) (.s 4) .zero), (0x900602FE, .aadd (.v 6) (.v 2) .lit), (0x90F0C409, .aadd .zero (.s 4) (.v 9)),
    (0x91060207, .amin (.v 6) (.v 2) (.v 7)), (0x92C6C4C7, .amax (.s 6) (.s 4) (.s 7)), (0x930602FE, .aand (.v 6) (.v 2) .lit), (0x94F00207, .aor .zero (.v 2) (.v 7)),
    (0x95060207, .axor (.v 6) (.v 2) (.v 7)), (0x96060207, .axch (.v 6) (.v 2) (.v 7)), (0x97060208, .acas (.v 6) (.v 2) (.v 8)), (0x97040208, .acas (.v 4) (.v 2) (.v 8)),
    (0x98F00207, .afadd .zero (.v 2) (.v 7)), (0x9906C401, .axsum (.v 6) (.s 4) 1), (0x9AC6C4FE, .ainc (.s 6) (.s 4) .lit), (0x9B000000, .fence),
    (0x9C000000, .fencee), (0x9D060A00, .tagl (.v 6) (.v 10)), (0x9E00C6CA, .tags (.s 6) (.s 10)), (0x9FCCC600, .tagi (.s 12) (.s 6)),
    (0xA000C8FE, .cflush (.s 8) .lit), (0xA10102FE, .pref true (.v 2) .lit), (0xA214C409, .ldfe (.v 20) (.s 4) (.v 9))],
    decodeTableWord 32 x.1 = some x.2 := by decide +kernel

/-- The source statements of the encodings table of 17 (matrix units). -/
theorem test_decode_matrix : ∀ x ∈ [(0xB003FE00, Instr.tcfg 3 .lit), (0xB003CC00, .tcfg 3 (.s 12)), (0xB103C4FE, .tld 3 (.s 4) .lit), (0xB203C8C6, .tst 3 (.s 8) (.s 6)),
    (0xB3021E05, .twr 2 (.v 30) false 5), (0xB3021F86, .twr 2 (.v 31) true 6), (0xB4280205, .trd (.v 40) 2 false 5), (0xB5040000, .tzero 4),
    (0xB68100CA, .mma true 1 0 (.s 10)), (0xB60004CA, .mma false 0 4 (.s 10)), (0xB7020086, .mmat false 2 0 1 6), (0xB8321109, .ard (.v 50) 2 1 (.v 9)),
    (0xB83201FE, .ard (.v 50) 0 1 .lit), (0xB9010000, .aclr 1), (0xBAD4FE00, .igalloc (.s 20) .lit), (0xBBD6D4D8, .igload (.s 22) (.s 20) (.s 24)),
    (0xBC00D400, .igpin (.s 20)), (0xBD00D400, .igunpin (.s 20)), (0xBE00D400, .igrevoke (.s 20)), (0xBFD7D400, .igstat (.s 23) (.s 20))],
    decodeTableWord 32 x.1 = some x.2 := by decide +kernel

/-- The source statements of the encodings table of 18 (ladle, moulds, timelines, barriers and graphs). -/
theorem test_decode_engines : ∀ x ∈ [(0xC0DEC880, Instr.lcopy (.s 30) (.s 8) true false false 0), (0xC0F0D0E2, .lcopy .zero (.s 16) true true true 2), (0xC1DEC825, .lgath (.s 30) (.s 8) false true 5), (0xC2F0D0A5, .lscat .zero (.s 16) true true 5),
    (0xC3F0C800, .lfill .zero (.s 8) false false false 0), (0xC3F0C861, .lfill .zero (.s 8) false true true 1), (0xC405C400, .shld 5 (.s 4)), (0xCF050000, .shev 5),
    (0xC5CC2841, .mset (.s 12) 40 false true false 0 1), (0xC5F02828, .mset .zero 40 false false true 2 0), (0xC5F029C8, .mset .zero 41 true true false 2 0), (0xC6CD2800, .mstat (.s 13) 40),
    (0xC7CEFE00, .tlsig (.s 14) .lit), (0xC8D0FE01, .tlrd (.s 16) .lit true), (0xC900030C, .bar 3 12), (0xCA00030C, .bara 3 12),
    (0xCBD20300, .barw (.s 18) 3), (0xCCD4C4FE, .launch (.s 20) (.s 4) .lit), (0xCDF0C600, .gsig .zero (.s 6)), (0xCED6C6C8, .gadd (.s 22) (.s 6) (.s 8))],
    decodeTableWord 32 x.1 = some x.2 := by decide +kernel

/-- The source statements of the encodings table of 19 (anytime tasks and system control). -/
theorem test_decode_system : ∀ x ∈ [(0xD0CA0000, Instr.pour (.s 10)), (0xD100FE00, .seal .lit), (0xD100C700, .seal (.s 7)), (0xD2D0CCFE, .acqv (.s 16) (.s 12) .lit),
    (0xD3F0CCD1, .relv .zero (.s 12) (.s 17)), (0xD4D4F000, .vstat (.s 20) .zero), (0xD5000000, .doneTask), (0xD6C6D800, .mbox (.s 6) (.s 24) false),
    (0xD6F0CA01, .mbox .zero (.s 10) true), (0xD7000102, .pmark 258), (0xD8CACCFE, .ckpt (.s 10) (.s 12) .lit), (0xD9C6C800, .haltb (.s 6) (.s 8)),
    (0xDAF0C807, .scrub .zero (.s 8) true true true)],
    decodeTableWord 32 x.1 = some x.2 := by decide +kernel

/-! ### Terms that are not well formed: one for each check -/

theorem test_ill_formed_0 : ([Instr.coldStart 1024 {}, .warmStart 1024 false {}, .recoveryWindowWrite 1024 0 [], .recover 1024, .minup 1024, .attGo 1024 0,
    .attGo 0 64, .tokenCheck 1024, .tlbinv 1024 0, .routeTableWrite 1024 0 0, .testRequest 1024 0, .testRequest 0 128,
    .registerWrite 1024 0 0 0, .stagingWrite 1024 0 0 [], .stagingWrite 0 65 0 [], .hostLaunch 1024 0 0, .hostLaunch 0 65 0, .hostGraph 1024 0 0,
    .hostGraph 0 65 0, .hostSignal 1024 0 0, .hostSignal 0 65 0, .hostWait 1024 0 0, .hostWait 0 65 0, .create 1024 0 0,
    .create 0 65 0, .destroy 1024 0 0, .destroy 0 65 0, .bindQueue 1024 0 0, .bindQueue 0 65 0, .unbindQueue 1024 0 0,
    .unbindQueue 0 65 0, .quota 1024 0 0, .quota 0 65 0, .limits 1024 0 0, .limits 0 65 0, .monHalt 1024 0 0,
    .monHalt 0 65 0, .monResume 1024 0 0, .monResume 0 65 0, .monStep 1024 0 0, .monStep 0 65 0, .monReadreg 1024 0 0,
    .monReadreg 0 65 0, .monWritereg 1024 0 0, .monWritereg 0 65 0, .monReadmem 1024 0 0, .monReadmem 0 65 0, .monSetbp 1024 0 0,
    .monSetbp 0 65 0, .monDump 1024 0 0, .monDump 0 65 0, .monOpen 1024 0 0, .monOpen 0 65 0, .monClose 1024 0 0,
    .monClose 0 65 0, .packetStart 64, .nodeStart 64, .nodeComplete 64 0, .slotPrediction 128 0 0, .refreshCommand 4].all fun i => !i.wf) = true := by decide

theorem test_ill_formed_1 : ([Instr.dieFence 4, .powerLimit 0 129 0, .testAttempt 128, .testComplete 128 false, .stepToken 128 0, .ingotLoadComplete 64 0,
    .ladleOpBegin 0 0 4, .ladleOpPerformed 0 0 4 0, .pageWalk 128 0 0, .pageWalk 0 64 0, .transactionFlit 12 [], .idleFlit 12,
    .flitResendRequest 16 0, .retrainRequest 16, .linkIdleTimeout 12, .retrainComplete 12, .patrolScrub 4 0 .clean, .faultDelivery 512,
    .mode 16777216, .bra (.v 192), .brp ⟨16, false, 0⟩ .zero, .brp ⟨0, false, 0⟩ (.v 192), .brs 256 .zero .zero, .brs 0 (.v 192) .zero,
    .brs 0 .zero (.v 192), .call (.v 192) .zero, .call .zero (.v 192), .ret (.v 192), .waitf 4096, .waitt (.v 192) .zero .zero,
    .waitt .zero (.v 192) .zero, .waitt .zero .zero (.v 192), .waitm 256 false false 0, .waitm 0 false false 4, .prefi (.v 192) 0, .prefi .zero 256,
    .elect ⟨16, false, 0⟩, .gets (.v 192) 0 0, .gets .zero 256 0, .gets .zero 0 256, .sets (.v 192) 0, .sets .zero 256,
    .live 65536, .trap 256, .partn 256, .brx 256 .zero .zero, .brx 0 (.v 192) .zero, .brx 0 .zero (.v 192),
    .iadd (.v 192) .zero .zero, .iadd .zero (.v 192) .zero, .iadd .zero .zero (.v 192), .isub (.v 192) .zero .zero, .isub .zero (.v 192) .zero, .isub .zero .zero (.v 192),
    .imul (.v 192) .zero .zero, .imul .zero (.v 192) .zero, .imul .zero .zero (.v 192), .imulh (.v 192) .zero .zero, .imulh .zero (.v 192) .zero, .imulh .zero .zero (.v 192)].all fun i => !i.wf) = true := by decide

theorem test_ill_formed_2 : ([Instr.imad (.v 192) .zero .zero, .imad .zero (.v 192) .zero, .imad .zero .zero (.v 192), .iaddc (.v 192) .zero .zero, .iaddc .zero (.v 192) .zero, .iaddc .zero .zero (.v 192),
    .isubb (.v 192) .zero .zero, .isubb .zero (.v 192) .zero, .isubb .zero .zero (.v 192), .iabs (.v 192) .zero, .iabs .zero (.v 192), .imin (.v 192) .zero .zero,
    .imin .zero (.v 192) .zero, .imin .zero .zero (.v 192), .imax (.v 192) .zero .zero, .imax .zero (.v 192) .zero, .imax .zero .zero (.v 192), .andOp (.v 192) .zero .zero,
    .andOp .zero (.v 192) .zero, .andOp .zero .zero (.v 192), .orOp (.v 192) .zero .zero, .orOp .zero (.v 192) .zero, .orOp .zero .zero (.v 192), .xorOp (.v 192) .zero .zero,
    .xorOp .zero (.v 192) .zero, .xorOp .zero .zero (.v 192), .andn (.v 192) .zero .zero, .andn .zero (.v 192) .zero, .andn .zero .zero (.v 192), .shl (.v 192) .zero .zero,
    .shl .zero (.v 192) .zero, .shl .zero .zero (.v 192), .shr (.v 192) .zero .zero, .shr .zero (.v 192) .zero, .shr .zero .zero (.v 192), .sra (.v 192) .zero .zero,
    .sra .zero (.v 192) .zero, .sra .zero .zero (.v 192), .rotl (.v 192) .zero .zero, .rotl .zero (.v 192) .zero, .rotl .zero .zero (.v 192), .bfe (.v 192) .zero .zero,
    .bfe .zero (.v 192) .zero, .bfe .zero .zero (.v 192), .bfi (.v 192) .zero .zero, .bfi .zero (.v 192) .zero, .bfi .zero .zero (.v 192), .popc (.v 192) .zero,
    .popc .zero (.v 192), .clz (.v 192) .zero, .clz .zero (.v 192), .brev (.v 192) .zero, .brev .zero (.v 192), .icmp 8 ⟨0, false, 0⟩ .zero .zero,
    .icmp 0 ⟨16, false, 0⟩ .zero .zero, .icmp 0 ⟨0, false, 1⟩ .zero .zero, .icmp 0 ⟨0, false, 0⟩ (.v 192) .zero, .icmp 0 ⟨0, false, 0⟩ .zero (.v 192), .sel (.v 192) .zero .zero, .sel .zero (.v 192) .zero].all fun i => !i.wf) = true := by decide

theorem test_ill_formed_3 : ([Instr.sel .zero .zero (.v 192), .mov (.v 192) .zero, .mov .zero (.v 192), .idiv (.v 192) .zero .zero, .idiv .zero (.v 192) .zero, .idiv .zero .zero (.v 192),
    .irem (.v 192) .zero .zero, .irem .zero (.v 192) .zero, .irem .zero .zero (.v 192), .pmov (.v 192) .zero ⟨0, false, 0⟩, .pmov .zero (.v 192) ⟨0, false, 0⟩, .pmov .zero .zero ⟨16, false, 0⟩,
    .plop 8 ⟨0, false, 0⟩ ⟨0, false, 0⟩ ⟨0, false, 0⟩, .plop 0 ⟨16, false, 0⟩ ⟨0, false, 0⟩ ⟨0, false, 0⟩, .plop 0 ⟨0, false, 1⟩ ⟨0, false, 0⟩ ⟨0, false, 0⟩, .plop 0 ⟨0, false, 0⟩ ⟨16, false, 0⟩ ⟨0, false, 0⟩, .plop 0 ⟨0, false, 0⟩ ⟨0, false, 0⟩ ⟨16, false, 0⟩, .fadd (.v 192) .zero .zero,
    .fadd .zero (.v 192) .zero, .fadd .zero .zero (.v 192), .fsub (.v 192) .zero .zero, .fsub .zero (.v 192) .zero, .fsub .zero .zero (.v 192), .fmul (.v 192) .zero .zero,
    .fmul .zero (.v 192) .zero, .fmul .zero .zero (.v 192), .ffma (.v 192) .zero .zero, .ffma .zero (.v 192) .zero, .ffma .zero .zero (.v 192), .ffms (.v 192) .zero .zero,
    .ffms .zero (.v 192) .zero, .ffms .zero .zero (.v 192), .fmin (.v 192) .zero .zero, .fmin .zero (.v 192) .zero, .fmin .zero .zero (.v 192), .fmax (.v 192) .zero .zero,
    .fmax .zero (.v 192) .zero, .fmax .zero .zero (.v 192), .fabs (.v 192) .zero, .fabs .zero (.v 192), .fneg (.v 192) .zero, .fneg .zero (.v 192),
    .fcmp 8 ⟨0, false, 0⟩ .zero .zero, .fcmp 0 ⟨16, false, 0⟩ .zero .zero, .fcmp 0 ⟨0, false, 1⟩ .zero .zero, .fcmp 0 ⟨0, false, 0⟩ (.v 192) .zero, .fcmp 0 ⟨0, false, 0⟩ .zero (.v 192), .fclass (.v 192) .zero,
    .fclass .zero (.v 192), .fscale (.v 192) .zero .zero, .fscale .zero (.v 192) .zero, .fscale .zero .zero (.v 192), .frnd (.v 192) .zero, .frnd .zero (.v 192),
    .frcp (.v 192) .zero, .frcp .zero (.v 192), .frsq (.v 192) .zero, .frsq .zero (.v 192), .fsqrt (.v 192) .zero, .fsqrt .zero (.v 192)].all fun i => !i.wf) = true := by decide

theorem test_ill_formed_4 : ([Instr.fdiv (.v 192) .zero .zero, .fdiv .zero (.v 192) .zero, .fdiv .zero .zero (.v 192), .fexp2 (.v 192) .zero, .fexp2 .zero (.v 192), .flog2 (.v 192) .zero,
    .flog2 .zero (.v 192), .fsin (.v 192) .zero, .fsin .zero (.v 192), .fcos (.v 192) .zero, .fcos .zero (.v 192), .ftanh (.v 192) .zero,
    .ftanh .zero (.v 192), .fdot2 (.v 192) .zero .zero, .fdot2 .zero (.v 192) .zero, .fdot2 .zero .zero (.v 192), .cvt (.v 192) .zero 0 0, .cvt .zero (.v 192) 0 0,
    .cvt .zero .zero 8 0, .cvt .zero .zero 0 16, .cvtr (.v 192) .zero 0 0, .cvtr .zero (.v 192) 0 0, .cvtr .zero .zero 8 0, .cvtr .zero .zero 0 16,
    .qhad (.v 192) .zero .zero, .qhad .zero (.v 192) .zero, .qhad .zero .zero (.v 192), .form (.v 192) .zero false 0, .form .zero (.v 192) false 0, .form .zero .zero false 16,
    .unform (.v 192) .zero false 0, .unform .zero (.v 192) false 0, .unform .zero .zero false 4, .xclr 256 .zero, .xclr 0 (.v 192), .xadd 256 .zero false 0,
    .xadd 0 (.v 192) false 0, .xadd 0 .zero false 128, .xmad 256 .zero .zero, .xmad 0 (.v 192) .zero, .xmad 0 .zero (.v 192), .xrnd (.v 192) 0 0,
    .xrnd .zero 256 0, .xrnd .zero 0 256, .xmov (.v 192) .zero 0 0, .xmov .zero (.v 192) 0 0, .xmov .zero .zero 4 0, .xmov .zero .zero 0 16,
    .kgen (.v 192) .zero, .kgen .zero (.v 192), .shfl (.v 192) .zero .zero, .shfl .zero (.v 192) .zero, .shfl .zero .zero (.v 192), .shfx (.v 192) .zero .zero,
    .shfx .zero (.v 192) .zero, .shfx .zero .zero (.v 192), .nbr (.v 192) .zero false 0, .nbr .zero (.v 192) false 0, .nbr .zero .zero false 64, .ballot (.v 192) ⟨0, false, 0⟩].all fun i => !i.wf) = true := by decide

theorem test_ill_formed_5 : ([Instr.ballot .zero ⟨16, false, 0⟩, .vote ⟨16, false, 0⟩ ⟨0, false, 0⟩ 0, .vote ⟨0, false, 0⟩ ⟨16, false, 0⟩ 0, .vote ⟨0, false, 0⟩ ⟨0, false, 0⟩ 256, .redi (.v 192) .zero 0, .redi .zero (.v 192) 0,
    .redi .zero .zero 256, .redf (.v 192) .zero 0, .redf .zero (.v 192) 0, .redf .zero .zero 256, .xred 256 0, .xred 0 256,
    .scan (.v 192) .zero false 0, .scan .zero (.v 192) false 0, .scan .zero .zero false 8, .bcast (.v 192) .zero 0, .bcast .zero (.v 192) 0, .bcast .zero .zero 256,
    .ldb (.v 192) .zero .zero, .ldb .zero (.v 192) .zero, .ldb .zero .zero (.v 192), .ldsb (.v 192) .zero .zero, .ldsb .zero (.v 192) .zero, .ldsb .zero .zero (.v 192),
    .ldh (.v 192) .zero .zero, .ldh .zero (.v 192) .zero, .ldh .zero .zero (.v 192), .ldsh (.v 192) .zero .zero, .ldsh .zero (.v 192) .zero, .ldsh .zero .zero (.v 192),
    .ldw (.v 192) .zero .zero, .ldw .zero (.v 192) .zero, .ldw .zero .zero (.v 192), .ldd (.v 192) .zero .zero, .ldd .zero (.v 192) .zero, .ldd .zero .zero (.v 192),
    .ldq (.v 192) .zero .zero, .ldq .zero (.v 192) .zero, .ldq .zero .zero (.v 192), .stb (.v 192) .zero .zero, .stb .zero (.v 192) .zero, .stb .zero .zero (.v 192),
    .sth (.v 192) .zero .zero, .sth .zero (.v 192) .zero, .sth .zero .zero (.v 192), .stw (.v 192) .zero .zero, .stw .zero (.v 192) .zero, .stw .zero .zero (.v 192),
    .std (.v 192) .zero .zero, .std .zero (.v 192) .zero, .std .zero .zero (.v 192), .stq (.v 192) .zero .zero, .stq .zero (.v 192) .zero, .stq .zero .zero (.v 192),
    .ldaw (.v 192) .zero .zero, .ldaw .zero (.v 192) .zero, .ldaw .zero .zero (.v 192), .ldad (.v 192) .zero .zero, .ldad .zero (.v 192) .zero, .ldad .zero .zero (.v 192)].all fun i => !i.wf) = true := by decide

theorem test_ill_formed_6 : ([Instr.stlw (.v 192) .zero .zero, .stlw .zero (.v 192) .zero, .stlw .zero .zero (.v 192), .stld (.v 192) .zero .zero, .stld .zero (.v 192) .zero, .stld .zero .zero (.v 192),
    .aadd (.v 192) .zero .zero, .aadd .zero (.v 192) .zero, .aadd .zero .zero (.v 192), .amin (.v 192) .zero .zero, .amin .zero (.v 192) .zero, .amin .zero .zero (.v 192),
    .amax (.v 192) .zero .zero, .amax .zero (.v 192) .zero, .amax .zero .zero (.v 192), .aand (.v 192) .zero .zero, .aand .zero (.v 192) .zero, .aand .zero .zero (.v 192),
    .aor (.v 192) .zero .zero, .aor .zero (.v 192) .zero, .aor .zero .zero (.v 192), .axor (.v 192) .zero .zero, .axor .zero (.v 192) .zero, .axor .zero .zero (.v 192),
    .axch (.v 192) .zero .zero, .axch .zero (.v 192) .zero, .axch .zero .zero (.v 192), .acas (.v 192) .zero .zero, .acas .zero (.v 192) .zero, .acas .zero .zero (.v 192),
    .afadd (.v 192) .zero .zero, .afadd .zero (.v 192) .zero, .afadd .zero .zero (.v 192), .axsum (.v 192) .zero 0, .axsum .zero (.v 192) 0, .axsum .zero .zero 256,
    .ainc (.v 192) .zero .zero, .ainc .zero (.v 192) .zero, .ainc .zero .zero (.v 192), .tagl (.v 192) .zero, .tagl .zero (.v 192), .tags (.v 192) .zero,
    .tags .zero (.v 192), .tagi (.v 192) .zero, .tagi .zero (.v 192), .cflush (.v 192) .zero, .cflush .zero (.v 192), .pref false (.v 192) .zero,
    .pref false .zero (.v 192), .ldfe (.v 192) .zero .zero, .ldfe .zero (.v 192) .zero, .ldfe .zero .zero (.v 192), .tcfg 256 .zero, .tcfg 0 (.v 192),
    .tld 256 .zero .zero, .tld 0 (.v 192) .zero, .tld 0 .zero (.v 192), .tst 256 .zero .zero, .tst 0 (.v 192) .zero, .tst 0 .zero (.v 192)].all fun i => !i.wf) = true := by decide

theorem test_ill_formed_7 : ([Instr.twr 256 .zero false 0, .twr 0 (.v 192) false 0, .twr 0 .zero false 64, .trd (.v 192) 0 false 0, .trd .zero 256 false 0, .trd .zero 0 false 64,
    .tzero 256, .mma false 8 0 .zero, .mma false 0 256 .zero, .mma false 0 0 (.v 192), .mmat false 8 0 0 0, .mmat false 0 256 0 0,
    .mmat false 0 0 2 0, .mmat false 0 0 0 32, .ard (.v 192) 0 0 .zero, .ard .zero 4 0 .zero, .ard .zero 0 8 .zero, .ard .zero 0 0 (.v 192),
    .aclr 256, .igalloc (.v 192) .zero, .igalloc .zero (.v 192), .igload (.v 192) .zero .zero, .igload .zero (.v 192) .zero, .igload .zero .zero (.v 192),
    .igpin (.v 192), .igunpin (.v 192), .igrevoke (.v 192), .igstat (.v 192) .zero, .igstat .zero (.v 192), .lcopy (.v 192) .zero false false false 0,
    .lcopy .zero (.v 192) false false false 0, .lcopy .zero .zero false false false 32, .lgath (.v 192) .zero false false 0, .lgath .zero (.v 192) false false 0, .lgath .zero .zero false false 32, .lscat (.v 192) .zero false false 0,
    .lscat .zero (.v 192) false false 0, .lscat .zero .zero false false 32, .lfill (.v 192) .zero false false false 0, .lfill .zero (.v 192) false false false 0, .lfill .zero .zero false false false 32, .shld 32 .zero,
    .shld 0 (.v 192), .mset (.v 192) 0 false false false 0 0, .mset .zero 256 false false false 0 0, .mset .zero 0 false false false 4 0, .mset .zero 0 false false false 0 4, .mstat (.v 192) 0,
    .mstat .zero 256, .tlsig (.v 192) .zero, .tlsig .zero (.v 192), .tlrd (.v 192) .zero false, .tlrd .zero (.v 192) false, .bar 256 0,
    .bar 0 128, .bara 256 0, .bara 0 128, .barw (.v 192) 0, .barw .zero 256, .launch (.v 192) .zero .zero].all fun i => !i.wf) = true := by decide

theorem test_ill_formed_8 : ([Instr.launch .zero (.v 192) .zero, .launch .zero .zero (.v 192), .gsig (.v 192) .zero, .gsig .zero (.v 192), .gadd (.v 192) .zero .zero, .gadd .zero (.v 192) .zero,
    .gadd .zero .zero (.v 192), .shev 32, .pour (.v 192), .seal (.v 192), .acqv (.v 192) .zero .zero, .acqv .zero (.v 192) .zero,
    .acqv .zero .zero (.v 192), .relv (.v 192) .zero .zero, .relv .zero (.v 192) .zero, .relv .zero .zero (.v 192), .vstat (.v 192) .zero, .vstat .zero (.v 192),
    .mbox (.v 192) .zero false, .mbox .zero (.v 192) false, .pmark 65536, .ckpt (.v 192) .zero .zero, .ckpt .zero (.v 192) .zero, .ckpt .zero .zero (.v 192),
    .haltb (.v 192) .zero, .haltb .zero (.v 192), .scrub (.v 192) .zero false false false, .scrub .zero (.v 192) false false false].all fun i => !i.wf) = true := by decide

/-! ### Encoding, steps and the memory's form -/

/-- A well-formed instruction that has a word, and a word that decodes. -/
theorem test_encoding_witness : (∃ i w, i.wf = true ∧ encode i = some w) ∧ ∃ w i, w < 2 ^ 32 ∧ decodeWord w = .ok i :=
  ⟨⟨.iadd (.v 5) (.v 4) .lit, 0x200504FE, by decide, by decide⟩, 0x200504FE, .iadd (.v 5) (.v 4) .lit, by decide, rfl⟩

/-- The next move issues the probe's path, which stands at an IADD; an event; time. -/
theorem test_step_witness : (let s : State := { S 0x220A0B0C with moves := [.issue (.user 1 0 0) 0], cur := none }
    let u : State := { s with moves := [] }
    ∃ e l c i, s.moves = .issue (.user 1 0 0) 0 :: [] ∧ u.env? (.user 1 0 0) 0 = some e ∧ u.mayIssue e = true ∧ u.atBreak e = false ∧ e.path.buf = some l
      ∧ l.base.toNat ≤ e.pc.toNat ∧ e.pc.toNat < l.base.toNat + 128 ∧ e.path.clause = some c ∧ e.pc.toNat % 128 / 4 ≤ c.last ∧ l.kind (e.pc.toNat % 128 / 4) = 0
      ∧ l.base.toNat % 128 = 0 ∧ decodeWord (l.word (e.pc.toNat % 128 / 4)).toNat = .ok i)
    ∧ (∃ s : State, s.moves = .event .ageing :: []) ∧ ∃ s : State, s.moves = .pass 5 :: [] := by
  refine ⟨⟨_, _, _, .imul (.v 10) (.v 11) (.v 12), rfl, rfl, ?_, ?_, rfl, ?_, ?_, rfl, ?_, ?_, ?_, rfl⟩, ⟨{ moves := [_] }, rfl⟩, { moves := [_] }, rfl⟩ <;> decide +kernel

/-- A step from a state whose memory has the canonical form and holds a byte. -/
theorem test_canonical_witness : let s : State := { State.reset with mem := putBytes [] 5 [1, 0, 2], moves := [.event .ageing] }
    State.reset.memWf = true ∧ s.memWf = true ∧ ∃ t, step s = .next t := ⟨by decide, by decide, _, rfl⟩

/-! ### Single steps, with results calculated by hand from the rules named -/

/-- Vector register `r` of lane `l` after an outcome. -/
def laneOf (o : Host.Outcome State Fault Refusal) (r l : Nat) : Option Word :=
  match o with
  | .next t => (t.wave? (.user 1 0 0)).map fun w => (w.getV r l).bits
  | _ => none

/-- A binary instruction on v1 and v2, with the element type and modes `m`, of the word `w`: v3 of lane 0. -/
def binary (i : Instr) (w : Nat) (m : BitVec 24) (a b : Word) : Option Word :=
  laneOf (exec i (S w fun x => inMode m (vector 2 (fun _ => b) (vector 1 (fun _ => a) x)))) 3 0

/-- R334, R338: a sum wraps. -/
theorem test_iadd_wraps : binary (.iadd (.v 3) (.v 1) (.v 2)) 0x20030102 0 0xFFFFFFFF 2 = some 1 := by decide +kernel

/-- R338: the order of a difference. -/
theorem test_isub_order : binary (.isub (.v 3) (.v 1) (.v 2)) 0x21030102 0 5 7 = some 0xFFFFFFFE := by decide +kernel

/-- R338: the high half of a signed product: (−1) · (−1) = 1. -/
theorem test_imulh_signed : binary (.imulh (.v 3) (.v 1) (.v 2)) 0x23030102 0 0xFFFFFFFF 0xFFFFFFFF = some 0 := by decide +kernel

/-- R341: SRA keeps the sign. -/
theorem test_sra_sign : binary (.sra (.v 3) (.v 1) (.v 2)) 0x30030102 0 0x80000000 4 = some 0xF8000000 := by decide +kernel

/-- R341: ANDN clears the bits of B. -/
theorem test_andn_operand : binary (.andn (.v 3) (.v 1) (.v 2)) 0x2D030102 0 0xFF 0x0F = some 0xF0 := by decide +kernel

/-- R345, R346: 1.5 − 0.25 = 1.25 in f32. -/
theorem test_fsub_exact : binary (.fsub (.v 3) (.v 1) (.v 2)) 0x41030102 modeF32 0x3FC00000 0x3E800000 = some 0x3FA00000 := by decide +kernel

/-- R345, R347: 1 / 3 in f32, to nearest even. -/
theorem test_fdiv_rounds : binary (.fdiv (.v 3) (.v 1) (.v 2)) 0x50030102 modeF32 0x3F800000 0x40400000 = some 0x3EAAAAAB := by decide +kernel

/-- R380: LDSB extends the sign of the byte at the address. -/
theorem test_ldsb_extends : laneOf (exec (.ldsb (.v 7) (.s 8) .zero) (bytesAt 0x10000 [0x80, 1] (mapped 0 (S 0x8107C8F0 (pairAt 0x10000))))) 7 3 = some 0xFFFFFF80 := by
  decide +kernel

/-- R3, R380: STH stores two bytes, the low one first. -/
theorem test_sth_order : (match exec (.sth (.v 7) (.s 8) .zero) (mapped 0 (S 0x8807C8F0 fun w => pairAt 0x10000 (vector 7 (fun _ => 0xAABBCCDD) w))) with
    | .next t => t.readLocal 0x0FFFF 4
    | _ => []) = [0, 0xDD, 0xCC, 0] := by decide +kernel

/-- R384: AINC leaves a count that has reached its bound. -/
theorem test_ainc_bound : (match exec (.ainc (.s 4) (.s 8) (.s 6)) (bytesAt 0x10000 [3] (mapped 0 (S 0x9AC4C8C6 fun w => scalar 6 3 ((pairAt 0x10000 w).setPath 0 { w.path 0 with slices := 1, active := 0xF })))) with
    | .next t => t.readLocal 0x10000 4
    | _ => []) = [3, 0, 0, 0] := by decide +kernel

/-- R328: TRAP 9 raises the software trap with its code as the cause. -/
theorem test_trap_cause : (match exec (.trap 9) (S 0x17000009) with
    | .next t => ((t.core 0).records.map fun x => x.2.map fun r => (r.code, r.cause))
    | _ => []) = [some (0x71, 9)] := by decide +kernel

end Sys2Proof.Tests
end

section
/-! SUPPORT. Masks of lanes and slices, bit by bit: what `bitsBelow`, `maskOf`, `sliceLanes` and sums of `atSlice` hold. -/

namespace Sys2Proof.Machine

theorem bitOf_eq_testBit (x i : Nat) : bitOf x i = x.testBit i := by
  rw [Nat.testBit_eq_decide_div_mod_eq, bitOf, Nat.shiftRight_eq_div_pow]
  rfl

theorem bitOf_toNat {n : Nat} (x : BitVec n) (i : Nat) : bitOf x.toNat i = x.getLsbD i := bitOf_eq_testBit _ _

theorem mem_bitsBelow {n i : Nat} {k : Nat} (x : BitVec k) : i ∈ bitsBelow n x.toNat ↔ i < n ∧ x.getLsbD i = true := by
  simp only [bitsBelow, upto, List.mem_filter, List.mem_range, bitOf_toNat]

theorem nodup_bitsBelow (n m : Nat) : (bitsBelow n m).Nodup := List.nodup_range.filter _

theorem mem_lanesOf {m : Word} {L : Nat} : L ∈ lanesOf m ↔ m.getLsbD L = true :=
  (mem_bitsBelow m).trans ⟨And.right, fun h => ⟨BitVec.lt_of_getLsbD h, h⟩⟩

theorem getLsbD_sliceLanes (m : Word) (j i : Nat) : (sliceLanes m j).getLsbD i = (decide (i < 4) && m.getLsbD (4 * j + i)) := by
  rw [sliceLanes, BitVec.getLsbD_ofNat, Nat.testBit_shiftRight]
  rfl

theorem testBit_maskOf (l : Nats) (j : Nat) : (maskOf l).testBit j = decide (j ∈ l) := by
  have key : ∀ (l : Nats) (m : Nat), (l.foldl (fun m i => m ||| 2 ^ i) m).testBit j = (m.testBit j || decide (j ∈ l)) := by
    intro l
    induction l with
    | nil => intro m; simp
    | cons a t ih =>
      intro m
      simp only [List.foldl_cons, ih, Nat.testBit_or, Nat.testBit_two_pow, List.mem_cons, Bool.decide_or, Bool.or_assoc,
        eq_comm (a := a)]
  rw [maskOf, key, Nat.zero_testBit, Bool.false_or]

theorem getLsbD_atSlice (m : BitVec 4) (j L : Nat) :
    (BitVec.ofNat 32 (atSlice m j)).getLsbD L = (decide (L < 32) && decide (L / 4 = j) && m.getLsbD (L % 4)) := by
  rw [BitVec.getLsbD_ofNat, atSlice, Nat.testBit_shiftLeft, Bool.and_assoc]
  congr 1
  by_cases hj : L / 4 = j
  · have h4 : L - 4 * j = L % 4 := by omega
    rw [h4, decide_eq_true hj, decide_eq_true (by omega : L ≥ 4 * j)]
    rfl
  · rw [decide_eq_false hj, Bool.false_and]
    by_cases hl : L ≥ 4 * j
    · rw [BitVec.testBit_toNat, BitVec.getLsbD_of_ge _ _ (by omega), Bool.and_false]
    · rw [decide_eq_false hl, Bool.false_and]

/-- Slices' four-lane masks put side by side. -/
theorem getLsbD_slicesMask (f : Nat → BitVec 4) (L : Nat) : ∀ l : Nats, l.Nodup →
    (BitVec.ofNat 32 ((l.map fun j => atSlice (f j) j).sum)).getLsbD L
      = (decide (L < 32) && decide (L / 4 ∈ l) && (f (L / 4)).getLsbD (L % 4))
  | [], _ => by simp
  | j :: t, hn => by
    rw [List.nodup_cons] at hn
    have ih := fun L => getLsbD_slicesMask f L t hn.2
    have hd : BitVec.ofNat 32 (atSlice (f j) j) &&& BitVec.ofNat 32 ((t.map fun j => atSlice (f j) j).sum) = 0#32 := by
      refine BitVec.eq_of_getLsbD_eq fun K _ => ?_
      rw [BitVec.getLsbD_and, getLsbD_atSlice, ih K]
      by_cases hK : K / 4 = j
      · simp [hK, hn.1]
      · simp [hK]
    rw [List.map_cons, List.sum_cons, BitVec.ofNat_add, BitVec.add_eq_or_of_and_eq_zero _ _ hd, BitVec.getLsbD_or,
      getLsbD_atSlice, ih L]
    by_cases hj : L / 4 = j
    · simp [hj, hn.1]
    · simp [hj]

/-- Masks joined one after another. -/
theorem getLsbD_foldl_or {α : Type} {n : Nat} (f : α → BitVec n) (i : Nat) (l : List α) :
    (l.foldl (fun a x => a ||| f x) 0).getLsbD i = l.any fun x => (f x).getLsbD i := by
  have key : ∀ (l : List α) (a : BitVec n), (l.foldl (fun a x => a ||| f x) a).getLsbD i
      = (a.getLsbD i || l.any fun x => (f x).getLsbD i) := by
    intro l
    induction l with
    | nil => intro a; simp
    | cons x t ih => intro a; rw [List.foldl_cons, ih, BitVec.getLsbD_or, List.any_cons, Bool.or_assoc]
  rw [key]
  simp

/-- A slice's lanes are all ended when each of the four is. -/
theorem eq_fifteen_iff {x : BitVec 4} : x = 0xF ↔ ∀ i, i < 4 → x.getLsbD i = true := by
  have fifteen : ∀ i, i < 4 → (0xF : BitVec 4).getLsbD i = true := by decide
  refine ⟨fun hx => hx ▸ fifteen, fun h => BitVec.eq_of_getLsbD_eq fun i hi => ?_⟩
  exact (h i hi).trans (fifteen i hi).symm

/-! ### The lanes and slices of paths -/

theorem Wave.mem_pathSlices {w : Wave} {p j : Nat} :
    j ∈ w.pathSlices p ↔ (w.path p).slices.getLsbD j = true ∧ (w.slice j).exited = false := by
  simp only [Wave.pathSlices, List.mem_filter, mem_bitsBelow, Bool.not_eq_true']
  exact ⟨fun h => ⟨h.1.2, h.2⟩, fun h => ⟨⟨BitVec.lt_of_getLsbD h.1, h.1⟩, h.2⟩⟩

theorem Wave.lt_of_mem_pathSlices {w : Wave} {p j : Nat} (h : j ∈ w.pathSlices p) : j < 8 :=
  BitVec.lt_of_getLsbD (Wave.mem_pathSlices.mp h).1

theorem Wave.nodup_pathSlices (w : Wave) (p : Nat) : (w.pathSlices p).Nodup := (nodup_bitsBelow _ _).filter _

theorem Wave.getLsbD_pathLanes (w : Wave) (p L : Nat) :
    (w.pathLanes p).getLsbD L = (decide (L < 32) && (w.path p).slices.getLsbD (L / 4)) := by
  rw [Wave.pathLanes, getLsbD_slicesMask (fun _ => 0xF) L _ (nodup_bitsBelow _ _)]
  have hF : (0xF : BitVec 4).getLsbD (L % 4) = true := eq_fifteen_iff.mp rfl _ (Nat.mod_lt _ (by decide))
  rw [hF, Bool.and_true]
  simp only [mem_bitsBelow]
  by_cases hL : L < 32
  · have : L / 4 < 8 := by omega
    simp [this]
  · simp [hL]

theorem Wave.getLsbD_endedLanes (w : Wave) (L : Nat) :
    w.endedLanes.getLsbD L = (decide (L < 32) && (w.slice (L / 4)).ended.getLsbD (L % 4)) := by
  rw [Wave.endedLanes, getLsbD_slicesMask (fun j => (w.slice j).ended) L (upto 8) List.nodup_range]
  by_cases hL : L < 32
  · have : L / 4 < 8 := by omega
    simp [upto, this]
  · simp [hL]

theorem Wave.getLsbD_enabledLanes (w : Wave) (b : BitVec 8) (L : Nat) :
    (w.enabledLanes (bitsBelow 8 b.toNat)).getLsbD L
      = (b.getLsbD (L / 4) && (w.slice (L / 4)).live.getLsbD (L % 4)) := by
  rw [Wave.enabledLanes, getLsbD_slicesMask (fun j => (w.slice j).enabled &&& ~~~(w.slice j).ended) L _ (nodup_bitsBelow _ _)]
  simp only [mem_bitsBelow, Slice.live]
  by_cases hb : b.getLsbD (L / 4) = true
  · have h8 : L / 4 < 8 := BitVec.lt_of_getLsbD hb
    have hL : L < 32 := by omega
    simp [hb, h8, hL]
  · simp [hb]

/-- An active lane lies in one of its path's slices (R274). -/
theorem Wave.slice_of_activeLanes {w : Wave} {p L : Nat} (h : (w.activeLanes p).getLsbD L = true) : L / 4 ∈ w.pathSlices p := by
  rw [Wave.activeLanes, BitVec.getLsbD_and, getLsbD_slicesMask _ L _ (w.nodup_pathSlices p)] at h
  simp only [Bool.and_eq_true, decide_eq_true_eq] at h
  exact h.2.1.2

end Sys2Proof.Machine
end

section
/-! SUPPORT. What a completed issue leaves of its wave, in line or by transfer, and frames of waves. -/

namespace Sys2Proof.Claims

open Sys2Proof.Machine

theorem onlyPaths_setPath (w : Wave) (p : Nat) (x : Path) : onlyPaths w (w.setPath p x) := rfl

theorem onlyPaths.trans {w w1 w2 : Wave} (h1 : onlyPaths w w1) (h2 : onlyPaths w1 w2) : onlyPaths w w2 := by
  have h := congrArg (fun v : Wave => { v with paths := w.paths }) h2
  exact h.trans h1

theorem onlySlices_refl (w : Wave) : onlySlices w w := rfl

theorem onlySlices_setPath (w : Wave) (p : Nat) (x : Path) : onlySlices w (w.setPath p x) := rfl

theorem onlySlices_mapSlice (w : Wave) (i : Nat) (f : Slice → Slice) : onlySlices w (w.mapSlice i f) := rfl

theorem onlySlices.trans {w w1 w2 : Wave} (h1 : onlySlices w w1) (h2 : onlySlices w1 w2) : onlySlices w w2 := by
  have h := congrArg (fun v : Wave => { v with slices := w.slices, paths := w.paths }) h2
  exact h.trans h1

end Sys2Proof.Claims

namespace Sys2Proof.Machine

open Sys2Proof.Claims

/-! ### Slices changed one after another -/

theorem Wave.slices_length_foldl_mapSlice (f : Nat → Slice → Slice) : ∀ (l : Nats) (w : Wave),
    (l.foldl (fun w j => w.mapSlice j (f j)) w).slices.length = w.slices.length
  | [], _ => rfl
  | _ :: t, _ => (Wave.slices_length_foldl_mapSlice f t _).trans (length_setNth _ _ _)

theorem Wave.paths_foldl_mapSlice (f : Nat → Slice → Slice) : ∀ (l : Nats) (w : Wave),
    (l.foldl (fun w j => w.mapSlice j (f j)) w).paths = w.paths
  | [], _ => rfl
  | j :: t, w => Wave.paths_foldl_mapSlice f t (w.mapSlice j (f j))

theorem Wave.onlySlices_foldl_mapSlice (f : Nat → Slice → Slice) : ∀ (l : Nats) (w : Wave),
    onlySlices w (l.foldl (fun w j => w.mapSlice j (f j)) w)
  | [], w => onlySlices_refl w
  | j :: t, w => (onlySlices_mapSlice w j (f j)).trans (Wave.onlySlices_foldl_mapSlice f t _)

theorem Wave.slice_mapSlice (w : Wave) (i j : Nat) (f : Slice → Slice) (hi : i < w.slices.length) :
    (w.mapSlice i f).slice j = if j = i then f (w.slice j) else w.slice j := by
  by_cases h : j = i
  · subst h; rw [if_pos rfl]; exact Wave.slice_setSlice_same _ _ _ hi
  · rw [if_neg h]; exact Wave.slice_setSlice_ne _ h _

theorem Wave.slice_foldl_mapSlice (f : Nat → Slice → Slice) (j : Nat) : ∀ (l : Nats) (w : Wave), l.Nodup →
    (∀ i ∈ l, i < w.slices.length) →
    (l.foldl (fun w j => w.mapSlice j (f j)) w).slice j = if j ∈ l then f j (w.slice j) else w.slice j
  | [], _, _, _ => rfl
  | i :: t, w, hn, hl => by
    rw [List.nodup_cons] at hn
    have hi : i < w.slices.length := hl i List.mem_cons_self
    rw [List.foldl_cons, Wave.slice_foldl_mapSlice f j t _ hn.2
      (fun k hk => (length_setNth _ _ _).symm ▸ hl k (List.mem_cons_of_mem _ hk)), Wave.slice_mapSlice w i j _ hi]
    by_cases hj : j = i
    · subst hj; simp [hn.1]
    · simp [hj]

theorem Wrote.paths {w w' : Wave} {d : Dst} {n : Nat} {us : Nats} {v : Nat → Nat × Bool} (h : Wrote w w' d n us v) :
    w'.paths = w.paths := by
  have hp := congrArg Wave.paths h.rest
  exact hp

/-- Different waves put in one place give different states. -/
theorem State.setWave_inj {s : State} {r : WaveRef} {w u v : Wave} (h : s.wave? r = some w)
    (he : s.setWave r u = s.setWave r v) : u = v := by
  have hu := State.wave?_setWave s r w u h
  rw [he, State.wave?_setWave s r w v h] at hu
  exact (Option.some.inj hu).symm

/-! ### Completing -/

/-- The wave after its issuing path has completed an instruction and its slices have gone where `nx` says: `State.finish`
on the wave alone (R126, R260, R278). -/
def Wave.completed (w : Wave) (e : Env) (op lits : Nat) (nx : Next) (remask sig : Bool) : Wave :=
  let y := w.path e.p
  let w := w.setPath e.p { y with
    state := if y.state = .blocked ∨ y.state = .regang then .run else y.state, wait := .none, paused := false, done := 0
    sig := if sig then sigIssue e.path.sig op (e.path.active ^^^ e.path.ref) else y.sig
    ref := if remask then y.active else y.ref }
  match nx with
  | .seq => w.setPath e.p { w.path e.p with pc := (e.after lits).1, clause := (e.after lits).2 }
  | .to l => w.goTo e.p l (e.after lits).1 (e.after lits).2

theorem State.finish_eq {s : State} {e : Env} {w : Wave} (op : Nat) (x : Eff) (hw : s.wave? e.ref = some w) :
    s.finish e op x = s.setWave e.ref (w.completed e op x.lits x.next x.remask x.sig) := by
  unfold State.finish Wave.completed
  rw [hw]
  cases x.next <;> rfl

/-- A completed instruction that leaves wave `w`, in line or by transfer. -/
theorem Issuing.completes {s : State} {e : Env} {op : Nat} (h : Issuing s e op) {f : Env → Except Flt Out} {x : Eff} {w : Wave}
    (hf : f e = .ok (.go x)) (hx : x.s = s.setWave e.ref w) :
    issue op s f = .next (s.setWave e.ref (w.completed e op x.lits x.next x.remask x.sig)) := by
  rw [h.go hf, hx, State.finish_eq op x (State.wave?_setWave s e.ref e.w w h.wave), State.setWave_setWave]

/-- A transfer out of wave `w`. -/
theorem Issuing.jump_setWave {s : State} {e : Env} {op lits : Nat} (h : Issuing s e op) {f : Env → Except Flt Out} {w : Wave}
    {l : List (Nat × DWord)} {remask : Bool} (hf : f e = Machine.jump (s.setWave e.ref w) lits l remask) :
    issue op s f = .next (s.setWave e.ref (w.completed e op lits (.to l) remask true)) :=
  h.completes hf rfl

/-- A transfer that leaves its wave as it stands. -/
theorem Issuing.jump {s : State} {e : Env} {op lits : Nat} (h : Issuing s e op) {f : Env → Except Flt Out}
    {l : List (Nat × DWord)} {remask : Bool} (hf : f e = Machine.jump s lits l remask) :
    issue op s f = .next (s.setWave e.ref (e.w.completed e op lits (.to l) remask true)) := by
  rw [h.go hf]
  exact congrArg _ (State.finish_eq op _ h.wave)

/-! ### Parting (R126) -/

theorem groupNext_cons (i : Nat) (a : DWord) (t : List (Nat × DWord)) : ∃ sl,
    groupNext ((i, a) :: t) = (a, i :: sl) :: (groupNext t).filter (·.1 != a)
      ∧ (sl = [] ∧ (∀ g ∈ groupNext t, g.1 ≠ a) ∨ (a, sl) ∈ groupNext t) := by
  simp only [groupNext]
  cases hf : (groupNext t).find? (·.1 == a) with
  | none =>
    have hn : ∀ g ∈ groupNext t, g.1 ≠ a := fun g hg => by simpa using List.find?_eq_none.mp hf g hg
    refine ⟨[], ?_, .inl ⟨rfl, hn⟩⟩
    rw [List.filter_eq_self.mpr (fun g hg => by simpa using hn g hg)]
  | some g =>
    obtain ⟨b, sl⟩ := g
    have hb : b = a := by simpa using List.find?_some hf
    exact ⟨sl, rfl, .inr (hb ▸ List.mem_of_find?_eq_some hf)⟩

/-- No address stands twice among the groups. -/
theorem groupNext_nodup : ∀ l : List (Nat × DWord), ((groupNext l).map (·.1)).Nodup
  | [] => List.nodup_nil
  | (i, a) :: t => by
    obtain ⟨sl, h, -⟩ := groupNext_cons i a t
    rw [h, List.map_cons, List.nodup_cons]
    refine ⟨fun hm => ?_, (groupNext_nodup t).sublist (List.filter_sublist.map _)⟩
    obtain ⟨g, hg, hga⟩ := List.mem_map.mp hm
    exact absurd hga (by simpa using (List.mem_filter.mp hg).2)

theorem exists_groupNext : ∀ {l : List (Nat × DWord)} {j : Nat} {a : DWord}, (j, a) ∈ l → ∃ g ∈ groupNext l, g.1 = a
  | [], _, _, h => absurd h List.not_mem_nil
  | (i, b) :: t, j, a, h => by
    obtain ⟨sl, hg, -⟩ := groupNext_cons i b t
    rw [hg]
    by_cases hb : b = a
    · exact ⟨(b, i :: sl), List.mem_cons_self, hb⟩
    · have hj : (j, a) ∈ t := (List.mem_cons.mp h).resolve_left fun h => hb (congrArg Prod.snd h).symm
      obtain ⟨g, hgt, hga⟩ := exists_groupNext hj
      exact ⟨g, List.mem_cons_of_mem _ (List.mem_filter.mpr ⟨hgt, by simpa [hga] using Ne.symm hb⟩), hga⟩

/-- A group holds the slices that go to its address. -/
theorem mem_groupNext : ∀ {l : List (Nat × DWord)} {g : DWord × Nats}, g ∈ groupNext l → ∀ j, j ∈ g.2 ↔ (j, g.1) ∈ l
  | [], _, h, _ => absurd h List.not_mem_nil
  | (i, a) :: t, g, hg, j => by
    obtain ⟨sl, h, hs⟩ := groupNext_cons i a t
    rw [h, List.mem_cons] at hg
    rcases hg with rfl | hg
    · have hj : j ∈ sl ↔ (j, a) ∈ t := by
        rcases hs with ⟨rfl, hn⟩ | hs
        · refine ⟨fun h => absurd h List.not_mem_nil, fun hm => ?_⟩
          obtain ⟨g, hg, hga⟩ := exists_groupNext hm
          exact absurd hga (hn g hg)
        · exact mem_groupNext hs j
      rw [List.mem_cons, List.mem_cons, hj, Prod.mk.injEq, and_iff_left rfl]
    · obtain ⟨hg, hne⟩ := List.mem_filter.mp hg
      have hne : g.1 ≠ a := by simpa using hne
      rw [mem_groupNext hg j, List.mem_cons, Prod.mk.injEq]
      exact ⟨.inr, fun h => h.resolve_left fun h => hne h.2⟩

/-- No slice stands twice in a group. -/
theorem nodup_of_mem_groupNext : ∀ {l : List (Nat × DWord)} {g : DWord × Nats}, (l.map (·.1)).Nodup → g ∈ groupNext l → g.2.Nodup
  | [], _, _, h => absurd h List.not_mem_nil
  | (i, a) :: t, g, hn, hg => by
    rw [List.map_cons, List.nodup_cons] at hn
    obtain ⟨sl, h, hs⟩ := groupNext_cons i a t
    rw [h, List.mem_cons] at hg
    rcases hg with rfl | hg
    · rcases hs with ⟨rfl, -⟩ | hs
      · exact List.nodup_cons.mpr ⟨List.not_mem_nil, List.nodup_nil⟩
      · refine List.nodup_cons.mpr ⟨fun hi => hn.1 ?_, nodup_of_mem_groupNext hn.2 hs⟩
        exact List.mem_map.mpr ⟨(i, a), (mem_groupNext hs i).mp hi, rfl⟩
    · exact nodup_of_mem_groupNext hn.2 (List.mem_filter.mp hg).1

theorem fst_mem_of_mem_groupNext : ∀ {l : List (Nat × DWord)} {g : DWord × Nats}, g ∈ groupNext l → g.1 ∈ l.map (·.2)
  | [], _, h => absurd h List.not_mem_nil
  | (i, a) :: t, g, hg => by
    obtain ⟨sl, h, -⟩ := groupNext_cons i a t
    rw [h, List.mem_cons] at hg
    rcases hg with rfl | hg
    · exact List.mem_cons_self
    · exact List.mem_cons_of_mem _ (fst_mem_of_mem_groupNext (List.mem_filter.mp hg).1)

/-- There are at most as many groups as different addresses (R126). -/
theorem groupNext_length_le (l : List (Nat × DWord)) : (groupNext l).length ≤ (l.map (·.2)).eraseDups.length := by
  rw [← List.length_map (f := (·.1))]
  refine List.Nodup.length_le_of_subset (groupNext_nodup l) fun a ha => ?_
  obtain ⟨g, hg, rfl⟩ := List.mem_map.mp ha
  exact List.mem_eraseDups.mpr (fst_mem_of_mem_groupNext hg)

/-- A slice that stands once in a list has one address there. -/
theorem snd_eq_of_mem : ∀ {l : List (Nat × DWord)} {j : Nat} {a b : DWord}, (l.map (·.1)).Nodup → (j, a) ∈ l → (j, b) ∈ l → a = b
  | [], _, _, _, _, h, _ => absurd h List.not_mem_nil
  | (i, c) :: t, j, a, b, hn, ha, hb => by
    rw [List.map_cons, List.nodup_cons] at hn
    have later {x : DWord} (hx : (j, x) ∈ t) : j ≠ i := fun hji => hn.1 (hji ▸ List.mem_map_of_mem (f := (·.1)) hx)
    rcases List.mem_cons.mp ha with ha1 | ha1 <;> rcases List.mem_cons.mp hb with hb1 | hb1
    · exact congrArg Prod.snd (ha1.trans hb1.symm)
    · exact absurd (congrArg Prod.fst ha1) (later hb1)
    · exact absurd (congrArg Prod.fst hb1) (later ha1)
    · exact snd_eq_of_mem hn.2 ha1 hb1

/-- Groups of different addresses share no slice. -/
theorem groupNext_disjoint {l : List (Nat × DWord)} (hn : (l.map (·.1)).Nodup) :
    (groupNext l).Pairwise fun g h => ∀ j ∈ g.2, j ∉ h.2 := by
  refine (List.pairwise_map.mp (groupNext_nodup l)).imp_of_mem fun {g h} hg hh hne j hj hk => hne ?_
  exact snd_eq_of_mem hn ((mem_groupNext hg j).mp hj) ((mem_groupNext hh j).mp hk)

/-! ### Groups that part from a path -/

/-- Path `y` holds slices `P` and their lanes as path `x` held them, and the signature and STICKY go with them. -/
structure Path.Keeps (x y : Path) (P : Nat → Prop) : Prop where
  state : y.state = x.state
  sig : y.sig = x.sig
  sticky : y.sticky = x.sticky
  slices : ∀ j, P j → x.slices.getLsbD j = true → y.slices.getLsbD j = true
  active : ∀ L, P (L / 4) → y.active.getLsbD L = x.active.getLsbD L

theorem Path.Keeps.trans {x y z : Path} {P Q : Nat → Prop} (h : x.Keeps y P) (k : y.Keeps z Q) : x.Keeps z fun j => P j ∧ Q j where
  state := k.state.trans h.state
  sig := k.sig.trans h.sig
  sticky := k.sticky.trans h.sticky
  slices := fun j hj hx => k.slices j hj.2 (h.slices j hj.1 hx)
  active := fun L hL => (k.active L hL.2).trans (h.active L hL.1)

theorem Path.Keeps.mono {x y : Path} {P Q : Nat → Prop} (h : x.Keeps y P) (hq : ∀ j, Q j → P j) : x.Keeps y Q where
  state := h.state
  sig := h.sig
  sticky := h.sticky
  slices := fun j hj => h.slices j (hq j hj)
  active := fun L hL => h.active L (hq _ hL)

/-- The FREE entries of a path table. -/
def Wave.freeEntries (w : Wave) : Nats := (List.range 8).filter fun q => (w.path q).state == .free

theorem Wave.mem_freeEntries {w : Wave} {q : Nat} : q ∈ w.freeEntries ↔ q < 8 ∧ (w.path q).state = .free := by
  simp [Wave.freeEntries]

/-- A path that runs has no FREE entry. -/
theorem Wave.ne_of_free {w : Wave} {p q : Nat} (hrun : (w.path p).state = .run) (hf : (w.path q).state = .free) : q ≠ p := by
  rintro rfl
  rw [hrun] at hf
  cases hf

theorem Wave.freePath_of_freeEntries {w : Wave} (h : w.freeEntries ≠ []) :
    ∃ q, w.freePath = some q ∧ q < 8 ∧ (w.path q).state = .free := by
  cases hf : w.freePath with
  | none => exact absurd (List.filter_eq_nil_iff.mpr (List.find?_eq_none.mp hf)) h
  | some q => exact ⟨q, rfl, List.mem_range.mp (List.mem_of_find?_eq_some hf), by simpa using List.find?_some hf⟩

/-- The lanes of some slices. -/
def lanesOfSlices (sl : Nats) : Word := BitVec.ofNat 32 ((sl.map fun i => atSlice (0xF : BitVec 4) i).sum)

theorem getLsbD_lanesOfSlices {sl : Nats} (hn : sl.Nodup) (L : Nat) :
    (lanesOfSlices sl).getLsbD L = (decide (L < 32) && decide (L / 4 ∈ sl)) := by
  have hF : (0xF : BitVec 4).getLsbD (L % 4) = true := eq_fifteen_iff.mp rfl _ (Nat.mod_lt _ (by decide))
  rw [lanesOfSlices, getLsbD_slicesMask (fun _ => 0xF) L sl hn, hF, Bool.and_true]

/-- The entry that slices `sl` of path `x` take when they part to `a` (R126, R260). -/
def Path.parting (x : Path) (a : DWord) (sl : Nats) : Path :=
  { state := .run, pc := a, sleep := x.sleep &&& lanesOfSlices sl, active := x.active &&& lanesOfSlices sl
    slices := BitVec.ofNat 8 (maskOf sl), sticky := x.sticky, sig := x.sig, ref := x.active &&& lanesOfSlices sl,
    inPass := x.inPass, ladleLast := x.ladleLast, lastLive := x.lastLive, stepping := x.stepping }

/-- What path `x` keeps when slices `sl` part from it. -/
def Path.without (x : Path) (sl : Nats) : Path :=
  { x with
    sleep := x.sleep &&& ~~~(lanesOfSlices sl), active := x.active &&& ~~~(lanesOfSlices sl)
    slices := x.slices &&& ~~~(BitVec.ofNat 8 (maskOf sl)), ref := x.active &&& ~~~(lanesOfSlices sl) }

theorem Wave.partOff_eq {w : Wave} {q : Nat} (h : w.freePath = some q) (p : Nat) (a : DWord) (sl : Nats) :
    w.partOff p a sl = (w.setPath q ((w.path p).parting a sl)).setPath p ((w.path p).without sl) := by
  unfold Wave.partOff
  rw [h]
  rfl

theorem Path.keeps_parting {x : Path} {sl : Nats} (hn : sl.Nodup) (hrun : x.state = .run) (a : DWord) :
    x.Keeps (x.parting a sl) (· ∈ sl) where
  state := hrun.symm
  sig := rfl
  sticky := rfl
  slices := fun j hj hx => by
    simp only [Path.parting, BitVec.getLsbD_ofNat, testBit_maskOf, hj, BitVec.lt_of_getLsbD hx, decide_true, Bool.and_self]
  active := fun L hL => by
    simp only [Path.parting, BitVec.getLsbD_and, getLsbD_lanesOfSlices hn, hL, decide_true, Bool.and_true]
    by_cases h : L < 32
    · rw [decide_eq_true h, Bool.and_true]
    · rw [BitVec.getLsbD_of_ge x.active L (by omega), Bool.false_and]

theorem Path.keeps_without {x : Path} {sl : Nats} (hn : sl.Nodup) : x.Keeps (x.without sl) (· ∉ sl) where
  state := rfl
  sig := rfl
  sticky := rfl
  slices := fun j hj hx => by
    simp only [Path.without, BitVec.getLsbD_and, BitVec.getLsbD_not, BitVec.getLsbD_ofNat, testBit_maskOf, hj, hx,
      BitVec.lt_of_getLsbD hx, decide_true, decide_false, Bool.and_false, Bool.not_false, Bool.and_self]
  active := fun L hL => by
    simp only [Path.without, BitVec.getLsbD_and, BitVec.getLsbD_not, getLsbD_lanesOfSlices hn, hL, decide_false, Bool.and_false,
      Bool.not_false, Bool.and_true]
    by_cases h : L < 32
    · rw [decide_eq_true h, Bool.and_true]
    · rw [BitVec.getLsbD_of_ge x.active L (by omega), Bool.false_and]

/-- One group of slices sent off to an entry of its own: the step of `Wave.goTo`. -/
def Wave.sendOff (p : Nat) (seqPc : DWord) (stay : Option Clause) (w : Wave) (g : DWord × Nats) : Wave :=
  match w.freePath with
  | none => w
  | some q =>
    let w := w.partOff p g.1 g.2
    if g.1 = seqPc then w.setPath q { w.path q with clause := stay, buf := (w.path p).buf } else w

theorem Wave.goTo_eq {w : Wave} {p : Nat} {l : List (Nat × DWord)} {seqPc a : DWord} {stay : Option Clause} {sl : Nats}
    {gs : List (DWord × Nats)} (h : groupNext l = (a, sl) :: gs) :
    w.goTo p l seqPc stay
      = gs.foldl (Wave.sendOff p seqPc stay) (w.setPath p { w.path p with pc := a, clause := if a = seqPc then stay else none }) := by
  unfold Wave.goTo
  rw [h]
  rfl

/-- What one group sent off from path `p` of `w` leaves: its entry `q`, which was FREE, holds its slices as the path held
them, the path keeps the others, and no other entry changes. -/
structure Wave.SentOff (w w' : Wave) (p q : Nat) (g : DWord × Nats) : Prop where
  rest : onlyPaths w w'
  length : w'.paths.length = w.paths.length
  entry : q < 8 ∧ (w.path q).state = .free
  others : ∀ r, r ≠ p → r ≠ q → w'.path r = w.path r
  left : (w.path p).Keeps (w'.path p) (· ∉ g.2)
  leftPc : (w'.path p).pc = (w.path p).pc
  sent : (w.path p).Keeps (w'.path q) (· ∈ g.2)
  sentPc : (w'.path q).pc = g.1

theorem Wave.sendOff_spec {w : Wave} {p : Nat} (seqPc : DWord) (stay : Option Clause) {g : DWord × Nats} (hl : w.paths.length = 8)
    (hp : p < 8) (hrun : (w.path p).state = .run) (hn : g.2.Nodup) (hf : w.freeEntries ≠ []) :
    ∃ q, w.SentOff (w.sendOff p seqPc stay g) p q g := by
  obtain ⟨q, hq, hq8, hqf⟩ := Wave.freePath_of_freeEntries hf
  have hqp := Wave.ne_of_free hrun hqf
  have hpart := Wave.partOff_eq hq p g.1 g.2
  generalize hv : w.partOff p g.1 g.2 = v at hpart
  have hvl : v.paths.length = 8 := by
    rw [hpart]; exact ((length_setNth _ _ _).trans (length_setNth _ _ _)).trans hl
  have hvp : v.path p = (w.path p).without g.2 := by
    rw [hpart]; exact Wave.path_setPath_same _ _ _ ((length_setNth _ _ _).symm ▸ hl ▸ hp)
  have hvq : v.path q = (w.path p).parting g.1 g.2 := by
    rw [hpart, Wave.path_setPath_ne _ hqp]; exact Wave.path_setPath_same _ _ _ (hl ▸ hq8)
  have hvo : ∀ r, r ≠ p → r ≠ q → v.path r = w.path r := fun r hrp hrq => by
    rw [hpart, Wave.path_setPath_ne _ hrp, Wave.path_setPath_ne _ hrq]
  have hleft := Path.keeps_without (x := w.path p) hn
  have hsent := Path.keeps_parting hn hrun g.1
  refine ⟨q, ?_⟩
  simp only [Wave.sendOff, hq, hv]
  split
  · refine ⟨?_, ?_, ⟨hq8, hqf⟩, fun r hrp hrq => ?_, ?_, ?_, ?_, ?_⟩
    · rw [hpart]; rfl
    · exact (length_setNth _ _ _).trans (hvl.trans hl.symm)
    · rw [Wave.path_setPath_ne _ hrq, hvo r hrp hrq]
    · rw [Wave.path_setPath_ne _ hqp.symm, hvp]; exact hleft
    · rw [Wave.path_setPath_ne _ hqp.symm, hvp]; rfl
    · rw [Wave.path_setPath_same _ _ _ (hvl ▸ hq8), hvq]; exact ⟨hsent.1, hsent.2, hsent.3, hsent.4, hsent.5⟩
    · rw [Wave.path_setPath_same _ _ _ (hvl ▸ hq8), hvq]; rfl
  · refine ⟨?_, hvl.trans hl.symm, ⟨hq8, hqf⟩, hvo, ?_, ?_, ?_, ?_⟩
    · rw [hpart]; rfl
    · rw [hvp]; exact hleft
    · rw [hvp]; rfl
    · rw [hvq]; exact hsent
    · rw [hvq]; rfl

/-- What groups sent off one after another from path `p` of `w` leave. -/
structure Wave.AllSent (w w' : Wave) (p : Nat) (gs : List (DWord × Nats)) : Prop where
  rest : onlyPaths w w'
  others : ∀ q, q ≠ p → (w.path q).state ≠ .free → w'.path q = w.path q
  left : (w.path p).Keeps (w'.path p) fun j => ∀ g ∈ gs, j ∉ g.2
  leftPc : (w'.path p).pc = (w.path p).pc
  sent : ∀ g ∈ gs, ∃ q, q < 8 ∧ (w.path q).state = .free ∧ (w'.path q).pc = g.1 ∧ (w.path p).Keeps (w'.path q) (· ∈ g.2)

theorem Wave.SentOff.freeEntries {w w' : Wave} {p q : Nat} {g : DWord × Nats} (h : w.SentOff w' p q g)
    (hrun : (w.path p).state = .run) : w.freeEntries.length ≤ w'.freeEntries.length + 1 := by
  have hsub : w.freeEntries ⊆ q :: w'.freeEntries := fun r hr => by
    obtain ⟨hr8, hrf⟩ := Wave.mem_freeEntries.mp hr
    by_cases hrq : r = q
    · exact hrq ▸ List.mem_cons_self
    · have hrp := Wave.ne_of_free hrun hrf
      exact List.mem_cons_of_mem _ (Wave.mem_freeEntries.mpr ⟨hr8, (h.others r hrp hrq).symm ▸ hrf⟩)
  exact List.Nodup.length_le_of_subset (List.nodup_range.filter _) hsub

theorem Wave.foldl_sendOff_spec {p : Nat} (seqPc : DWord) (stay : Option Clause) (hp : p < 8) :
    ∀ {gs : List (DWord × Nats)} {w : Wave}, w.paths.length = 8 → (w.path p).state = .run →
      (∀ g ∈ gs, g.2.Nodup) → gs.Pairwise (fun g h => ∀ j ∈ g.2, j ∉ h.2) → gs.length ≤ w.freeEntries.length →
      w.AllSent (gs.foldl (Wave.sendOff p seqPc stay) w) p gs
  | [], w, _, _, _, _, _ =>
    ⟨rfl, fun _ _ _ => rfl, ⟨rfl, rfl, rfl, fun _ _ h => h, fun _ _ => rfl⟩, rfl, fun _ h => absurd h List.not_mem_nil⟩
  | g :: t, w, hl, hrun, hn, hd, hf => by
    rw [List.pairwise_cons] at hd
    have hf0 : w.freeEntries ≠ [] := fun h0 => by simp [h0] at hf
    obtain ⟨q, h1⟩ := Wave.sendOff_spec seqPc stay hl hp hrun (hn g List.mem_cons_self) hf0
    rw [List.foldl_cons]
    generalize w.sendOff p seqPc stay g = w1 at h1
    have hqp := Wave.ne_of_free hrun h1.entry.2
    have hq1 : (w1.path q).state = .run := h1.sent.state.trans hrun
    have hlen : t.length ≤ w1.freeEntries.length :=
      Nat.le_of_succ_le_succ (Nat.le_trans hf (h1.freeEntries hrun))
    have h2 := Wave.foldl_sendOff_spec seqPc stay hp (h1.length.trans hl) (h1.left.state.trans hrun)
      (fun g hg => hn g (List.mem_cons_of_mem _ hg)) hd.2 hlen
    generalize t.foldl (Wave.sendOff p seqPc stay) w1 = w2 at h2
    have hp1 := h1.left.state.trans hrun
    refine ⟨h1.rest.trans h2.rest, fun r hrp hr => ?_, ?_, h2.leftPc.trans h1.leftPc, fun k hk => ?_⟩
    · have hrq : r ≠ q := by rintro rfl; exact hr h1.entry.2
      have hr1 := h1.others r hrp hrq
      exact (h2.others r hrp (hr1.symm ▸ hr)).trans hr1
    · exact (h1.left.trans h2.left).mono fun j hj => ⟨hj g List.mem_cons_self, fun k hk => hj k (List.mem_cons_of_mem _ hk)⟩
    · rcases List.mem_cons.mp hk with rfl | hk
      · have hw : w2.path q = w1.path q := h2.others q hqp (by rw [hq1]; exact PathState.noConfusion)
        exact ⟨q, h1.entry.1, h1.entry.2, hw ▸ h1.sentPc, hw ▸ h1.sent⟩
      · obtain ⟨r, hr8, hrf, hpc, hkeep⟩ := h2.sent k hk
        have hro := h1.others r (Wave.ne_of_free hp1 hrf) (Wave.ne_of_free hq1 hrf)
        refine ⟨r, hr8, hro ▸ hrf, hpc, (h1.left.trans hkeep).mono fun j hj => ⟨fun hg => hd.1 k hk j hg hj, hj⟩⟩

/-- The slices of a running path go where `l` says: each address takes one entry, the first of them the path's own, and
an entry holds its slices as the path held them. -/
theorem Wave.goTo_spec {w : Wave} {p i : Nat} {a : DWord} {t : List (Nat × DWord)} (seqPc : DWord) (stay : Option Clause)
    (hl : w.paths.length = 8) (hp : p < 8) (hrun : (w.path p).state = .run) (hn : (((i, a) :: t).map (·.1)).Nodup)
    (hroom : (((i, a) :: t).map (·.2)).eraseDups.length ≤ 1 + w.freeEntries.length) :
    onlyPaths w (w.goTo p ((i, a) :: t) seqPc stay) ∧ ∀ x ∈ (i, a) :: t, ∃ q, q < 8 ∧ (q = p ∨ (w.path q).state = .free)
      ∧ (x.2 = a ↔ q = p) ∧ ((w.goTo p ((i, a) :: t) seqPc stay).path q).pc = x.2
      ∧ (w.path p).Keeps ((w.goTo p ((i, a) :: t) seqPc stay).path q) (· = x.1) := by
  have hcount := Nat.le_trans (groupNext_length_le ((i, a) :: t)) hroom
  have hkeys := groupNext_nodup ((i, a) :: t)
  have hdis := groupNext_disjoint hn
  obtain ⟨sl, hg, -⟩ := groupNext_cons i a t
  generalize (groupNext t).filter (·.1 != a) = gs at hg
  rw [hg, List.length_cons, Nat.add_comm 1] at hcount
  rw [hg, List.map_cons, List.nodup_cons] at hkeys
  rw [hg, List.pairwise_cons] at hdis
  rw [Wave.goTo_eq hg]
  generalize hx : ({ w.path p with pc := a, clause := if a = seqPc then stay else none } : Path) = x
  have hpx : (w.setPath p x).path p = x := Wave.path_setPath_same w p x (hl ▸ hp)
  have hxrun : x.state = .run := hx ▸ hrun
  have hkx (y : Path) (P : Nat → Prop) (h : x.Keeps y P) : (w.path p).Keeps y P := by
    subst hx
    exact ⟨h.state, h.sig, h.sticky, h.slices, h.active⟩
  have hother (q : Nat) (hq : q ≠ p) : (w.setPath p x).path q = w.path q := Wave.path_setPath_ne w hq x
  have hfree : (w.setPath p x).freeEntries = w.freeEntries := by
    refine List.filter_congr fun q _ => ?_
    by_cases hq : q = p
    · rw [hq, hpx, hxrun, hrun]
    · rw [hother q hq]
  have hall := Wave.foldl_sendOff_spec seqPc stay hp ((length_setNth _ _ _).trans hl) (hpx.symm ▸ hxrun)
    (fun g h => nodup_of_mem_groupNext hn (hg ▸ List.mem_cons_of_mem _ h)) hdis.2 (hfree.symm ▸ Nat.le_of_succ_le_succ hcount)
  generalize gs.foldl (Wave.sendOff p seqPc stay) (w.setPath p x) = w' at hall
  refine ⟨(onlyPaths_setPath w p x).trans hall.rest, fun y hy => ?_⟩
  obtain ⟨g, hgm, hga⟩ := exists_groupNext hy
  have hyg : y.1 ∈ g.2 := (mem_groupNext hgm y.1).mpr (hga ▸ hy)
  rw [hg, List.mem_cons] at hgm
  rcases hgm with rfl | hgt
  · refine ⟨p, hp, .inl rfl, iff_of_true hga.symm rfl, ?_, hkx _ _ ((hpx ▸ hall.left).mono ?_)⟩
    · rw [hall.leftPc, hpx, ← hga, ← hx]
    · rintro _ rfl k hk
      exact hdis.1 k hk _ hyg
  · obtain ⟨q, hq8, hqf, hpc, hk⟩ := hall.sent g hgt
    have hqp : q ≠ p := Wave.ne_of_free (hpx.symm ▸ hxrun) hqf
    refine ⟨q, hq8, .inr (hother q hqp ▸ hqf), iff_of_false (fun hd => hkeys.1 ?_) hqp, hpc.trans hga, hkx _ _ ((hpx ▸ hk).mono ?_)⟩
    · exact List.mem_map.mpr ⟨g, hgt, hga.trans hd⟩
    · rintro _ rfl
      exact hyg

end Sys2Proof.Machine
end

section
/-! SUPPORT. Transfers (R126, R307, R308, R312): where the slices of a path go, and the checks that precede it. -/

namespace Sys2Proof.Claims

open Sys2Proof.Machine

/-! ### Where slices go (R126) -/

theorem Shaped.runs {e : Env} (h : Shaped e) :
    (if e.path.state = .blocked ∨ e.path.state = .regang then .run else e.path.state) = PathState.run := by
  rcases h.state with hs | hs | hs <;> simp [hs]

theorem Shaped.paths {e : Env} (h : Shaped e) : e.w.paths.length = 8 := by
  have hw := h.wave
  simp only [Wave.shaped, Bool.and_eq_true, beq_iff_eq] at hw
  exact hw.2

theorem Shaped.slices {e : Env} (h : Shaped e) : e.w.slices.length = 8 := by
  have hw := h.wave
  simp only [Wave.shaped, Bool.and_eq_true, beq_iff_eq] at hw
  exact hw.1

theorem Shaped.not_free {e : Env} (h : Shaped e) : e.path.state ≠ .free := by
  rcases h.state with hs | hs | hs <;> simp [hs]

/-- The slices of a path go where a completed transfer sends them. -/
theorem transfers_of_completed {i : Instr} {s : State} {e : Env} {op lits : Nat} {w : Wave} {a : Word} {remask : Bool}
    {act : Nat → Bool} {dest : Nat → DWord} (sh : Shaped e) (he : e.path = e.w.path e.p) (hw : w.paths = e.w.paths)
    (hexec : exec i s = .next (s.setWave e.ref ((w.setPath e.p { e.path with active := a }).completed e op lits
      (.to (e.pathSlices.map fun j => (j, dest j))) remask true)))
    (hact : ∀ L, L / 4 ∈ e.pathSlices → a.getLsbD L = act L) (room : Room e dest) : Transfers i s e op w act dest := by
  refine ⟨_, hexec, ?_⟩
  have hpath (q : Nat) : w.path q = e.w.path q := by simp only [Wave.path, hw]
  have hl8 : w.paths.length = 8 := hw ▸ sh.paths
  have hfst : (e.pathSlices.map fun j => (j, dest j)).map (·.1) = e.pathSlices := by simp [Function.comp_def]
  have hsnd : (e.pathSlices.map fun j => (j, dest j)).map (·.2) = e.pathSlices.map dest := by simp [Function.comp_def]
  have hnd : ((e.pathSlices.map fun j => (j, dest j)).map (·.1)).Nodup := by rw [hfst]; exact e.w.nodup_pathSlices e.p
  have hp (x : Path) : (w.setPath e.p x).path e.p = x := Wave.path_setPath_same w e.p x (hl8 ▸ sh.entry)
  unfold Wave.completed
  simp only [hp, Wave.setPath_setPath, sh.runs, if_true]
  generalize hx : ({ e.path with
    active := a, wait := .none, paused := false, done := 0, state := .run
    sig := sigIssue e.path.sig op (e.path.active ^^^ e.path.ref), ref := if remask = true then a else e.path.ref } : Path) = x
  have hxrun : x.state = .run := hx ▸ rfl
  have hfree : (w.setPath e.p x).freeEntries = (List.range 8).filter fun q => (e.w.path q).state == .free := by
    refine List.filter_congr fun q _ => ?_
    by_cases hq : q = e.p
    · rw [hq, hp, hxrun, ← he, beq_eq_false_iff_ne.mpr sh.not_free]
      rfl
    · rw [Wave.path_setPath_ne _ hq, hpath]
  cases hs : e.pathSlices with
  | nil => exact ⟨rfl, fun j hj => absurd hj List.not_mem_nil⟩
  | cons j0 t =>
    have hlow : e.low = j0 := by rw [Env.low, hs]; rfl
    unfold Room at room
    rw [← hsnd, ← hfree] at room
    rw [hs, List.map_cons] at hnd room
    rw [List.map_cons]
    obtain ⟨hrest, hto⟩ := Wave.goTo_spec (e.after lits).1 (e.after lits).2 ((length_setNth _ _ _).trans hl8) sh.entry
      ((hp x).symm ▸ hxrun) hnd room
    refine ⟨(onlyPaths_setPath w e.p x).trans hrest, fun j hj => ?_⟩
    obtain ⟨q, hq8, hq, hlowest, hpc, hk⟩ := hto (j, dest j) (List.mem_map_of_mem (f := fun j => (j, dest j)) hj)
    rw [hp] at hk
    rw [← hs] at hj
    refine ⟨q, hq8, ?_, hlow ▸ hlowest, hk.state.trans hxrun, hk.slices j rfl ?_, hpc, ?_, ?_, fun L hL => ?_⟩
    · by_cases hqp : q = e.p
      · exact .inl hqp
      · right
        have := hq.resolve_left hqp
        rwa [Wave.path_setPath_ne _ hqp, hpath] at this
    · rw [← hx]
      show e.path.slices.getLsbD j = true
      rw [he]
      exact (Wave.mem_pathSlices.mp hj).1
    · rw [hk.sig, ← hx]
    · rw [hk.sticky, ← hx]
    · subst hL
      rw [hk.active L rfl, ← hact L hj, ← hx]

/-- A transfer that changes neither its wave nor the path's lanes. -/
theorem transfers_of_jump {i : Instr} {s : State} {e : Env} {op : Nat} {dest : Nat → DWord} (sh : Shaped e)
    (h : Issuing s e op) (lits : Nat) {f : Env → Except Flt Out} (hi : exec i s = issue op s f)
    (hf : f e = jump s lits (e.pathSlices.map fun j => (j, dest j)) false) (room : Room e dest) :
    Transfers i s e op e.w (fun L => e.path.active.getLsbD L) dest := by
  refine transfers_of_completed (a := e.path.active) (lits := lits) (remask := false) sh h.path rfl ?_ (fun _ _ => rfl) room
  rw [hi, h.jump hf]
  have hw : e.w.setPath e.p { e.path with active := e.path.active } = e.w := by
    rw [h.path]; exact Wave.setPath_path e.w e.p
  rw [hw]

/-- Slices that all go to one place need no FREE entry. -/
theorem Room.const (e : Env) (a : DWord) : Room e fun _ => a := by
  unfold Room
  cases e.pathSlices with
  | nil => exact Nat.zero_le _
  | cons j t =>
    have hnil : (t.map fun _ => a).filter (fun b => !b == a) = [] := List.filter_eq_nil_iff.mpr fun b hb => by
      obtain ⟨_, -, rfl⟩ := List.mem_map.mp hb
      simp
    rw [List.map_cons, List.eraseDups_cons, hnil]
    exact Nat.le_add_right 1 _

/-! ### Checks before a transfer (R306, R307, R308) -/

theorem LastInClause.ok {e : Env} {n : Nat} (h : LastInClause e n) : e.lastInClause n = .ok () := by
  unfold Env.lastInClause
  split
  · next l c hl hc =>
    rw [if_neg]
    rw [Bool.not_eq_true, List.any_eq_false]
    intro i hi
    have hi : i < c.last - wordIx e.path.pc := by simpa [upto] using hi
    obtain ⟨hn, hk⟩ := h l c hl hc (wordIx e.path.pc + 1 + i) (by omega) (by omega)
    simp only [hk, bne_self_eq_false, Bool.or_false, decide_eq_true_eq]
    omega
  · rfl

theorem target_lit (e : Env) (t : Word) (ls : List Word) : e.target .lit (t :: ls) = .ok (displaced e t, ls) := rfl

theorem checkTargets_ok {s : State} {e : Env} {ts : List DWord} (h : ∀ t ∈ ts, Target s e t) : s.checkTargets e ts = .ok () := by
  unfold State.checkTargets
  split
  · next va c hs =>
    obtain ⟨t, ht, hf⟩ := List.exists_of_findSome?_eq_some hs
    obtain ⟨l, hl, -⟩ := h t ht
    rw [hl] at hf
    cases hf
  · rw [if_pos]
    rw [List.all_eq_true]
    intro t ht
    obtain ⟨l, hl, hh⟩ := h t ht
    rw [hl]
    exact hh

theorem scalarSrc_ok {e : Env} {o : Opd} {x : Src} {ls ls' : List Word} (h : e.src o 1 ls = .ok (x, ls')) (hx : x.isVec = false) :
    e.scalarSrc o ls = .ok (x, ls') := by
  simp only [Env.scalarSrc, h, hx, bind, Except.bind, Bool.false_eq_true, if_false]

theorem Clean.scalars_ok {e : Env} {xs : List (Src × Nat)} (h : Clean e (e.pathSlices.map (4 * ·)) xs) : e.checkScalars xs = .ok () :=
  Env.checkPoison_ok h

theorem litsOf_lit (a : Opd) : litsOf a 1 + litsOf .lit 1 = if a = .lit then 2 else 1 := by
  unfold litsOf
  split <;> rfl

/-! ### Branches (R311, R314) -/

theorem bra_transfers {s : State} {e : Env} (sh : Shaped e) {t : Word} {ls : List Word} (h : Issuing s e 0x02) (hl : e.lits = t :: ls)
    (ht : Target s e (displaced e t)) :
    Transfers (.bra .lit) s e 0x02 e.w (fun L => e.path.active.getLsbD L) fun _ => displaced e t := by
  refine transfers_of_jump sh h (e.used ls) rfl ?_ (Room.const e _)
  rw [hl, target_lit]
  show (s.checkTargets e [displaced e t] >>= fun _ => _) = _
  rw [checkTargets_ok (by simpa using ht)]
  rfl

theorem brs_transfers {s : State} {e : Env} (sh : Shaped e) {z : Nat} {a : Opd} {x : Src} {t : Word} {ls : List Word}
    (h : Issuing s e 0x04) (hz : z ≤ 1) (hlast : LastInClause e (if a = .lit then 2 else 1)) (hx : e.src a 1 e.lits = .ok (x, t :: ls))
    (hv : x.isVec = false) (hc : Clean e (e.pathSlices.map (4 * ·)) [(x, 1)])
    (ht : (∃ j ∈ e.pathSlices, ((e.read 1 (4 * j) x).1 = 0 ↔ z = 1)) → Target s e (displaced e t))
    (room : Room e fun j => if (e.read 1 (4 * j) x).1 = 0 ↔ z = 1 then displaced e t else e.nextClause) :
    Transfers (.brs z a .lit) s e 0x04 e.w (fun L => e.path.active.getLsbD L)
      fun j => if (e.read 1 (4 * j) x).1 = 0 ↔ z = 1 then displaced e t else e.nextClause := by
  have hz1 : ¬ 1 < z := Nat.not_lt.mpr hz
  have htaken (j : Nat) : (((e.read 1 (4 * j) x).1 != 0) == (z == 0)) = decide ((e.read 1 (4 * j) x).1 = 0 ↔ z = 1) := by
    have hz01 : z = 0 ∨ z = 1 := by omega
    rcases hz01 with rfl | rfl <;> by_cases h0 : (e.read 1 (4 * j) x).1 = 0 <;> simp [h0]
  refine transfers_of_jump sh h (e.used ls) rfl ?_ room
  simp only [litsOf_lit, hlast.ok, scalarSrc_ok hx hv, target_lit, hc.scalars_ok, if_neg hz1, bind, Except.bind, htaken,
    decide_eq_true_eq]
  split
  · next hany =>
    obtain ⟨j, hj, hd⟩ := List.any_eq_true.mp hany
    rw [checkTargets_ok (by simpa using ht ⟨j, hj, by simpa using hd⟩)]
  · rfl

/-- The address of BRX's case in slice `j`. -/
def caseAddr (e : Env) (t : Word) (x : Src) (j : Nat) : DWord := displaced e t + BitVec.ofNat 64 (128 * (e.read 1 (4 * j) x).1)

theorem brx_transfers {s : State} {e : Env} (sh : Shaped e) {n : Nat} {a : Opd} {x : Src} {t : Word} {ls : List Word}
    (h : Issuing s e 0x1B) (hn : n ≠ 0) (hlast : LastInClause e (if a = .lit then 2 else 1)) (hx : e.src a 1 e.lits = .ok (x, t :: ls))
    (hv : x.isVec = false) (hc : Clean e (e.pathSlices.map (4 * ·)) [(x, 1)])
    (ht : ∀ j ∈ e.pathSlices, (e.read 1 (4 * j) x).1 < n → Target s e (caseAddr e t x j))
    (room : Room e fun j => if (e.read 1 (4 * j) x).1 < n then caseAddr e t x j else e.nextClause) :
    Transfers (.brx n a .lit) s e 0x1B e.w (fun L => e.path.active.getLsbD L)
      fun j => if (e.read 1 (4 * j) x).1 < n then caseAddr e t x j else e.nextClause := by
  refine transfers_of_jump sh h (e.used ls) rfl ?_ room
  have hts : s.checkTargets e ((e.pathSlices.filter fun i => decide ((e.read 1 (4 * i) x).1 < n)).map (caseAddr e t x)) = .ok () := by
    refine checkTargets_ok fun va hva => ?_
    obtain ⟨j, hj, rfl⟩ := List.mem_map.mp hva
    obtain ⟨hj, hlt⟩ := List.mem_filter.mp hj
    exact ht j hj (of_decide_eq_true hlt)
  simp only [litsOf_lit, hlast.ok, scalarSrc_ok hx hv, target_lit, hc.scalars_ok, if_neg hn, bind, Except.bind]
  unfold caseAddr at hts
  rw [hts]
  rfl

/-- The addresses that a scalar pair holds in the slices of the path (R314). -/
def pairAddr (e : Env) (q j : Nat) : DWord := BitVec.ofNat 64 (e.read 2 (4 * j) (.sca q)).1

theorem pairSrc_ok (e : Env) {q : Nat} (lit : Bool) (ls : List Word) (h2 : q % 2 = 0) (h48 : q + 2 ≤ 48) :
    e.pairSrc (.s q) lit ls = .ok (.sca q, ls) := if_pos ⟨h2, h48⟩

theorem checkTargets_map_ok {s : State} {e : Env} {dest : Nat → DWord} (h : ∀ j ∈ e.pathSlices, Target s e (dest j)) :
    s.checkTargets e ((e.pathSlices.map fun j => (j, dest j)).map (·.2)) = .ok () := by
  refine checkTargets_ok fun va hva => ?_
  obtain ⟨y, hy, rfl⟩ := List.mem_map.mp hva
  obtain ⟨j, hj, rfl⟩ := List.mem_map.mp hy
  exact h j hj

theorem ret_transfers {s : State} {e : Env} (sh : Shaped e) {q : Nat} (h : Issuing s e 0x07) (h2 : q % 2 = 0) (h48 : q + 2 ≤ 48)
    (hc : Clean e (e.pathSlices.map (4 * ·)) [(.sca q, 2)]) (ht : ∀ j ∈ e.pathSlices, Target s e (pairAddr e q j))
    (room : Room e (pairAddr e q)) :
    Transfers (.ret (.s q)) s e 0x07 e.w (fun L => e.path.active.getLsbD L) (pairAddr e q) := by
  refine transfers_of_jump sh h (e.used e.lits) rfl ?_ room
  have hts := checkTargets_map_ok ht
  unfold pairAddr at hts
  simp only [pairSrc_ok e false e.lits h2 h48, hc.scalars_ok, bind, Except.bind, hts]
  rfl

/-- CALL's writes: NextClause into the link pair of every slice of the path (R314). -/
def linkWrites (e : Env) (r : Nat) : List RegWrite := e.pathSlices.flatMap fun j => (Dst.sca r).writes 2 (4 * j) e.nextClause.toNat false

theorem linkWrites_wrote (e : Env) (r : Nat) :
    Wrote e.w (e.w.deliver e.p (linkWrites e r)) (.sca r) 2 (e.pathSlices.map (4 * ·)) fun _ => (e.nextClause.toNat, false) := by
  have h := Wave.deliver_writes e.w e.p (.sca r) 2 (e.pathSlices.map (4 * ·)) (fun _ => (e.nextClause.toNat, false)) fun L hL => by
    obtain ⟨j, hj, rfl⟩ := List.mem_map.mp hL
    have := Wave.lt_of_mem_pathSlices hj
    exact ⟨by omega, fun _ => Nat.mul_mod_right 4 j⟩
  rwa [List.flatMap_map] at h

/-- CALL's target field gives `dest`: a displacement, or the addresses in a scalar pair (R314). -/
def CallTarget (e : Env) (b : Opd) (dest : Nat → DWord) : Prop :=
  (∃ t ls, b = .lit ∧ e.lits = t :: ls ∧ LastInClause e 1 ∧ dest = fun _ => displaced e t)
    ∨ ∃ q, b = .s q ∧ q % 2 = 0 ∧ q + 2 ≤ 48 ∧ LastInClause e 0 ∧ Clean e (e.pathSlices.map (4 * ·)) [(.sca q, 2)]
      ∧ dest = pairAddr e q

theorem call_jumps {s : State} {e : Env} {r : Nat} {b : Opd} {dest : Nat → DWord} (h2 : r % 2 = 0) (h48 : r + 2 ≤ 48)
    (hb : CallTarget e b dest)
    (ht : ∀ j ∈ e.pathSlices, Target s e (dest j)) (hne : e.pathSlices ≠ []) :
    ∃ lits f, exec (.call (.s r) b) s = issue 0x06 s f
      ∧ f e = jump (s.write e (linkWrites e r)) lits (e.pathSlices.map fun j => (j, dest j)) false := by
  have hd : e.stDst (.s r) 2 false = .ok (.sca r) := if_pos ⟨h2, h48⟩
  obtain ⟨j0, hj0⟩ := List.exists_mem_of_ne_nil _ hne
  rcases hb with ⟨t, ls, rfl, hl, hlast, rfl⟩ | ⟨q, rfl, hq2, hq48, hlast, hc, rfl⟩
  · refine ⟨e.used ls, _, rfl, ?_⟩
    have hlast' : e.lastInClause (litsOf .lit 1) = .ok () := hlast.ok
    have hts : s.checkTargets e [displaced e t] = .ok () := checkTargets_ok (by simpa using ht j0 hj0)
    simp only [hlast', hd, hl, target_lit, hts, bind, Except.bind]
    rfl
  · refine ⟨e.used e.lits, _, rfl, ?_⟩
    have hlast' : e.lastInClause (litsOf (.s q) 1) = .ok () := hlast.ok
    have hts := checkTargets_map_ok ht
    unfold pairAddr at hts
    simp only [hlast', hd, pairSrc_ok e false e.lits hq2 hq48, hc.scalars_ok, hts, bind, Except.bind]
    rfl

theorem call_transfers {s : State} {e : Env} (sh : Shaped e) {r : Nat} {b : Opd} {dest : Nat → DWord} (h : Issuing s e 0x06)
    (h2 : r % 2 = 0) (h48 : r + 2 ≤ 48)
    (hb : CallTarget e b dest)
    (ht : ∀ j ∈ e.pathSlices, Target s e (dest j)) (hne : e.pathSlices ≠ []) (room : Room e dest) :
    ∃ w, Wrote e.w w (.sca r) 2 (e.pathSlices.map (4 * ·)) (fun _ => (e.nextClause.toNat, false))
      ∧ Transfers (.call (.s r) b) s e 0x06 w (fun L => e.path.active.getLsbD L) dest := by
  have hw := linkWrites_wrote e r
  refine ⟨_, hw, ?_⟩
  obtain ⟨lits, f, hi, hf⟩ := call_jumps h2 h48 hb ht hne
  rw [State.write_eq _ h.wave] at hf
  refine transfers_of_completed (a := e.path.active) (lits := lits) (remask := false) sh h.path hw.paths ?_ (fun _ _ => rfl) room
  rw [hi, h.jump_setWave hf]
  generalize e.w.deliver e.p (linkWrites e r) = w at hw
  have hp : w.path e.p = e.path := by rw [h.path]; simp only [Wave.path, hw.paths]
  have hset : w.setPath e.p { e.path with active := e.path.active } = w := by rw [← hp]; exact Wave.setPath_path w e.p
  rw [hset]

theorem branchResults : BranchResults := by
  intro s e sh
  refine ⟨fun t ls h hl ht => bra_transfers sh h hl ht, fun z a x t ls h hz hlast hx hv hc ht room => ?_,
    fun n a x t ls h hn hlast hx hv hc ht room => ?_, fun r b dest h h2 h48 hb ht hne room => ?_, fun q h h2 h48 hc ht room => ?_⟩
  · exact brs_transfers sh h hz hlast hx hv hc ht room
  · exact brx_transfers sh h hn hlast hx hv hc ht room
  · exact call_transfers sh h h2 h48 hb ht hne room
  · exact ret_transfers sh h h2 h48 hc ht room

end Sys2Proof.Claims
end

section
/-! SUPPORT. The split stack (R128, R135, R312, R313): what BRP and JOIN do to slices, and where they send them. -/

namespace Sys2Proof.Machine

open Sys2Proof.Claims

/-! ### Slices replaced, and ACTIVE as they then give it -/

/-- The wave with slices `js` replaced. -/
def Wave.putSlices (w : Wave) (js : Nats) (g : Nat → Slice) : Wave := js.foldl (fun w j => w.mapSlice j fun _ => g j) w

theorem Wave.putSlices_eq {β : Type} (w : Wave) (js : Nats) (g : Nat → Slice × β) :
    (js.map fun j => (j, g j)).foldl (fun w r => w.setSlice r.1 r.2.1) w = w.putSlices js fun j => (g j).1 := List.foldl_map

theorem Wave.paths_putSlices (w : Wave) (js : Nats) (g : Nat → Slice) : (w.putSlices js g).paths = w.paths :=
  Wave.paths_foldl_mapSlice (fun j _ => g j) js w

theorem Wave.path_putSlices (w : Wave) (js : Nats) (g : Nat → Slice) (p : Nat) : (w.putSlices js g).path p = w.path p := by
  simp only [Wave.path, Wave.paths_putSlices]

theorem Wave.onlySlices_putSlices (w : Wave) (js : Nats) (g : Nat → Slice) : onlySlices w (w.putSlices js g) :=
  Wave.onlySlices_foldl_mapSlice (fun j _ => g j) js w

theorem Wave.slice_putSlices {w : Wave} {js : Nats} (hn : js.Nodup) (hl : ∀ j ∈ js, j < w.slices.length) (g : Nat → Slice) (j : Nat) :
    (w.putSlices js g).slice j = if j ∈ js then g j else w.slice j :=
  Wave.slice_foldl_mapSlice (fun j _ => g j) j js w hn hl

theorem getLsbD_four_bits (b : Nat → Bool) {i : Nat} (hi : i < 4) :
    (BitVec.ofNat 4 (((List.range 4).map fun k => (b k).toNat * 2 ^ k).sum)).getLsbD i = b i := by
  have key : ∀ (b0 b1 b2 b3 : Bool) (i : Fin 4),
      (BitVec.ofNat 4 (b0.toNat * 2 ^ 0 + (b1.toNat * 2 ^ 1 + (b2.toNat * 2 ^ 2 + (b3.toNat * 2 ^ 3 + 0))))).getLsbD i
        = [b0, b1, b2, b3][i] := by decide
  refine (key (b 0) (b 1) (b 2) (b 3) ⟨i, hi⟩).trans ?_
  match i, hi with
  | 0, _ => rfl
  | 1, _ => rfl
  | 2, _ => rfl
  | 3, _ => rfl

/-- A slice's lanes of a predicate field. -/
theorem sliceLanes_predF {w : Wave} (p : PredF) {j : Nat} (hj : j < 8) :
    sliceLanes (w.predF p) j = BitVec.ofNat 4 ((List.range 4).map fun i => (predFBit w p (4 * j + i)).toNat * 2 ^ i).sum := by
  refine BitVec.eq_of_getLsbD_eq fun i hi => ?_
  have hL : 4 * j + i < 32 := by omega
  rw [getLsbD_four_bits _ hi, getLsbD_sliceLanes, decide_eq_true hi, Bool.true_and, predFBit, predBit, Wave.predF]
  cases p.neg
  · simp
  · simp [hL]

end Sys2Proof.Machine

namespace Sys2Proof.Claims

open Sys2Proof.Machine

theorem Shaped.slice_putSlices {e : Env} (h : Shaped e) (g : Nat → Slice) (j : Nat) :
    (e.w.putSlices e.pathSlices g).slice j = if j ∈ e.pathSlices then g j else e.w.slice j :=
  Wave.slice_putSlices (e.w.nodup_pathSlices e.p) (fun _ hj => h.slices.symm ▸ Wave.lt_of_mem_pathSlices hj) g j

/-- The lanes that slices leave awake (R125). -/
def awake (e : Env) (w : Wave) (L : Nat) : Bool :=
  ((w.slice (L / 4)).enabled &&& ~~~(w.slice (L / 4)).ended).getLsbD (L % 4) && !(e.path.sleep.getLsbD L)

/-- A transfer out of replaced slices, which ACTIVE then follows (R125). -/
theorem transfers_of_remask {i : Instr} {s : State} {e : Env} {op : Nat} {dest : Nat → DWord} {g : Nat → Slice} (sh : Shaped e)
    (h : Issuing s e op) (lits : Nat) {f : Env → Except Flt Out} (hi : exec i s = issue op s f)
    (hf : f e = jump (s.setWave e.ref ((e.w.putSlices e.pathSlices g).refreshActive e.p)) lits
      (e.pathSlices.map fun j => (j, dest j)) true) (room : Room e dest) :
    Transfers i s e op (e.w.putSlices e.pathSlices g) (awake e (e.w.putSlices e.pathSlices g)) dest := by
  have hpath := (Wave.path_putSlices e.w e.pathSlices g e.p).trans h.path.symm
  have hpaths := Wave.paths_putSlices e.w e.pathSlices g
  generalize e.w.putSlices e.pathSlices g = w at *
  refine transfers_of_completed (lits := lits) (remask := true) sh h.path hpaths
    (a := w.enabledLanes (bitsBelow 8 e.path.slices.toNat) &&& ~~~e.path.sleep) ?_ (fun L hL => ?_) room
  · rw [hi, h.jump_setWave hf]
    unfold Wave.refreshActive
    rw [hpath]
  · have hb : e.path.slices.getLsbD (L / 4) = true := h.path ▸ (Wave.mem_pathSlices.mp hL).1
    have h32 : L < 32 := by have := BitVec.lt_of_getLsbD hb; omega
    rw [BitVec.getLsbD_and, BitVec.getLsbD_not, Wave.getLsbD_enabledLanes, hb, decide_eq_true h32, Bool.true_and, Bool.true_and]
    rfl

/-! ### BRP (R312) -/

theorem brpSlice_eq (x : Slice) (sl pr : BitVec 4) (next : DWord) :
    brpSlice x sl pr next
      = ({ x with enabled := (brpRule x sl pr next).2.1, stack := (brpRule x sl pr next).2.2 }, (brpRule x sl pr next).1) := by
  unfold brpSlice brpRule
  dsimp only [Slice.live]
  split
  · rfl
  · split <;> rfl

theorem brpFull_iff (x : Slice) (sl pr : BitVec 4) (next : DWord) :
    brpFull x sl pr = true ↔ 8 ≤ x.stack.length ∧ (brpRule x sl pr next).2.2.length = x.stack.length + 1 := by
  unfold brpFull brpRule
  dsimp only [Slice.live]
  split
  · next h0 => simp [h0]
  · next h0 =>
    split
    · next h1 => simp [h1]
    · next h1 =>
      simp only [bne_iff_ne, ne_eq, Bool.and_eq_true, decide_eq_true_eq, List.length_cons, h0, h1, not_false_eq_true, true_and,
        and_true]

/-- What BRP does to slice `j` of the path. -/
def brpAt (e : Env) (p : PredF) (j : Nat) : Bool × BitVec 4 × List StackEntry :=
  brpRule (e.w.slice j) (laneBits e.path.sleep j)
    (BitVec.ofNat 4 ((List.range 4).map fun i => (predFBit e.w p (4 * j + i)).toNat * 2 ^ i).sum) e.nextClause

/-- Slice `j` after BRP. -/
def brpPut (e : Env) (p : PredF) (j : Nat) : Slice :=
  { e.w.slice j with enabled := (brpAt e p j).2.1, stack := (brpAt e p j).2.2 }

theorem brpSlice_path {e : Env} (p : PredF) {j : Nat} (hj : j ∈ e.pathSlices) :
    brpSlice (e.w.slice j) (sliceLanes e.path.sleep j) (sliceLanes (e.w.predF p) j) e.nextClause = (brpPut e p j, (brpAt e p j).1) := by
  rw [sliceLanes_predF p (Wave.lt_of_mem_pathSlices hj), brpSlice_eq]
  rfl

theorem brpFull_path {e : Env} (p : PredF) {j : Nat} (hj : j ∈ e.pathSlices) :
    brpFull (e.w.slice j) (sliceLanes e.path.sleep j) (sliceLanes (e.w.predF p) j) = true
      ↔ 8 ≤ (e.w.slice j).stack.length ∧ (brpAt e p j).2.2.length = (e.w.slice j).stack.length + 1 := by
  rw [sliceLanes_predF p (Wave.lt_of_mem_pathSlices hj)]
  exact brpFull_iff _ _ _ e.nextClause

theorem checkPred_ok {p : PredF} (h : p.rest = 0) : checkPred p true = .ok () := by
  simp [checkPred, h]

theorem brp_transfers {s : State} {e : Env} (sh : Shaped e) {p : PredF} {t : Word} {ls : List Word} (h : Issuing s e 0x03)
    (hlast : LastInClause e 1) (hp : p.rest = 0) (hl : e.lits = t :: ls) (hc : e.caster = false)
    (hfull : ∀ j ∈ e.pathSlices, (brpAt e p j).2.2.length ≤ 8)
    (ht : (∃ j ∈ e.pathSlices, (brpAt e p j).1 = true) → Target s e (displaced e t))
    (room : Room e fun j => if (brpAt e p j).1 then displaced e t else e.nextClause) :
    Transfers (.brp p .lit) s e 0x03 (e.w.putSlices e.pathSlices (brpPut e p)) (awake e (e.w.putSlices e.pathSlices (brpPut e p)))
      fun j => if (brpAt e p j).1 then displaced e t else e.nextClause := by
  refine transfers_of_remask sh h (e.used ls) rfl ?_ room
  have hlast' : e.lastInClause (litsOf .lit 1) = .ok () := hlast.ok
  have hnone : (e.pathSlices.any fun i => brpFull (e.w.slice i) (sliceLanes e.path.sleep i) (sliceLanes (e.w.predF p) i)) = false := by
    rw [List.any_eq_false]
    intro j hj hf
    have h8 := (brpFull_path p hj).mp hf
    have := hfull j hj
    omega
  have hmap : (e.pathSlices.map fun i => (i, brpSlice (e.w.slice i) (sliceLanes e.path.sleep i) (sliceLanes (e.w.predF p) i) e.nextClause))
      = e.pathSlices.map fun j => (j, (brpPut e p j, (brpAt e p j).1)) :=
    List.map_congr_left fun j hj => by rw [brpSlice_path p hj]
  simp only [hlast', checkPred_ok hp, hl, target_lit, hc, hnone, hmap, bind, Except.bind, Bool.false_eq_true, if_false]
  rw [Wave.putSlices_eq e.w e.pathSlices fun j => (brpPut e p j, (brpAt e p j).1), List.map_map]
  split
  · next hany =>
    rw [List.any_map, List.any_eq_true] at hany
    rw [checkTargets_ok (by simpa using ht hany)]
    rfl
  · rfl

theorem brp_full {s : State} {e : Env} {p : PredF} {t : Word} {ls : List Word} (h : Issuing s e 0x03)
    (hlast : LastInClause e 1) (hp : p.rest = 0) (hl : e.lits = t :: ls) (hc : e.caster = false)
    (hfull : ∃ j ∈ e.pathSlices, 8 ≤ (e.w.slice j).stack.length ∧ (brpAt e p j).2.2.length = (e.w.slice j).stack.length + 1) :
    exec (.brp p .lit) s = .next (s.takeFault e.ref e.p { code := 0x01 }) := by
  refine h.fault (f := _) ?_
  have hlast' : e.lastInClause (litsOf .lit 1) = .ok () := hlast.ok
  have hany : (e.pathSlices.any fun i => brpFull (e.w.slice i) (sliceLanes e.path.sleep i) (sliceLanes (e.w.predF p) i)) = true := by
    obtain ⟨j, hj, hf⟩ := hfull
    exact List.any_eq_true.mpr ⟨j, hj, (brpFull_path p hj).mpr hf⟩
  simp only [hlast', checkPred_ok hp, hl, target_lit, hc, hany, bind, Except.bind, Bool.false_eq_true, if_false, if_true]
  rfl

theorem bitOf_predF_zero (w : Wave) (p : PredF) : bitOf (w.predF p).toNat 0 = predFBit w p 0 := by
  rw [bitOf_toNat, predFBit, predBit, Wave.predF]
  cases p.neg <;> simp

theorem brp_caster {s : State} {e : Env} (sh : Shaped e) {p : PredF} {t : Word} {ls : List Word} (h : Issuing s e 0x03)
    (hlast : LastInClause e 1) (hp : p.rest = 0) (hl : e.lits = t :: ls) (hc : e.caster = true)
    (ht : predFBit e.w p 0 = true → Target s e (displaced e t)) :
    Transfers (.brp p .lit) s e 0x03 e.w (fun L => e.path.active.getLsbD L)
      fun _ => if predFBit e.w p 0 then displaced e t else e.nextClause := by
  refine transfers_of_jump sh h (e.used ls) rfl ?_ (Room.const e _)
  have hlast' : e.lastInClause (litsOf .lit 1) = .ok () := hlast.ok
  simp only [hlast', checkPred_ok hp, hl, target_lit, hc, bitOf_predF_zero, bind, Except.bind, if_true]
  split
  · next hgo => rw [checkTargets_ok (by simpa using ht hgo)]
  · rfl

/-! ### JOIN (R313) -/

/-- Bit 0 of a resume PC marks it as the second (R313). -/
theorem and_one_eq_zero_iff (a : DWord) : a &&& 1 = 0 ↔ a.getLsbD 0 = false := by
  constructor
  · intro h
    simpa using congrArg (·.getLsbD 0) h
  · intro h
    refine BitVec.eq_of_getLsbD_eq fun i hi => ?_
    cases i with
    | zero => simpa using h
    | succ i => simp

theorem joinSlice_eq (x : Slice) (next : DWord) :
    joinSlice x next = ({ x with enabled := (joinRule x next).2.1, stack := (joinRule x next).2.2 }, (joinRule x next).1) := by
  obtain ⟨regs, mode, flags, stack, enabled, ended⟩ := x
  cases stack with
  | nil => rfl
  | cons top rest =>
    simp only [joinSlice, joinRule, Slice.live, and_one_eq_zero_iff]
    split <;> rfl

/-- Slice `j` after JOIN. -/
def joinPut (e : Env) (j : Nat) : Slice :=
  { e.w.slice j with enabled := (joinRule (e.w.slice j) e.nextClause).2.1, stack := (joinRule (e.w.slice j) e.nextClause).2.2 }

theorem join_transfers {s : State} {e : Env} (sh : Shaped e) (h : Issuing s e 0x05) (hlast : LastInClause e 0) (hc : e.caster = false)
    (room : Room e fun j => (joinRule (e.w.slice j) e.nextClause).1) :
    Transfers .join s e 0x05 (e.w.putSlices e.pathSlices (joinPut e)) (awake e (e.w.putSlices e.pathSlices (joinPut e)))
      fun j => (joinRule (e.w.slice j) e.nextClause).1 := by
  refine transfers_of_remask sh h 0 rfl ?_ room
  have hmap : (e.pathSlices.map fun i => (i, joinSlice (e.w.slice i) e.nextClause))
      = e.pathSlices.map fun j => (j, (joinPut e j, (joinRule (e.w.slice j) e.nextClause).1)) :=
    List.map_congr_left fun j _ => by rw [joinSlice_eq]; rfl
  simp only [hlast.ok, hc, hmap, bind, Except.bind, Bool.false_eq_true, if_false]
  rw [Wave.putSlices_eq e.w e.pathSlices fun j => (joinPut e j, (joinRule (e.w.slice j) e.nextClause).1), List.map_map]
  rfl

theorem join_caster {s : State} {e : Env} (sh : Shaped e) (h : Issuing s e 0x05) (hlast : LastInClause e 0) (hc : e.caster = true) :
    Transfers .join s e 0x05 e.w (fun L => e.path.active.getLsbD L) fun _ => e.nextClause := by
  refine transfers_of_jump sh h 0 rfl ?_ (Room.const e _)
  simp only [hlast.ok, hc, bind, Except.bind, if_true]

theorem splitStackResults : SplitStackResults := by
  intro s e sh after asleep
  refine ⟨fun p t ls h hlast hp hl => ⟨fun hc hfull ht room => ?_, fun hc hfull => ?_, fun hc ht => ?_⟩,
    fun h hlast => ⟨fun hc room => ?_, fun hc => ?_⟩⟩
  · exact ⟨_, Wave.onlySlices_putSlices _ _ _, brp_transfers sh h hlast hp hl hc hfull ht room, sh.slice_putSlices _⟩
  · exact brp_full h hlast hp hl hc hfull
  · exact brp_caster sh h hlast hp hl hc ht
  · exact ⟨_, Wave.onlySlices_putSlices _ _ _, join_transfers sh h hlast hc room, sh.slice_putSlices _⟩
  · exact join_caster sh h hlast hc

/-- Settles O17: every transfer sends the groups of slices to entries of their own, and BRP and JOIN replace slices first. -/
theorem branchAndStackResults : Obligations.BranchAndStackResults := ⟨branchResults, splitStackResults⟩

end Sys2Proof.Claims
end

section
/-! SUPPORT. Lanes at rest (R129, R130, R138): SLEEP and WAKE, and what EXIT leaves. -/

namespace Sys2Proof.Machine

open Sys2Proof.Claims

theorem Wave.refreshActive_setPath {w : Wave} {p : Nat} (h : p < w.paths.length) (x : Path) :
    (w.setPath p x).refreshActive p
      = w.setPath p { x with active := w.enabledLanes (bitsBelow 8 x.slices.toNat) &&& ~~~x.sleep } := by
  unfold Wave.refreshActive
  rw [Wave.path_setPath_same w p x h, Wave.setPath_setPath]
  rfl

/-- Bit `L` of ACTIVE as slices and SLEEP give it (R125). -/
theorem Wave.getLsbD_refreshed (w : Wave) (b : BitVec 8) (z : Word) {L : Nat} (h : L < 32) :
    (w.enabledLanes (bitsBelow 8 b.toNat) &&& ~~~z).getLsbD L
      = (b.getLsbD (L / 4) && (w.slice (L / 4)).live.getLsbD (L % 4) && !(z.getLsbD L)) := by
  rw [BitVec.getLsbD_and, BitVec.getLsbD_not, Wave.getLsbD_enabledLanes, decide_eq_true h, Bool.true_and]

/-! ### Lanes that end -/

theorem Wave.paths_endLanes (w : Wave) (m : Word) : (w.endLanes m).paths = w.paths := Wave.paths_foldl_mapSlice _ _ w

theorem Wave.path_endLanes (w : Wave) (m : Word) (p : Nat) : (w.endLanes m).path p = w.path p := by
  simp only [Wave.path, Wave.paths_endLanes]

theorem Wave.onlySlices_endLanes (w : Wave) (m : Word) : onlySlices w (w.endLanes m) := Wave.onlySlices_foldl_mapSlice _ _ w

theorem Wave.slices_length_endLanes (w : Wave) (m : Word) : (w.endLanes m).slices.length = w.slices.length :=
  Wave.slices_length_foldl_mapSlice _ _ w

theorem Wave.slice_endLanes {w : Wave} (hl : w.slices.length = 8) (m : Word) {j : Nat} (hj : j < 8) :
    (w.endLanes m).slice j = { w.slice j with
      ended := (w.slice j).ended ||| sliceLanes m j, enabled := (w.slice j).enabled &&& ~~~(sliceLanes m j) } := by
  refine (Wave.slice_foldl_mapSlice (fun i x =>
    { x with ended := x.ended ||| sliceLanes m i, enabled := x.enabled &&& ~~~(sliceLanes m i) }) j (upto 8) w List.nodup_range
    (fun i hi => hl ▸ List.mem_range.mp hi)).trans ?_
  exact if_pos (List.mem_range.mpr hj)

theorem getLsbD_sliceLanes_lane (m : Word) (L : Nat) : (sliceLanes m (L / 4)).getLsbD (L % 4) = m.getLsbD L := by
  rw [getLsbD_sliceLanes, decide_eq_true (Nat.mod_lt L (by decide)), Bool.true_and, Nat.div_add_mod]

theorem Wave.getLsbD_ended_endLanes {w : Wave} (hl : w.slices.length = 8) (m : Word) {L : Nat} (hL : L < 32) :
    ((w.endLanes m).slice (L / 4)).ended.getLsbD (L % 4) = ((w.slice (L / 4)).ended.getLsbD (L % 4) || m.getLsbD L) := by
  rw [Wave.slice_endLanes hl m (by omega), BitVec.getLsbD_or, getLsbD_sliceLanes_lane]

theorem Slice.exited_iff {x : Slice} : x.exited = true ↔ ∀ i, i < 4 → x.ended.getLsbD i = true := by
  rw [Slice.exited, beq_iff_eq, eq_fifteen_iff]

/-- The wave once the lanes `m` of path `p` have ended, and the sleeping ones with them where no other is left (R129), before any
slice unwinds. -/
def Wave.endedBy (w : Wave) (p : Nat) (m : Word) : Wave :=
  if (w.endLanes m).pathLanes p &&& ~~~(w.endLanes m).endedLanes &&& ~~~((w.endLanes m).path p).sleep = 0 then
    (w.endLanes m).endLanes ((w.endLanes m).path p).sleep
  else w.endLanes m

theorem Wave.onlySlices_endedBy (w : Wave) (p : Nat) (m : Word) : onlySlices w (w.endedBy p m) := by
  unfold Wave.endedBy
  split
  · exact (Wave.onlySlices_endLanes w m).trans (Wave.onlySlices_endLanes _ _)
  · exact Wave.onlySlices_endLanes w m

theorem Wave.paths_endedBy (w : Wave) (p : Nat) (m : Word) : (w.endedBy p m).paths = w.paths := by
  unfold Wave.endedBy
  split
  · exact (Wave.paths_endLanes _ _).trans (Wave.paths_endLanes w m)
  · exact Wave.paths_endLanes w m

/-- EXIT where every slice that lives on stays at its place. -/
theorem Wave.exit_eq {w : Wave} {p : Nat} {m : Word} {a next : DWord}
    (h : ∀ j ∈ (w.endedBy p m).pathSlices p, unwindSlice next 9 ((w.endedBy p m).slice j) none = ((w.endedBy p m).slice j, none)) :
    w.exit p m a next =
      (((w.endedBy p m).setPath p { (w.endedBy p m).path p with
        sleep := ((w.endedBy p m).path p).sleep &&& ~~~(w.endedBy p m).endedLanes }).refreshActive p,
       ((w.endedBy p m).pathSlices p).map fun j => (j, a)) := by
  have hfold : ∀ (l : Nats) (v : Wave), l.foldl (fun u j => u.setSlice j (v.slice j)) v = v := by
    intro l v
    induction l with
    | nil => rfl
    | cons j t ih =>
      have hj : v.setSlice j (v.slice j) = v := by simp only [Wave.setSlice, Wave.slice, setNth_nth]
      rw [List.foldl_cons, hj, ih]
  have hmap : ((w.endedBy p m).pathSlices p).map (fun j => (j, unwindSlice next 9 ((w.endedBy p m).slice j) none))
      = ((w.endedBy p m).pathSlices p).map fun j => (j, ((w.endedBy p m).slice j, (none : Option DWord))) :=
    List.map_congr_left fun j hj => by rw [h j hj]
  have hexit : w.exit p m a next =
      (let rs := ((w.endedBy p m).pathSlices p).map fun j => (j, unwindSlice next 9 ((w.endedBy p m).slice j) none)
       let v := rs.foldl (fun w r => w.setSlice r.1 r.2.1) (w.endedBy p m)
       ((v.setPath p { v.path p with sleep := (v.path p).sleep &&& ~~~v.endedLanes }).refreshActive p,
        rs.map fun r => (r.1, r.2.2.getD a))) := rfl
  rw [hexit, hmap]
  simp only [List.foldl_map, hfold, List.map_map]
  rfl

/-- A slice with an empty stack, or with a lane left, does not unwind (R313). -/
theorem unwindSlice_stays {x : Slice} (next : DWord) (h : x.stack = [] ∨ x.live ≠ 0) : unwindSlice next 9 x none = (x, none) := by
  unfold unwindSlice
  split
  · rfl
  · next top rest hs =>
    rw [if_pos (.inl (h.resolve_left (by rw [hs]; exact List.cons_ne_nil _ _)))]

/-- No lane of the path is left: its sleeping lanes end with the others (R129). -/
theorem Wave.endedBy_all {w : Wave} {p : Nat} {m : Word} (hl : w.slices.length = 8)
    (h : ∀ L, L < 32 → (w.path p).slices.getLsbD (L / 4) = true →
      (w.slice (L / 4)).ended.getLsbD (L % 4) = true ∨ m.getLsbD L = true ∨ (w.path p).sleep.getLsbD L = true) :
    w.endedBy p m = (w.endLanes m).endLanes (w.path p).sleep := by
  unfold Wave.endedBy
  rw [Wave.path_endLanes, if_pos]
  refine BitVec.eq_of_getLsbD_eq fun L hL => ?_
  simp only [BitVec.getLsbD_and, BitVec.getLsbD_not, Wave.getLsbD_pathLanes, Wave.getLsbD_endedLanes, Wave.path_endLanes,
    Wave.getLsbD_ended_endLanes hl m hL, hL, decide_true, Bool.true_and]
  cases hb : (w.path p).slices.getLsbD (L / 4) with
  | false => simp
  | true => rcases h L hL hb with h | h | h <;> simp [h]

/-- A lane of the path is left: only the lanes `m` end. -/
theorem Wave.endedBy_some {w : Wave} {p : Nat} {m : Word} (hl : w.slices.length = 8) {L : Nat} (hL : L < 32)
    (hb : (w.path p).slices.getLsbD (L / 4) = true) (h1 : (w.slice (L / 4)).ended.getLsbD (L % 4) = false)
    (h2 : m.getLsbD L = false) (h3 : (w.path p).sleep.getLsbD L = false) : w.endedBy p m = w.endLanes m := by
  unfold Wave.endedBy
  rw [if_neg]
  intro h0
  have h := congrArg (·.getLsbD L) h0
  simp only [BitVec.getLsbD_and, BitVec.getLsbD_not, Wave.getLsbD_pathLanes, Wave.getLsbD_endedLanes, Wave.path_endLanes,
    Wave.getLsbD_ended_endLanes hl m hL, hL, hb, h1, h2, h3, decide_true, Bool.true_and, Bool.or_self, Bool.not_false] at h
  simp at h

/-! ### Arrivals settled (R130) -/

theorem Gang.foldl_settle_frame : ∀ (l : Nats) (g : Gang), l.foldl Gang.settle g = { g with barriers := (l.foldl Gang.settle g).barriers }
  | [], _ => rfl
  | b :: t, g => by
    have h1 : g.settle b = { g with barriers := (g.settle b).barriers } := by unfold Gang.settle; dsimp only; split <;> rfl
    have h2 := Gang.foldl_settle_frame t (g.settle b)
    rw [List.foldl_cons]
    generalize t.foldl Gang.settle (g.settle b) = g2 at h2
    generalize g.settle b = g1 at h1 h2
    rw [h2, h1]

/-- A change of a gang that leaves every gang as it was. -/
theorem State.mapGang_same (s : State) (t g : Nat) {f : Gang → Gang} (hf : ∀ x, f x = x) : s.mapGang t g f = s := by
  have hid : s.gangs.map (fun x => if x.task == t && x.index == g then f x else x) = s.gangs := by
    refine (List.map_congr_left fun x _ => ?_).trans (List.map_id _)
    split
    · exact hf x
    · rfl
  unfold State.mapGang
  rw [hid]

/-- The barriers of a gang once the arrivals that ended slices complete are settled (R130). -/
def settledBarriers (e : Env) (g : Gang) : List Barrier :=
  if e.caster = true ∨ e.handler = true then g.barriers else ((upto 16).foldl Gang.settle g).barriers

theorem State.settleArrivals_eq (s : State) (e : Env) :
    s.settleArrivals e = s.mapGang e.task e.gang fun g => { g with barriers := settledBarriers e g } := by
  unfold State.settleArrivals
  by_cases h : e.caster = true ∨ e.handler = true
  · rw [if_pos (by simpa using h), State.mapGang_same s e.task e.gang fun x => by rw [settledBarriers, if_pos h]]
  · rw [if_neg (by simpa using h)]
    refine congrArg (s.mapGang e.task e.gang) (funext fun g => ?_)
    rw [settledBarriers, if_neg h]
    exact Gang.foldl_settle_frame _ g

/-- Barriers changed leave every wave as it was. -/
theorem State.wave?_mapGang_barriers (s : State) (t g : Nat) (f : Gang → List Barrier) (r : WaveRef) :
    (s.mapGang t g fun x => { x with barriers := f x }).wave? r = s.wave? r := by
  have hgang (t' g' : Nat) : (s.mapGang t g fun x => { x with barriers := f x }).gang? t' g'
      = (s.gang? t' g').map fun x => if x.task == t && x.index == g then { x with barriers := f x } else x :=
    find?_map_key _ _ (fun x => by split <;> rfl) s.gangs
  cases r with
  | handler c => rfl
  | user t' g' i =>
    simp only [State.wave?, hgang]
    cases s.gang? t' g' with
    | none => rfl
    | some x =>
      simp only [Option.map_some, Option.bind_some]
      split <;> rfl
  | caster t' g' =>
    simp only [State.wave?, hgang]
    cases s.gang? t' g' with
    | none => rfl
    | some x =>
      simp only [Option.map_some]
      split <;> rfl

/-- A wave that is no caster thread and no handler wave stands in the gang that its issue names. -/
theorem State.env?_user {s : State} {r : WaveRef} {p : Nat} {e : Env} (h : s.env? r p = some e)
    (hn : ¬(e.caster = true ∨ e.handler = true)) : ∃ i, e.ref = .user e.task e.gang i := by
  unfold State.env? at h
  split at h
  · cases h
  · cases r with
    | user t g i =>
      dsimp only at h
      split at h
      · cases h; exact ⟨i, rfl⟩
      · cases h
    | caster t g =>
      dsimp only at h
      split at h
      · cases h; exact absurd (.inl rfl) hn
      · cases h
    | handler c =>
      cases h; exact absurd (.inr rfl) hn

/-- A wave replaced after arrivals have been settled, as one replaced before: what was settled looked at wave `w`. -/
theorem State.settle_setWave {s : State} {e : Env} (h : s.env? e.ref e.p = some e) (w w' : Wave) :
    ∃ f : Gang → List Barrier, (e.caster = true ∨ e.handler = true → f = Gang.barriers)
      ∧ ((s.setWave e.ref w).settleArrivals e).setWave e.ref w'
        = (s.setWave e.ref w').mapGang e.task e.gang fun g => { g with barriers := f g } := by
  by_cases hn : e.caster = true ∨ e.handler = true
  · refine ⟨Gang.barriers, fun _ => rfl, ?_⟩
    have hsame (t : State) : t.settleArrivals e = t := by
      unfold State.settleArrivals
      rw [if_pos (by simpa using hn)]
    rw [hsame, State.setWave_setWave, State.mapGang_same _ _ _ fun _ => rfl]
  · obtain ⟨i, hi⟩ := State.env?_user h hn
    refine ⟨fun g => settledBarriers e { g with waves := setNth g.waves i w }, fun h => absurd h hn, ?_⟩
    rw [State.settleArrivals_eq, hi]
    simp only [State.setWave]
    have hk (f : Gang → Gang) (hf : ∀ x, f x = { x with waves := (f x).waves, barriers := (f x).barriers }) (x : Gang) :
        (f x).task = x.task ∧ (f x).index = x.index := by rw [hf x]; exact ⟨rfl, rfl⟩
    rw [State.mapGang_mapGang _ _ _ _ _ (hk _ fun _ => rfl), State.mapGang_mapGang _ _ _ _ _ (hk _ fun _ => rfl),
      State.mapGang_mapGang _ _ _ _ _ (hk _ fun _ => rfl)]
    simp only [setNth_setNth]

end Sys2Proof.Machine
end

section
/-! SUPPORT. EXIT, SLEEP and WAKE (R129, R130, R138, R315). -/

namespace Sys2Proof.Claims

open Sys2Proof.Machine

/-! ### Going on in line -/

/-- A path that completes in line, as its entry then stands. -/
theorem Shaped.completed_seq {e : Env} (sh : Shaped e) (w : Wave) (hl : w.paths.length = 8) (op lits : Nat) (remask : Bool) {x : Path}
    (hx : x.state = e.path.state) :
    (w.setPath e.p x).completed e op lits .seq remask true = w.setPath e.p { x with
      state := .run, wait := .none, paused := false, done := 0, sig := sigIssue e.path.sig op (e.path.active ^^^ e.path.ref)
      ref := if remask then x.active else x.ref, pc := (e.after lits).1, clause := (e.after lits).2 } := by
  have hp (y : Path) : (w.setPath e.p y).path e.p = y := Wave.path_setPath_same w e.p y (hl ▸ sh.entry)
  simp only [Wave.completed, hp, Wave.setPath_setPath, hx, sh.runs, if_true]

/-- SLEEP and WAKE: the path goes on with another SLEEP, which ACTIVE follows. -/
theorem goesOn_sleeping {s : State} {e : Env} {op : Nat} {i : Instr} (sh : Shaped e) (h : Issuing s e op) (z : Word)
    {f : Env → Except Flt Out} (hi : exec i s = issue op s f)
    (hf : f e = .ok (.go { s := s.setWave e.ref ((e.w.setPath e.p { e.path with sleep := z }).refreshActive e.p), remask := true })) :
    ∃ w, exec i s = .next (s.setWave e.ref w) ∧ GoesOn e op 0 w ∧ (w.path e.p).sleep = z
      ∧ (w.path e.p).active = e.w.enabledLanes (bitsBelow 8 e.path.slices.toNat) &&& ~~~z := by
  have hlen : e.p < e.w.paths.length := sh.paths ▸ sh.entry
  have hp (y : Path) : (e.w.setPath e.p y).path e.p = y := Wave.path_setPath_same e.w e.p y hlen
  refine ⟨_, (hi.trans (h.completes hf rfl)), ?_⟩
  rw [Wave.refreshActive_setPath hlen, sh.completed_seq e.w sh.paths]
  · refine ⟨⟨rfl, fun q hq => Wave.path_setPath_ne _ hq _, ?_, ?_, ?_, ?_, ?_⟩, ?_, ?_⟩ <;> rw [hp]
  · rfl

theorem sleep_rests {s : State} {e : Env} (sh : Shaped e) (h : Issuing s e 0x10) :
    ∃ w, exec .sleep s = .next (s.setWave e.ref w) ∧ GoesOn e 0x10 0 w ∧ (w.path e.p).sleep = e.path.sleep ||| e.active
      ∧ (w.path e.p).active = e.w.enabledLanes (bitsBelow 8 e.path.slices.toNat) &&& ~~~(e.path.sleep ||| e.active) :=
  goesOn_sleeping sh h (e.path.sleep ||| e.active) rfl rfl

theorem wake_wakes {s : State} {e : Env} (sh : Shaped e) (h : Issuing s e 0x11) :
    ∃ w, exec .wake s = .next (s.setWave e.ref w) ∧ GoesOn e 0x11 0 w ∧ (w.path e.p).sleep = 0
      ∧ (w.path e.p).active = e.w.enabledLanes (bitsBelow 8 e.path.slices.toNat) &&& ~~~0 :=
  goesOn_sleeping sh h 0 rfl rfl

/-! ### EXIT (R129, R315) -/

/-- The lanes of the path's slices. -/
abbrev ownLane (e : Env) (L : Nat) : Prop := L < 32 ∧ e.path.slices.getLsbD (L / 4) = true

/-- Whether a lane has ended. -/
def endedLane (e : Env) (L : Nat) : Bool := (e.w.slice (L / 4)).ended.getLsbD (L % 4)

/-- The lanes that EXIT ends (R297, R315). -/
def exitMask (e : Env) : Word := if e.caster then e.w.pathLanes e.p else e.active

/-- The path is gone, and every lane of its slices has ended. -/
def Gone (e : Env) (w : Wave) : Prop :=
  onlySlices e.w w ∧ w.path e.p = {} ∧ (∀ q, q ≠ e.p → w.path q = e.w.path q)
    ∧ ∀ j, j < 8 → (w.slice j).ended = if e.path.slices.getLsbD j then 0xF else (e.w.slice j).ended

theorem mem_lanes {e : Env} {L : Nat} : L ∈ e.lanes ↔ e.active.getLsbD L = true := mem_lanesOf

theorem ownLane_of_mem_lanes {e : Env} (he : e.path = e.w.path e.p) {L : Nat} (h : L ∈ e.lanes) : ownLane e L := by
  have hs := Wave.mem_pathSlices.mp (Wave.slice_of_activeLanes (mem_lanes.mp h))
  exact ⟨BitVec.lt_of_getLsbD (mem_lanes.mp h), he ▸ hs.1⟩

/-- The lanes that end, when none of the path is left. -/
theorem ended_endedBy_all {e : Env} (sh : Shaped e) (he : e.path = e.w.path e.p) {m : Word} (hm : ∀ L, m.getLsbD L = true → ownLane e L)
    (hz : ∀ L, e.path.sleep.getLsbD L = true → ownLane e L)
    (hall : ∀ L, ownLane e L → endedLane e L = true ∨ m.getLsbD L = true ∨ e.path.sleep.getLsbD L = true) {j : Nat} (hj : j < 8) :
    ((e.w.endedBy e.p m).slice j).ended = if e.path.slices.getLsbD j then 0xF else (e.w.slice j).ended := by
  have hl := sh.slices
  rw [Wave.endedBy_all hl (fun L hL hb => he ▸ hall L ⟨hL, he ▸ hb⟩),
    Wave.slice_endLanes ((Wave.slices_length_endLanes _ _).trans hl) _ hj, Wave.slice_endLanes hl _ hj, ← he]
  refine BitVec.eq_of_getLsbD_eq fun i hi => ?_
  have h4 : (4 * j + i) / 4 = j := by omega
  have h4' : (4 * j + i) % 4 = i := by omega
  have hL : 4 * j + i < 32 := by omega
  simp only [BitVec.getLsbD_or, getLsbD_sliceLanes, decide_eq_true hi, Bool.true_and]
  split
  · next hb =>
    rw [eq_fifteen_iff.mp rfl i hi]
    have h := hall (4 * j + i) ⟨hL, h4.symm ▸ hb⟩
    rw [endedLane, h4, h4'] at h
    rcases h with h | h | h <;> simp [h]
  · next hb =>
    have hno (x : Word) (hx : ∀ L, x.getLsbD L = true → ownLane e L) : x.getLsbD (4 * j + i) = false := by
      cases hxb : x.getLsbD (4 * j + i) with
      | false => rfl
      | true => exact absurd (h4 ▸ (hx _ hxb).2) hb
    rw [hno m hm, hno _ hz, Bool.or_false, Bool.or_false]

/-- EXIT: a path left with no slice is gone, and any other goes on (R129). -/
theorem exitLanes_eq {s : State} {e : Env} (h : Issuing s e 0x08) (hoff : (e.caster && e.off) = false) :
    exec .exitLanes s = .next (s.close e 0x08
      (if (e.w.exit e.p (exitMask e) (e.after 0).1 e.nextClause).2 = [] then
        .ok (.stop ((s.setWave e.ref ((e.w.exit e.p (exitMask e) (e.after 0).1 e.nextClause).1.setPath e.p {})).settleArrivals e))
      else jump ((s.setWave e.ref (e.w.exit e.p (exitMask e) (e.after 0).1 e.nextClause).1).settleArrivals e) 0
        (e.w.exit e.p (exitMask e) (e.after 0).1 e.nextClause).2 true)) := by
  refine (h.close _).trans ?_
  simp only [hoff, Bool.false_eq_true, if_false]
  rfl

theorem exit_gone {s : State} {e : Env} (sh : Shaped e) (h : Issuing s e 0x08) (hoff : (e.caster && e.off) = false)
    (hm : ∀ L, (exitMask e).getLsbD L = true → ownLane e L) (hz : ∀ L, e.path.sleep.getLsbD L = true → ownLane e L)
    (hall : ∀ L, ownLane e L → endedLane e L = true ∨ (exitMask e).getLsbD L = true ∨ e.path.sleep.getLsbD L = true) :
    ∃ w, LeavesSettled .exitLanes s e w ∧ Gone e w := by
  have hended := fun {j : Nat} (hj : j < 8) => ended_endedBy_all sh h.path hm hz hall hj
  have hrest := Wave.onlySlices_endedBy e.w e.p (exitMask e)
  have hpaths := Wave.paths_endedBy e.w e.p (exitMask e)
  have hexit := Wave.exit_eq (w := e.w) (p := e.p) (m := exitMask e) (a := (e.after 0).1) (next := e.nextClause)
  generalize e.w.endedBy e.p (exitMask e) = v at *
  have hpath (q : Nat) : v.path q = e.w.path q := by simp only [Wave.path, hpaths]
  have hlen : e.p < v.paths.length := hpaths.symm ▸ sh.paths.symm ▸ sh.entry
  have hnone : v.pathSlices e.p = [] := by
    refine List.eq_nil_iff_forall_not_mem.mpr fun j hj => ?_
    obtain ⟨hb, hx⟩ := Wave.mem_pathSlices.mp hj
    rw [hpath, ← h.path] at hb
    rw [Slice.exited, hended (BitVec.lt_of_getLsbD hb), if_pos hb] at hx
    exact absurd hx (by decide)
  rw [hnone] at hexit
  have hexit := hexit fun j hj => absurd hj List.not_mem_nil
  refine ⟨v.setPath e.p {}, ⟨settledBarriers e, fun hn => funext fun g => if_pos hn, ?_⟩, ?_, ?_, fun q hq => ?_, fun j hj => hended hj⟩
  · rw [exitLanes_eq h hoff, hexit, Wave.refreshActive_setPath hlen, ← State.settleArrivals_eq]
    simp only [List.map_nil, if_true, Wave.setPath_setPath]
    rfl
  · exact hrest.trans (onlySlices_setPath _ _ _)
  · exact Wave.path_setPath_same _ _ _ hlen
  · rw [Wave.path_setPath_ne _ hq, hpath]

/-- Slices that all go to one place make one group. -/
theorem groupNext_const {js : Nats} (h : js ≠ []) (a : DWord) : ∃ sl, groupNext (js.map fun j => (j, a)) = [(a, sl)] := by
  obtain ⟨j, t, rfl⟩ := List.exists_cons_of_ne_nil h
  obtain ⟨sl, hg, -⟩ := groupNext_cons j a (t.map fun j => (j, a))
  refine ⟨j :: sl, hg.trans (congrArg _ (List.filter_eq_nil_iff.mpr fun g hgm => ?_))⟩
  obtain ⟨y, hy, hya⟩ := List.mem_map.mp (fst_mem_of_mem_groupNext hgm)
  obtain ⟨k, -, rfl⟩ := List.mem_map.mp hy
  simp [← hya]

/-- A path whose slices all go on in line. -/
theorem Shaped.completed_to_after {e : Env} (sh : Shaped e) (w : Wave) (hl : w.paths.length = 8) (op lits : Nat) (remask : Bool)
    (x : Path) {js : Nats} (hj : js ≠ []) :
    (w.setPath e.p x).completed e op lits (.to (js.map fun j => (j, (e.after lits).1))) remask true
      = (w.setPath e.p x).completed e op lits .seq remask true := by
  obtain ⟨sl, hg⟩ := groupNext_const hj (e.after lits).1
  have hp (y : Path) : (w.setPath e.p y).path e.p = y := Wave.path_setPath_same w e.p y (hl ▸ sh.entry)
  simp only [Wave.completed, Wave.goTo_eq hg, hp, Wave.setPath_setPath, List.foldl_nil, if_true]

/-- The lanes that have ended after EXIT where some lane of the path stays awake. -/
theorem ended_endLanes {e : Env} (sh : Shaped e) {L : Nat} (hL : L < 32) :
    ((e.w.endLanes e.active).slice (L / 4)).ended.getLsbD (L % 4) = (endedLane e L || decide (L ∈ e.lanes)) := by
  have hlane : e.active.getLsbD L = decide (L ∈ e.lanes) := by rw [Bool.eq_iff_iff, decide_eq_true_eq, mem_lanes]
  rw [Wave.getLsbD_ended_endLanes sh.slices e.active hL, hlane]
  rfl

theorem live_endLanes {e : Env} (sh : Shaped e) {L : Nat} (hL : L < 32) (h1 : (e.w.slice (L / 4)).enabled.getLsbD (L % 4) = true)
    (h2 : endedLane e L = false) (h3 : L ∉ e.lanes) : ((e.w.endLanes e.active).slice (L / 4)).live ≠ 0 := by
  intro h0
  have h4 : L % 4 < 4 := Nat.mod_lt L (by decide)
  have ha : e.active.getLsbD L = false := Bool.not_eq_true _ ▸ fun h => h3 (mem_lanes.mpr h)
  have hn : ((e.w.endLanes e.active).slice (L / 4)).enabled.getLsbD (L % 4) = true := by
    rw [Wave.slice_endLanes sh.slices e.active (by omega)]
    dsimp only
    rw [BitVec.getLsbD_and, BitVec.getLsbD_not, getLsbD_sliceLanes_lane, h1, ha, decide_eq_true h4]
    rfl
  have h : (((e.w.endLanes e.active).slice (L / 4)).live).getLsbD (L % 4) = false := h0 ▸ BitVec.getLsbD_zero
  rw [Slice.live, BitVec.getLsbD_and, BitVec.getLsbD_not, hn, ended_endLanes sh hL, h2, decide_eq_false h3, decide_eq_true h4] at h
  cases h

theorem not_exited_endLanes {e : Env} (sh : Shaped e) {L : Nat} (hL : L < 32) (h2 : endedLane e L = false) (h3 : L ∉ e.lanes) :
    ((e.w.endLanes e.active).slice (L / 4)).exited = false := by
  rw [← Bool.not_eq_true, Slice.exited_iff]
  intro hx
  have h := hx (L % 4) (Nat.mod_lt L (by decide))
  rw [ended_endLanes sh hL, h2, decide_eq_false h3] at h
  cases h

/-- Every slice that lives on has an empty stack or a lane left, so that none unwinds. -/
theorem endLanes_unwound {e : Env} (sh : Shaped e)
    (hstay : ∀ j ∈ e.pathSlices, (e.w.slice j).stack = [] ∨ (∀ L, L / 4 = j → endedLane e L = true ∨ L ∈ e.lanes)
      ∨ ∃ L, L / 4 = j ∧ (e.w.slice j).enabled.getLsbD (L % 4) = true ∧ endedLane e L = false ∧ L ∉ e.lanes)
    {j : Nat} (hj : j ∈ (e.w.endLanes e.active).pathSlices e.p) :
    unwindSlice e.nextClause 9 ((e.w.endLanes e.active).slice j) none = ((e.w.endLanes e.active).slice j, none) := by
  have hj8 := Wave.lt_of_mem_pathSlices hj
  obtain ⟨hb, hx⟩ := Wave.mem_pathSlices.mp hj
  rw [Wave.path_endLanes] at hb
  rw [← Bool.not_eq_true, Slice.exited_iff] at hx
  have lane (i : Nat) (hi : i < 4) : (4 * j + i) / 4 = j ∧ (4 * j + i) % 4 = i ∧ 4 * j + i < 32 := by omega
  have hj' : j ∈ e.pathSlices := by
    refine Wave.mem_pathSlices.mpr ⟨hb, ?_⟩
    rw [← Bool.not_eq_true, Slice.exited_iff]
    refine fun hall => hx fun i hi => ?_
    rw [Wave.slice_endLanes sh.slices e.active hj8, BitVec.getLsbD_or, hall i hi, Bool.true_or]
  refine unwindSlice_stays _ ?_
  rcases hstay j hj' with h | h | ⟨L, rfl, h1, h2, h3⟩
  · exact .inl (by rw [Wave.slice_endLanes sh.slices e.active hj8]; exact h)
  · refine absurd (fun i hi => ?_) hx
    obtain ⟨h4, hm, h32⟩ := lane i hi
    have h := h (4 * j + i) h4
    have he := ended_endLanes sh h32
    rw [h4, hm] at he
    rw [he]
    rcases h with h | h <;> simp [h]
  · exact .inr (live_endLanes sh (by omega) h1 h2 h3)

/-- A path that goes on in line once arrivals have been settled. -/
theorem leavesSettled_of_jump {i : Instr} {s : State} {e : Env} {op : Nat} (sh : Shaped e) (h : Issuing s e op) {v : Wave}
    (hl : v.paths.length = 8) {x : Path} {js : Nats} (hj : js ≠ [])
    (hi : exec i s = .next (s.close e op (jump ((s.setWave e.ref (v.setPath e.p x)).settleArrivals e) 0
      (js.map fun j => (j, (e.after 0).1)) true))) :
    LeavesSettled i s e ((v.setPath e.p x).completed e op 0 .seq true true) := by
  have hwave : ((s.setWave e.ref (v.setPath e.p x)).settleArrivals e).wave? e.ref = some (v.setPath e.p x) := by
    rw [State.settleArrivals_eq, State.wave?_mapGang_barriers]
    exact State.wave?_setWave s e.ref e.w _ h.wave
  obtain ⟨f, hf, hset⟩ := State.settle_setWave h.env (v.setPath e.p x) ((v.setPath e.p x).completed e op 0 .seq true true)
  refine ⟨f, hf, ?_⟩
  rw [← hset, hi, ← sh.completed_to_after v hl op 0 true x hj]
  exact congrArg _ (State.finish_eq op { s := (s.setWave e.ref (v.setPath e.p x)).settleArrivals e
                                         next := .to (js.map fun j => (j, (e.after 0).1)), remask := true } hwave)

theorem exit_goesOn {s : State} {e : Env} (sh : Shaped e) (h : Issuing s e 0x08) (hc : e.caster = false)
    (hsome : ∃ L, ownLane e L ∧ endedLane e L = false ∧ L ∉ e.lanes ∧ e.path.sleep.getLsbD L = false)
    (hstay : ∀ j ∈ e.pathSlices, (e.w.slice j).stack = [] ∨ (∀ L, L / 4 = j → endedLane e L = true ∨ L ∈ e.lanes)
      ∨ ∃ L, L / 4 = j ∧ (e.w.slice j).enabled.getLsbD (L % 4) = true ∧ endedLane e L = false ∧ L ∉ e.lanes) :
    ∃ w, LeavesSettled .exitLanes s e w ∧ onlySlices e.w w ∧ (∀ q, q ≠ e.p → w.path q = e.w.path q) ∧ (w.path e.p).state = .run
      ∧ ((w.path e.p).pc, (w.path e.p).clause) = e.after 0
      ∧ ∀ L, L < 32 → (w.slice (L / 4)).ended.getLsbD (L % 4) = (endedLane e L || decide (L ∈ e.lanes)) := by
  obtain ⟨L0, ⟨hL0, hb0⟩, he0, hl0, hz0⟩ := hsome
  have hm0 : e.active.getLsbD L0 = false := Bool.not_eq_true _ ▸ fun h => hl0 (mem_lanes.mpr h)
  have hby : e.w.endedBy e.p e.active = e.w.endLanes e.active :=
    Wave.endedBy_some sh.slices hL0 (h.path ▸ hb0) he0 hm0 (h.path ▸ hz0)
  have hunwound := fun j (hj : j ∈ (e.w.endLanes e.active).pathSlices e.p) => endLanes_unwound sh hstay hj
  have hexit := Wave.exit_eq (w := e.w) (p := e.p) (m := e.active) (a := (e.after 0).1) (hby.symm ▸ hunwound)
  have hne : (e.w.endLanes e.active).pathSlices e.p ≠ [] := List.ne_nil_of_mem (a := L0 / 4)
    (Wave.mem_pathSlices.mpr ⟨by rw [Wave.path_endLanes, ← h.path]; exact hb0, not_exited_endLanes sh hL0 he0 hl0⟩)
  have hended := fun L (hL : L < 32) => ended_endLanes sh hL
  have hpath := Wave.path_endLanes e.w e.active
  have hl8 : (e.w.endLanes e.active).paths.length = 8 := (Wave.paths_endLanes e.w e.active).symm ▸ sh.paths
  have hrest := Wave.onlySlices_endLanes e.w e.active
  have hmask : exitMask e = e.active := by rw [exitMask, hc]; rfl
  have hex := exitLanes_eq h (by rw [hc]; rfl)
  rw [hmask, hexit, hby] at hex
  generalize e.w.endLanes e.active = v at *
  have hp (y : Path) : (v.setPath e.p y).path e.p = y := Wave.path_setPath_same v e.p y (hl8 ▸ sh.entry)
  dsimp only at hex
  rw [if_neg (by simpa using hne), Wave.refreshActive_setPath (hl8 ▸ sh.entry)] at hex
  refine ⟨_, leavesSettled_of_jump sh h hl8 hne hex, ?_⟩
  rw [sh.completed_seq v hl8 0x08 0 true (by rw [hpath, h.path])]
  refine ⟨hrest.trans (onlySlices_setPath _ _ _), fun q hq => ?_, by rw [hp], by rw [hp], hended⟩
  rw [Wave.path_setPath_ne _ hq, hpath]

/-! ### Lanes at rest (R129, R138, R315) -/

theorem off_iff {e : Env} (hc : e.caster = true) : e.off = true ↔ 0 ∉ e.lanes := by
  rw [Env.off, hc, bitOf_toNat, mem_lanes, Bool.true_and, Bool.not_eq_true', Bool.not_eq_true]

theorem exitMask_of_caster {e : Env} (he : e.path = e.w.path e.p) (hc : e.caster = true) (L : Nat) :
    (exitMask e).getLsbD L = true ↔ ownLane e L := by
  rw [exitMask, if_pos hc, Wave.getLsbD_pathLanes, Bool.and_eq_true, decide_eq_true_eq, ← he]

theorem exit_caster_off {s : State} {e : Env} (h : Issuing s e 0x08) (hc : e.caster = true) (h0 : 0 ∉ e.lanes) :
    Leaves .exitLanes s e 0x08 0 e.w := by
  refine h.goOn_same (f := _) ?_
  rw [hc, (off_iff hc).mpr h0]
  rfl

theorem getLsbD_awake {e : Env} (z : Word) {L : Nat} (hL : L < 32) [d : Decidable (ownLane e L)] :
    (e.w.enabledLanes (bitsBelow 8 e.path.slices.toNat) &&& ~~~z).getLsbD L
      = (decide (ownLane e L) && (e.w.slice (L / 4)).enabled.getLsbD (L % 4) && !(endedLane e L) && !(z.getLsbD L)) := by
  have h4 : L % 4 < 4 := Nat.mod_lt L (by decide)
  have hm : decide (ownLane e L) = e.path.slices.getLsbD (L / 4) := by
    rw [Bool.eq_iff_iff, decide_eq_true_eq]
    exact and_iff_right hL
  rw [Wave.getLsbD_refreshed _ _ _ hL, hm, Slice.live, BitVec.getLsbD_and, BitVec.getLsbD_not, decide_eq_true h4, Bool.true_and,
    endedLane]
  simp only [Bool.and_assoc]

theorem lanesAtRest : LanesAtRest := by
  intro s e sh ownLane' ended gone
  refine ⟨fun h hz => ⟨fun hc h0 => exit_caster_off h hc h0, fun hc h0 => ?_, fun hc hall => ?_, fun hc hsome hstay => ?_⟩,
    fun h => ?_, fun h => ?_⟩
  · have hoff : (e.caster && e.off) = false := by
      rw [hc, Bool.true_and, ← Bool.not_eq_true, off_iff hc, Classical.not_not]; exact h0
    exact exit_gone sh h hoff (fun L => (exitMask_of_caster h.path hc L).mp) hz
      fun L hL => .inr (.inl ((exitMask_of_caster h.path hc L).mpr hL))
  · have hmask : exitMask e = e.active := by rw [exitMask, hc]; rfl
    refine exit_gone sh h (by rw [hc]; rfl) (fun L hL => ?_) hz fun L hL => ?_
    · exact ownLane_of_mem_lanes h.path (mem_lanes.mpr (hmask ▸ hL))
    · rw [hmask, ← mem_lanes]
      exact hall L hL
  · exact exit_goesOn sh h hc hsome hstay
  · obtain ⟨w, hex, hon, hsl, hac⟩ := sleep_rests sh h
    refine ⟨w, hex, hon, hsl, fun L hL => ?_⟩
    have hlane : e.active.getLsbD L = decide (L ∈ e.lanes) := by rw [Bool.eq_iff_iff, decide_eq_true_eq, mem_lanes]
    rw [hac, getLsbD_awake _ hL, BitVec.getLsbD_or, hlane, Bool.not_or, ← Bool.and_assoc]
    rfl
  · obtain ⟨w, hex, hon, hsl, hac⟩ := wake_wakes sh h
    refine ⟨w, hex, hon, hsl, fun L hL => ?_⟩
    rw [hac, getLsbD_awake _ hL, show (0 : Word).getLsbD L = false from BitVec.getLsbD_zero, Bool.not_false, Bool.and_true]
    rfl

end Sys2Proof.Claims
end

section
/-! SUPPORT. REGANG (R127, R260, R297, R316, R323): waiting, joining and parting at different words. -/

namespace Sys2Proof.Machine

open Sys2Proof.Claims

/-- The paths other than `p` that hold a live slice. -/
def Wave.othersThan (w : Wave) (p : Nat) : Nats := w.livePaths.filter (· != p)

theorem Wave.asleep_iff {w : Wave} {q : Nat} : w.asleep q = true ↔ (w.path q).state = .run ∧ ∀ L, L / 4 ∈ w.pathSlices q →
    (w.slice (L / 4)).ended.getLsbD (L % 4) = true ∨ (w.path q).sleep.getLsbD L = true := by
  rw [Wave.asleep, Bool.and_eq_true, beq_iff_eq, List.all_eq_true]
  refine and_congr_right fun _ => ⟨fun h L hL => ?_, fun h j hj => ?_⟩
  · have hb := eq_fifteen_iff.mp (beq_iff_eq.mp (h _ hL)) (L % 4) (Nat.mod_lt L (by decide))
    rwa [BitVec.getLsbD_or, getLsbD_sliceLanes_lane, Bool.or_eq_true] at hb
  · refine beq_iff_eq.mpr (eq_fifteen_iff.mpr fun i hi => ?_)
    have h4 : (4 * j + i) / 4 = j := by omega
    have h4' : (4 * j + i) % 4 = i := by omega
    have hL := h (4 * j + i) (h4.symm ▸ hj)
    rw [h4, h4'] at hL
    rw [BitVec.getLsbD_or, getLsbD_sliceLanes, decide_eq_true hi, Bool.true_and, Bool.or_eq_true]
    exact hL

theorem Wave.pairwise_livePaths (w : Wave) : w.livePaths.Pairwise (· < ·) := List.pairwise_lt_range.filter _

theorem Wave.lt_of_mem_livePaths {w : Wave} {q : Nat} (h : q ∈ w.livePaths) : q < 8 := List.mem_range.mp (List.mem_filter.mp h).1

/-- The lowest of a rising list. -/
theorem lowest_le {l : Nats} (h : l.Pairwise (· < ·)) (d : Nat) {q : Nat} (hq : q ∈ l) : lowest d l ∈ l ∧ lowest d l ≤ q := by
  cases l with
  | nil => exact absurd hq List.not_mem_nil
  | cons a t =>
    refine ⟨List.mem_cons_self, ?_⟩
    rcases List.mem_cons.mp hq with rfl | hq
    · exact Nat.le_refl _
    · exact Nat.le_of_lt ((List.pairwise_cons.mp h).1 q hq)

/-! ### Paths joined (R127) -/

/-- The path that a join of paths `ps` leaves. -/
def Wave.joined (w : Wave) (ps : Nats) (pc : DWord) (clause : Option Clause) (buf : Option LineBuf) : Path :=
  let xs := ps.map w.path
  { w.path (lowest 0 ps) with
    state := .run, pc := pc, wait := .none, clause := clause, buf := buf
    sleep := xs.foldl (fun a p => a ||| p.sleep) 0
    active := xs.foldl (fun a p => a ||| p.active) 0
    slices := xs.foldl (fun a p => a ||| p.slices) 0
    sticky := xs.foldl (fun a p => a ||| p.sticky) 0
    sig := sigRegang
    ref := xs.foldl (fun a p => a ||| p.active) 0
    inPass := xs.any (·.inPass)
    stepping := xs.any (·.stepping)
    ladleLast := (xs.map (·.ladleLast)).foldl max 0
    atPp := false }

theorem Wave.joinPaths_eq (w : Wave) (ps : Nats) (pc : DWord) (clause : Option Clause) (buf : Option LineBuf) :
    w.joinPaths ps pc clause buf
      = (ps.foldl (fun w p => w.setPath p {}) w).setPath (lowest 0 ps) (w.joined ps pc clause buf) := rfl

theorem Wave.length_foldl_setPath (x : Path) : ∀ (ps : Nats) (w : Wave),
    (ps.foldl (fun w p => w.setPath p x) w).paths.length = w.paths.length
  | [], _ => rfl
  | _ :: t, _ => (Wave.length_foldl_setPath x t _).trans (length_setNth _ _ _)

theorem Wave.onlyPaths_foldl_setPath (x : Path) : ∀ (ps : Nats) (w : Wave), onlyPaths w (ps.foldl (fun w p => w.setPath p x) w)
  | [], _ => rfl
  | p :: t, w => (onlyPaths_setPath w p x).trans (Wave.onlyPaths_foldl_setPath x t _)

theorem Wave.path_foldl_setPath (x : Path) (q : Nat) : ∀ (ps : Nats) (w : Wave), (∀ p ∈ ps, p < w.paths.length) →
    (ps.foldl (fun w p => w.setPath p x) w).path q = if q ∈ ps then x else w.path q
  | [], _, _ => rfl
  | p :: t, w, hl => by
    have hp : p < w.paths.length := hl p List.mem_cons_self
    rw [List.foldl_cons, Wave.path_foldl_setPath x q t _ fun k hk => (length_setNth _ _ _).symm ▸ hl k (List.mem_cons_of_mem _ hk)]
    by_cases hq : q = p
    · subst hq
      rw [Wave.path_setPath_same _ _ _ hp, ite_self, if_pos List.mem_cons_self]
    · rw [Wave.path_setPath_ne _ hq]
      simp only [List.mem_cons, hq, false_or]

theorem Wave.onlyPaths_joinPaths (w : Wave) (ps : Nats) (pc : DWord) (clause : Option Clause) (buf : Option LineBuf) :
    onlyPaths w (w.joinPaths ps pc clause buf) :=
  (Wave.onlyPaths_foldl_setPath {} ps w).trans (onlyPaths_setPath _ _ _)

theorem Wave.path_joinPaths {w : Wave} {ps : Nats} (pc : DWord) (clause : Option Clause) (buf : Option LineBuf)
    (hl : ∀ p ∈ ps, p < w.paths.length) (hq : lowest 0 ps ∈ ps) (q : Nat) :
    (w.joinPaths ps pc clause buf).path q
      = if q = lowest 0 ps then w.joined ps pc clause buf else if q ∈ ps then {} else w.path q := by
  rw [Wave.joinPaths_eq]
  by_cases h : q = lowest 0 ps
  · rw [if_pos h, h]
    exact Wave.path_setPath_same _ _ _ ((Wave.length_foldl_setPath {} ps w).symm ▸ hl _ hq)
  · rw [if_neg h, Wave.path_setPath_ne _ h, Wave.path_foldl_setPath {} q ps w hl]

/-- Operations that change their path leave every wave. -/
theorem State.wave?_moveOps (s : State) (r : WaveRef) (ps : Nats) (q : WaveRef) : (s.moveOps r ps).wave? q = s.wave? q := by
  cases q <;> rfl

end Sys2Proof.Machine

namespace Sys2Proof.Claims

open Sys2Proof.Machine

/-! ### REGANG (R316) -/

/-- A path is asleep: it runs, and no lane of it is awake (R323). -/
def Sleeps (w : Wave) (q : Nat) : Prop := (w.path q).state = .run ∧ ∀ L, L / 4 ∈ w.pathSlices q →
  (w.slice (L / 4)).ended.getLsbD (L % 4) = true ∨ (w.path q).sleep.getLsbD L = true

/-- The paths that stand at a REGANG: the issuing one, and those that wait. -/
def arrived (e : Env) : Nats := e.w.livePaths.filter fun q => q == e.p || (e.w.path q).state == .regang

/-- What REGANG of a wave answers, by what its other live paths do. -/
theorem regang_eq {s : State} {e : Env} (h : Issuing s e 0x09) (hc : e.caster = false) :
    exec .regang s = .next (s.close e 0x09
      (if ((e.w.othersThan e.p).all fun q => (e.w.path q).state == .regang || e.w.asleep q) = true then
        if ((arrived e).all fun q => (e.w.path q).pc == e.pc) = true then
          .ok (.stop ((s.setWave e.ref (e.w.joinPaths e.w.livePaths (e.after 0).1 (e.after 0).2 e.path.buf)).moveOps e.ref e.w.livePaths))
        else if e.p = lowest e.p (arrived e) then .error { code := 0x80 }
        else .ok (.stop ((s.block e .regang).takeFault e.ref (lowest e.p (arrived e)) { code := 0x80 }))
      else .ok (.wait s .regang))) := by
  refine (h.close _).trans ?_
  simp only [hc, Bool.false_eq_true, if_false]
  rfl

theorem others_quiet_iff {e : Env} : ((e.w.othersThan e.p).all fun q => (e.w.path q).state == .regang || e.w.asleep q) = true
    ↔ ∀ q ∈ e.w.othersThan e.p, (e.w.path q).state = .regang ∨ Sleeps e.w q := by
  simp only [List.all_eq_true, Bool.or_eq_true, beq_iff_eq, Wave.asleep_iff]
  rfl

/-- A path that waits for the others of its wave. -/
theorem block_regang {s : State} {e : Env} {op : Nat} (h : Issuing s e op) (sh : Shaped e) :
    ∃ w, s.block e .regang = s.setWave e.ref w ∧ onlyPaths e.w w ∧ (w.path e.p).state = .regang ∧ (w.path e.p).pc = e.pc
      ∧ ∀ q, q ≠ e.p → w.path q = e.w.path q := by
  have hlen : e.p < e.w.paths.length := sh.paths ▸ sh.entry
  unfold State.block
  rw [h.wave]
  refine ⟨_, rfl, onlyPaths_setPath _ _ _, ?_, ?_, fun q hq => Wave.path_setPath_ne _ hq _⟩
  · rw [Wave.path_setPath_same _ _ _ hlen]
    rfl
  · rw [Wave.path_setPath_same _ _ _ hlen, Env.pc, h.path]

theorem regang_waits {s : State} {e : Env} (h : Issuing s e 0x09) (sh : Shaped e) (hc : e.caster = false)
    (hq : ∃ q ∈ e.w.othersThan e.p, (e.w.path q).state ≠ .regang ∧ ¬Sleeps e.w q) :
    ∃ w, exec .regang s = .next (s.setWave e.ref w) ∧ onlyPaths e.w w ∧ (w.path e.p).state = .regang ∧ (w.path e.p).pc = e.pc
      ∧ ∀ q, q ≠ e.p → w.path q = e.w.path q := by
  obtain ⟨w, hw, hrest⟩ := block_regang h sh
  refine ⟨w, ?_, hrest⟩
  obtain ⟨q, hq, hr, hs⟩ := hq
  rw [regang_eq h hc, if_neg fun hall => ?_, ← hw]
  · rfl
  · exact (others_quiet_iff.mp hall q hq).elim hr hs

theorem regang_caster {s : State} {e : Env} (h : Issuing s e 0x09) (sh : Shaped e) (hc : e.caster = true) :
    ∃ w, exec .regang s = .next (s.setWave e.ref w) ∧ onlyPaths e.w w ∧ (w.path e.p).state = .run
      ∧ ((w.path e.p).pc, (w.path e.p).clause) = e.after 0 ∧ (w.path e.p).ref = e.path.active := by
  have hlen : e.p < e.w.paths.length := sh.paths ▸ sh.entry
  refine ⟨e.w.setPath e.p { e.path with
    state := .run, wait := .none, pc := (e.after 0).1, clause := (e.after 0).2, sig := sigRegang, ref := e.path.active }, ?_,
    onlyPaths_setPath _ _ _, ?_, ?_, ?_⟩
  · refine h.stop (f := _) ?_
    simp only [hc, if_true]
  all_goals rw [Wave.path_setPath_same _ _ _ hlen]

theorem mem_arrived {e : Env} {q : Nat} : q ∈ arrived e ↔ q ∈ e.w.livePaths ∧ (q = e.p ∨ (e.w.path q).state = .regang) := by
  simp only [arrived, List.mem_filter, Bool.or_eq_true, beq_iff_eq]

theorem mem_othersThan {w : Wave} {p q : Nat} : q ∈ w.othersThan p ↔ q ∈ w.livePaths ∧ q ≠ p := by
  simp only [Wave.othersThan, List.mem_filter, bne_iff_ne, ne_eq]

theorem not_sleeps_of_regang {w : Wave} {q : Nat} (h : (w.path q).state = .regang) : ¬Sleeps w q := fun hs => by
  rw [hs.1] at h
  cases h

theorem regang_joins {s : State} {e : Env} (h : Issuing s e 0x09) (hc : e.caster = false)
    (hall : ∀ q ∈ e.w.othersThan e.p, (e.w.path q).state = .regang ∧ (e.w.path q).pc = e.pc ∨ Sleeps e.w q) :
    exec .regang s = .next
      ((s.setWave e.ref (e.w.joinPaths e.w.livePaths (e.after 0).1 (e.after 0).2 e.path.buf)).moveOps e.ref e.w.livePaths) := by
  have hhere : ((arrived e).all fun q => (e.w.path q).pc == e.pc) = true := by
    refine List.all_eq_true.mpr fun q hq => beq_iff_eq.mpr ?_
    obtain ⟨hql, hqs⟩ := mem_arrived.mp hq
    by_cases hqp : q = e.p
    · rw [hqp, Env.pc, h.path]
    · have hr := hqs.resolve_left hqp
      exact ((hall q (mem_othersThan.mpr ⟨hql, hqp⟩)).resolve_right (not_sleeps_of_regang hr)).2
  rw [regang_eq h hc, if_pos (others_quiet_iff.mpr fun q hq => (hall q hq).imp_left And.left), if_pos hhere]
  rfl

theorem regang_faults {s : State} {e : Env} (h : Issuing s e 0x09) (hc : e.caster = false) (hlive : e.p ∈ e.w.livePaths)
    (hall : ∀ q ∈ e.w.othersThan e.p, (e.w.path q).state = .regang ∨ Sleeps e.w q)
    (hpc : ∃ q ∈ e.w.othersThan e.p, (e.w.path q).state = .regang ∧ (e.w.path q).pc ≠ e.pc)
    (hlow : ∀ q ∈ e.w.othersThan e.p, (e.w.path q).state = .regang → e.p < q) :
    exec .regang s = .next (s.takeFault e.ref e.p { code := 0x80 }) := by
  have hhere : ¬((arrived e).all fun q => (e.w.path q).pc == e.pc) = true := by
    rw [List.all_eq_true]
    obtain ⟨q, hq, hr, hne⟩ := hpc
    exact fun hh => hne (beq_iff_eq.mp (hh q (mem_arrived.mpr ⟨(mem_othersThan.mp hq).1, .inr hr⟩)))
  have hp : e.p ∈ arrived e := mem_arrived.mpr ⟨hlive, .inl rfl⟩
  obtain ⟨hm, hle⟩ := lowest_le (e.w.pairwise_livePaths.filter _) e.p hp
  have hfirst : e.p = lowest e.p (arrived e) := by
    obtain ⟨hml, hms⟩ := mem_arrived.mp hm
    refine Classical.byContradiction fun hne => ?_
    have hlt := hlow _ (mem_othersThan.mpr ⟨hml, Ne.symm hne⟩) (hms.resolve_left (Ne.symm hne))
    exact absurd hle (Nat.not_le.mpr hlt)
  rw [regang_eq h hc, if_pos (others_quiet_iff.mpr hall), if_neg hhere, if_pos hfirst]
  rfl

theorem regangResults : RegangResults := by
  intro s e h sh live others sleeps hlive
  refine ⟨fun hc => regang_caster h sh hc, fun hc hq => regang_waits h sh hc hq, fun hc hall => ?_,
    fun hc hall hpc hlow => regang_faults h hc hlive hall hpc hlow⟩
  obtain ⟨hlow, -⟩ := lowest_le e.w.pairwise_livePaths 0 hlive
  have hpath := Wave.path_joinPaths (w := e.w) (e.after 0).1 (e.after 0).2 e.path.buf
    (fun p hp => sh.paths.symm ▸ Wave.lt_of_mem_livePaths hp) hlow
  refine ⟨e.w.joinPaths e.w.livePaths (e.after 0).1 (e.after 0).2 e.path.buf, _, regang_joins h hc hall, ?_,
    Wave.onlyPaths_joinPaths _ _ _ _ _, lowest 0 e.w.livePaths, hlow, fun q hq => (lowest_le e.w.pairwise_livePaths 0 hq).2,
    fun q hq hne => ?_, fun q hq => ?_, ?_⟩
  · rw [State.wave?_moveOps]
    exact State.wave?_setWave s e.ref e.w _ h.wave
  · rw [hpath, if_neg hne]
    exact if_pos hq
  · have hne : q ≠ lowest 0 e.w.livePaths := fun hq' => hq (hq' ▸ hlow)
    rw [hpath, if_neg hne]
    exact if_neg hq
  · rw [hpath, if_pos rfl]
    refine ⟨rfl, rfl, rfl, rfl, fun L => ?_, fun j => ?_, fun f => ?_⟩ <;>
      exact (getLsbD_foldl_or _ _ _).trans List.any_map

/-- Settles O18: EXIT by whether a lane of the path is left, REGANG by what the wave's other live paths do. -/
theorem restAndRegangResults : Obligations.RestAndRegangResults := ⟨lanesAtRest, regangResults⟩

end Sys2Proof.Claims
end

section
/-! SUPPORT. SIGCHK (R262, R326) as the machine performs it, and where the statement on the special state parts from it. -/

namespace Sys2Proof.Claims

open Sys2Proof.Machine

/-- What SIGCHK leaves when its comparison raises no fault: beside the signature and the place, the record of the lanes that
an earlier issue has performed is cleared, as every completion clears it. -/
theorem sigchk_restarts {s : State} {e : Env} (sh : Shaped e) {x : Word} {ls : List Word} {k : Task} (h : Issuing s e 0x15)
    (hl : e.lits = x :: ls) (hk : s.task? e.task = some k) (hs : k.sigcheck = true → e.path.sig = x) :
    exec .sigchk s = .next (s.setWave e.ref (e.w.setPath e.p { e.path with
      state := .run, wait := .none, paused := false, done := 0, sig := 0, ref := e.path.active
      pc := (e.after 1).1, clause := (e.after 1).2 })) := by
  refine (h.completes (w := e.w.setPath e.p { e.path with sig := 0 })
    (x := { s := _, lits := 1, remask := true, sig := false }) ?_ rfl).trans ?_
  · have hpass : (k.sigcheck && e.path.sig != x) = false := by
      cases hc : k.sigcheck with
      | false => rfl
      | true => simp [hs hc]
    simp only [hl, hk, Option.map_some, Option.getD_some, hpass]
    rfl
  · have hp (w : Wave) (y : Path) (hw : w.paths.length = 8) : (w.setPath e.p y).path e.p = y :=
      Wave.path_setPath_same w e.p y (hw ▸ sh.entry)
    simp only [Wave.completed, hp _ _ sh.paths, Wave.setPath_setPath, sh.runs]
    rfl

/-- A path at SIGCHK, with its literal 0, whose record names lane 0 as performed already. -/
def sigchkMidway : State :=
  { (State.reset.placeWord 0x15000000).mapPath (.user 1 0 0, 0) fun x =>
      { x with done := 1, clause := some { last := 4, fa := none, fb := none } } with cur := some (.user 1 0 0, 0) }

/-- What SIGCHK finds there. -/
def sigchkEnv : Env := (sigchkMidway.env? (.user 1 0 0) 0).get (by decide +kernel)

theorem sigchkMidway_issues : Issuing sigchkMidway sigchkEnv 0x15 where
  hand := by decide +kernel
  env := by decide +kernel
  may := by decide +kernel

theorem sigchkMidway_shaped : Shaped sigchkEnv where
  wave := by decide +kernel
  entry := by decide +kernel
  state := .inl (by decide +kernel)

theorem sigchkMidway_literal : sigchkEnv.lits = [0] := by decide +kernel

theorem sigchkMidway_task : ∃ k, sigchkMidway.task? sigchkEnv.task = some k ∧ k.sigcheck = false :=
  ⟨(sigchkMidway.task? sigchkEnv.task).get (by decide +kernel), by decide +kernel, by decide +kernel⟩

theorem sigchkMidway_done : sigchkEnv.path.done = 1 := by decide +kernel

/-- Refutes O20: its SIGCHK clause has every field of the path but those it names stay as it was, `done` among them, where the
machine clears `done` as every completion does. The statement is over every state, and they part at
a path whose record names a lane that an earlier issue performed. -/
theorem not_specialStateResults : ¬ Obligations.SpecialStateResults := by
  unfold Obligations.SpecialStateResults
  intro hall
  obtain ⟨-, -, -, -, hsig, -⟩ := hall sigchkMidway sigchkEnv sigchkMidway_shaped
  obtain ⟨k, hk, hcheck⟩ := sigchkMidway_task
  have hpass : k.sigcheck = true → sigchkEnv.path.sig = 0 := fun h => by rw [hcheck] at h; cases h
  have hclaimed := hsig 0 [] k sigchkMidway_issues sigchkMidway_literal hk hpass
  rw [sigchk_restarts sigchkMidway_shaped sigchkMidway_issues sigchkMidway_literal hk hpass] at hclaimed
  have hwave := State.setWave_inj sigchkMidway_issues.wave (Host.Outcome.next.inj hclaimed)
  have hdone := congrArg (fun w : Wave => (w.path sigchkEnv.p).done) hwave
  have hlen : sigchkEnv.p < sigchkEnv.w.paths.length := sigchkMidway_shaped.paths ▸ sigchkMidway_shaped.entry
  simp only [Wave.path_setPath_same _ _ _ hlen, sigchkMidway_done] at hdone
  exact absurd hdone (by decide)

end Sys2Proof.Claims
end

section
/-! SUPPORT. Elements of lanes (R145, R333): what an element holds bit by bit, what packed elements hold, and the element type
and the operands of a position where an instruction runs. -/

namespace Sys2Proof.Machine

open Sys2Proof.Claims

/-! ### Packed elements (R145) -/

theorem elemOf_lt (w x k : Nat) : elemOf w x k < 2 ^ w := Nat.mod_lt _ (Nat.two_pow_pos w)

theorem testBit_elemOf (w x k i : Nat) : (elemOf w x k).testBit i = (decide (i < w) && x.testBit (w * k + i)) := by
  rw [elemOf, Nat.testBit_mod_two_pow, Nat.testBit_shiftRight]

/-- Bit `i` of packed elements is a bit of the element it lies in. -/
theorem testBit_packElems {w : Nat} (hw : 0 < w) (i : Nat) : ∀ l : Nats,
    (packElems w l).testBit i = (nth 0 l (i / w)).testBit (i % w)
  | [] => by simp [packElems, nth]
  | x :: t => by
    have hx : x % 2 ^ w < 2 ^ w := Nat.mod_lt _ (Nat.two_pow_pos w)
    rw [packElems, Nat.add_comm, Nat.testBit_two_pow_mul_add _ hx]
    by_cases hi : i < w
    · rw [if_pos hi, Nat.testBit_mod_two_pow, decide_eq_true hi, Nat.div_eq_of_lt hi, Nat.mod_eq_of_lt hi, Bool.true_and, nth]
    · obtain ⟨j, rfl⟩ := Nat.exists_eq_add_of_le (Nat.le_of_not_lt hi)
      rw [if_neg hi, Nat.add_sub_cancel_left, testBit_packElems hw j t, Nat.add_div_left j hw, Nat.add_mod_left]
      rfl

theorem nth_eq_getD {α : Type} (d : α) : ∀ (l : List α) (i : Nat), nth d l i = l.getD i d
  | [], _ => rfl
  | _ :: _, 0 => rfl
  | _ :: t, i + 1 => by rw [nth, nth_eq_getD d t i, List.getD_cons_succ]

theorem nth_map_range {α : Type} (d : α) (f : Nat → α) (n k : Nat) :
    nth d ((List.range n).map f) k = if k < n then f k else d := by
  rw [nth_eq_getD]
  by_cases hk : k < n <;> simp [List.getD_eq_getElem?_getD, hk]

/-! ### Types (R274, R332, R333) -/

theorem ETy.width_pos (t : ETy) : 0 < t.width := by cases t <;> decide

theorem ETy.count_mul_width (t : ETy) : t.width * t.count = t.opWidth := by cases t <;> rfl

theorem ETy.opWidth_cases (t : ETy) : t.opWidth = 32 ∨ t.opWidth = 64 := by cases t <;> decide

/-- In every slice of a path whose T has been checked, T is one that the entry accepts, of `n` registers. -/
structure Typed (e : Env) (acc : ETy → Bool) (n : Nat) : Prop where
  one_or_two : n = 1 ∨ n = 2
  accepts : ∀ j ∈ e.pathSlices, acc (e.ety j) = true
  opWidth : ∀ j ∈ e.pathSlices, (e.ety j).opWidth = 32 * n

theorem Typed.of_types {e : Env} {acc : ETy → Bool} {n : Nat} (h : e.types acc = .ok n) : Typed e acc n := by
  unfold Env.types at h
  dsimp only at h
  split at h
  case isFalse => cases h
  case isTrue hall =>
    obtain rfl := Except.ok.inj h
    simp only [Bool.and_eq_true, List.all_eq_true, List.mem_map, forall_exists_index, and_imp, forall_apply_eq_imp_iff₂,
      beq_iff_eq] at hall
    refine ⟨?_, hall.1, fun j hj => ?_⟩
    · rcases (e.ety e.low).opWidth_cases with h | h <;> simp [h]
    · have hn := hall.2 j hj
      rcases (e.ety j).opWidth_cases with h | h <;> rw [h] at hn ⊢ <;> omega

/-- The slice of a position where an instruction runs is one of its path's (R288). -/
theorem Env.slice_of_units {e : Env} {vec : Bool} {L : Nat} (h : L ∈ e.units vec) : L / 4 ∈ e.pathSlices := by
  unfold Env.units at h
  split at h
  · exact Wave.slice_of_activeLanes (mem_lanesOf.mp h)
  · obtain ⟨j, hj, rfl⟩ := List.mem_map.mp h
    rw [Nat.mul_div_cancel_left j (by decide)]
    unfold Env.slices at hj
    split at hj
    · cases hj
    · exact hj

/-- Results are what they are at the positions written. -/
theorem Wrote.congr {w w' : Wave} {d : Dst} {n : Nat} {us : Nats} {v v' : Nat → Nat × Bool} (h : Wrote w w' d n us v)
    (hv : ∀ L ∈ us, v L = v' L) : Wrote w w' d n us v' := by
  refine ⟨fun r L hL => ?_, fun r i hi => ?_, h.rest⟩
  · rw [h.vec r L hL]
    cases d with
    | vec r0 =>
      dsimp only
      split
      next hr => rw [hv L hr.2.2]
      next => rfl
    | sca r0 => rfl
    | none => rfl
  · rw [h.sca r i hi]
    cases d with
    | sca r0 =>
      dsimp only
      split
      next hr => rw [hv _ hr.2.2]
      next => rfl
    | vec r0 => rfl
    | none => rfl

/-! ### Flags (R152) -/

theorem getLsbD_orFlags (l : List Flags) (i : Nat) : (orFlags l).getLsbD i = l.any fun x => x.getLsbD i := getLsbD_foldl_or id i l

theorem orFlags_zero {α : Type} (l : List α) : orFlags (l.map fun _ => 0) = 0 :=
  BitVec.eq_of_getLsbD_eq fun i _ => by simp [getLsbD_orFlags]

theorem orFlags_flatMap {α : Type} (f : α → List Flags) (l : List α) : orFlags (l.flatMap f) = orFlags (l.map fun x => orFlags (f x)) :=
  BitVec.eq_of_getLsbD_eq fun i _ => by simp only [getLsbD_orFlags, List.any_flatMap, List.any_map, Function.comp_def]

/-! ### Operands (R287, R289, R290) -/

theorem Env.srcs_cons {e : Env} {o : Opd} {n : Nat} {t : List (Opd × Nat)} {ls ls' : List Word} {xs : List Src}
    (h : e.srcs ((o, n) :: t) ls = .ok (xs, ls')) :
    ∃ x ys l, e.src o n ls = .ok (x, l) ∧ e.srcs t l = .ok (ys, ls') ∧ xs = x :: ys := by
  unfold Env.srcs at h
  cases hx : e.src o n ls with
  | error f => rw [hx] at h; cases h
  | ok r =>
    obtain ⟨x, l⟩ := r
    rw [hx] at h
    cases hy : e.srcs t l with
    | error f => exact absurd h (by simp [bind, Except.bind, hy])
    | ok q =>
      obtain ⟨ys, l'⟩ := q
      simp only [bind, Except.bind, hy, Except.ok.injEq, Prod.mk.injEq] at h
      exact ⟨x, ys, l, rfl, h.2 ▸ hy, h.1.symm⟩

theorem Env.srcs_length {e : Env} : ∀ {os : List (Opd × Nat)} {ls ls' : List Word} {xs : List Src},
    e.srcs os ls = .ok (xs, ls') → xs.length = os.length
  | [], _, _, _, h => by cases h; rfl
  | (o, n) :: t, _, _, _, h => by
    obtain ⟨x, ys, l, -, hy, rfl⟩ := Env.srcs_cons h
    simp only [List.length_cons, Env.srcs_length hy]

/-- The source in a place is the field of that place, resolved. -/
theorem Env.srcs_getElem? {e : Env} : ∀ {os : List (Opd × Nat)} {ls ls' : List Word} {xs : List Src} {j : Nat} {o : Opd × Nat},
    e.srcs os ls = .ok (xs, ls') → os[j]? = some o → ∃ x l l', xs[j]? = some x ∧ e.src o.1 o.2 l = .ok (x, l')
  | [], _, _, _, _, _, _, hj => by cases hj
  | p :: t, ls, _, _, 0, o, h, hj => by
    obtain ⟨x, ys, l, hx, -, rfl⟩ := Env.srcs_cons h
    cases hj
    exact ⟨x, ls, l, rfl, hx⟩
  | p :: t, _, _, _, j + 1, o, h, hj => by
    obtain ⟨x, ys, l, -, hy, rfl⟩ := Env.srcs_cons h
    have ih := Env.srcs_getElem? hy (List.getElem?_cons_succ ▸ hj)
    exact ih

theorem joinWords_lt : ∀ l : List Word, joinWords l < 2 ^ (32 * l.length)
  | [] => by simp [joinWords]
  | x :: t => by
    have hx : x.toNat < 2 ^ 32 := x.isLt
    have ht := joinWords_lt t
    have hp : 2 ^ (32 * (t.length + 1)) = 2 ^ 32 * 2 ^ (32 * t.length) := by rw [← Nat.pow_add]; congr 1; omega
    rw [joinWords, List.length_cons, hp]
    generalize 2 ^ (32 * t.length) = P at *
    omega

/-- A source of `n` registers reads a number of `n` words. -/
def Src.Fits (e : Env) (n : Nat) (x : Src) : Prop := ∀ L, L < 32 → (e.read n L x).1 < 2 ^ (32 * n)

theorem two_pow_32_le {n : Nat} (hn : 0 < n) : 2 ^ 32 ≤ 2 ^ (32 * n) := Nat.pow_le_pow_right (by decide) (by omega)

theorem Src.fits_vec (e : Env) (n r : Nat) : (Src.vec r).Fits e n := fun L _ => by
  simpa [Env.read, upto] using joinWords_lt (((upto n).map fun i => e.w.getV (r + i) L).map (·.bits))

theorem Src.fits_sca (e : Env) (n r : Nat) : (Src.sca r).Fits e n := fun L _ => by
  simpa [Env.read, upto] using joinWords_lt (((upto n).map fun i => e.w.getS (r + i) (L / 4)).map (·.bits))

theorem Src.fits_imm (e : Env) {n v : Nat} (h : v < 2 ^ (32 * n)) : (Src.imm v).Fits e n := fun _ _ => h

theorem Src.fits_word (e : Env) {n v : Nat} (hn : 0 < n) (h : v < 2 ^ 32) : (Src.imm v).Fits e n :=
  Src.fits_imm e (Nat.lt_of_lt_of_le h (two_pow_32_le hn))

theorem Env.src_fits {e : Env} {o : Opd} {n : Nat} {ls ls' : List Word} {x : Src} (hn : 0 < n)
    (h : e.src o n ls = .ok (x, ls')) : x.Fits e n := by
  have hpos := Nat.lt_of_lt_of_le (by decide : 32 < 2 ^ 32) (two_pow_32_le hn)
  have hmod (v : Nat) : v % 2 ^ 32 < 2 ^ 32 := Nat.mod_lt _ (by decide)
  cases o <;> simp only [Env.src] at h
  case v r =>
    split at h
    · cases h
    · split at h <;> cases h
      exact Src.fits_vec e n r
  case s r =>
    split at h <;> cases h
    exact Src.fits_sca e n r
  case zero => cases h; exact Src.fits_word e hn (by decide)
  case lane =>
    cases h
    split
    · exact Src.fits_word e hn (by decide)
    · exact fun L hL => Nat.lt_trans hL hpos
  case slice =>
    cases h
    split
    · exact Src.fits_word e hn (by decide)
    · exact fun L hL => Nat.lt_of_le_of_lt (Nat.div_le_self L 4) (Nat.lt_trans hL hpos)
  case wave => cases h; exact Src.fits_word e hn (hmod _)
  case group => cases h; exact Src.fits_word e hn (hmod _)
  case gang => cases h; exact Src.fits_word e hn (hmod _)
  case pass => cases h; exact Src.fits_word e hn (hmod _)
  case lit =>
    split at h <;> cases h
    next hlen =>
    refine Src.fits_imm e (Nat.lt_of_lt_of_le (joinWords_lt _) (Nat.pow_le_pow_right (by decide) ?_))
    rw [List.length_take]
    omega
  case rsv => cases h

/-- What a source field leaves of the literal words. -/
theorem Env.src_left {e : Env} {o : Opd} {n : Nat} {ls ls' : List Word} {x : Src} (h : e.src o n ls = .ok (x, ls')) :
    ls' = ls.drop (litsOf o n) := by
  have hd : ∀ {o : Opd}, o ≠ .lit → ls.drop (litsOf o n) = ls := fun ho => by rw [litsOf, if_neg ho, List.drop_zero]
  cases o <;> simp only [Env.src] at h
  case lit => split at h <;> cases h; rfl
  case rsv => cases h
  case v =>
    split at h
    · cases h
    · split at h <;> cases h
      exact (hd Opd.noConfusion).symm
  case s => split at h <;> cases h; exact (hd Opd.noConfusion).symm
  all_goals cases h; exact (hd Opd.noConfusion).symm

end Sys2Proof.Machine
end

section
/-! SUPPORT. What an arithmetic entry does (R275, R288, R333): the entry resolved, run in every position where it runs, and its
results element after element. -/

namespace Sys2Proof.Claims

open Sys2Proof.Machine

/-! ### Entries that run -/

/-- The results matter at the positions where the entry runs, and nowhere else. -/
theorem Completes.congr {i : Instr} {s : State} {e : Env} {op lits m : Nat} {d : Dst} {v v' : Nat → Nat} {fl fl' : Nat → Flags}
    (h : Completes i s e op lits d m v fl) (hv : ∀ L ∈ e.units d.isVec, v L = v' L) (hfl : ∀ L ∈ e.units d.isVec, fl L = fl' L) :
    Completes i s e op lits d m v' fl' := by
  obtain ⟨w', hex, hw⟩ := h
  refine ⟨w', ?_, hw.congr fun L hL => by rw [hv L hL]⟩
  rw [← List.map_congr_left hfl]
  exact hex

section
variable {i : Instr} {s : State} {e : Env} {f : Entry} {n lits : Nat} {d : Dst} {xs : List (Src × Nat)}

theorem Resolved.typed (r : Resolved e f n d xs lits) : Typed e f.accept n := Typed.of_types r.type

theorem Resolved.length (r : Resolved e f n d xs lits) : xs.length = (f.srcs n).length + if f.readsD then 1 else 0 := by
  obtain ⟨ys, ls, hy, -, rfl⟩ := r.srcs
  rw [List.length_append, List.length_zip, Env.srcs_length hy, List.length_map, Nat.min_self]
  cases f.readsD <;> rfl

theorem Resolved.one_src (r : Resolved e f n d xs lits) {a : Opd} {na : Nat} (hs : f.srcs n = [(a, na)]) :
    ∃ x ls, e.src a na e.lits = .ok (x, ls) ∧ lits = e.used ls ∧ xs = [(x, na)] ++ if f.readsD then [(d.src, f.out n)] else [] := by
  obtain ⟨ys, ls, hy, hl, hxs⟩ := r.srcs
  rw [hs] at hy hxs
  obtain ⟨x, _, l, hx, hnil, rfl⟩ := Env.srcs_cons hy
  cases hnil
  exact ⟨x, ls, hx, hl, hxs⟩

theorem Resolved.two_srcs (r : Resolved e f n d xs lits) {a b : Opd} {na nb : Nat} (hs : f.srcs n = [(a, na), (b, nb)]) :
    ∃ x y l ls, e.src a na e.lits = .ok (x, l) ∧ e.src b nb l = .ok (y, ls) ∧ lits = e.used ls
      ∧ xs = [(x, na), (y, nb)] ++ if f.readsD then [(d.src, f.out n)] else [] := by
  obtain ⟨ys, ls, hy, hl, hxs⟩ := r.srcs
  rw [hs] at hy hxs
  obtain ⟨x, _, l, hx, hrest, rfl⟩ := Env.srcs_cons hy
  obtain ⟨y, _, l', hy, hnil, rfl⟩ := Env.srcs_cons hrest
  cases hnil
  exact ⟨x, y, l, ls, hx, hy, hl, hxs⟩

/-- A source of `o.2` registers has a value of as many words. -/
theorem Resolved.source_lt (r : Resolved e f n d xs lits) {j L : Nat} {o : Opd × Nat} (hj : (f.srcs n)[j]? = some o) (hw : 0 < o.2)
    (hL : L < 32) : source e xs L j < 2 ^ (32 * o.2) := by
  obtain ⟨ys, ls, hy, -, rfl⟩ := r.srcs
  obtain ⟨x, l, l', hx, hsrc⟩ := Env.srcs_getElem? hy hj
  have hzip : (ys.zip ((f.srcs n).map (·.2)))[j]? = some (x, o.2) := by simp [List.getElem?_zip_eq_some, hx, hj]
  have hlt := (List.getElem?_eq_some_iff.mp hzip).1
  simp only [source, List.getElem?_append_left hlt, hzip]
  exact Env.src_fits hw hsrc L hL

/-- The values that an entry computes on: its sources, in order. -/
theorem map_read_eq (e : Env) (xs : List (Src × Nat)) (L : Nat) :
    (xs.map fun x => (e.read x.2 L x.1).1) = (List.range xs.length).map (source e xs L) := by
  refine List.ext_getElem (by simp) fun j h1 h2 => ?_
  have hj : j < xs.length := by simpa using h1
  simp [source, hj]

theorem source_of_le {e : Env} {xs : List (Src × Nat)} {j : Nat} (h : xs.length ≤ j) (L : Nat) : source e xs L j = 0 := by
  rw [source, List.getElem?_eq_none h]

theorem nth_sources (e : Env) (xs : List (Src × Nat)) (L j : Nat) :
    nth 0 ((List.range xs.length).map (source e xs L)) j = source e xs L j := by
  rw [nth_map_range]
  split
  · rfl
  · next h => exact (source_of_le (Nat.le_of_not_lt h) L).symm

/-- An entry whose effect is a run on its resolved operands completes with what the run computes. -/
theorem Resolved.completes (r : Resolved e f n d xs lits) (h : Issuing s e f.op) {F : Env → Except Flt Out}
    {v : Nat → Nat} {fl : Nat → Flags} (hi : exec i s = issue f.op s F)
    (hF : ∃ g, F e = e.run s d (f.out n) xs lits (if f.classB then some false else none) g
      ∧ ∀ L ∈ e.units d.isVec, g L ((List.range xs.length).map (source e xs L)) = (v L, fl L)) :
    Completes i s e f.op lits d (f.out n) v fl := by
  obtain ⟨g, hF, hg⟩ := hF
  have hflag : ∀ c, (if f.classB then some false else none) = some c → e.flagFor c = none := by
    intro c hc
    cases hB : f.classB <;> simp [hB] at hc
    exact hc ▸ r.unflagged hB
  obtain ⟨w', hex, hw⟩ := h.run hF hflag r.form r.clean
  refine Completes.congr ⟨w', hi.trans hex, hw⟩ (fun L hL => ?_) fun L hL => ?_
  · rw [map_read_eq, hg L hL]
  · rw [map_read_eq, hg L hL]

end

/-! ### Results element after element (R333) -/

/-- `G`'s results for the elements of type `t`, packed in elements of `w` bits, with the flags of all of them. -/
def eachElem (t : ETy) (w : Nat) (G : Nat → Nat × Flags) : Nat × Flags :=
  let rs := (List.range t.count).map G
  (packElems w (rs.map (·.1)), orFlags (rs.map (·.2)))

theorem eachElem_congr {t : ETy} {w : Nat} {G G' : Nat → Nat × Flags} (h : ∀ k, k < t.count → G k = G' k) :
    eachElem t w G = eachElem t w G' := by
  have : (List.range t.count).map G = (List.range t.count).map G' := List.map_congr_left fun k hk => h k (List.mem_range.mp hk)
  rw [eachElem, this, eachElem]

theorem eachElem_noFlags (t : ETy) (w : Nat) (g : Nat → Nat) :
    eachElem t w (fun k => (g k, 0)) = (packElems w ((List.range t.count).map g), 0) := by
  simp only [eachElem, List.map_map]
  exact Prod.ext rfl (orFlags_zero _)

/-- The element results of `G` in lane `L`: it knows the type, the MODE and the index, and has its operands' elements. -/
def laneResult (e : Env) (xs : List (Src × Nat)) (L : Nat) (G : ETy → BitVec 24 → Nat → (Nat → Nat) → Nat × Flags) : Nat × Flags :=
  eachElem (e.ety (L / 4)) (e.ety (L / 4)).width fun k =>
    G (e.ety (L / 4)) (e.mode (L / 4)) k fun j => elemOf (e.ety (L / 4)).width (source e xs L j) k

/-- An entry of the shared form of R333 completes with `G`'s results, which the model's own function `g` gives on its list of
elements. -/
theorem aluOp_completes {i : Instr} {s : State} {e : Env} {f : Entry} {n lits : Nat} {d : Dst} {xs : List (Src × Nat)}
    {g : ETy → BitVec 24 → Nat → Nat → Nats → Nat × Flags} {G : Nat → ETy → BitVec 24 → Nat → (Nat → Nat) → Nat × Flags}
    (r : Resolved e f n d xs lits) (h : Issuing s e f.op) (as : List Opd)
    (hi : exec i s = aluOp f.op f.accept f.dst as f.readsD (if f.classB then some false else none) g s)
    (hs : f.srcs n = as.map fun o => (o, n)) (ho : f.out n = n)
    (hg : ∀ t m L k x, f.accept t = true → (∀ j, x j < 2 ^ t.width) →
      g t m L k ((List.range (as.length + if f.readsD then 1 else 0)).map x) = G L t m k x) :
    Completes i s e f.op lits d n (fun L => (laneResult e xs L (G L)).1) (fun L => (laneResult e xs L (G L)).2) := by
  have hlen : xs.length = as.length + if f.readsD then 1 else 0 := by rw [r.length, hs, List.length_map]
  have hdst := r.dst
  obtain ⟨ys, ls, hy, rfl, hxs⟩ := r.srcs
  have hpair : (if f.readsD then ys ++ [d.src] else ys).map (fun x => (x, n)) = xs := by
    have hzip : ys.zip ((f.srcs n).map (·.2)) = ys.map fun x => (x, n) := by
      have hl := Env.srcs_length hy
      refine List.ext_getElem (by simp [hl]) fun j h1 h2 => ?_
      simp [hs]
    rw [hxs, hzip, ho]
    cases f.readsD <;> simp
  rw [ho] at hdst
  rw [hs] at hy
  rw [← ho]
  refine r.completes h hi ⟨_, by simp only [r.type, hdst, hy, hpair, ho, bind, Except.bind]; rfl, fun L hL => ?_⟩
  have ht := r.typed.accepts _ (Env.slice_of_units hL)
  refine eachElem_congr fun k _ => ?_
  rw [hlen, List.map_map]
  exact hg _ _ L k _ ht fun j => elemOf_lt _ _ _

/-- The same for an entry whose rule looks at nothing but the type, the MODE and the elements. -/
theorem aluOp_elements {i : Instr} {s : State} {e : Env} {f : Entry} {n lits : Nat} {d : Dst} {xs : List (Src × Nat)}
    {g : ETy → BitVec 24 → Nat → Nat → Nats → Nat × Flags} {G : ETy → BitVec 24 → (Nat → Nat) → Nat × Flags}
    (r : Resolved e f n d xs lits) (h : Issuing s e f.op) (as : List Opd)
    (hi : exec i s = aluOp f.op f.accept f.dst as f.readsD (if f.classB then some false else none) g s)
    (hs : f.srcs n = as.map fun o => (o, n)) (ho : f.out n = n)
    (hg : ∀ t m L k x, f.accept t = true → (∀ j, x j < 2 ^ t.width) →
      g t m L k ((List.range (as.length + if f.readsD then 1 else 0)).map x) = G t m x) :
    Completes i s e f.op lits d n (fun L => (elements e xs L G).1) (fun L => (elements e xs L G).2) :=
  aluOp_completes (G := fun _ t m _ x => G t m x) r h as hi hs ho hg

end Sys2Proof.Claims
end

section
/-! SUPPORT. Integer arithmetic (R334, R338, R340): the model's integers, fits and quotients are those of the spec. -/

namespace Sys2Proof.Claims

open Sys2Proof.Machine

/-! ### Integers of elements (R334, R338) -/

theorem bitOf_top {w x : Nat} (hw : 0 < w) (hx : x < 2 ^ w) : bitOf x (w - 1) = decide (2 ^ (w - 1) ≤ x) := by
  have hpow : 2 ^ w = 2 ^ (w - 1) * 2 := by rw [← Nat.pow_succ]; congr 1; omega
  have hdiv : x / 2 ^ (w - 1) < 2 := Nat.div_lt_of_lt_mul (hpow ▸ hx)
  have hle : 2 ^ (w - 1) ≤ x ↔ 1 ≤ x / 2 ^ (w - 1) := by
    rw [Nat.le_div_iff_mul_le (Nat.two_pow_pos _), Nat.one_mul]
  rw [bitOf, Nat.shiftRight_eq_div_pow, Bool.eq_iff_iff, beq_iff_eq, decide_eq_true_iff, hle]
  generalize x / 2 ^ (w - 1) = q at *
  omega

theorem int_eq_value {t : ETy} {x : Nat} (hx : x < 2 ^ t.width) : t.int x = value t x := by
  simp only [ETy.int, intOf, value, bitOf_top t.width_pos hx, Bool.and_eq_true, beq_iff_eq, decide_eq_true_eq]

theorem truncInt_eq_wrap (w : Nat) (y : Int) : truncInt w y = wrap w y := rfl

/-- The integer of an element, wrapped, is the element again. -/
theorem wrap_value {t : ETy} {x : Nat} (hx : x < 2 ^ t.width) : wrap t.width (value t x) = x := by
  have hcast : ((x : Int) % 2 ^ t.width).toNat = x := by
    rw [Int.emod_eq_of_lt (Int.natCast_nonneg x) (by exact_mod_cast hx), Int.toNat_natCast]
  unfold wrap value
  split
  · rw [Int.sub_emod_right, hcast]
  · exact hcast

/-- An entry that honours SAT fits its exact result as R334 says. -/
theorem fitT_eq_fitted (t : ETy) (m : BitVec 24) (y : Int) : fitT t m y = fitted t (modeSAT m) y := by
  have hpos : (0 : Int) < 2 ^ (t.width - 1) := Int.pow_pos (by decide)
  have hpos' : (0 : Int) < 2 ^ t.width := Int.pow_pos (by decide)
  unfold fitT fit fitted
  cases modeSAT m
  · simp [truncInt_eq_wrap]
  · by_cases hs : t.intSigned = some true
    · simp only [inRange, satInt, range, hs, truncInt_eq_wrap, beq_self_eq_true, if_true, true_and, Bool.true_and,
        Bool.not_eq_true', Bool.and_eq_false_iff, decide_eq_false_iff_not]
      by_cases h1 : y < -2 ^ (t.width - 1)
      · rw [if_pos (.inl (by omega)), if_pos h1, if_pos (by omega)]
      · rw [if_neg h1]
        by_cases h2 : 2 ^ (t.width - 1) - 1 < y
        · rw [if_pos (.inr (by omega)), if_pos h2, if_neg (by omega)]
        · rw [if_neg h2, if_neg (by omega)]
    · simp only [inRange, satInt, range, hs, truncInt_eq_wrap, beq_iff_eq, if_false, true_and, Bool.true_and,
        Bool.not_eq_true', Bool.and_eq_false_iff, decide_eq_false_iff_not]
      by_cases h1 : y < 0
      · rw [if_pos (.inl (by omega)), if_pos h1, if_pos h1]
      · rw [if_neg h1]
        by_cases h2 : 2 ^ t.width - 1 < y
        · rw [if_pos (.inr (by omega)), if_pos h2, if_neg h1]
        · rw [if_neg h2, if_neg h1, if_neg (by omega)]

/-! ### Each entry's rule (R338, R340) -/

section
variable {t : ETy} (m : BitVec 24) {x y : Nat} (hx : x < 2 ^ t.width) (hy : y < 2 ^ t.width)
include hx hy

theorem imin_eq : truncInt t.width (min (t.int x) (t.int y)) = if value t x ≤ value t y then x else y := by
  rw [int_eq_value hx, int_eq_value hy, truncInt_eq_wrap, Int.min_def]
  split
  · exact wrap_value hx
  · exact wrap_value hy

theorem imax_eq : truncInt t.width (max (t.int x) (t.int y)) = if value t x ≤ value t y then y else x := by
  rw [int_eq_value hx, int_eq_value hy, truncInt_eq_wrap, Int.max_def]
  split
  · exact wrap_value hy
  · exact wrap_value hx

theorem idiv_eq : idiv t m x y
    = if value t y = 0 then (2 ^ t.width - 1, 0) else fitted t (modeSAT m) ((value t x).tdiv (value t y)) := by
  rw [idiv, int_eq_value hx, int_eq_value hy, fitT_eq_fitted]

theorem irem_eq : ((irem t x y, 0) : Nat × Flags)
    = if value t y = 0 then (x, 0) else (wrap t.width (value t x - value t y * (value t x).tdiv (value t y)), 0) := by
  rw [irem, int_eq_value hx, int_eq_value hy, truncInt_eq_wrap, Int.tmod_def]
  split <;> rfl

end

theorem natAbs_eq_ite (a : Int) : (a.natAbs : Int) = if a < 0 then -a else a := by
  split <;> omega

/-- Settles O1: each entry runs its rule on the elements, and the model's integers, fits and quotients are those of R334, R338
and R340. -/
theorem integerArithmeticResults : Obligations.IntegerArithmeticResults := by
  unfold Obligations.IntegerArithmeticResults
  intro i f hi s e n d xs lits h r
  unfold arithEntry at hi
  split at hi <;> cases hi
  case h_1 dst a b =>
    refine aluOp_elements r h [a, b] (by change execIadd dst a b s = _; rw [execIadd, fitOp]; rfl) rfl rfl
      fun t m _ _ x _ hx => ?_
    simp only [arithRule, fitT_eq_fitted, ← int_eq_value (hx _)]
    rfl
  case h_2 dst a b =>
    refine aluOp_elements r h [a, b] (by change execIsub dst a b s = _; rw [execIsub, fitOp]; rfl) rfl rfl
      fun t m _ _ x _ hx => ?_
    simp only [arithRule, fitT_eq_fitted, ← int_eq_value (hx _)]
    rfl
  case h_3 dst a b =>
    refine aluOp_elements r h [a, b] (by change execImul dst a b s = _; rw [execImul, fitOp]; rfl) rfl rfl
      fun t m _ _ x _ hx => ?_
    simp only [arithRule, fitT_eq_fitted, ← int_eq_value (hx _)]
    rfl
  case h_4 dst a b =>
    refine aluOp_elements r h [a, b] (by change execImulh dst a b s = _; rw [execImulh]; rfl) rfl rfl
      fun t m _ _ x _ hx => ?_
    simp only [arithRule, ← int_eq_value (hx _)]
    rfl
  case h_5 dst a b =>
    refine aluOp_elements r h [a, b] (by change execImad dst a b s = _; rw [execImad, fitOp]; rfl) rfl rfl
      fun t m _ _ x _ hx => ?_
    simp only [arithRule, fitT_eq_fitted, ← int_eq_value (hx _)]
    rfl
  case h_6 dst a =>
    refine aluOp_elements r h [a] (by change execIabs dst a s = _; rw [execIabs]; rfl) rfl rfl
      fun t m _ _ x _ hx => ?_
    simp only [arithRule, fitT_eq_fitted, natAbs_eq_ite, ← int_eq_value (hx _)]
    rfl
  case h_7 dst a b =>
    refine aluOp_elements r h [a, b] (by change execImin dst a b s = _; rw [execImin]; rfl) rfl rfl
      fun t m _ _ x _ hx => ?_
    exact congrArg (·, 0) (imin_eq (hx 0) (hx 1))
  case h_8 dst a b =>
    refine aluOp_elements r h [a, b] (by change execImax dst a b s = _; rw [execImax]; rfl) rfl rfl
      fun t m _ _ x _ hx => ?_
    exact congrArg (·, 0) (imax_eq (hx 0) (hx 1))
  case h_9 dst a b =>
    refine aluOp_elements r h [a, b] (by change execIdiv dst a b s = _; rw [execIdiv]; rfl) rfl rfl
      fun t m _ _ x _ hx => ?_
    exact idiv_eq m (hx 0) (hx 1)
  case h_10 dst a b =>
    refine aluOp_elements r h [a, b] (by change execIrem dst a b s = _; rw [execIrem]; rfl) rfl rfl
      fun t m _ _ x _ hx => ?_
    exact irem_eq (hx 0) (hx 1)

end Sys2Proof.Claims
end

section
/-! SUPPORT. Shifts, logic operations, counts and bit fields (R341, R342): the model's results are those of the spec, as numbers or
bit by bit. -/

namespace Sys2Proof.Claims

open Sys2Proof.Machine

/-! ### Shifts (R341) -/

theorem wrap_natCast {w a : Nat} (h : a < 2 ^ w) : wrap w a = a := by
  have hpow : ((2 ^ w : Nat) : Int) = 2 ^ w := Int.natCast_pow 2 w
  unfold wrap
  rw [← hpow, ← Int.natCast_emod, Int.toNat_natCast, Nat.mod_eq_of_lt h]

/-- A negative number of `w` bits, shifted right by `w` or more, is all ones. -/
theorem wrap_neg_one (w : Nat) : wrap w (-1) = 2 ^ w - 1 := by
  have hpow : ((2 ^ w : Nat) : Int) = 2 ^ w := Int.natCast_pow 2 w
  have hpos : 0 < 2 ^ w := Nat.two_pow_pos w
  unfold wrap
  rw [← hpow]
  generalize 2 ^ w = P at *
  rw [← Int.add_emod_right, Int.emod_eq_of_lt (by omega) (by omega)]
  omega

theorem sra_eq {w a : Nat} (hw : 0 < w) (ha : a < 2 ^ w) (c : Nat) :
    truncInt w (intOf w true a / (2 : Int) ^ min c w) = if c < w then
        (if 2 ^ (w - 1) ≤ a then wrap w (((a : Int) - 2 ^ w) / 2 ^ c) else a / 2 ^ c)
      else if 2 ^ (w - 1) ≤ a then 2 ^ w - 1 else 0 := by
  have hpow (k : Nat) : ((2 ^ k : Nat) : Int) = 2 ^ k := Int.natCast_pow 2 k
  have hint : intOf w true a = if 2 ^ (w - 1) ≤ a then (a : Int) - 2 ^ w else a := by
    simp only [intOf, bitOf_top hw ha, Bool.true_and, decide_eq_true_eq]
  have hnat (k : Nat) : wrap w ((a : Int) / 2 ^ k) = a / 2 ^ k := by
    rw [← hpow, ← Int.natCast_ediv]
    exact wrap_natCast (Nat.lt_of_le_of_lt (Nat.div_le_self _ _) ha)
  rw [truncInt_eq_wrap, hint]
  by_cases hc : c < w
  · rw [if_pos hc, Nat.min_eq_left (Nat.le_of_lt hc)]
    split
    · rfl
    · exact hnat c
  · rw [if_neg hc, Nat.min_eq_right (Nat.le_of_not_lt hc)]
    split
    · have hpos : (0 : Int) < 2 ^ w := Int.pow_pos (by decide)
      rw [Int.sub_ediv_of_dvd _ (Int.dvd_refl _), Int.ediv_self (Int.ne_of_gt hpos), ← hpow, ← Int.natCast_ediv, Nat.div_eq_of_lt ha]
      exact wrap_neg_one w
    · exact (hnat w).trans (Nat.div_eq_of_lt ha)

/-- What leaves at the top and what comes in at the bottom of a rotation share no bit. -/
theorem rotl_eq {w a : Nat} (hw : 0 < w) (ha : a < 2 ^ w) (c : Nat) :
    (a <<< (c % w)) % 2 ^ w ||| a >>> (w - c % w) = a * 2 ^ (c % w) % 2 ^ w + a / 2 ^ (w - c % w) := by
  have hk : c % w < w := Nat.mod_lt c hw
  generalize c % w = k at *
  have hlow : a >>> (w - k) < 2 ^ k := by
    rw [Nat.shiftRight_eq_div_pow, Nat.div_lt_iff_lt_mul (Nat.two_pow_pos _), ← Nat.pow_add]
    rwa [Nat.add_sub_cancel' (Nat.le_of_lt hk)]
  have hhigh : (a <<< k) % 2 ^ w = 2 ^ k * (a % 2 ^ (w - k)) := by
    have hp : 2 ^ w = 2 ^ k * 2 ^ (w - k) := by rw [← Nat.pow_add, Nat.add_sub_cancel' (Nat.le_of_lt hk)]
    rw [Nat.shiftLeft_eq, Nat.mul_comm a, hp, Nat.mul_mod_mul_left]
  rw [hhigh, ← Nat.two_pow_add_eq_or_of_lt hlow, ← hhigh, Nat.shiftLeft_eq, Nat.shiftRight_eq_div_pow]

theorem elements_noFlags (e : Env) (xs : List (Src × Nat)) (L : Nat) (g : ETy → BitVec 24 → (Nat → Nat) → Nat) :
    (elements e xs L fun t m x => (g t m x, 0)).2 = 0 :=
  congrArg (·.2) (eachElem_noFlags _ _ _)

theorem shiftResults : ShiftResults := by
  unfold ShiftResults
  intro i f hi s e n d xs lits h r
  refine Completes.congr (fl := fun L => (elements e xs L fun t _ x => (shiftRule i t.width (x 0) (x 1), 0)).2) ?_
    (fun _ _ => rfl) fun L _ => elements_noFlags e xs L fun t _ x => shiftRule i t.width (x 0) (x 1)
  unfold shiftEntry at hi
  split at hi <;> cases hi
  case h_1 dst a b =>
    refine aluOp_elements r h [a, b] (by change execShl dst a b s = _; rw [execShl, shiftOp]; rfl) rfl rfl fun t m _ _ x _ hx => ?_
    simp only [shiftRule, Nat.shiftLeft_eq]
    rfl
  case h_2 dst a b =>
    refine aluOp_elements r h [a, b] (by change execShr dst a b s = _; rw [execShr, shiftOp]; rfl) rfl rfl fun t m _ _ x _ hx => ?_
    simp only [shiftRule, Nat.shiftRight_eq_div_pow]
    rfl
  case h_3 dst a b =>
    refine aluOp_elements r h [a, b] (by change execSra dst a b s = _; rw [execSra, shiftOp]; rfl) rfl rfl fun t m _ _ x _ hx => ?_
    exact congrArg (·, 0) (sra_eq t.width_pos (hx 0) (x 1))
  case h_4 dst a b =>
    refine aluOp_elements r h [a, b] (by change execRotl dst a b s = _; rw [execRotl, shiftOp]; rfl) rfl rfl fun t m _ _ x _ hx => ?_
    exact congrArg (·, 0) (rotl_eq t.width_pos (hx 0) (x 1))

/-! ### Logic operations (R341) -/

/-- A lane's number, of as many bits as its element type has in all, bit by bit from its elements. -/
theorem testBit_packed {t : ETy} {n : Nat} (ht : t.opWidth = 32 * n) (g : Nat → Nat) (i : Nat) :
    (packElems t.width ((List.range t.count).map g)).testBit i = (decide (i < 32 * n) && (g (i / t.width)).testBit (i % t.width)) := by
  have hw := t.width_pos
  have hlt : i / t.width < t.count ↔ i < 32 * n := by rw [Nat.div_lt_iff_lt_mul hw, Nat.mul_comm, t.count_mul_width, ht]
  rw [testBit_packElems hw, nth_map_range]
  by_cases hi : i < 32 * n
  · rw [if_pos (hlt.mpr hi), decide_eq_true hi, Bool.true_and]
  · rw [if_neg (mt hlt.mp hi), decide_eq_false hi, Bool.false_and, Nat.zero_testBit]

/-- The bit of an element at the place of bit `i` of its lane is that bit. -/
theorem testBit_elemOf_place {w : Nat} (hw : 0 < w) (x i : Nat) : (elemOf w x (i / w)).testBit (i % w) = x.testBit i := by
  rw [testBit_elemOf, decide_eq_true (Nat.mod_lt i hw), Bool.true_and, Nat.div_add_mod]

/-- Bit `k` of `f x y` is `bit` of the operands' bits, for elements of every width. -/
def Bitwise (f : Nat → Nat → Nat → Nat) (bit : Bool → Bool → Bool) : Prop :=
  ∀ w x y k, y < 2 ^ w → k < w → (f w x y).testBit k = bit (x.testBit k) (y.testBit k)

/-- An operation that acts bit by bit on the elements acts so on the lane, whatever the element division. -/
theorem packed_of_bitwise {t : ETy} {n A B : Nat} {f : Nat → Nat → Nat → Nat} {bit : Bool → Bool → Bool} {v : BitVec 64}
    (ht : t.opWidth = 32 * n) (hA : A < 2 ^ (32 * n)) (hB : B < 2 ^ (32 * n)) (hf : Bitwise f bit) (h0 : bit false false = false)
    (hv : ∀ k, k < 64 → v.getLsbD k = bit (A.testBit k) (B.testBit k)) :
    packElems t.width ((List.range t.count).map fun k => f t.width (elemOf t.width A k) (elemOf t.width B k)) = v.toNat := by
  have hw := t.width_pos
  have hn : 32 * n ≤ 64 := by have := t.opWidth_cases; omega
  refine Nat.eq_of_testBit_eq fun k => ?_
  rw [testBit_packed ht, hf _ _ _ _ (elemOf_lt _ _ _) (Nat.mod_lt k hw), testBit_elemOf_place hw, testBit_elemOf_place hw,
    BitVec.testBit_toNat]
  have hhigh (x : Nat) (hx : x < 2 ^ (32 * n)) (hk : ¬ k < 32 * n) : x.testBit k = false :=
    Nat.testBit_lt_two_pow (Nat.lt_of_lt_of_le hx (Nat.pow_le_pow_right (by decide) (Nat.le_of_not_lt hk)))
  by_cases hk : k < 32 * n
  · rw [decide_eq_true hk, Bool.true_and, hv k (Nat.lt_of_lt_of_le hk hn)]
  · rw [decide_eq_false hk, Bool.false_and]
    by_cases h64 : k < 64
    · rw [hv k h64, hhigh A hA hk, hhigh B hB hk, h0]
    · rw [BitVec.getLsbD_of_ge v k (Nat.le_of_not_lt h64)]

theorem bitwise_and : Bitwise (fun _ x y => x &&& y) and := fun _ x y k _ _ => Nat.testBit_and x y k
theorem bitwise_or : Bitwise (fun _ x y => x ||| y) or := fun _ x y k _ _ => Nat.testBit_or x y k
theorem bitwise_xor : Bitwise (fun _ x y => x ^^^ y) Bool.xor := fun _ x y k _ _ => Nat.testBit_xor x y k

theorem bitwise_andn : Bitwise (fun w x y => x &&& (2 ^ w - 1 - y)) (fun x y => x && !y) := fun w x y k hy hk => by
  rw [Nat.testBit_and, Nat.sub_sub, Nat.add_comm 1, Nat.testBit_two_pow_sub_succ hy, decide_eq_true hk, Bool.true_and]

/-- A logic entry's lane is its rule on the whole lane. -/
theorem logicOp_completes {i : Instr} {s : State} {e : Env} {op n lits : Nat} {d : Dst} {xs : List (Src × Nat)} {dst a b : Opd}
    {f : Nat → Nat → Nat → Nat} {bit : Bool → Bool → Bool}
    (r : Resolved e { op := op, accept := fun _ => true, dst := dst, srcs := fun n => [(a, n), (b, n)] } n d xs lits)
    (h : Issuing s e op) (hf : Bitwise f bit) (hi : exec i s = logicOp op dst a b f s) (h0 : bit false false = false)
    (hv : ∀ (A B : BitVec 64) k, k < 64 → (logicRule i A B).getLsbD k = bit (A.getLsbD k) (B.getLsbD k)) :
    Completes i s e op lits d n
      (fun L => (logicRule i (BitVec.ofNat 64 (source e xs L 0)) (BitVec.ofNat 64 (source e xs L 1))).toNat) (fun _ => 0) := by
  rw [logicOp] at hi
  have key := aluOp_elements (G := fun t _ x => (f t.width (x 0) (x 1), 0)) r h [a, b] hi rfl rfl fun _ _ _ _ _ _ _ => rfl
  refine key.congr (fun L hL => ?_) fun L _ => elements_noFlags e xs L fun t _ x => f t.width (x 0) (x 1)
  have hL32 := (Env.units_lt hL).1
  have hn : 0 < n := by rcases r.typed.one_or_two with h | h <;> omega
  refine (congrArg (·.1) (eachElem_noFlags _ _ _)).trans (packed_of_bitwise (r.typed.opWidth _ (Env.slice_of_units hL))
    (r.source_lt (j := 0) rfl hn hL32) (r.source_lt (j := 1) rfl hn hL32) hf h0 fun k hk => ?_)
  simp only [hv _ _ k hk, BitVec.getLsbD_ofNat, hk, decide_true, Bool.true_and]

theorem logicResults : LogicResults := by
  unfold LogicResults
  intro i f hi s e n d xs lits h r
  unfold logicEntry at hi
  split at hi <;> cases hi
  case h_1 dst a b => exact logicOp_completes r h bitwise_and rfl rfl fun _ _ k _ => by simp [logicRule]
  case h_2 dst a b => exact logicOp_completes r h bitwise_or rfl rfl fun _ _ k _ => by simp [logicRule]
  case h_3 dst a b => exact logicOp_completes r h bitwise_xor rfl rfl fun _ _ k _ => by simp [logicRule]
  case h_4 dst a b => exact logicOp_completes r h bitwise_andn rfl rfl fun _ _ k hk => by simp [logicRule, hk]

end Sys2Proof.Claims
end

section
/-! SUPPORT. Counts and bit fields (R342): how many bits an element holds, where its leading one stands, its bits in reverse order, and
the fields that BFE and BFI name. -/

namespace Sys2Proof.Claims

open Sys2Proof.Machine

/-! ### Counts (R342) -/

theorem bitsBelow_eq (n x : Nat) : bitsBelow n x = (List.range n).filter fun k => x.testBit k :=
  List.filter_congr fun k _ => bitOf_eq_testBit x k

theorem popcount_eq (w x : Nat) : popcount w x = ((List.range w).filter fun k => x.testBit k).length := by
  rw [popcount, bitsBelow_eq]

/-- How many numbers from 0 pass before the first that fails. -/
theorem length_takeWhile_range {p : Nat → Bool} {n N : Nat} (hn : n ≤ N) (hp : ∀ k, k < n → p k = true)
    (hstop : n < N → p n = false) : ((List.range N).takeWhile p).length = n := by
  obtain ⟨m, rfl⟩ := Nat.exists_eq_add_of_le hn
  rw [List.range_add, List.takeWhile_append_of_pos fun k hk => hp k (List.mem_range.mp hk), List.length_append, List.length_range]
  cases m with
  | zero => rfl
  | succ m =>
    have hfail : p n = false := hstop (by omega)
    rw [List.range_succ_eq_map, List.map_cons, Nat.add_zero, List.takeWhile_cons_of_neg (by simp [hfail]), List.length_nil, Nat.add_zero]

theorem leadingZeros_eq {w x : Nat} (hx : x < 2 ^ w) :
    leadingZeros w x = ((List.range w).takeWhile fun k => !(x.testBit (w - 1 - k))).length := by
  unfold leadingZeros
  split
  · next h0 =>
    subst h0
    exact (length_takeWhile_range (Nat.le_refl w) (fun k _ => by simp) fun h => absurd h (Nat.lt_irrefl w)).symm
  · next h0 =>
    have htop : x.log2 < w := (Nat.log2_lt h0).mpr hx
    refine (length_takeWhile_range (by omega) (fun k hk => ?_) fun _ => ?_).symm
    · have hlt : x < 2 ^ (w - 1 - k) := Nat.lt_of_lt_of_le Nat.lt_log2_self (Nat.pow_le_pow_right (by decide) (by omega))
      rw [Nat.testBit_lt_two_pow hlt, Bool.not_false]
    · have hbit : w - 1 - (w - 1 - x.log2) = x.log2 := by omega
      rw [hbit, Nat.testBit_log2 h0, Bool.not_true]

theorem maskOf_concat (l : Nats) (i : Nat) : maskOf (l ++ [i]) = maskOf l ||| 2 ^ i := by
  rw [maskOf, List.foldl_append]
  rfl

/-- The lowest `k` bits reversed to the top of `w`: their mask is their sum, and lies above the places still free. -/
theorem reversed_eq (w x : Nat) : ∀ k, k ≤ w →
    maskOf (((List.range k).filter fun i => x.testBit i).map fun i => w - 1 - i)
      = ((List.range k).map fun i => if x.testBit i then 2 ^ (w - 1 - i) else 0).sum
    ∧ 2 ^ (w - k) ∣ maskOf (((List.range k).filter fun i => x.testBit i).map fun i => w - 1 - i)
  | 0, _ => ⟨rfl, Nat.dvd_zero _⟩
  | k + 1, hk => by
    obtain ⟨ih, hdvd⟩ := reversed_eq w x k (by omega)
    have hstep : 2 ^ (w - k) = 2 ^ (w - 1 - k) * 2 := by rw [← Nat.pow_succ]; congr 1; omega
    have hfree : w - (k + 1) = w - 1 - k := by omega
    rw [List.range_succ, List.filter_append, List.map_append, List.map_append, List.sum_append, ← ih, hfree]
    generalize ((List.range k).filter fun i => x.testBit i).map (fun i => w - 1 - i) = l at *
    obtain ⟨q, hq⟩ := hdvd
    by_cases hbit : x.testBit k = true
    · have hlt : 2 ^ (w - 1 - k) < 2 ^ (w - k) := by have := Nat.two_pow_pos (w - 1 - k); omega
      have hsum : maskOf (l ++ [w - 1 - k]) = maskOf l + 2 ^ (w - 1 - k) := by
        rw [maskOf_concat, hq, Nat.two_pow_add_eq_or_of_lt hlt]
      refine ⟨by simp [hbit, hsum], ?_⟩
      have hdvd : 2 ^ (w - 1 - k) ∣ maskOf l := ⟨2 * q, by rw [hq, hstep, Nat.mul_assoc]⟩
      simpa [hbit, hsum] using Nat.dvd_add hdvd (Nat.dvd_refl _)
    · have hsame : maskOf (l ++ ([k].filter fun i => x.testBit i).map fun i => w - 1 - i) = maskOf l := by simp [hbit]
      refine ⟨by simp [hbit], hsame.symm ▸ ?_⟩
      rw [hq, hstep, Nat.mul_assoc]
      exact Nat.dvd_mul_right _ _

theorem reverseBits_eq (w x : Nat) :
    reverseBits w x = ((List.range w).map fun k => if x.testBit k then 2 ^ (w - 1 - k) else 0).sum := by
  rw [reverseBits, bitsBelow_eq]
  exact (reversed_eq w x w (Nat.le_refl w)).1

/-! ### Bit fields (R342) -/

/-- A field of `n` bits brought to `w` bits, its top bit filling up the rest when it is signed. -/
theorem testBit_truncInt_intOf {w n f k : Nat} (sgn : Bool) (hnw : n ≤ w) (hf : f < 2 ^ n) (hk : k < w) :
    (truncInt w (intOf n sgn f)).testBit k = if k < n then f.testBit k else (sgn && f.testBit (n - 1)) := by
  have hpow (j : Nat) : ((2 ^ j : Nat) : Int) = 2 ^ j := Int.natCast_pow 2 j
  have hle : 2 ^ n ≤ 2 ^ w := Nat.pow_le_pow_right (by decide) hnw
  rw [truncInt_eq_wrap, intOf, bitOf_eq_testBit]
  by_cases hneg : (sgn && f.testBit (n - 1)) = true
  · have hsplit : 2 ^ w = 2 ^ n * 2 ^ (w - n) := by rw [← Nat.pow_add, Nat.add_sub_cancel' hnw]
    obtain ⟨q, hq⟩ := Nat.exists_eq_add_of_lt (Nat.two_pow_pos (w - n))
    have hfill : wrap w ((f : Int) - 2 ^ n) = 2 ^ n * (2 ^ (w - n) - 1) + f := by
      have hcast : ((2 ^ n * (2 ^ (w - n) - 1) + f : Nat) : Int) = (f : Int) - 2 ^ n + 2 ^ w := by
        rw [← hpow n, ← hpow w, hsplit, hq, Nat.zero_add, Nat.add_sub_cancel, Nat.mul_add, Nat.mul_one]
        omega
      have hlt : 2 ^ n * (2 ^ (w - n) - 1) + f < 2 ^ w := by
        rw [hsplit, hq, Nat.zero_add, Nat.add_sub_cancel, Nat.mul_add, Nat.mul_one]
        omega
      rw [← wrap_natCast hlt, hcast, wrap, wrap, Int.add_emod_right]
    rw [if_pos hneg, hfill, Nat.testBit_two_pow_mul_add _ hf, Nat.testBit_two_pow_sub_one, hneg]
    by_cases hkn : k < n
    · rw [if_pos hkn, if_pos hkn]
    · rw [if_neg hkn, if_neg hkn, decide_eq_true (by omega)]
  · rw [if_neg hneg, wrap_natCast (Nat.lt_of_lt_of_le hf hle), Bool.not_eq_true _ |>.mp hneg]
    split
    · rfl
    · exact Nat.testBit_lt_two_pow (Nat.lt_of_lt_of_le hf (Nat.pow_le_pow_right (by decide) (by omega)))

/-- The bits of a number with a field of `n` bits at `o` replaced by the low bits of `x`. -/
theorem testBit_insert (d x o n k : Nat) :
    (d - (d >>> o) % 2 ^ n * 2 ^ o + x % 2 ^ n * 2 ^ o).testBit k
      = if o ≤ k ∧ k < o + n then x.testBit (k - o) else d.testBit k := by
  have hlow : d % 2 ^ o < 2 ^ o := Nat.mod_lt _ (Nat.two_pow_pos o)
  have hx : x % 2 ^ n < 2 ^ n := Nat.mod_lt _ (Nat.two_pow_pos n)
  have hdiv : d >>> o = 2 ^ n * (d >>> o >>> n) + (d >>> o) % 2 ^ n := by
    rw [Nat.shiftRight_eq_div_pow _ n, Nat.div_add_mod]
  have hd : d = 2 ^ o * (d >>> o) + d % 2 ^ o := by rw [Nat.shiftRight_eq_div_pow, Nat.div_add_mod]
  have hnew : d - (d >>> o) % 2 ^ n * 2 ^ o + x % 2 ^ n * 2 ^ o = 2 ^ o * (2 ^ n * (d >>> o >>> n) + x % 2 ^ n) + d % 2 ^ o := by
    have hmul := congrArg (2 ^ o * ·) hdiv
    simp only [Nat.mul_add] at hmul ⊢
    rw [Nat.mul_comm _ (2 ^ o), Nat.mul_comm (x % 2 ^ n)]
    omega
  have hbits := congrArg (·.testBit (k - o)) hdiv
  rw [hnew, Nat.testBit_two_pow_mul_add _ hlow]
  by_cases hk : k < o
  · rw [if_pos hk, if_neg (by omega), Nat.testBit_mod_two_pow, decide_eq_true hk, Bool.true_and]
  · rw [if_neg hk, Nat.testBit_two_pow_mul_add _ hx]
    by_cases hkn : k - o < n
    · rw [if_pos hkn, if_pos (by omega), Nat.testBit_mod_two_pow, decide_eq_true hkn, Bool.true_and]
    · rw [if_neg hkn, if_neg (by omega), Nat.testBit_shiftRight, Nat.testBit_shiftRight]
      congr 1
      omega

/-- The field that a descriptor names is empty, or lies in the element from its offset up to `top` (R342). -/
theorem fieldOf_cases (w b : Nat) :
    ((decide (b / 256 % 256 = 0) || decide (w ≤ b % 256)) = true ∧ fieldOf w b = (0, 0))
      ∨ ((decide (b / 256 % 256 = 0) || decide (w ≤ b % 256)) = false
        ∧ ∃ n, 0 < n ∧ min (b % 256 + b / 256 % 256) w = b % 256 + n ∧ fieldOf w b = (b % 256, n)) := by
  unfold fieldOf
  by_cases h : b / 256 % 256 = 0 ∨ w ≤ b % 256
  · exact .inl ⟨by simpa using h, if_pos h⟩
  · exact .inr ⟨by simpa using h, _, by omega, by omega, if_neg h⟩

theorem testBit_bfe {dst a b : Opd} {t : ETy} {x desc k : Nat} (d : Nat) (hk : k < t.width) :
    (bfe t.width (t.intSigned == some true) x desc).testBit k = fieldRule (.bfe dst a b) t x desc d k := by
  unfold bfe fieldRule
  rcases fieldOf_cases t.width desc with ⟨hempty, hf⟩ | ⟨hfull, n, hn, htop, hf⟩
  · simp [hempty, hf]
  · have hnw : n ≤ t.width := by omega
    have hin : (desc % 256 + k < desc % 256 + n) = (k < n) := propext (by omega)
    have htopbit : desc % 256 + (n - 1) = desc % 256 + n - 1 := by omega
    simp only [hfull, hf, htop, hin, Nat.ne_of_gt hn, if_false, Bool.not_false, Bool.true_and]
    rw [testBit_truncInt_intOf _ hnw (Nat.mod_lt _ (Nat.two_pow_pos n)) hk]
    simp only [Nat.testBit_mod_two_pow, Nat.testBit_shiftRight, htopbit, decide_eq_true (Nat.sub_lt hn Nat.one_pos), Bool.true_and]
    split
    · next hlt => rw [decide_eq_true hlt, Bool.true_and]
    · rfl

theorem testBit_bfi {dst a b : Opd} {t : ETy} (x desc d k : Nat) :
    (bfi t.width d x desc).testBit k = fieldRule (.bfi dst a b) t x desc d k := by
  unfold bfi fieldRule
  rcases fieldOf_cases t.width desc with ⟨hempty, hf⟩ | ⟨hfull, n, hn, htop, hf⟩
  · simp [hempty, hf]
  · simp only [hfull, hf, htop, Nat.ne_of_gt hn, if_false, Bool.not_false, Bool.true_and, Bool.and_eq_true, decide_eq_true_eq]
    exact testBit_insert d x _ n k

/-- A field entry completes with its function of the values of A, of the descriptor and of D. -/
theorem bitFieldOp_completes {i : Instr} {s : State} {e : Env} {f : Entry} {n lits : Nat} {d : Dst} {xs : List (Src × Nat)} {a b : Opd}
    {g : ETy → Nats → Nat} (r : Resolved e f n d xs lits) (h : Issuing s e f.op)
    (hi : exec i s = bitFieldOp f.op f.dst a b f.readsD g s) (hacc : f.accept = ETy.isWide) (hs : f.srcs n = [(a, n), (b, 1)])
    (ho : f.out n = n) (hB : f.classB = false) :
    Completes i s e f.op lits d n (fun L => g (e.ety (L / 4)) ((List.range xs.length).map (source e xs L))) (fun _ => 0) := by
  obtain ⟨x, y, l, ls, hx, hy, rfl, hxs⟩ := r.two_srcs hs
  have htype := r.type
  have hdst := r.dst
  rw [hacc] at htype
  rw [ho] at hdst hxs
  rw [← ho]
  refine r.completes h hi ⟨fun L vs => (g (e.ety (L / 4)) vs, 0), ?_, fun _ _ => rfl⟩
  simp only [htype, hdst, hx, hy, ← hxs, ho, hB, bind, Except.bind]
  rfl

/-- A counting entry completes with its rule, which the model's count `c` gives on every element. -/
theorem countOp_completes {i : Instr} {s : State} {e : Env} {op n lits : Nat} {d : Dst} {xs : List (Src × Nat)} {dst a : Opd}
    {c : Nat → Nat → Nat} (r : Resolved e { op := op, accept := ETy.isInt, dst := dst, srcs := fun n => [(a, n)] } n d xs lits)
    (h : Issuing s e op) (hc : ∀ {w x}, x < 2 ^ w → c w x = countRule i w x)
    (hi : exec i s = aluOp op ETy.isInt dst [a] false none (fun t _ _ _ vs => (c t.width (nth 0 vs 0), 0)) s) :
    Completes i s e op lits d n (fun L => (elements e xs L fun t _ x => (countRule i t.width (x 0), 0)).1) (fun _ => 0) := by
  have key := aluOp_elements (G := fun t _ x => (countRule i t.width (x 0), 0)) r h [a] hi rfl rfl
    fun t _ _ _ x _ hx => congrArg (·, 0) (hc (hx 0))
  exact key.congr (fun _ _ => rfl) fun L _ => elements_noFlags e xs L fun t _ x => countRule i t.width (x 0)

theorem ETy.width_of_isWide {t : ETy} (h : t.isWide = true) : t.width = t.opWidth := by
  cases t <;> revert h <;> decide

/-- The elements of a wide type fill the lane. -/
theorem Typed.width {e : Env} {n j : Nat} (h : Typed e ETy.isWide n) (hj : j ∈ e.pathSlices) : (e.ety j).width = 32 * n :=
  (ETy.width_of_isWide (h.accepts j hj)).trans (h.opWidth j hj)

theorem countAndFieldResults : CountAndFieldResults := by
  unfold CountAndFieldResults
  intro i f hi s e n d xs lits h r
  unfold fieldEntry at hi
  split at hi <;> cases hi
  case h_1 dst a => exact ⟨_, countOp_completes r h (fun _ => popcount_eq _ _) rfl, fun _ _ => rfl⟩
  case h_2 dst a => exact ⟨_, countOp_completes r h leadingZeros_eq rfl, fun _ _ => rfl⟩
  case h_3 dst a => exact ⟨_, countOp_completes r h (fun _ => reverseBits_eq _ _) rfl, fun _ _ => rfl⟩
  case h_4 dst a b =>
    have hi : exec (.bfe dst a b) s = execBfe dst a b s := rfl
    refine ⟨_, bitFieldOp_completes r h (by rw [hi, execBfe]) rfl rfl rfl rfl, fun L hL k hk => ?_⟩
    have hw := Typed.width r.typed (Env.slice_of_units hL)
    simp only [nth_sources]
    exact testBit_bfe _ (hw ▸ hk)
  case h_5 dst a b =>
    have hi : exec (.bfi dst a b) s = execBfi dst a b s := rfl
    refine ⟨_, bitFieldOp_completes r h (by rw [hi, execBfi]) rfl rfl rfl rfl, fun L hL k hk => ?_⟩
    simp only [nth_sources]
    exact testBit_bfi _ _ _ k

/-- Settles O2, in its three parts: the shifts as numbers, the logic operations and the bit fields bit by bit, the counts by what
they count. -/
theorem shiftLogicAndFieldResults : Obligations.ShiftLogicAndFieldResults := ⟨shiftResults, logicResults, countAndFieldResults⟩

end Sys2Proof.Claims
end

section
/-! SUPPORT. Float entries (R335, R345–R351): operands read under DN, the exact value rounded once, and the forms of R345 to R349
that have rules of their own. -/

namespace Sys2Proof.Claims

open Sys2Proof.Machine

/-! ### Rounded entries (R335, R345, R350) -/

/-- The result of a float entry for element `k` of lane `L`, from the elements of its operands. -/
def floatResult (i : Instr) (L : Nat) (t : ETy) (m : BitVec 24) (k : Nat) (x : Nat → Nat) : Nat × Flags :=
  let v := floatRule i (roundingOf i t m L k) fun j => t.ffmt.read (modeDN m) (x j)
  let z := t.ffmt.roundVal (roundingOf i t m L k) (modeSAT m) (modeDN m) v.1
  (z.1, v.2 ||| z.2)

theorem floatElements_eq (i : Instr) (e : Env) (xs : List (Src × Nat)) (L : Nat) :
    floatElements i e xs L = laneResult e xs L (floatResult i L) := rfl

/-- The rounding an entry gives itself, or else MODE's (R146, R350). -/
theorem rounding_eq (i : Instr) (t : ETy) (m : BitVec 24) (L k : Nat) :
    (if roundsNearest i then some Rnd.rne else none).getD (rndAt t m L k) = roundingOf i t m L k := by
  unfold roundingOf
  cases roundsNearest i <;> rfl

/-- A float entry completes with its rule, which looks at no more values than the entry has operands. -/
theorem floatOp_completes {i : Instr} {s : State} {e : Env} {f : Entry} {n lits : Nat} {d : Dst} {xs : List (Src × Nat)}
    (r : Resolved e f n d xs lits) (h : Issuing s e f.op) (as : List Opd)
    (hi : exec i s = floatOp f.op f.accept f.dst as f.readsD (if f.classB then some false else none)
      (if roundsNearest i then some .rne else none) (fun z l => floatRule i z (fv l)) s)
    (hs : f.srcs n = as.map fun o => (o, n)) (ho : f.out n = n)
    (hF : ∀ z v, floatRule i z (fv ((List.range (as.length + if f.readsD then 1 else 0)).map v)) = floatRule i z v) :
    Completes i s e f.op lits d n (fun L => (floatElements i e xs L).1) (fun L => (floatElements i e xs L).2) := by
  rw [floatOp] at hi
  simp only [floatElements_eq]
  refine aluOp_completes (G := floatResult i) r h as hi hs ho fun t m L k x _ _ => ?_
  dsimp only
  rw [rounding_eq, List.map_map]
  rw [hF _ ((t.ffmt.read (modeDN m)) ∘ x)]
  rfl

theorem floatResults : FloatResults := by
  unfold FloatResults
  intro i f hi s e n d xs lits h r
  unfold floatEntry at hi
  split at hi <;> cases hi
  case h_1 dst a b | h_2 dst a b | h_3 dst a b | h_4 dst a b | h_5 dst a b | h_9 dst a b =>
    exact floatOp_completes r h [a, b] rfl rfl rfl fun _ _ => rfl
  case h_6 dst a | h_7 dst a | h_8 dst a | h_10 dst a | h_11 dst a | h_12 dst a | h_13 dst a | h_14 dst a | h_15 dst a =>
    exact floatOp_completes r h [a] rfl rfl rfl fun _ _ => rfl

/-! ### The least and the greatest (R346) -/

/-- What `pick` chooses of two elements' values, a subnormal under DN a zero of its sign. -/
def pickResult (pick : FVal → FVal → FVal) (t : ETy) (m : BitVec 24) (x : Nat → Nat) : Nat × Flags :=
  let a := t.ffmt.read (modeDN m) (x 0)
  let b := t.ffmt.read (modeDN m) (x 1)
  let z := t.ffmt.roundVal .rne false (modeDN m) (pick a b)
  (z.1, a.iv ||| b.iv ||| z.2)

/-! ### Signs (R347) -/

/-- The sign of an element changed by `sign`; a NaN becomes the canonical one. -/
def signResult (sign : Bool → Bool) (t : ETy) (x : Nat) : Nat × Flags :=
  if (t.ffmt.decode x).isNan then (t.ffmt.nanCode, (t.ffmt.decode x).iv)
  else (x % 2 ^ (t.width - 1) + (if sign (decide (2 ^ (t.width - 1) ≤ x)) then 2 ^ (t.width - 1) else 0), 0)

/-- The sign of a float element stands in its top bit. -/
theorem ETy.signBit_of_isFloat {t : ETy} (h : t.isFloat = true) : t.ffmt.signBit = t.width - 1 := by
  cases t <;> revert h <;> decide

theorem Fmt.sign_eq (f : Fmt) (b : Bool) : f.sign b = if b then 2 ^ f.signBit else 0 := by
  cases b <;> simp [Fmt.sign]

/-- FABS and FNEG complete with the sign of each element changed. -/
theorem signOp_completes {i : Instr} {s : State} {e : Env} {op n lits : Nat} {d : Dst} {xs : List (Src × Nat)} {dst a : Opd}
    {sign : Bool → Bool} (r : Resolved e { op := op, accept := ETy.isFloat, dst := dst, srcs := fun n => [(a, n)] } n d xs lits)
    (h : Issuing s e op) (hi : exec i s = signOp op dst a sign s) :
    Completes i s e op lits d n (fun L => (elements e xs L fun t _ x => signResult sign t (x 0)).1)
      (fun L => (elements e xs L fun t _ x => signResult sign t (x 0)).2) := by
  rw [signOp] at hi
  have key := aluOp_elements (G := fun t _ x => signResult sign t (x 0)) r h [a] hi rfl rfl fun t _ _ _ x ht hx => by
    simp only [signResult, Fmt.sign_eq, ETy.signBit_of_isFloat ht, ← bitOf_top t.width_pos (hx 0)]
    rfl
  exact key

/-! ### Classes (R347) -/

theorem classMask_eq (f : Fmt) (x : Nat) : f.classMask x = 2 ^ classBit f x := by
  unfold Fmt.classMask classBit
  cases f.decode x with
  | nan s => cases s <;> rfl
  | inf s => cases s <;> rfl
  | fin s m _ =>
    dsimp only
    split
    · cases s <;> rfl
    · split <;> cases s <;> rfl

/-! ### Scaling (R345) -/

/-- A word reads as its signed integer. -/
theorem intOf_eq_toInt {x : Nat} (hx : x < 2 ^ 32) : intOf 32 true x = (BitVec.ofNat 32 x).toInt := by
  rw [intOf, bitOf_top (by decide) hx, BitVec.toInt_eq_toNat_cond, BitVec.toNat_ofNat, Nat.mod_eq_of_lt hx, Bool.true_and]
  by_cases h : 2 ^ (32 - 1) ≤ x
  · rw [if_pos (by simpa using h), if_neg (by omega)]; rfl
  · rw [if_neg (by simpa using h), if_pos (by omega)]

/-! ### Dot products (R349) -/

theorem ETy.width_of_half {t : ETy} (h : (t == .f16 || t == .bf16) = true) : t.width = 16 := by
  cases t <;> revert h <;> decide

theorem otherFloatResults : OtherFloatResults := by
  unfold OtherFloatResults
  intro i f hi s e n d xs lits h r
  unfold otherFloatEntry at hi
  split at hi <;> cases hi
  case h_1 dst a b =>
    exact aluOp_elements (G := pickResult FVal.min) r h [a, b] (by change execFmin dst a b s = _; rw [execFmin, minMaxOp]; rfl) rfl rfl
      fun _ _ _ _ _ _ _ => rfl
  case h_2 dst a b =>
    exact aluOp_elements (G := pickResult FVal.max) r h [a, b] (by change execFmax dst a b s = _; rw [execFmax, minMaxOp]; rfl) rfl rfl
      fun _ _ _ _ _ _ _ => rfl
  case h_3 dst a => exact signOp_completes (sign := fun _ => false) r h rfl
  case h_4 dst a => exact signOp_completes (sign := fun n => !n) r h rfl
  case h_5 dst a =>
    have hdst : e.dst dst 1 = .ok d := r.dst
    obtain ⟨x, ls, hx, rfl, hxs⟩ := r.one_src rfl
    refine r.completes h rfl ⟨_, by simp only [r.type, hdst, hx, hxs, bind, Except.bind]; rfl, fun L _ => ?_⟩
    simp only [nth_sources, otherFloatElements, List.map_map, funext (classMask_eq _)]
    rfl
  case h_6 dst a b =>
    have hdst : e.dst dst n = .ok d := r.dst
    obtain ⟨x, y, l, ls, hx, hy, rfl, hxs⟩ := r.two_srcs rfl
    refine r.completes h rfl ⟨_, by simp only [r.type, hdst, hx, hy, hxs, bind, Except.bind]; rfl, fun L hL => ?_⟩
    have hcount : source e xs L 1 < 2 ^ 32 := r.source_lt (j := 1) (o := (b, 1)) rfl Nat.one_pos (Env.units_lt hL).1
    simp only [nth_sources, intOf_eq_toInt hcount]
    rfl
  case h_7 dst a b =>
    have hdst : e.dst dst 1 = .ok d := r.dst
    obtain ⟨x, y, l, ls, hx, hy, rfl, hxs⟩ := r.two_srcs rfl
    have hsrcs : e.srcs [(a, 1), (b, 1)] e.lits = .ok ([x, y], ls) := by simp only [Env.srcs, hx, hy, bind, Except.bind]
    refine r.completes h rfl ⟨_, by simp only [r.type, hdst, hsrcs, hxs, bind, Except.bind]; rfl, fun L hL => ?_⟩
    have hwidth : (e.ety (L / 4)).width = 16 := ETy.width_of_half (r.typed.accepts _ (Env.slice_of_units hL))
    simp only [nth_sources, otherFloatElements, hwidth]
    rfl

/-- Settles O5: every entry forms the value of its rule and rounds it once, or has the form of its own that R345 to R349 give it. -/
theorem floatingPointResults : Obligations.FloatingPointResults := ⟨floatResults, otherFloatResults⟩

end Sys2Proof.Claims
end

section
/-! SUPPORT. Carries (R339): the lanes of p15 that a carry goes to, and what they receive. -/

namespace Sys2Proof.Machine

theorem getLsbD_laneMask (l : Nats) {L : Nat} (h : L < 32) : (laneMask l).getLsbD L = decide (L ∈ l) := by
  rw [laneMask, BitVec.getLsbD_ofNat, testBit_maskOf, decide_eq_true h, Bool.true_and]

/-- Results written at positions where an instruction runs leave the wave that holds them. -/
theorem State.write_units {s : State} {e : Env} (hw : s.wave? e.ref = some e.w) {d : Dst} {us : Nats} (hu : ∀ L ∈ us, L ∈ e.units d.isVec)
    (n : Nat) (v : Nat → Nat × Bool) :
    ∃ w', s.write e (us.flatMap fun L => d.writes n L (v L).1 (v L).2) = s.setWave e.ref w' ∧ Wrote e.w w' d n us v :=
  ⟨_, State.write_eq _ hw, Wave.deliver_writes e.w e.p d n us v fun L hL => Env.units_lt (hu L hL)⟩

end Sys2Proof.Machine

namespace Sys2Proof.Claims

open Sys2Proof.Machine

/-- The lanes of p15 that position `L`'s carry goes to: its lane, the four of its slice, or a caster thread's one bit. -/
def carryLanes (e : Env) (d : Dst) (L : Nat) : Nats := if d.isVec then [L] else (upto (if e.caster then 1 else 4)).map fun i => L + i

/-- The position whose carry lane `L` of p15 takes. -/
def carryPos (e : Env) (d : Dst) (L : Nat) : Nat := if d.isVec ∨ e.caster then L else L / 4 * 4

theorem mem_carryLanes {e : Env} {d : Dst} {L K : Nat} (hL : L ∈ e.units d.isVec) : K ∈ carryLanes e d L ↔ L = carryPos e d K := by
  unfold carryLanes carryPos
  cases hd : d.isVec with
  | true => simpa using eq_comm
  | false =>
    have h4 : L % 4 = 0 := (Env.units_lt hL).2 hd
    cases e.caster with
    | true =>
      have : upto 1 = [0] := rfl
      simpa [this] using eq_comm
    | false =>
      simp only [Bool.false_eq_true, if_false, upto, List.mem_map, List.mem_range, or_self]
      exact ⟨fun ⟨i, hi, h⟩ => by omega, fun h => ⟨K % 4, Nat.mod_lt _ (by decide), by omega⟩⟩

/-- A lane of p15 takes part when the position whose carry it takes does. -/
theorem mem_flatMap_carryLanes {e : Env} {d : Dst} {us : Nats} (hu : ∀ L ∈ us, L ∈ e.units d.isVec) (K : Nat) :
    K ∈ us.flatMap (carryLanes e d) ↔ carryPos e d K ∈ us := by
  rw [List.mem_flatMap]
  exact ⟨fun ⟨L, hL, hK⟩ => (mem_carryLanes (hu L hL)).mp hK ▸ hL, fun h => ⟨_, h, (mem_carryLanes (hu _ h)).mpr rfl⟩⟩

theorem carry_out_of_range (n : Nat) (y : Int) : (!(inRange (32 * n) false y)) = decide (y < 0 ∨ 2 ^ (32 * n) ≤ y) := by
  rw [Bool.eq_iff_iff]
  simp only [inRange, Bool.false_eq_true, if_false, Bool.not_eq_true', Bool.and_eq_false_iff, decide_eq_false_iff_not, decide_eq_true_eq,
    Int.not_le, Int.not_lt]

theorem marked_carryLanes (e : Env) (d : Dst) (L : Nat) (z : Bool) :
    (if d.isVec then [(L, z)] else (upto (if e.caster then 1 else 4)).map fun i => (L + i, z))
      = (carryLanes e d L).map fun K => (K, z) := by
  unfold carryLanes
  split
  · rfl
  · rw [List.map_map]; rfl

/-- The lanes that take part, each marked with its position's bit. -/
theorem lanes_of_marked (g : Nat → Nats) (z : Nat → Bool) (us : Nats) :
    (us.flatMap fun L => (g L).map fun K => (K, z L)).map (·.1) = us.flatMap g := by
  simp only [List.map_flatMap, List.map_map, Function.comp_def, List.map_id']

/-- The lanes whose positions' bits are set. -/
theorem set_lanes_of_marked (g : Nat → Nats) (z : Nat → Bool) : ∀ us : Nats,
    ((us.flatMap fun L => (g L).map fun K => (K, z L)).filter (·.2)).map (·.1) = (us.filter z).flatMap g
  | [] => rfl
  | L :: t => by
    rw [List.flatMap_cons, List.filter_append, List.map_append, set_lanes_of_marked g z t, List.filter_map, List.filter_cons]
    cases hz : z L <;> simp [Function.comp_def]

/-- The two carry instructions: what they leave in their wave, and in p15. -/
theorem carryOp_eq {s : State} {e : Env} {op n : Nat} {dst a b : Opd} {d : Dst} {x y : Src} {ls : List Word} {f : Int → Int → Int → Int}
    {res : Nat → Int} (h : Issuing s e op) (ht : e.types (fun t => t.isInt && decide (32 ≤ t.width)) = .ok n) (hd : e.dst dst n = .ok d)
    (hs : e.srcs [(a, n), (b, n)] e.lits = .ok ([x, y], ls)) (hform : d.isVec = true ∨ x.isVec = false ∧ y.isVec = false)
    (hclean : Clean e (e.units d.isVec) [(x, n), (y, n)])
    (hres : ∀ L, f (e.read n L x).1 (e.read n L y).1 (predBit e.w 15 L).toNat = res L) :
    ∃ w', carryOp op dst a b f s = .next (s.setWave e.ref ((w'.setPred 15 (laneMask ((e.units d.isVec).flatMap (carryLanes e d)))
        (laneMask (((e.units d.isVec).filter fun L => !(inRange (32 * n) false (res L))).flatMap (carryLanes e d)))).wentOn e op (e.used ls)))
      ∧ Wrote e.w w' d n (e.units d.isVec) (fun L => (wrap (32 * n) (res L), false)) := by
  obtain ⟨w', hwrite, hwrote⟩ := State.write_units h.wave (d := d) (fun _ hL => hL) n fun L => (wrap (32 * n) (res L), false)
  have hclass : checkClass d.isVec [x, y] = .ok () := checkClass_ok (hform.imp_right fun hf => by simpa using hf)
  have htypes : e.types ETy.isWide = .ok n := ht
  refine ⟨w', h.goOn (f := _) ?_, hwrote⟩
  have hcarry : ∀ L, (bitOf (e.w.pred 15).toNat L) = predBit e.w 15 L := fun L => bitOf_toNat _ L
  simp only [htypes, hd, hs, hclass, Env.checkPoison_ok hclean, hcarry, bind, Except.bind, List.map_cons, List.map_nil, nth, hres,
    List.flatMap_map, truncInt_eq_wrap, marked_carryLanes, lanes_of_marked, set_lanes_of_marked]
  rw [hwrite, State.wave?_setWave s e.ref e.w w' h.wave]
  dsimp only
  rw [State.setWave_setWave]

/-- Settles O3: positions send their carries to the lanes of p15 that R339 names, each lane's from one position. -/
theorem carryResults : Obligations.CarryResults := by
  unfold Obligations.CarryResults
  intro i op dst a b hi s e n d x y ls h ht hd hs hform hclean res pos
  have hpos (L : Nat) : pos L = carryPos e d L := rfl
  have key : ∃ f, exec i s = carryOp op dst a b f s ∧ ∀ L, f (e.read n L x).1 (e.read n L y).1 (predBit e.w 15 L).toNat = res L := by
    unfold carryEntry at hi
    split at hi <;> cases hi
    case h_1 => exact ⟨fun x y c => x + y + c, rfl, fun _ => rfl⟩
    case h_2 => exact ⟨fun x y c => x - y - c, rfl, fun _ => rfl⟩
  obtain ⟨f, hex, hres⟩ := key
  obtain ⟨w', hleaves, hwrote⟩ := carryOp_eq h ht hd hs hform hclean hres
  refine ⟨w', _, _, hex.trans hleaves, hwrote, fun L hL => ⟨?_, fun hu => ?_⟩⟩
  · simp only [getLsbD_laneMask _ hL, mem_flatMap_carryLanes fun _ h => h, hpos]
  · rw [hpos] at hu
    simp only [getLsbD_laneMask _ hL, mem_flatMap_carryLanes fun _ h => (List.mem_filter.mp h).1, List.mem_filter, hu, true_and, hpos]
    rw [Bool.decide_eq_true, carry_out_of_range]

end Sys2Proof.Claims
end

section
/-! SUPPORT. Comparisons (R343, R348): predicates written one after another, and what each lane of them receives. -/

namespace Sys2Proof.Claims

open Sys2Proof.Machine

/-! ### Predicates written one after another -/

theorem onlyPreds_setPred (w : Wave) (q : Nat) (m v : Word) : onlyPreds w (w.setPred q m v) := by
  unfold onlyPreds Wave.setPred
  split <;> rfl

theorem onlyPreds.trans {w w1 w2 : Wave} (h1 : onlyPreds w w1) (h2 : onlyPreds w1 w2) : onlyPreds w w2 := by
  have h := congrArg (fun v : Wave => { v with preds := w.preds }) h2
  exact h.trans h1

theorem setPred_orSticky (w : Wave) (p q : Nat) (m v : Word) (f : Flags) :
    (w.orSticky p f).setPred q m v = (w.setPred q m v).orSticky p f := by
  unfold Wave.setPred
  split <;> rfl

/-- A predicate's bit after a write: the value's in the lanes of the mask, p0 apart (R123). -/
theorem predBit_setPred (w : Wave) (p q : Nat) (m v : Word) {L : Nat} (hL : L < 32) :
    predBit (w.setPred p m v) q L = if q ≠ 0 ∧ q = p ∧ m.getLsbD L = true then v.getLsbD L else predBit w q L := by
  unfold predBit
  rw [Wave.pred_setPred]
  by_cases hq : q = p ∧ p ≠ 0
  · obtain ⟨rfl, h0⟩ := hq
    rw [if_pos ⟨rfl, h0⟩]
    rw [BitVec.getLsbD_or, BitVec.getLsbD_and, BitVec.getLsbD_and, BitVec.getLsbD_not, decide_eq_true hL]
    cases m.getLsbD L <;> simp [h0]
  · have hn : ¬(q ≠ 0 ∧ q = p ∧ m.getLsbD L = true) := fun ⟨h0, hqp, _⟩ => hq ⟨hqp, hqp ▸ h0⟩
    rw [if_neg hq, if_neg hn]

/-- The wave after predicates `b`, `b + 1`, … have been written, `k` of them. -/
def writePreds (w : Wave) (b k : Nat) (m v : Nat → Word) : Wave := (upto k).foldl (fun w i => w.setPred (b + i) (m i) (v i)) w

theorem writePreds_succ (w : Wave) (b k : Nat) (m v : Nat → Word) :
    writePreds w b (k + 1) m v = (writePreds w b k m v).setPred (b + k) (m k) (v k) := by
  rw [writePreds, upto, List.range_succ, List.foldl_append]
  rfl

theorem onlyPreds_writePreds (w : Wave) (b : Nat) (m v : Nat → Word) : ∀ k, onlyPreds w (writePreds w b k m v)
  | 0 => rfl
  | k + 1 => writePreds_succ w b k m v ▸ (onlyPreds_writePreds w b m v k).trans (onlyPreds_setPred _ _ _ _)

theorem writePreds_orSticky (w : Wave) (p b : Nat) (m v : Nat → Word) (f : Flags) :
    ∀ k, writePreds (w.orSticky p f) b k m v = (writePreds w b k m v).orSticky p f
  | 0 => rfl
  | k + 1 => by rw [writePreds_succ, writePreds_succ, writePreds_orSticky w p b m v f k, setPred_orSticky]

theorem predBit_writePreds (w : Wave) (b q : Nat) (m v : Nat → Word) {L : Nat} (hL : L < 32) : ∀ k,
    predBit (writePreds w b k m v) q L
      = if q ≠ 0 ∧ b ≤ q ∧ q - b < k ∧ (m (q - b)).getLsbD L = true then (v (q - b)).getLsbD L else predBit w q L
  | 0 => by rw [if_neg fun h => Nat.not_lt_zero _ h.2.2.1]; rfl
  | k + 1 => by
    rw [writePreds_succ, predBit_setPred _ _ _ _ _ hL, predBit_writePreds w b q m v hL k]
    by_cases hq : q = b + k
    · have hk : q - b = k := by omega
      by_cases hw : q ≠ 0 ∧ (m k).getLsbD L = true
      · rw [if_pos ⟨hw.1, hq, hw.2⟩, hk, if_pos ⟨hw.1, by omega, by omega, hw.2⟩]
      · rw [if_neg fun h => hw ⟨h.1, h.2.2⟩, hk, if_neg fun h => Nat.lt_irrefl k h.2.2.1, if_neg fun h => hw ⟨h.1, h.2.2.2⟩]
    · rw [if_neg fun h => hq h.2.1]
      have hk : (q ≠ 0 ∧ b ≤ q ∧ q - b < k + 1 ∧ (m (q - b)).getLsbD L = true)
          = (q ≠ 0 ∧ b ≤ q ∧ q - b < k ∧ (m (q - b)).getLsbD L = true) :=
        propext ⟨fun ⟨h0, hb, hl, hm⟩ => ⟨h0, hb, by omega, hm⟩, fun ⟨h0, hb, hl, hm⟩ => ⟨h0, hb, by omega, hm⟩⟩
      simp only [hk]

/-! ### Comparisons (R343, R348) -/

/-- The results of the comparisons of the active lanes, lane by lane. -/
def comparisons (us : Nats) (cnt : Nat → Nat) (res : Nat → Nat → Bool × Flags) : List (Nat × List (Bool × Flags)) :=
  us.map fun L => (L, (upto (cnt L)).map (res L))

/-- The lanes that have an element `i`. -/
def comparedMask (rs : List (Nat × List (Bool × Flags))) (i : Nat) : Word :=
  laneMask ((rs.filter fun r => decide (i < r.2.length)).map (·.1))

/-- The lanes whose comparison of element `i` holds. -/
def holdsMask (rs : List (Nat × List (Bool × Flags))) (i : Nat) : Word :=
  laneMask (((rs.filter fun r => decide (i < r.2.length)).filter fun r => (nth (false, 0) r.2 i).1).map (·.1))

section
variable {us : Nats} {cnt : Nat → Nat} {res : Nat → Nat → Bool × Flags} {i L : Nat}

theorem getLsbD_comparedMask (hL : L < 32) :
    (comparedMask (comparisons us cnt res) i).getLsbD L = true ↔ L ∈ us ∧ i < cnt L := by
  simp only [comparedMask, getLsbD_laneMask _ hL, decide_eq_true_eq, comparisons, List.mem_map, List.mem_filter]
  constructor
  · rintro ⟨_, ⟨⟨K, hK, rfl⟩, hi⟩, rfl⟩
    exact ⟨hK, by simpa [upto] using hi⟩
  · rintro ⟨hL, hi⟩
    exact ⟨_, ⟨⟨L, hL, rfl⟩, by simpa [upto] using hi⟩, rfl⟩

theorem getLsbD_holdsMask (hL : L < 32) (hu : L ∈ us) (hi : i < cnt L) :
    (holdsMask (comparisons us cnt res) i).getLsbD L = (res L i).1 := by
  rw [Bool.eq_iff_iff]
  simp only [holdsMask, getLsbD_laneMask _ hL, decide_eq_true_eq, comparisons, List.mem_map, List.mem_filter]
  constructor
  · rintro ⟨_, ⟨⟨⟨K, hK, rfl⟩, hi⟩, hr⟩, rfl⟩
    have hlt : i < cnt K := by simpa [upto] using hi
    rwa [upto, nth_map_range, if_pos hlt] at hr
  · intro hr
    refine ⟨_, ⟨⟨⟨L, hu, rfl⟩, by simpa [upto] using hi⟩, ?_⟩, rfl⟩
    rwa [upto, nth_map_range, if_pos hi]

end

theorem comparisons_flags (us : Nats) (cnt : Nat → Nat) (res : Nat → Nat → Bool × Flags) :
    orFlags ((comparisons us cnt res).flatMap fun r => r.2.map (·.2))
      = orFlags (us.map fun L => orFlags ((List.range (cnt L)).map fun j => (res L j).2)) := by
  simp only [comparisons, orFlags_flatMap, List.map_map, Function.comp_def, upto]

theorem le_foldl_max : ∀ (l : Nats) (a : Nat), a ≤ l.foldl max a ∧ ∀ x ∈ l, x ≤ l.foldl max a
  | [], a => ⟨Nat.le_refl a, fun _ h => absurd h List.not_mem_nil⟩
  | y :: t, a => by
    obtain ⟨h1, h2⟩ := le_foldl_max t (max a y)
    refine ⟨Nat.le_trans (Nat.le_max_left a y) h1, fun x hx => ?_⟩
    rcases List.mem_cons.mp hx with rfl | hx
    · exact Nat.le_trans (Nat.le_max_right a x) h1
    · exact h2 x hx

/-- ICMP compares the integers of its elements, and raises no flag. -/
theorem icmp_eq (cond : Nat) (p : PredF) (a b : Opd) {t : ETy} (m : BitVec 24) {x y : Nat} (hx : x < 2 ^ t.width) (hy : y < 2 ^ t.width)
    (c : Nat) : (intCond c (t.int x) (t.int y), 0) = compareRule (.icmp cond p a b) t m c x y := by
  rw [int_eq_value hx, int_eq_value hy]
  match c with
  | 0 => rfl
  | 1 => exact congrArg (·, 0) decide_not.symm
  | 2 => rfl
  | 3 => rfl
  | 4 => rfl
  | _ + 5 => rfl

/-- A comparison leaves its wave with the predicates of its elements written and its flags raised. -/
theorem cmpOp_leaves {i : Instr} {s : State} {e : Env} {op lim c n k : Nat} {acc : ETy → Bool} {p : PredF} {a b : Opd} {x y : Src}
    {ls : List Word} {g : ETy → BitVec 24 → Nat → Nat → Nat → Bool × Flags} {res : Nat → Nat → Bool × Flags}
    {rs : List (Nat × List (Bool × Flags))} (hrs : rs = comparisons e.lanes (fun L => (e.ety (L / 4)).count) res)
    (h : Issuing s e op) (hi : exec i s = cmpOp op acc lim c p a b g s) (ht : e.types acc = .ok n) (hc : c < lim) (hneg : p.neg = false)
    (hs : e.srcs [(a, n), (b, n)] e.lits = .ok ([x, y], ls)) (hk : k = (e.pathSlices.map fun j => (e.ety j).count).foldl max 1)
    (hroom : p.idx + k ≤ 16) (hcaster : e.caster = true → k = 1) (hclean : Clean e e.lanes [(x, n), (y, n)])
    (hres : ∀ L j, g (e.ety (L / 4)) (e.mode (L / 4)) c (elemOf (e.ety (L / 4)).width (e.read n L x).1 j)
      (elemOf (e.ety (L / 4)).width (e.read n L y).1 j) = res L j) :
    Leaves i s e op (e.used ls)
      ((writePreds e.w p.idx k (comparedMask rs) (holdsMask rs)).orSticky e.p (orFlags (rs.flatMap fun r => r.2.map (·.2)))) := by
  refine hi.trans (h.goOn (f := _) ?_)
  have hlim : ¬ lim ≤ c := Nat.not_le.mpr hc
  have hfits : ¬(16 ≤ p.idx + k - 1 ∨ e.caster = true ∧ k ≠ 1) := by
    rintro (hbig | ⟨hc, h1⟩)
    · omega
    · exact h1 (hcaster hc)
  have hcompared : (e.lanes.map fun L => (L, (upto (e.ety (L / 4)).count).map fun j => res L j)) = rs := hrs.symm
  simp only [ht, hs, hneg, Env.checkPoison_ok hclean, ← hk, if_neg hlim, if_neg hfits, bind, Except.bind, List.map_cons, List.map_nil, nth,
    hres, hcompared]
  rw [if_neg Bool.false_ne_true, State.write_eq _ h.wave, State.wave?_setWave s e.ref e.w _ h.wave]
  dsimp only
  rw [State.setWave_setWave, ← writePreds_orSticky]
  rfl

theorem compareResults : CompareResults := by
  unfold CompareResults
  intro i op acc lim c p a b hi s e n x y ls k h ht hc hneg hs hk hroom hcaster hclean res
  have key : ∃ g, exec i s = cmpOp op acc lim c p a b g s ∧ ∀ L j, g (e.ety (L / 4)) (e.mode (L / 4)) c
      (elemOf (e.ety (L / 4)).width (e.read n L x).1 j) (elemOf (e.ety (L / 4)).width (e.read n L y).1 j) = res L j := by
    unfold compareEntry at hi
    split at hi <;> cases hi
    case h_1 =>
      exact ⟨fun t _ c x y => (intCond c (t.int x) (t.int y), 0), rfl,
        fun L j => icmp_eq c p a b (e.mode (L / 4)) (elemOf_lt _ _ _) (elemOf_lt _ _ _) c⟩
    case h_2 => exact ⟨compareRule (.fcmp c p a b), rfl, fun L j => rfl⟩
  obtain ⟨g, hex, hres⟩ := key
  have hleaves := cmpOp_leaves rfl h hex ht hc hneg hs hk hroom hcaster hclean hres
  generalize hrs : comparisons e.lanes (fun L => (e.ety (L / 4)).count) res = rs at hleaves
  refine ⟨writePreds e.w p.idx k (comparedMask rs) (holdsMask rs), ?_, onlyPreds_writePreds _ _ _ _ k, fun q L hq hL => ?_⟩
  · rw [← comparisons_flags e.lanes (fun L => (e.ety (L / 4)).count), hrs]
    exact hleaves
  · have hin : L ∈ e.lanes → (e.ety (L / 4)).count ≤ k := fun hu => by
      rw [hk]
      exact (le_foldl_max _ 1).2 _ (List.mem_map_of_mem (Wave.slice_of_activeLanes (mem_lanesOf.mp hu)))
    rw [predBit_writePreds _ _ _ _ _ hL, ← hrs]
    by_cases hw : q ≠ 0 ∧ L ∈ e.lanes ∧ p.idx ≤ q ∧ q - p.idx < (e.ety (L / 4)).count
    · obtain ⟨h0, hu, hb, hlt⟩ := hw
      rw [if_pos ⟨h0, hb, Nat.lt_of_lt_of_le hlt (hin hu), (getLsbD_comparedMask hL).mpr ⟨hu, hlt⟩⟩, if_pos ⟨h0, hu, hb, hlt⟩,
        getLsbD_holdsMask hL hu hlt]
    · rw [if_neg hw, if_neg fun ⟨h0, hb, _, hm⟩ => hw ⟨h0, ((getLsbD_comparedMask hL).mp hm).1, hb, ((getLsbD_comparedMask hL).mp hm).2⟩]

end Sys2Proof.Claims
end

section
/-! SUPPORT. Moves and predicate operations (R257, R337, R341, R344): the chosen source with its poison, and PLOP's bits. -/

namespace Sys2Proof.Claims

open Sys2Proof.Machine

/-! ### Predicate operations (R344) -/

theorem getLsbD_predF (w : Wave) (p : PredF) {L : Nat} (hL : L < 32) : (w.predF p).getLsbD L = predFBit w p L := by
  unfold Wave.predF predFBit predBit
  cases p.neg <;> simp [hL]

theorem bitOf_predF (w : Wave) (p : PredF) {L : Nat} (hL : L < 32) : bitOf (w.predF p).toNat L = predFBit w p L :=
  (bitOf_toNat _ L).trans (getLsbD_predF w p hL)

/-- What PLOP forms of two predicates. -/
def plopWord (o : Nat) (x y : Word) : Word :=
  match o with
  | 0 => x &&& y
  | 1 => x ||| y
  | 2 => x ^^^ y
  | _ => x

/-- What PLOP forms of two bits. -/
def plopBit (o : Nat) (a b : Bool) : Bool :=
  match o with
  | 0 => a && b
  | 1 => a || b
  | 2 => Bool.xor a b
  | _ => a

theorem getLsbD_plopWord (x y : Word) (L : Nat) : ∀ o, (plopWord o x y).getLsbD L = plopBit o (x.getLsbD L) (y.getLsbD L)
  | 0 => BitVec.getLsbD_and
  | 1 => BitVec.getLsbD_or
  | 2 => BitVec.getLsbD_xor
  | _ + 3 => rfl

theorem plop_leaves {s : State} {e : Env} {o : Nat} {d q r : PredF} (h : Issuing s e 0x3D) (ho : o < 4) (hcopy : o = 3 → r.code = 0)
    (hneg : d.neg = false) (hq : q.rest = 0) (hr : r.rest = 0) :
    Leaves (.plop o d q r) s e 0x3D 0 (e.w.setPred d.idx e.active (plopWord o (e.w.predF q) (e.w.predF r))) := by
  refine h.goOn (f := _) ?_
  have hfield : ¬(4 ≤ o ∨ o = 3 ∧ r.code ≠ 0) := by
    rintro (hbig | ⟨h3, hc⟩)
    · omega
    · exact hc (hcopy h3)
  simp only [if_neg hfield, hneg, if_neg Bool.false_ne_true, checkPred_ok hq, checkPred_ok hr, bind, Except.bind, h.wave]
  rfl

/-! ### Moves (R257, R337, R341, R344) -/

theorem flatMap_filter_of {α β : Type} {g f : α → List β} {p : α → Bool} : ∀ {l : List α},
    (∀ x ∈ l, g x = if p x then f x else []) → l.flatMap g = (l.filter p).flatMap f
  | [], _ => rfl
  | x :: t, h => by
    have ih := flatMap_filter_of (l := t) fun y hy => h y (List.mem_cons_of_mem _ hy)
    rw [List.flatMap_cons, h x List.mem_cons_self, ih, List.filter_cons]
    cases p x <;> simp

/-- A move writes, in the positions of `p`, the sources that it chooses, with their poison. -/
theorem moveOp_completes {i : Instr} {s : State} {e : Env} {op n lits : Nat} {d : Dst} {xs : List Src} {f : Nat → Option Nat}
    {p : Nat → Bool} {c : Nat → Nat} {F : Env → Except Flt Out} (h : Issuing s e op) (hi : exec i s = issue op s F)
    (hF : F e = moveOp e s n d xs lits f) (hform : d.isVec = true ∨ ∀ x ∈ xs, x.isVec = false)
    (hf : ∀ L ∈ e.units d.isVec, f L = if p L then some (c L) else none) :
    CompletesAt i s e op lits d n ((e.units d.isVec).filter p) (fun L => e.read n L (nth (.imm 0) xs (c L))) 0 := by
  obtain ⟨w', hwrite, hwrote⟩ := State.write_units h.wave (us := (e.units d.isVec).filter p) (fun _ hL => (List.mem_filter.mp hL).1) n
    fun L => e.read n L (nth (.imm 0) xs (c L))
  refine ⟨w', ?_, hwrote⟩
  rw [Wave.orSticky_zero]
  refine hi.trans (h.goOn (hF.trans ?_))
  rw [← hwrite, moveOp, checkClass_ok hform]
  refine congrArg (fun ws => Machine.goOn (s.write e ws) lits) (flatMap_filter_of fun L hL => ?_)
  rw [hf L hL]
  cases p L <;> rfl

theorem nth_of_drop {α : Type} {z x : α} : ∀ {l t : List α} {k : Nat}, l.drop k = x :: t → nth z l k = x
  | [], _, k, h => by simp at h
  | _ :: _, _, 0, h => by cases h; rfl
  | _ :: l, _, k + 1, h => nth_of_drop (l := l) (by simpa using h)

/-- Two sources leave the word behind their literals first. -/
theorem nth_after_srcs {e : Env} {a b : Opd} {n : Nat} {xs : List Src} {q : Word} {ls : List Word}
    (h : e.srcs [(a, n), (b, n)] e.lits = .ok (xs, q :: ls)) : nth 0 e.lits (litsOf a n + litsOf b n) = q := by
  obtain ⟨x, _, l, hx, hrest, -⟩ := Env.srcs_cons h
  obtain ⟨y, _, l', hy, hnil, -⟩ := Env.srcs_cons hrest
  cases hnil
  refine nth_of_drop (t := ls) ?_
  rw [← List.drop_drop, ← Env.src_left hx, ← Env.src_left hy]

theorem moveResults : MoveResults := by
  unfold MoveResults
  intro s e
  refine ⟨fun o d q r h ho hcopy hneg hd hq hr _ _ => ?_, fun n d ht => ⟨?_, ?_, ?_⟩⟩
  · refine ⟨_, plop_leaves h ho hcopy hneg hq hr, onlyPreds_setPred _ _ _ _, fun k L hk hL => ?_⟩
    simp only [predBit_setPred _ _ _ _ _ hL, mem_lanesOf, Env.lanes]
    split
    · rw [getLsbD_plopWord, getLsbD_predF e.w q hL, getLsbD_predF e.w r hL]
      rfl
    · rfl
  · intro dst a x ls h hd hx hform
    have key := moveOp_completes (i := .mov dst a) (p := fun _ => true) (c := fun _ => 0) (xs := [x]) (lits := e.used ls) (d := d) (n := n)
      h rfl (by simp only [ht, hd, hx, bind, Except.bind]; rfl) (by simpa using hform) fun _ _ => rfl
    rwa [List.filter_eq_self.mpr fun _ _ => rfl] at key
  · intro dst a b x y q ls h hd hs hq hform
    have hzero : ¬ q.toNat / 32 ≠ 0 := by omega
    have key := moveOp_completes (i := .sel dst a b) (p := fun _ => true) (xs := [x, y]) (lits := e.used ls) (d := d) (n := n)
      (c := fun L => if predFBit e.w (PredF.ofCode q.toNat) L then 0 else 1) h rfl
      (by simp only [ht, hd, hs, nth_after_srcs hs, if_neg hzero, Nat.mod_eq_of_lt hq, bind, Except.bind]; rfl)
      (by simpa using hform) fun L hL => by rw [bitOf_predF e.w _ (Env.units_lt hL).1]; rfl
    rw [List.filter_eq_self.mpr fun _ _ => rfl] at key
    obtain ⟨w', hleaves, hwrote⟩ := key
    refine ⟨w', hleaves, hwrote.congr fun L _ => ?_⟩
    split <;> rfl
  · intro dst a p x ls h hd hx hp hform
    exact moveOp_completes (c := fun _ => 0) (xs := [x]) h rfl
      (by simp only [ht, hd, hx, checkPred_ok hp, bind, Except.bind]; rfl) (by simpa using hform) fun _ hL => by
        rw [bitOf_predF e.w p (Env.units_lt hL).1]

/-- Settles O4, the comparisons and the moves. -/
theorem compareAndMoveResults : Obligations.CompareAndMoveResults := ⟨compareResults, moveResults⟩

end Sys2Proof.Claims
end

section
/-! SUPPORT. Instructions that write results where they choose: the writes of each position, then the flags of all of them; and the
checks of their operands, passed. -/

namespace Sys2Proof.Machine

theorem Dst.isVec_src (d : Dst) : d.src.isVec = d.isVec := by cases d <;> rfl

/-- The positions of a vector destination are the active lanes (R288). -/
theorem Env.units_of_isVec {e : Env} {d : Dst} (hd : d.isVec = true) : e.units d.isVec = e.lanes := by rw [hd]; rfl

theorem Env.vecDst_ok {e : Env} {o : Opd} {n : Nat} {d : Dst} (h : e.dst o n = .ok d) (hd : d.isVec = true) :
    e.vecDst o n = .ok d := by
  simp only [Env.vecDst, h, bind, Except.bind, hd, if_true]

/-- Two source fields, resolved one after the other (R290). -/
theorem Env.srcs_pair {e : Env} {a b : Opd} {na nb : Nat} {ls ls' : List Word} {x y : Src}
    (h : e.srcs [(a, na), (b, nb)] ls = .ok ([x, y], ls')) : ∃ l, e.src a na ls = .ok (x, l) ∧ e.src b nb l = .ok (y, ls') := by
  obtain ⟨_, _, l, hx, hrest, heq⟩ := Env.srcs_cons h
  cases heq
  obtain ⟨_, _, _, hy, hnil, heq⟩ := Env.srcs_cons hrest
  cases heq
  cases hnil
  exact ⟨l, hx, hy⟩

/-- A check that passes leaves what follows it. -/
theorem bind_of_ok {α β : Type} {x : Except Flt α} {a : α} (h : x = .ok a) (f : α → Except Flt β) : (x >>= f) = f a := by
  rw [h]
  rfl

theorem find?_of_all_false {us : Nats} {p : Nat → Bool} (h : ∀ L ∈ us, p L = false) : us.find? p = none :=
  List.find?_eq_none.mpr fun L hL => Bool.eq_false_iff.mp (h L hL)

theorem Env.checkPoisonAt_ok {e : Env} {us : Nats} {srcs : Nat → List (Src × Nat)}
    (h : ∀ L ∈ us, ∀ x ∈ srcs L, (e.read x.2 L x.1).2 = false) : e.checkPoisonAt us srcs = .ok () := by
  have hnone : us.find? (fun L => (srcs L).any fun x => (e.read x.2 L x.1).2) = none :=
    find?_of_all_false fun L hL => List.any_eq_false.mpr fun x hx => Bool.eq_false_iff.mp (h L hL x hx)
  rw [Env.checkPoisonAt, hnone]

end Sys2Proof.Machine

namespace Sys2Proof.Claims

open Sys2Proof.Machine

/-- The writes of results `r L` at positions `us`, and of the flags that they raise. -/
def resultWrites (d : Dst) (n : Nat) (us : Nats) (r : Nat → Nat × Flags) : List RegWrite :=
  let rs := us.map fun L => (L, r L)
  rs.flatMap (fun x => d.writes n x.1 x.2.1 false) ++ [.sticky (orFlags (rs.map (·.2.2)))]

section
variable {i : Instr} {s : State} {e : Env} {op lits n : Nat} {d : Dst} {us : Nats} {F : Env → Except Flt Out}

/-- An instruction whose effect is the writes of its results and of their flags. -/
theorem results_complete {r : Nat → Nat × Flags} (h : Issuing s e op) (hi : exec i s = issue op s F)
    (hu : ∀ L ∈ us, L ∈ e.units d.isVec) (hF : F e = goOn (s.write e (resultWrites d n us r)) lits) :
    CompletesAt i s e op lits d n us (fun L => ((r L).1, false)) (orFlags (us.map fun L => (r L).2)) := by
  refine ⟨_, hi.trans (h.goOn (hF.trans ?_)),
    Wave.deliver_writes e.w e.p d n us (fun L => ((r L).1, false)) fun L hL => Env.units_lt (hu L hL)⟩
  rw [State.write_eq _ h.wave, resultWrites, Wave.deliver_append, List.flatMap_map, List.map_map]
  rfl

/-- An instruction that writes values with their poison and raises no flag. -/
theorem values_complete {v : Nat → Nat × Bool} (h : Issuing s e op) (hi : exec i s = issue op s F)
    (hu : ∀ L ∈ us, L ∈ e.units d.isVec)
    (hF : F e = goOn (s.write e (us.flatMap fun L => d.writes n L (v L).1 (v L).2)) lits) :
    CompletesAt i s e op lits d n us v 0 := by
  obtain ⟨w', hwrite, hwrote⟩ := State.write_units h.wave hu n v
  refine ⟨w', ?_, hwrote⟩
  rw [Wave.orSticky_zero]
  exact hi.trans (h.goOn (hF.trans (hwrite ▸ rfl)))

/-- An instruction that runs `g` in every position of its destination, and has no class of its own. -/
theorem run_completes {xs : List (Src × Nat)} {g : Nat → List Nat → Nat × Flags} (h : Issuing s e op) (hi : exec i s = issue op s F)
    (hF : F e = e.run s d n xs lits none g) (hform : d.isVec = true ∨ ∀ x ∈ xs, x.1.isVec = false)
    (hclean : Clean e (e.units d.isVec) xs) :
    CompletesAt i s e op lits d n (e.units d.isVec) (fun L => ((g L (xs.map fun x => (e.read x.2 L x.1).1)).1, false))
      (orFlags ((e.units d.isVec).map fun L => (g L (xs.map fun x => (e.read x.2 L x.1).1)).2)) := by
  obtain ⟨w', hex, hwrote⟩ := h.run hF (fun _ hcls => nomatch hcls) hform hclean
  exact ⟨w', hi.trans hex, hwrote⟩

/-- The values matter at the positions written, and nowhere else. -/
theorem CompletesAt.congr {v v' : Nat → Nat × Bool} {fl : Flags} (h : CompletesAt i s e op lits d n us v fl)
    (hv : ∀ L ∈ us, v L = v' L) : CompletesAt i s e op lits d n us v' fl := by
  obtain ⟨w', hleaves, hwrote⟩ := h
  exact ⟨w', hleaves, hwrote.congr hv⟩

end

end Sys2Proof.Claims
end

section
/-! SUPPORT. Reductions and scans (R372, R373): the lanes that enter a result, and what their integers reduce to. -/

namespace Sys2Proof.Claims

open Sys2Proof.Machine

/-- An element's value lies in its type's range (R338). -/
theorem value_in_range {t : ETy} {x : Nat} (hx : x < 2 ^ t.width) : (range t).1 ≤ value t x ∧ value t x ≤ (range t).2 := by
  have hpow : 2 ^ t.width = 2 * 2 ^ (t.width - 1) := by rw [← Nat.pow_succ', Nat.succ_eq_add_one, Nat.sub_add_cancel t.width_pos]
  have hx' : (x : Int) < 2 ^ t.width := by exact_mod_cast hx
  have hpow' : (2 : Int) ^ t.width = 2 * 2 ^ (t.width - 1) := by exact_mod_cast hpow
  have htop : 2 ^ (t.width - 1) ≤ x ↔ (2 : Int) ^ (t.width - 1) ≤ x := by
    rw [← Int.ofNat_le, Int.natCast_pow]
    exact Iff.rfl
  unfold value range
  by_cases hs : t.intSigned = some true
  · simp only [hs, htop, true_and, if_true]
    split <;> omega
  · simp only [hs, false_and, if_false]
    omega

/-- The ends of the range, as the model clamps to them (R334). -/
theorem satInt_eq_range (t : ETy) : satInt t.width (t.intSigned == some true) (-1) = (range t).1
    ∧ satInt t.width (t.intSigned == some true) 1 = (range t).2 := by
  unfold satInt range
  by_cases hs : t.intSigned = some true <;> simp [hs]

/-- An integer reduction starts from the first value, or from the end of the range that is its identity. -/
theorem reduceInt_eq_intReduction {t : ETy} (m : BitVec 24) {vs : Nats} (hvs : ∀ v ∈ vs, v < 2 ^ t.width) {k : Nat} (hk : k < 6) :
    reduceInt t m k vs = intReduction t (modeSAT m) k vs := by
  have hint : vs.map t.int = vs.map (value t) := List.map_congr_left fun v hv => int_eq_value (hvs v hv)
  obtain ⟨hlo, hhi⟩ := satInt_eq_range t
  unfold reduceInt intReduction
  rw [hint]
  match k, vs with
  | 0, _ => exact fitT_eq_fitted t m _
  | 1, [] => simp only [List.map_nil, hhi, truncInt_eq_wrap, List.foldl_nil]
  | 1, v :: l =>
    have hv := (value_in_range (hvs v List.mem_cons_self)).2
    simp only [List.map_cons, List.foldl_cons, truncInt_eq_wrap, Int.min_eq_right hv]
  | 2, [] => simp only [List.map_nil, hlo, truncInt_eq_wrap, List.foldl_nil]
  | 2, v :: l =>
    have hv := (value_in_range (hvs v List.mem_cons_self)).1
    simp only [List.map_cons, List.foldl_cons, truncInt_eq_wrap, Int.max_eq_right hv]
  | 3, _ => rfl
  | 4, _ => rfl
  | 5, _ => rfl
  | k + 6, _ => omega

/-- The lanes of `L`'s segment that enter its result. -/
def entering (e : Env) (enters : Nat → Nat → Bool) (L : Nat) : Nats :=
  e.lanes.filter fun j => j / 2 ^ e.w.partn == L / 2 ^ e.w.partn && enters L j

theorem filter_mates (e : Env) (enters : Nat → Nat → Bool) (L : Nat) : (e.mates L).filter (enters L) = entering e enters L := by
  rw [Env.mates, List.filter_filter, entering]
  exact List.filter_congr fun j _ => Bool.and_comm _ _

/-- Each reduction is `reduceOp` over the lanes that enter (R372, R373). -/
theorem exec_of_reduceEntry {i : Instr} {op k : Nat} {acc : ETy → Bool} {ops : ETy → Nat} {dst a : Opd} {enters : Nat → Nat → Bool}
    (hi : reduceEntry i = some (op, acc, ops, dst, a, k, enters)) (s : State) :
    exec i s = reduceOp op acc ops dst a k (fun e => entering e enters) s := by
  have hmates : Env.mates = fun e => entering e fun _ _ => true :=
    funext fun e => funext fun L => (List.filter_eq_self.mpr fun _ _ => rfl).symm.trans (filter_mates e (fun _ _ => true) L)
  unfold reduceEntry at hi
  split at hi <;> cases hi
  case h_1 =>
    change execRedi dst a k s = _
    rw [execRedi, hmates]
  case h_2 =>
    change execRedf dst a k s = _
    rw [execRedf, hmates]
  case h_3 excl =>
    change execScan dst a excl k s = _
    rw [execScan]
    exact congrArg (reduceOp 0x78 _ _ dst a k · s) (funext fun e => funext (filter_mates e _))

theorem ops_le_six {i : Instr} {op k : Nat} {acc : ETy → Bool} {ops : ETy → Nat} {dst a : Opd} {enters : Nat → Nat → Bool}
    (hi : reduceEntry i = some (op, acc, ops, dst, a, k, enters)) (t : ETy) : ops t ≤ 6 := by
  unfold reduceEntry at hi
  split at hi <;> cases hi
  case h_1 => exact Nat.le_refl 6
  case h_2 => exact (by decide : 3 ≤ 6)
  case h_3 => dsimp only; split <;> decide

/-- Settles O10: every reduction folds the elements of the lanes that enter, and a fold of integers that starts from the first of them
is one that starts from the identity of R373. -/
theorem reductionResults : Obligations.ReductionResults := by
  unfold Obligations.ReductionResults
  intro i op acc ops dst a k enters hi s e d x ls h hacc hk hd hvec hx hclean t m n group res
  have hk6 : k < 6 := Nat.lt_of_lt_of_le hk (ops_le_six hi t)
  have helem (L q : Nat) : ∀ v ∈ group L q, v < 2 ^ t.width := fun v hv => by
    obtain ⟨j, -, rfl⟩ := List.mem_map.mp hv
    exact elemOf_lt _ _ _
  have hred (L q : Nat) : reduceAt t m k L q (group L q) =
      if t.isInt then intReduction t (modeSAT m) k (group L q)
      else reduceFlt t m (Rnd.ofCode (modeRM m) (modeDR m) ((L * t.count + q) % 8)) k (group L q) := by
    rw [reduceAt, reduceInt_eq_intReduction m (helem L q) hk6]
    rfl
  have key := results_complete (i := i) (d := d) (n := n) (us := e.lanes) (lits := e.used ls)
    (r := fun L => eachElem t t.width fun q => reduceAt t m k L q (group L q)) h ((exec_of_reduceEntry hi s).trans rfl)
    (fun L hL => (Env.units_of_isVec hvec).symm ▸ hL)
    (by
      simp only [Env.lowType, hacc, if_true, bind, Except.bind, if_neg (Nat.not_le.mpr hk), Env.vecDst_ok hd hvec, hx,
        Env.checkPoison_ok hclean]
      rfl)
  simp only [hred] at key
  exact key

end Sys2Proof.Claims
end

section
/-! SUPPORT. What lanes give one another, and what they vote (R131, R133, R138, R368–R371). -/

namespace Sys2Proof.Claims

open Sys2Proof.Machine

/-! ### Moving lanes (R369) -/

/-- What lane `k` gives of source `x`: its value and poison, or 0 where it is not active. -/
def laneGives (e : Env) (n : Nat) (x : Src) (k : Nat) : Nat × Bool := if k ∈ e.lanes then e.read n k x else (0, false)

/-- A moving lane instruction writes in each lane what the lane it names gives, poisoned too where the index is. -/
theorem lanePick_completes {i : Instr} {s : State} {e : Env} {op n lits : Nat} {d : Dst} {x : Src} {j : Nat → Nat × Bool}
    {F : Env → Except Flt Out} (h : Issuing s e op) (hi : exec i s = issue op s F) (hvec : d.isVec = true)
    (hF : F e = lanePick e s d n x lits j) :
    CompletesAt i s e op lits d n e.lanes
      (fun L => ((laneGives e n x (j L).1).1, (laneGives e n x (j L).1).2 || (j L).2)) 0 := by
  refine values_complete h hi (fun L hL => (Env.units_of_isVec hvec).symm ▸ hL) (hF.trans ?_)
  refine congrArg (fun ws => goOn (s.write e ws) lits) (congrArg (e.lanes.flatMap ·) (funext fun L => ?_))
  unfold laneGives
  by_cases hk : (j L).1 ∈ e.lanes
  · simp [hk]
  · simp [hk]

theorem lowType_any (e : Env) : e.lowType (fun _ => true) = .ok (e.ety e.low) := if_pos rfl

/-- SHFL and SHFX: the index is a word of B. -/
theorem shuffleOp_completes {i : Instr} {s : State} {e : Env} {op : Nat} {dst a b : Opd} {d : Dst} {x y : Src} {ls : List Word}
    {f : Env → Nat → Nat → Nat} (h : Issuing s e op) (hi : exec i s = shuffleOp op dst a b f s)
    (hd : e.dst dst ((e.ety e.low).opWidth / 32) = .ok d) (hvec : d.isVec = true)
    (hs : e.srcs [(a, (e.ety e.low).opWidth / 32), (b, 1)] e.lits = .ok ([x, y], ls)) :
    CompletesAt i s e op (e.used ls) d ((e.ety e.low).opWidth / 32) e.lanes
      (fun L => ((laneGives e ((e.ety e.low).opWidth / 32) x (f e L (e.read 1 L y).1)).1,
        (laneGives e ((e.ety e.low).opWidth / 32) x (f e L (e.read 1 L y).1)).2 || (e.read 1 L y).2)) 0 := by
  obtain ⟨l, hx, hy⟩ := Env.srcs_pair hs
  rw [shuffleOp] at hi
  exact lanePick_completes (j := fun L => (f e L (e.read 1 L y).1, (e.read 1 L y).2)) h hi hvec
    (by simp only [lowType_any, Env.vecDst_ok hd hvec, hx, hy, bind, Except.bind])

theorem bcast_completes {s : State} {e : Env} {dst a : Opd} {d : Dst} {k : Nat} {x : Src} {ls : List Word} (h : Issuing s e 0x79)
    (hd : e.dst dst ((e.ety e.low).opWidth / 32) = .ok d) (hvec : d.isVec = true) (hk : k < e.seg)
    (hx : e.src a ((e.ety e.low).opWidth / 32) e.lits = .ok (x, ls)) :
    CompletesAt (.bcast dst a k) s e 0x79 (e.used ls) d ((e.ety e.low).opWidth / 32) e.lanes
      (fun L => laneGives e ((e.ety e.low).opWidth / 32) x (e.base L + k)) 0 := by
  refine (lanePick_completes (j := fun L => (e.base L + k, false)) h rfl hvec (by
    simp only [lowType_any, if_neg (Nat.not_le.mpr hk), Env.vecDst_ok hd hvec, hx, bind, Except.bind]
    rfl)).congr fun L _ => ?_
  rw [Bool.or_false]

/-! ### Neighbours (R133, R370) -/

/-- The value and poison of registers read. -/
def joined (vs : List RegVal) : Nat × Bool := (joinWords (vs.map (·.bits)), vs.any (·.poison))

/-- The place of lane `L` in the chain of its gang's lanes, and of its neighbour. -/
def neighbourPlace (e : Env) (next : Bool) (k L : Nat) : Int :=
  let pos : Int := ((e.group * e.waves + e.wave) * 32 + L : Nat)
  if next then pos + k else pos - k

/-- A neighbour in the same wave is there when it is active. -/
theorem neighbour_of_lane {s : State} {e : Env} (r n : Nat) {next : Bool} {k L M : Nat}
    (hin : e.group * e.waves + e.wave < e.groups * e.waves) (hM : M < 32) (hk : if next then L + k = M else M + k = L) :
    neighbour s e r n (neighbourPlace e next k L)
      = if M ∈ e.lanes then some ((upto n).map fun i => e.w.getV (r + i) M) else none := by
  have hpos : neighbourPlace e next k L = (((e.group * e.waves + e.wave) * 32 + M : Nat) : Int) := by
    unfold neighbourPlace
    cases next <;> simp only [if_true, Bool.false_eq_true, if_false] at hk ⊢ <;> omega
  have hdiv : ((e.group * e.waves + e.wave) * 32 + M) / 32 = e.group * e.waves + e.wave := by omega
  have hmod : ((e.group * e.waves + e.wave) * 32 + M) % 32 = M := by omega
  rw [neighbour, hpos, if_neg (by omega)]
  simp only [Int.toNat_natCast, hdiv, hmod, if_neg (Nat.not_le.mpr hin), if_true, List.contains_iff_mem]

/-- NBR writes where a neighbour is there to read. -/
theorem nbr_completes {s : State} {e : Env} {dst : Opd} {d : Dst} {r k : Nat} {next : Bool} (h : Issuing s e 0x72) {n : Nat}
    (hn : n = (e.ety e.low).opWidth / 32) (hd : e.dst dst n = .ok d) (hvec : d.isVec = true) (hr : r % n = 0)
    (hblocks : r + n ≤ 16 * e.blocks) (hk : k ≠ 0) :
    CompletesAt (.nbr dst (.v r) next k) s e 0x72 0 d n
      (e.lanes.filter fun L => (neighbour s e r n (neighbourPlace e next k L)).isSome)
      (fun L => joined ((neighbour s e r n (neighbourPlace e next k L)).getD [])) 0 := by
  subst hn
  refine values_complete h rfl (fun L hL => (Env.units_of_isVec hvec).symm ▸ (List.mem_filter.mp hL).1) ?_
  simp only [lowType_any, hk, hr, Env.vecDst_ok hd hvec, Env.vecReg, hblocks, bind, Except.bind, if_true, if_false, ne_eq, not_true]
  refine congrArg (fun ws => goOn (s.write e ws) 0) (flatMap_filter_of fun L _ => ?_)
  cases hv : neighbour s e r ((e.ety e.low).opWidth / 32) (neighbourPlace e next k L) with
  | none =>
    unfold neighbourPlace at hv
    simp only [hv]
    rfl
  | some vs =>
    unfold neighbourPlace at hv
    simp only [hv]
    rfl

theorem laneMoveResults : LaneMoveResults := by
  unfold LaneMoveResults
  intro s e dst a d hd hvec n seg from_
  refine ⟨?_, ?_, ?_⟩
  · intro b x y ls hs picked
    exact ⟨fun h => shuffleOp_completes (f := fun e L v => e.base L + v % e.seg) h rfl hd hvec hs,
      fun h => shuffleOp_completes (f := fun e L v => e.base L + Nat.xor (L % e.seg) (v % e.seg)) h rfl hd hvec hs⟩
  · intro k x ls h hk hx
    exact bcast_completes h hd hvec hk hx
  · intro r k next h ha hr hblocks _ hk hin
    subst ha
    refine ⟨_, _, nbr_completes h rfl hd hvec hr hblocks hk, fun L hL => (List.mem_filter.mp hL).1, fun L hL M hM hLM => ?_⟩
    rw [List.mem_filter, neighbour_of_lane r n hin hM hLM]
    by_cases hMl : M ∈ e.lanes
    · simp only [hMl, hL, if_true, Option.isSome_some, and_self, true_and, forall_const, Option.getD_some]
      rfl
    · simp [hMl]

/-! ### Votes (R138, R371) -/

/-- Lane `j` is active, and in lane `L`'s segment. -/
def Mate (e : Env) (L j : Nat) : Prop := j ∈ e.lanes ∧ j / 2 ^ e.w.partn = L / 2 ^ e.w.partn

theorem mem_mates {e : Env} {L j : Nat} : j ∈ e.mates L ↔ Mate e L j := by
  rw [Env.mates, List.mem_filter, beq_iff_eq]
  rfl

theorem checkPred_dst_ok {p : PredF} (h : p.rest = 0) (hneg : p.neg = false) : checkPred p false = .ok () := by
  rw [checkPred, if_neg (by simp [h, hneg])]

theorem bitOf_predF_of_lanes {e : Env} (p : PredF) {j : Nat} (h : j ∈ e.lanes) : bitOf (e.w.predF p).toNat j = predFBit e.w p j :=
  bitOf_predF e.w p (lanesOf_lt h)

/-- Bit `k` of a segment's mask. -/
theorem testBit_ballot (e : Env) (p : PredF) (L k : Nat) :
    (e.ballot (e.w.predF p) L).testBit k = true ↔ ∃ j, Mate e L j ∧ j % 2 ^ e.w.partn = k ∧ predFBit e.w p j = true := by
  simp only [Env.ballot, testBit_maskOf, decide_eq_true_eq, List.mem_map, List.mem_filter, mem_mates]
  refine exists_congr fun j => ⟨fun ⟨⟨hm, hb⟩, hk⟩ => ⟨hm, hk, ?_⟩, fun ⟨hm, hk, hb⟩ => ⟨⟨hm, ?_⟩, hk⟩⟩
  · rwa [bitOf_predF_of_lanes p hm.1] at hb
  · rwa [bitOf_predF_of_lanes p hm.1]

theorem ballot_completes {s : State} {e : Env} {dst : Opd} {d : Dst} {p : PredF} (h : Issuing s e 0x73) (hd : e.dst dst 1 = .ok d)
    (hp : p.rest = 0) :
    CompletesAt (.ballot dst p) s e 0x73 0 d 1 (e.units d.isVec) (fun L => (e.ballot (e.w.predF p) L, false)) 0 :=
  values_complete h rfl (fun _ hL => hL) (by simp only [hd, checkPred_ok hp, bind, Except.bind])

/-- What the active lanes of a segment vote: all of them, some of them, or none against another. -/
def voteOf (e : Env) (q : PredF) (md L : Nat) : Bool :=
  let bs := (e.mates L).map fun j => bitOf (e.w.predF q).toNat j
  match md with
  | 0 => bs.all id
  | 1 => bs.any id
  | _ => bs.all id || bs.all (!·)

theorem vote_leaves {s : State} {e : Env} {p q : PredF} {md : Nat} (h : Issuing s e 0x74) (hmd : md ≤ 2) (hp : p.rest = 0)
    (hneg : p.neg = false) (hq : q.rest = 0) :
    Leaves (.vote p q md) s e 0x74 0 (e.w.setPred p.idx e.active (laneMask (e.lanes.filter (voteOf e q md)))) :=
  h.goOn (f := _) (by
    simp only [if_neg (Nat.not_lt.mpr hmd), checkPred_dst_ok hp hneg, checkPred_ok hq, bind, Except.bind]
    rfl)

/-- What a vote says of its segment. -/
def VoteHolds (e : Env) (q : PredF) (md L : Nat) : Prop :=
  match md with
  | 0 => ∀ j, Mate e L j → predFBit e.w q j = true
  | 1 => ∃ j, Mate e L j ∧ predFBit e.w q j = true
  | _ => ∀ i j, Mate e L i → Mate e L j → predFBit e.w q i = predFBit e.w q j

theorem all_or_none_iff {α : Type} {P : α → Prop} {b : α → Bool} :
    ((∀ j, P j → b j = true) ∨ ∀ j, P j → b j = false) ↔ ∀ i j, P i → P j → b i = b j := by
  constructor
  · rintro (h | h) i j hi hj <;> rw [h i hi, h j hj]
  · intro h
    by_cases hex : ∃ i, P i ∧ b i = true
    · obtain ⟨i, hi, hb⟩ := hex
      exact .inl fun j hj => (h j i hj hi).trans hb
    · exact .inr fun j hj => Bool.not_eq_true _ ▸ fun hb => hex ⟨j, hj, hb⟩

theorem voteOf_iff (e : Env) (q : PredF) (md L : Nat) : voteOf e q md L = true ↔ VoteHolds e q md L := by
  have hbits : (e.mates L).map (fun j => bitOf (e.w.predF q).toNat j) = (e.mates L).map (predFBit e.w q) :=
    List.map_congr_left fun j hj => bitOf_predF_of_lanes q (mem_mates.mp hj).1
  unfold voteOf VoteHolds
  rw [hbits]
  match md with
  | 0 => simp [mem_mates]
  | 1 => simp [mem_mates]
  | _ + 2 =>
    simp only [Bool.or_eq_true, List.all_eq_true, List.forall_mem_map, mem_mates, id_eq, Bool.not_eq_true']
    exact all_or_none_iff

/-- The lane that ELECT chooses is the lowest active lane of its segment. -/
def elected (e : Env) : Nats :=
  e.lanes.filter fun L => e.lanes.all fun j => j / 2 ^ e.w.partn != L / 2 ^ e.w.partn || decide (L ≤ j)

theorem mem_elected {e : Env} {L : Nat} : L ∈ elected e ↔ L ∈ e.lanes ∧ ∀ j, Mate e L j → L ≤ j := by
  simp only [elected, Mate, List.mem_filter, List.all_eq_true, Bool.or_eq_true, bne_iff_ne, decide_eq_true_eq, and_imp, ne_eq,
    ← Decidable.imp_iff_not_or]

theorem elect_leaves {s : State} {e : Env} {p : PredF} (h : Issuing s e 0x12) (hp : p.rest = 0) (hneg : p.neg = false) :
    Leaves (.elect p) s e 0x12 0 (e.w.setPred p.idx (e.w.pathLanes e.p) (laneMask (elected e))) :=
  h.goOn (f := _) (by
    simp only [checkPred_dst_ok hp hneg, bind, Except.bind]
    rfl)

/-- A predicate written keeps its bits outside the mask, and every other predicate its bits. -/
theorem predBit_setPred_kept (w : Wave) (p : Nat) (m v : Word) {x L : Nat} (hL : L < 32)
    (h : x = 0 ∨ x ≠ p ∨ m.getLsbD L = false) : predBit (w.setPred p m v) x L = predBit w x L := by
  rw [predBit_setPred w p x m v hL, if_neg]
  rintro ⟨h0, hp, hm⟩
  rcases h with h | h | h
  · exact h0 h
  · exact h hp
  · exact Bool.false_ne_true (h.symm.trans hm)

theorem laneVoteResults : LaneVoteResults := by
  unfold LaneVoteResults
  intro s e mate
  refine ⟨fun dst d p h hd hp => ⟨_, ballot_completes h hd hp, testBit_ballot e p⟩, fun p q md h hmd hp hneg hq => ?_,
    fun p h hp hneg => ?_⟩
  · refine ⟨_, vote_leaves h hmd hp hneg hq, onlyPreds_setPred _ _ _ _, fun x L _ hL => ⟨fun hkept => ?_, fun h0 hx hl => ?_⟩⟩
    · refine predBit_setPred_kept _ _ _ _ hL (hkept.imp_right (Or.imp_right fun hl => ?_))
      rwa [mem_lanes, Bool.not_eq_true] at hl
    · rw [predBit_setPred _ _ _ _ _ hL, if_pos ⟨h0, hx, mem_lanes.mp hl⟩, getLsbD_laneMask _ hL, decide_eq_true_eq, List.mem_filter,
        voteOf_iff]
      exact and_iff_right hl
  · refine ⟨_, elect_leaves h hp hneg, onlyPreds_setPred _ _ _ _, fun x L _ hL => ⟨predBit_setPred_kept _ _ _ _ hL, fun h0 hx hl => ?_⟩⟩
    rw [predBit_setPred _ _ _ _ _ hL, if_pos ⟨h0, hx, hl⟩, getLsbD_laneMask _ hL, decide_eq_true_eq]
    exact mem_elected

/-- Settles O9, the moves and the votes: a lane of the same wave stands where the chain of R133 says, and the masks of the segments are
read bit by bit. -/
theorem laneMoveAndVoteResults : Obligations.LaneMoveAndVoteResults := ⟨laneMoveResults, laneVoteResults⟩

end Sys2Proof.Claims
end

section
/-! SUPPORT. Exact sums (R362–R365, R374): a sum written in each active lane, what is added to it, and its words. -/

namespace Sys2Proof.Machine

theorem Wave.getX_setX (w : Wave) (x l : Nat) (v : XSum) {y L : Nat} (hl : l < 32) (hL : L < 32) :
    (w.setX x l v).getX y L = if y = x ∧ L = l then v else w.getX y L := by
  have hkey : 32 * y + L = 32 * x + l ↔ y = x ∧ L = l := by omega
  simp only [Wave.getX, Wave.setX, Table.get_set, hkey]

theorem elemOf_packElems {w : Nat} (hw : 0 < w) (l : Nats) (j : Nat) : elemOf w (packElems w l) j = nth 0 l j % 2 ^ w := by
  refine Nat.eq_of_testBit_eq fun b => ?_
  rw [testBit_elemOf, testBit_packElems hw, Nat.testBit_mod_two_pow]
  by_cases hb : b < w
  · rw [Nat.mul_add_div hw, Nat.div_eq_of_lt hb, Nat.add_zero, Nat.mul_add_mod, Nat.mod_eq_of_lt hb]
  · simp [hb]

end Sys2Proof.Machine

namespace Sys2Proof.Claims

open Sys2Proof.Machine

/-! ### Sums written lane after lane -/

/-- The wave after sum `x` of lanes `us` has been written. -/
def writeSums (x : Nat) (f : Nat → XSum) (us : Nats) (w : Wave) : Wave := us.foldl (fun w L => w.setX x L (f L)) w

theorem onlySums_writeSums (x : Nat) (f : Nat → XSum) : ∀ (us : Nats) (w : Wave), onlySums w (writeSums x f us w)
  | [], _ => rfl
  | L :: t, w => by
    have h := congrArg (fun v : Wave => { v with xsums := w.xsums }) (onlySums_writeSums x f t (w.setX x L (f L)))
    exact h

theorem getX_writeSums (x : Nat) (f : Nat → XSum) {y L : Nat} (hL : L < 32) : ∀ (us : Nats) (w : Wave), (∀ K ∈ us, K < 32) →
    (writeSums x f us w).getX y L = if y = x ∧ L ∈ us then f L else w.getX y L
  | [], w, _ => by simp [writeSums]
  | K :: t, w, hus => by
    have ih := getX_writeSums x f (y := y) hL t (w.setX x K (f K)) fun M hM => hus M (List.mem_cons_of_mem _ hM)
    rw [writeSums, List.foldl_cons]
    refine ih.trans ?_
    rw [Wave.getX_setX _ _ _ _ (hus K List.mem_cons_self) hL]
    by_cases hK : L = K
    · subst hK
      by_cases hy : y = x <;> simp [hy]
    · simp [hK]

/-- A sum written in each active lane. -/
theorem sumsWritten (e : Env) (x : Nat) (f : Nat → XSum) : SumsWritten e (writeSums x f e.lanes e.w) x f :=
  ⟨onlySums_writeSums x f e.lanes e.w, fun _ _ _ hL => getX_writeSums x f hL e.lanes e.w fun _ hK => lanesOf_lt hK⟩

/-- The effect of an instruction that writes sum `x` of each active lane and raises the flags of forming them. -/
def putSums (e : Env) (s : State) (x lits : Nat) (g : Nat → XSum × Flags) : Except Flt Out :=
  let rs := e.lanes.map fun L => (L, g L)
  goOn (s.setWave e.ref ((rs.foldl (fun w r => w.setX x r.1 r.2.1) e.w).orSticky e.p (orFlags (rs.map (·.2.2))))) lits

section
variable {i : Instr} {s : State} {e : Env} {op lits x : Nat} {F : Env → Except Flt Out}

theorem putSums_leaves {g : Nat → XSum × Flags} (h : Issuing s e op) (hi : exec i s = issue op s F)
    (hF : F e = putSums e s x lits g) :
    ∃ w', Leaves i s e op lits (w'.orSticky e.p (orFlags (e.lanes.map fun L => (g L).2))) ∧ SumsWritten e w' x fun L => (g L).1 := by
  refine ⟨_, hi.trans (h.goOn (hF.trans ?_)), sumsWritten e x fun L => (g L).1⟩
  simp only [putSums, List.foldl_map, List.map_map]
  rfl

/-- An instruction that writes sum `x` of each active lane and raises no flag. -/
theorem writeSums_leaves {f : Nat → XSum} (h : Issuing s e op) (hi : exec i s = issue op s F)
    (hF : F e = goOn (s.setWave e.ref (writeSums x f e.lanes e.w)) lits) :
    ∃ w', Leaves i s e op lits w' ∧ SumsWritten e w' x f :=
  ⟨_, hi.trans (h.goOn hF), sumsWritten e x f⟩

end

/-! ### Fields and poison (R291, R352, R354) -/

theorem noSum_of_lt {x : Nat} (hx : x < 4) : noSum x = false := by
  simp only [noSum, Bool.or_eq_false_iff, beq_eq_false_iff_ne]
  omega

theorem xField_ok {x : Nat} (hx : x < 4) : xField x = .ok x := by
  rw [xField, noSum_of_lt hx, if_neg Bool.false_ne_true, if_neg (by omega)]

/-- A field whose code is a sum's number is neither ZERO nor LIT. -/
theorem notSum_of_code {o : Opd} {x : Nat} (ho : o.code = x) (hx : x < 4) : notSum o = false := by
  have hne (o' : Opd) (h : ¬ o'.code < 4) : (o == o') = false := beq_eq_false_iff_ne.mpr fun heq => h (heq ▸ ho ▸ hx)
  rw [notSum, hne .zero (by decide), hne .lit (by decide)]
  rfl

theorem xOf_ok {o : Opd} {x : Nat} (ho : o.code = x) (hx : x < 4) : xOf o = .ok x := by rw [xOf, ho, xField_ok hx]

theorem sums_any_poison {e : Env} {xs : Nats} {L : Nat} (h : ∀ x ∈ xs, (e.w.getX x L).poison = false) :
    (xs.any fun x => (e.w.getX x L).poison) = false :=
  List.any_eq_false.mpr fun x hx => Bool.eq_false_iff.mp (h x hx)

theorem sumPoison_ok {e : Env} {xs : Nats} (h : SumsClean e xs) : e.sumPoison xs = .ok () := by
  rw [Env.sumPoison, find?_of_all_false fun L hL => sums_any_poison (h L hL)]

theorem poisonWith_ok {e : Env} {xs : Nats} {srcs : List (Src × Nat)} (h : SumsClean e xs) (hs : Clean e e.lanes srcs) :
    e.poisonWith xs srcs = .ok () := by
  have hsrcs (L : Nat) (hL : L ∈ e.lanes) : (srcs.any fun r => (e.read r.2 L r.1).2) = false :=
    List.any_eq_false.mpr fun r hr => Bool.eq_false_iff.mp (hs L hL r hr)
  rw [Env.poisonWith, find?_of_all_false fun L hL => Bool.or_eq_false_iff.mpr ⟨sums_any_poison (h L hL), hsrcs L hL⟩]

/-! ### Words of a sum (R365) -/

theorem word_toNat (X : XSum) (k : Nat) :
    (X.word k).toNat = if k = 10 then (X.E.signExtend 32).toNat else X.S.toNat / 2 ^ (32 * k) % 2 ^ 32 := by
  unfold XSum.word
  split
  · rfl
  · rw [wordOf, BitVec.toNat_ofNat, Nat.shiftRight_eq_div_pow]

theorem poison_putWord (X : XSum) (k : Nat) (v : Word) : (X.putWord k v).poison = X.poison := by
  unfold XSum.putWord
  split <;> rfl

/-! ### Each entry (R362–R365, R374) -/

theorem xclr_leaves {s : State} {e : Env} {x : Nat} {a : Opd} {v : Src} {ls : List Word} (hx : x < 4) (h : Issuing s e 0x65)
    (ha : e.src a 1 e.lits = .ok (v, ls)) (hclean : Clean e e.lanes [(v, 1)]) :
    ∃ w', Leaves (.xclr x a) s e 0x65 (e.used ls) w'
      ∧ SumsWritten e w' x fun L => { S := 0, E := BitVec.ofNat 16 (e.read 1 L v).1, poison := false } :=
  writeSums_leaves h rfl (by simp only [xField_ok hx, ha, Env.checkPoison_ok hclean, bind, Except.bind]; rfl)

/-- XADD of another sum (R363). -/
theorem xaddSum_leaves {s : State} {e : Env} {x y : Nat} (hx : x < 4) (hy : y < 4) (h : Issuing s e 0x66) (hc : SumsClean e [x, y]) :
    ∃ w', Leaves (.xadd x (.v 0) true y) s e 0x66 0
        (w'.orSticky e.p (orFlags (e.lanes.map fun L => ((e.w.getX x L).addSum (e.w.getX y L)).2)))
      ∧ SumsWritten e w' x fun L => ((e.w.getX x L).addSum (e.w.getX y L)).1 :=
  putSums_leaves (g := fun L => (e.w.getX x L).addSum (e.w.getX y L)) h rfl (by
    have hy3 : ¬ 3 < y := by omega
    simp only [xField_ok hx, hy3, sumPoison_ok hc, bind, Except.bind, if_true, if_false, ne_eq, not_true]
    rfl)

/-- Values added to a sum in order, in each active lane (R167, R363). -/
theorem addAll_eq (e : Env) (s : State) (x lits : Nat) (f : Nat → List FVal) :
    addAll e s x lits f = putSums e s x lits fun L => addAllVals (e.w.getX x L) (f L) := rfl

theorem isSummand_eq : ETy.isSummand = summand := funext fun t => by cases t <;> rfl

/-- XADD of a register's elements (R363). -/
theorem xadd_leaves {s : State} {e : Env} {x n : Nat} {a : Opd} {v : Src} {ls : List Word} (hx : x < 4) (h : Issuing s e 0x66)
    (ht : e.types summand = .ok n) (ha : e.src a n e.lits = .ok (v, ls)) (hclean : Clean e e.lanes [(v, n)]) (hc : SumsClean e [x]) :
    ∃ w', Leaves (.xadd x a false 0) s e 0x66 (e.used ls) (w'.orSticky e.p (orFlags (e.lanes.map fun L =>
        (addAllVals (e.w.getX x L) ((List.range (e.ety (L / 4)).count).map (summandOf e n v L))).2)))
      ∧ SumsWritten e w' x fun L => (addAllVals (e.w.getX x L) ((List.range (e.ety (L / 4)).count).map (summandOf e n v L))).1 :=
  putSums_leaves h rfl (by
    simp only [isSummand_eq, ht, xField_ok hx, ha, poisonWith_ok hc hclean, bind, Except.bind, addAll_eq, Bool.false_eq_true, if_false,
      ne_eq, not_true]
    rfl)

theorem xmad_leaves {s : State} {e : Env} {x n : Nat} {a b : Opd} {u v : Src} {ls : List Word} (hx : x < 4) (h : Issuing s e 0x67)
    (ht : e.types summand = .ok n) (hs : e.srcs [(a, n), (b, n)] e.lits = .ok ([u, v], ls))
    (hclean : Clean e e.lanes [(u, n), (v, n)]) (hc : SumsClean e [x]) :
    ∃ w', Leaves (.xmad x a b) s e 0x67 (e.used ls) (w'.orSticky e.p (orFlags (e.lanes.map fun L =>
        (addAllVals (e.w.getX x L) ((List.range (e.ety (L / 4)).count).map fun k =>
          ((summandOf e n u L k).mul (summandOf e n v L k)).1)).2)))
      ∧ SumsWritten e w' x fun L => (addAllVals (e.w.getX x L) ((List.range (e.ety (L / 4)).count).map fun k =>
          ((summandOf e n u L k).mul (summandOf e n v L k)).1)).1 := by
  obtain ⟨l, hu, hv⟩ := Env.srcs_pair hs
  exact putSums_leaves h rfl (by
    simp only [isSummand_eq, ht, xField_ok hx, hu, hv, poisonWith_ok hc hclean, bind, Except.bind, addAll_eq]
    rfl)

/-- XRED adds the sums of a segment onto the anchor of its lowest active lane (R374). -/
theorem xred_leaves {s : State} {e : Env} {x y : Nat} (hx : x < 4) (hy : y < 4) (h : Issuing s e 0x77) (hc : SumsClean e [y]) :
    let add := fun L => (e.mates L).foldl
      (fun (a : XSum × Flags) j => ((a.1.addSum (e.w.getX y j)).1, a.2 ||| (a.1.addSum (e.w.getX y j)).2))
      ({ S := 0, E := (e.w.getX y ((e.mates L).headD L)).E }, 0)
    ∃ w', Leaves (.xred x y) s e 0x77 0 (w'.orSticky e.p (orFlags (e.lanes.map fun L => (add L).2)))
      ∧ SumsWritten e w' x fun L => (add L).1 :=
  putSums_leaves h rfl (by
    simp only [noSum_of_lt hx, noSum_of_lt hy, xField_ok hx, xField_ok hy, sumPoison_ok hc, bind, Except.bind, Bool.or_self,
      Bool.false_eq_true, if_false]
    rfl)

/-- XMOV of a sum (R365). -/
theorem xmovSum_leaves {s : State} {e : Env} {x y : Nat} {d a : Opd} (hx : x < 4) (hy : y < 4) (h : Issuing s e 0x69)
    (hd : d.code = x) (ha : a.code = y) :
    ∃ w', Leaves (.xmov d a 0 0) s e 0x69 0 w' ∧ SumsWritten e w' x fun L => e.w.getX y L :=
  writeSums_leaves h rfl (by
    simp only [notSum_of_code hd hx, notSum_of_code ha hy, xOf_ok hd hx, xOf_ok ha hy, bind, Except.bind]
    rfl)

/-- XMOV of a word of a sum to a register (R365). -/
theorem xmovWord_completes {s : State} {e : Env} {y k : Nat} {dst a : Opd} {d : Dst} (hy : y < 4) (h : Issuing s e 0x69)
    (ha : a.code = y) (hk : k ≤ 10) (hd : e.dst dst 1 = .ok d) (hvec : d.isVec = true) :
    CompletesAt (.xmov dst a 1 k) s e 0x69 0 d 1 e.lanes (fun L => (((e.w.getX y L).word k).toNat, (e.w.getX y L).poison)) 0 :=
  values_complete h rfl (fun L hL => (Env.units_of_isVec hvec).symm ▸ hL) (by
    have hk10 : ¬ 10 < k := Nat.not_lt.mpr hk
    simp only [notSum_of_code ha hy, hk10, Env.vecDst_ok hd hvec, xOf_ok ha hy, bind, Except.bind]
    rfl)

/-- XMOV of a register to a word of a sum (R365). -/
theorem xmovPut_leaves {s : State} {e : Env} {x k : Nat} {d a : Opd} {v : Src} {ls : List Word} (hx : x < 4) (h : Issuing s e 0x69)
    (hd : d.code = x) (hk : k ≤ 10) (ha : e.src a 1 e.lits = .ok (v, ls)) (hvec : v.isVec = true) :
    ∃ w', Leaves (.xmov d a 2 k) s e 0x69 (e.used ls) w'
      ∧ SumsWritten e w' x fun L => { (e.w.getX x L).putWord k (BitVec.ofNat 32 (e.read 1 L v).1) with
          poison := (e.w.getX x L).poison || (e.read 1 L v).2 } :=
  writeSums_leaves h rfl (by
    have hk10 : ¬ 10 < k := Nat.not_lt.mpr hk
    simp only [notSum_of_code hd hx, hk10, xOf_ok hd hx, ha, hvec, bind, Except.bind, poison_putWord]
    rfl)

/-! ### Sums rounded (R171, R364) -/

/-- The sum of lane `L` rounded into its type, for element `k`. -/
def roundedSum (e : Env) (x k L : Nat) : Nat × Flags :=
  let t := e.ety (L / 4)
  let m := e.mode (L / 4)
  let X := e.w.getX x L
  t.ffmt.round (rndAt t m L k) (modeSAT m) (modeDN m) (decide (X.S.toInt < 0)) X.S.toInt.natAbs (X.E.toInt - 256)

/-- XRND's result in lane `L`: element `k` is the sum rounded, the others are those of `old`. -/
def xrndWord (e : Env) (x k L old : Nat) : Nat :=
  let t := e.ety (L / 4)
  packElems t.width ((List.range t.count).map fun i => if i = k then (roundedSum e x k L).1 else elemOf t.width old i)

/-- XRND reads D where some slice of the path has more than one element (R139). -/
def xrndKeeps (e : Env) : Bool := e.pathSlices.any fun j => decide (1 < (e.ety j).count)

theorem xrnd_completes {s : State} {e : Env} {x k n : Nat} {dst : Opd} {d : Dst} (hx : x < 4) (h : Issuing s e 0x68)
    (ht : e.types ETy.isFloat = .ok n) (hk : ∀ j ∈ e.pathSlices, k < (e.ety j).count) (hd : e.dst dst n = .ok d)
    (hvec : d.isVec = true) (hc : SumsClean e [x]) (hclean : Clean e e.lanes [(d.src, n)]) :
    ∃ fl, CompletesAt (.xrnd dst x k) s e 0x68 0 d n e.lanes
      (fun L => (xrndWord e x k L (if xrndKeeps e then (e.read n L d.src).1 else 0), false)) fl := by
  have hlimit : (e.pathSlices.all fun j => decide (k < (e.ety j).count)) = true := by simpa using hk
  have hread : Clean e e.lanes (if xrndKeeps e then [(d.src, n)] else []) := by
    split
    · exact hclean
    · exact fun _ _ _ hy => absurd hy List.not_mem_nil
  have hpoison : e.poisonWith [x] (if e.pathSlices.any fun j => decide (1 < (e.ety j).count) then [(d.src, n)] else []) = .ok () :=
    poisonWith_ok hc hread
  have key := run_completes (i := .xrnd dst x k) (d := d) (n := n) (lits := 0) (xs := if xrndKeeps e then [(d.src, n)] else [])
    (g := fun L vs => (xrndWord e x k L (nth 0 vs 0), (roundedSum e x k L).2)) h rfl
    (by
      simp only [ht, xField_ok hx, hlimit, Env.vecDst_ok hd hvec, hpoison, bind, Except.bind, Bool.not_true, Bool.false_eq_true, if_false]
      rfl)
    (.inl hvec) ((Env.units_of_isVec hvec).symm ▸ hread)
  rw [Env.units_of_isVec hvec] at key
  refine ⟨_, key.congr fun L _ => ?_⟩
  cases xrndKeeps e <;> rfl

/-- What the elements of XRND's result are (R364). -/
theorem elemOf_xrndWord {e : Env} {x k L old j : Nat} (hj : j < (e.ety (L / 4)).count) :
    elemOf (e.ety (L / 4)).width (xrndWord e x k L old) j
      = if j = k then (roundedSum e x k L).1 % 2 ^ (e.ety (L / 4)).width else elemOf (e.ety (L / 4)).width old j := by
  rw [xrndWord, elemOf_packElems (ETy.width_pos _), nth_map_range, if_pos hj]
  split
  · rfl
  · exact Nat.mod_eq_of_lt (elemOf_lt _ _ _)

/-- Where nothing of D is kept, the rounded element is the only one. -/
theorem xrndKeeps_of_ne {e : Env} {k L j : Nat} (hL : L ∈ e.lanes) (hk : k < (e.ety (L / 4)).count) (hj : j < (e.ety (L / 4)).count)
    (hne : j ≠ k) : xrndKeeps e = true := by
  have hs : L / 4 ∈ e.pathSlices := Wave.slice_of_activeLanes (mem_lanes.mp hL)
  exact List.any_eq_true.mpr ⟨_, hs, decide_eq_true (by omega)⟩

/-- Settles O7: each entry writes its sum, or its register, lane by lane. -/
theorem exactSumResults : Obligations.ExactSumResults := by
  unfold Obligations.ExactSumResults
  intro s e x y hx hy
  refine ⟨fun a v ls h ha hclean => xclr_leaves hx h ha hclean, fun h hc => xaddSum_leaves hx hy h hc,
    fun a n v ls h ht ha hclean hc => xadd_leaves hx h ht ha hclean hc,
    fun a b n u v ls h ht hs hclean hc => xmad_leaves hx h ht hs hclean hc, fun h hc => xred_leaves hx hy h hc,
    fun d a h hd ha => xmovSum_leaves hx hy h hd ha, fun dst a k d h ha hk hd hvec => ?_,
    fun d a k v ls h hd hk ha hvec => xmovPut_leaves hx h hd hk ha hvec, fun dst k n d h ht hk hd hvec hc hclean => ?_⟩
  · exact (xmovWord_completes hy h ha hk hd hvec).congr fun L _ => by rw [word_toNat]
  · obtain ⟨fl, hcompletes⟩ := xrnd_completes hx h ht hk hd hvec hc hclean
    refine ⟨_, fl, hcompletes, fun L hL j hj => (elemOf_xrndWord hj).trans ?_⟩
    by_cases hjk : j = k
    · rw [if_pos hjk, if_pos hjk]
      rfl
    · rw [if_neg hjk, if_neg hjk, xrndKeeps_of_ne hL (hk _ (Wave.slice_of_activeLanes (mem_lanes.mp hL))) hj hjk, if_pos rfl]

end Sys2Proof.Claims
end

section
/-! SUPPORT. Conversions (R355, R357): which elements are converted, and which of D are kept. -/

namespace Sys2Proof.Claims

open Sys2Proof.Machine

/-! ### The elements that the position names (R355) -/

/-- In a list numbered from `b`, a number finds its own entry. -/
theorem find?_numbered {β : Type} (b : Nat) (c : Nat → β) (k : Nat) : ∀ n,
    ((List.range n).map fun i => (b + i, c i)).find? (fun r => r.1 == k) = if b ≤ k ∧ k < b + n then some (k, c (k - b)) else none
  | 0 => (if_neg (by omega)).symm
  | n + 1 => by
    rw [List.range_succ, List.map_append, List.find?_append, find?_numbered b c k n]
    by_cases hlt : b ≤ k ∧ k < b + n
    · rw [if_pos hlt, if_pos (by omega)]
      rfl
    · by_cases hk : b + n = k
      · subst hk
        simp
      · rw [if_neg hlt, if_neg (by omega)]
        simp [hk]

/-- Element `k` of a conversion's destination: converted where the position names it, or kept. -/
def convertedElem (st dt : ETy) (p src old : Nat) (conv : Nat → Nat → Nat × Flags) (k : Nat) : Nat :=
  match convertFrom st dt p k with
  | some j => (conv (elemOf st.width src j) k).1
  | none => elemOf dt.width old k

theorem convertWord_fst (st dt : ETy) (p src old : Nat) (conv : Nat → Nat → Nat × Flags) :
    (convertWord st dt p src old conv).1 = packElems dt.width ((List.range dt.count).map (convertedElem st dt p src old conv)) := by
  unfold convertWord upto
  refine congrArg (packElems dt.width) (List.map_congr_left fun k hk => ?_)
  have hk : k < dt.count := List.mem_range.mp hk
  unfold convertedElem convertFrom
  rcases Nat.lt_trichotomy st.count dt.count with h | h | h
  · simp only [h, Nat.not_lt.mpr (Nat.le_of_lt h), Nat.min_eq_left (Nat.le_of_lt h), decide_true, if_true, if_false,
      find?_numbered (p * st.count) (fun i => conv (elemOf st.width src i) (p * st.count + i))]
    by_cases hin : p * st.count ≤ k ∧ k < p * st.count + st.count
    · simp only [if_pos hin, Nat.add_sub_cancel' hin.1]
    · simp only [if_neg hin]
  · have hfind := find?_numbered 0 (fun i => conv (elemOf st.width src i) i) k dt.count
    simp only [Nat.zero_add, Nat.sub_zero, Nat.zero_le, true_and, hk, if_true] at hfind
    simp only [h, Nat.lt_irrefl, Nat.min_self, decide_false, Bool.false_eq_true, if_false, hfind]
  · have hfind := find?_numbered 0 (fun i => conv (elemOf st.width src (p * dt.count + i)) i) k dt.count
    simp only [Nat.zero_add, Nat.sub_zero, Nat.zero_le, true_and, hk, if_true] at hfind
    simp only [h, Nat.not_lt.mpr (Nat.le_of_lt h), Nat.min_eq_right (Nat.le_of_lt h), decide_false, Bool.false_eq_true, if_true, if_false, hfind]

/-! ### CVT (R355, R356) -/

/-- CVT's conversion of source element `c` to destination element `k` in lane `L`. -/
def cvtElem (st dt : ETy) (m : BitVec 24) (L c k : Nat) : Nat × Flags :=
  let v := st.readElem (modeDN m) c
  let z := convertElem dt (rndAt dt m L k) (modeSAT m) (modeDN m) v
  (z.1, z.2 ||| match v with
    | .flt w => w.iv
    | _ => 0)

/-- CVT's result in lane `L` from its source and D. -/
def cvtWord (e : Env) (st : ETy) (p L src old : Nat) : Nat × Flags :=
  convertWord st (e.ety (L / 4)) p src old (cvtElem st (e.ety (L / 4)) (e.mode (L / 4)) L)

theorem cvt_completes {s : State} {e : Env} {n : Nat} {d : Dst} {dst a : Opd} {p t : Nat} {st : ETy} {x : Src} {ls : List Word}
    (hst : ETy.ofCode t = some st) (hpos : ∀ j ∈ e.pathSlices, positionOk st (e.ety j) p = true)
    (ha : e.src a (st.opWidth / 32) e.lits = .ok (x, ls)) (hform : d.isVec = true ∨ x.isVec = false) (h : Issuing s e 0x60)
    (ht : e.types (fun _ => true) = .ok n) (hd : e.dst dst n = .ok d) (hclean : Clean e (e.units d.isVec) [(x, st.opWidth / 32)])
    (hkept : ∀ L ∈ e.units d.isVec, st.count < (e.ety (L / 4)).count → (e.read n L d.src).2 = false) :
    ∃ fl, CompletesAt (.cvt dst a p t) s e 0x60 (e.used ls) d n (e.units d.isVec)
      (fun L => ((cvtWord e st p L (e.read (st.opWidth / 32) L x).1 (e.read n L d.src).1).1, false)) fl := by
  have hall : (e.pathSlices.all fun j => positionOk st (e.ety j) p) = true := List.all_eq_true.mpr hpos
  have hclass : checkClass d.isVec [x] = .ok () := checkClass_ok (hform.imp_right (by simp))
  have hpoison : e.checkPoisonAt (e.units d.isVec) (fun L =>
      [(x, st.opWidth / 32)] ++ if st.count < (e.ety (L / 4)).count then [(d.src, n)] else []) = .ok () := by
    refine Env.checkPoisonAt_ok fun L hL y hy => ?_
    rcases List.mem_append.mp hy with hy | hy
    · exact hclean L hL y hy
    · split at hy
      · next hc =>
        cases List.mem_singleton.mp hy
        exact hkept L hL hc
      · exact absurd hy List.not_mem_nil
  exact ⟨_, results_complete
    (r := fun L =>
      let z := cvtWord e st p L (e.read (st.opWidth / 32) L x).1 (e.read n L d.src).1
      (z.1, e.gate z.2))
    h rfl (fun _ hL => hL) (by
      simp only [hst, Option.getD_some, ht, hall, hd, ha, hclass, hpoison, bind, Except.bind, Bool.not_true, Bool.false_eq_true,
        if_false]
      rfl)⟩

/-! ### CVTR (R357) -/

/-- The types that CVTR narrows to (R357). -/
def cvtrAccept (st dt : ETy) : Bool :=
  match dt with
  | .f16 | .bf16 | .e4m3 | .e5m2 | .e2m1 => (st == .f32 || st == .f16 || st == .bf16) && decide (dt.width < st.width)
  | _ => false

/-- CVTR's conversion of source element `c` to destination element `k` in lane `L`. -/
def cvtrElem (st dt : ETy) (m : BitVec 24) (L c k : Nat) : Nat × Flags :=
  let v := st.ffmt.read (modeDN m) c
  let z := floatToFloat dt.ffmt (rndAt dt m L k) (modeSAT m) (modeDN m) v
  (z.1, z.2 ||| v.iv)

/-- The residual of source element `j` in lane `L` (R172). -/
def cvtrResidue (st dt : ETy) (m : BitVec 24) (p L src j : Nat) : Nat × Flags :=
  let r := rndAt dt m L (p * st.count + j)
  let v := st.ffmt.read (modeDN m) (elemOf st.width src j)
  let z := floatToFloat dt.ffmt r (modeSAT m) (modeDN m) v
  residue st.ffmt dt.ffmt r (modeDN m) v z.1 (z.2 &&& fOF != 0)

/-- CVTR's result in lane `L` from its source and D: the narrowed elements, then the residuals. -/
def cvtrWord (e : Env) (st : ETy) (p L src old : Nat) : Nat × Flags :=
  let dt := e.ety (L / 4)
  let m := e.mode (L / 4)
  let z := convertWord st dt p src old (cvtrElem st dt m L)
  let rs := (List.range st.count).map (cvtrResidue st dt m p L src)
  (z.1 + 2 ^ 32 * packElems st.width (rs.map (·.1)), e.gate (z.2 ||| orFlags (rs.map (·.2))))

theorem cvtr_completes {s : State} {e : Env} {n : Nat} {d : Dst} {dst a : Opd} {p t : Nat} {st : ETy} {x : Src} {ls : List Word}
    (hst : ETy.ofCode t = some st) (hpos : ∀ j ∈ e.pathSlices, positionOk st (e.ety j) p = true)
    (ha : e.src a 1 e.lits = .ok (x, ls)) (hform : d.isVec = true ∨ x.isVec = false) (h : Issuing s e 0x61)
    (ht : e.types (cvtrAccept st) = .ok n) (hd : e.dst dst 2 = .ok d) (hclean : Clean e (e.units d.isVec) [(x, 1), (d.src, 1)]) :
    ∃ fl, CompletesAt (.cvtr dst a p t) s e 0x61 (e.used ls) d 2 (e.units d.isVec)
      (fun L => ((cvtrWord e st p L (e.read 1 L x).1 (e.read 1 L d.src).1).1, false)) fl := by
  have hall : (e.pathSlices.all fun j => positionOk st (e.ety j) p) = true := List.all_eq_true.mpr hpos
  have hclass : d.isVec = true ∨ ∀ y ∈ [(x, 1), (d.src, 1)], y.1.isVec = false := by
    cases hv : d.isVec with
    | true => exact .inl rfl
    | false =>
      have hx : x.isVec = false := hform.resolve_left (by simp [hv])
      exact .inr (by simp [hx, Dst.isVec_src, hv])
  exact ⟨_, run_completes (d := d) (xs := [(x, 1), (d.src, 1)]) (g := fun L vs => cvtrWord e st p L (nth 0 vs 0) (nth 0 vs 1)) h rfl
    (by
      simp only [hst, Option.getD_some]
      refine (bind_of_ok ht _).trans ?_
      simp only [hall, hd, ha, bind, Except.bind, Bool.not_true, Bool.false_eq_true, if_false]
      rfl)
    hclass hclean⟩

/-- A source that CVTR accepts has one register. -/
theorem opWidth_of_cvtr {st : ETy} (h : st = .f32 ∨ st = .f16 ∨ st = .bf16) : st.opWidth / 32 = 1 := by
  rcases h with rfl | rfl | rfl <;> rfl

/-- Settles O6: the model's list of converted elements is what the position names, element after element. -/
theorem conversionResults : Obligations.ConversionResults := by
  unfold Obligations.ConversionResults
  intro s e n d dst a p t st x ls hst hpos ha hform word
  refine ⟨fun h ht hd hclean hkept => ?_, fun h hst' ht hd hclean => ?_⟩
  · obtain ⟨fl, hcompletes⟩ := cvt_completes hst hpos ha hform h ht hd hclean hkept
    refine ⟨fl, hcompletes.congr fun L _ => ?_⟩
    rw [cvtWord, convertWord_fst]
    rfl
  · rw [opWidth_of_cvtr hst'] at ha
    obtain ⟨fl, hcompletes⟩ := cvtr_completes hst hpos ha hform h ht hd hclean
    refine ⟨fl, hcompletes.congr fun L _ => ?_⟩
    rw [cvtrWord, convertWord_fst, List.map_map]
    rfl

end Sys2Proof.Claims
end

section
/-! SUPPORT. Instructions that change what caches hold, acquire or wait (R187, R190, R217, R322): how their issue ends, and what of the
state they leave alone. -/

namespace Sys2Proof.Machine

/-! ### Clusters and core caches written -/

theorem State.cluster_mapCluster (s : State) (c k : Nat) (f : Cluster → Cluster) :
    (s.mapCluster c f).cluster k = if k = c then f (s.cluster k) else s.cluster k := by
  refine (Table.get_set _ _ _ _ _).trans (ite_congr rfl (fun hk => ?_) fun _ => rfl)
  rw [hk]

theorem State.coreCache_mapCoreCache (s : State) (c k : Nat) (f : CoreCache → CoreCache) :
    (s.mapCoreCache c f).coreCache k = if k = c then f (s.coreCache k) else s.coreCache k := by
  refine (Table.get_set _ _ _ _ _).trans (ite_congr rfl (fun hk => ?_) fun _ => rfl)
  rw [hk]

/-- Where waves stand does not depend on clusters or caches. -/
theorem State.wave?_of_stores {s t : State} {cs : Table Cluster} {ca : Caches} {n : Nat}
    (h : t = { s with clusters := cs, caches := ca, nextId := n }) (r : WaveRef) : t.wave? r = s.wave? r := by
  subst h
  cases r <;> rfl

/-! ### Operands of scalar class (R306, R375) -/

theorem Env.scalarOf_ok {e : Env} {o : Opd} {n : Nat} {x : Src} {ls ls' : List Word} (h : e.src o n ls = .ok (x, ls'))
    (hx : x.isVec = false) : e.scalarOf o n true ls = .ok (x, ls') := by
  simp only [Env.scalarOf, Bool.not_true, Bool.false_eq_true, and_false, if_false, h, bind, Except.bind, hx]

theorem Env.readLow_ok {e : Env} {n v : Nat} {x : Src} (h : e.read n (4 * e.low) x = (v, false)) : e.readLow n x = .ok v := by
  simp only [Env.readLow, h, Bool.false_eq_true, if_false]

/-- A path that does not wait inside an operation issues its instruction anew. -/
theorem Env.held_fresh {e : Env} (h : ∀ id, e.path.wait ≠ .op id) (s : State) (lits : Nat) (first : Except Flt Out) :
    e.held s lits first = first := by
  unfold Env.held
  split
  · next id hid => exact absurd hid (h id)
  · rfl

/-! ### How the issue ends -/

/-- An instruction that leaves state `t`, in which its wave stands as `w`, and goes on in line. -/
theorem Issuing.goOn_from {s t : State} {e : Env} {op lits : Nat} {w : Wave} (h : Issuing s e op) {f : Env → Except Flt Out}
    (hf : f e = Machine.goOn t lits) (hw : t.wave? e.ref = some w) : issue op s f = .next (t.setWave e.ref (w.wentOn e op lits)) := by
  rw [h.go hf, State.finish_seq op lits hw]

/-- The path-table entry of a path that waits for `wt`, but for REGANG (R103). -/
def Path.waiting (y : Path) (now : Nat) (wt : Wait) : Path :=
  { y with state := .blocked, wait := wt, waitSince := if y.wait = .none ∧ !y.paused then now else y.waitSince, paused := false }

theorem State.block_eq {s : State} {e : Env} {w : Wave} {wt : Wait} (hw : s.wave? e.ref = some w) (hwt : wt ≠ .regang) :
    s.block e wt = s.setWave e.ref (w.setPath e.p ((w.path e.p).waiting s.now wt)) := by
  unfold State.block
  simp only [hw, hwt, if_false]
  rfl

end Sys2Proof.Machine

namespace Sys2Proof.Claims

open Sys2Proof.Machine

section
variable {i : Instr} {s : State} {e : Env} {op lits : Nat} {F : Env → Except Flt Out}

/-- An instruction whose path waits for `wt`, and which changes nothing before it. -/
theorem waits_of_wait {wt : Wait} (sh : Shaped e) (h : Issuing s e op) (hi : exec i s = issue op s F) (hwt : wt ≠ .regang)
    (hF : F e = .ok (.wait s wt)) : Waits i s e wt := by
  have hpath (x : Path) : (e.w.setPath e.p x).path e.p = x := Wave.path_setPath_same e.w e.p x (sh.paths ▸ sh.entry)
  refine ⟨_, hi.trans ((h.wait hF).trans (congrArg _ (State.block_eq h.wave hwt))), onlyPaths_setPath _ _ _,
    fun q hq => Wave.path_setPath_ne _ hq _, ?_⟩
  rw [hpath]
  exact ⟨rfl, rfl, by rw [Env.pc, h.path]; rfl⟩

/-- What an acquire does to the caches (R190, R217). -/
theorem acquired_caches (s : State) (e : Env) (scope : Nat) :
    ∃ c : Caches, s.acquired e scope = { s with caches := c } ∧ Acquired s e scope c := by
  by_cases hwide : e.caster = false ∧ scope ≠ 0
  · have hdrops : s.acquired e scope = s.mapCoreCache e.core fun x => { x with lines := [] } := by
      rw [State.acquired, if_neg (by simp [hwide.1]), State.acquireL1, if_neg hwide.2]
    refine ⟨_, hdrops, rfl, fun k => ?_⟩
    have hk := s.coreCache_mapCoreCache e.core k fun x => { x with lines := [] }
    by_cases hc : k = e.core
    · rw [if_pos hc] at hk
      rw [if_pos ⟨hwide.1, hc, hwide.2⟩]
      exact ⟨(congrArg CoreCache.tlb hk :), congrArg CoreCache.lines hk⟩
    · rw [if_neg hc] at hk
      rw [if_neg fun hall => hc hall.2.1]
      exact ⟨(congrArg CoreCache.tlb hk :), congrArg CoreCache.lines hk⟩
  · have hsame : s.acquired e scope = s := by
      unfold State.acquired State.acquireL1
      cases hc : e.caster with
      | true => rfl
      | false => exact if_pos (Classical.not_not.mp fun hs => hwide ⟨hc, hs⟩)
    exact ⟨s.caches, hsame, rfl, fun k => ⟨rfl, (if_neg fun hall => hwide ⟨hall.1, hall.2.2⟩).symm⟩⟩

/-- An instruction that acquires and goes on in line. -/
theorem acquires_of_goOn {scope : Nat} (h : Issuing s e op) (hi : exec i s = issue op s F)
    (hF : F e = goOn (s.acquired e scope) lits) : Acquires i s e op lits e.w scope := by
  obtain ⟨c, heq, hacq⟩ := acquired_caches s e scope
  rw [heq] at hF
  exact ⟨c, hi.trans (h.goOn_from hF ((State.wave?_of_stores rfl e.ref).trans h.wave)), hacq⟩

/-- An instruction that waits for `wt` until `ready`, and then acquires and goes on in line. -/
theorem acquires_or_waits {scope : Nat} {wt : Wait} {ready : Bool} (sh : Shaped e) (h : Issuing s e op)
    (hi : exec i s = issue op s F) (hwt : wt ≠ .regang)
    (hF : F e = if ready then goOn (s.acquired e scope) lits else .ok (.wait s wt)) :
    if ready then Acquires i s e op lits e.w scope else Waits i s e wt := by
  cases ready with
  | true => exact acquires_of_goOn h hi hF
  | false => exact waits_of_wait sh h hi hwt hF

end

end Sys2Proof.Claims
end

section
/-! SUPPORT. PREFI, IFENCE, PREF and CFLUSH (R322, R389, R390): what an instruction cache or an L1 holds after a line has entered it,
and after lines have left it. -/

namespace Sys2Proof.Machine

/-! ### A cluster's instruction cache (R322) -/

/-- `t` is `s` but for what cluster `c`'s instruction cache holds, and the free choices of the caches. -/
structure OnlyIcache (c : Nat) (s t : State) : Prop where
  rest : t = { s with clusters := t.clusters, caches := t.caches }
  picks : { t.caches with picks := s.caches.picks } = s.caches
  icache : ∀ k, ∃ ic, t.cluster k = { s.cluster k with icache := ic } ∧ (k ≠ c → ic = (s.cluster k).icache)

theorem OnlyIcache.refl (c : Nat) (s : State) : OnlyIcache c s s := ⟨rfl, rfl, fun _ => ⟨_, rfl, fun _ => rfl⟩⟩

theorem OnlyIcache.trans {c : Nat} {s t u : State} (h : OnlyIcache c s t) (h' : OnlyIcache c t u) : OnlyIcache c s u where
  rest := h'.rest.trans (by rw [h.rest])
  picks := by rw [← h.picks, ← h'.picks]
  icache k := by
    obtain ⟨ic, hic, hother⟩ := h.icache k
    obtain ⟨ic', hic', hother'⟩ := h'.icache k
    refine ⟨ic', by rw [hic', hic], fun hk => ?_⟩
    rw [hother' hk, hic]
    exact hother hk

theorem OnlyIcache.mapCluster (s : State) (c : Nat) (g : Cluster → List ICLine) :
    OnlyIcache c s (s.mapCluster c fun k => { k with icache := g k }) := by
  refine ⟨rfl, rfl, fun k => ?_⟩
  rw [State.cluster_mapCluster]
  by_cases hk : k = c
  · subst hk
    exact ⟨_, if_pos rfl, fun hne => absurd rfl hne⟩
  · exact ⟨_, if_neg hk, fun _ => rfl⟩

theorem OnlyIcache.picked (c : Nat) (s : State) : OnlyIcache c s s.picked := ⟨rfl, rfl, fun _ => ⟨_, rfl, fun _ => rfl⟩⟩

/-- A line enters a cluster's instruction cache. -/
theorem OnlyIcache.cacheLine (s : State) (c ctx : Nat) (l : LineBuf) : OnlyIcache c s (s.cacheLine c ctx l) := by
  unfold State.cacheLine
  dsimp only
  split
  · exact OnlyIcache.mapCluster s c _
  · exact (OnlyIcache.mapCluster s c _).trans (OnlyIcache.picked c _)

/-! ### The L1 data cache (R190, R389, R390) -/

/-- `t` is `s` but for the lines that the L1 data caches hold, and the free choices of the caches; every line is one that the L1
held in `s`, or `P` says what it is. -/
structure OnlyLines (P : L1Line → Prop) (s t : State) : Prop where
  rest : t = { s with caches := t.caches }
  l2 : t.caches.l2 = s.caches.l2
  tlb : ∀ k, (t.coreCache k).tlb = (s.coreCache k).tlb
  lines : ∀ k, ∀ z ∈ (t.coreCache k).lines, z ∈ (s.coreCache k).lines ∨ P z

/-- A line as its home holds it (R190). -/
def AtHome (s : State) (z : L1Line) : Prop := z.bytes = s.readLocal (64 * z.line) 64 ∧ z.poison = s.poison.get false z.line

section
variable {P : L1Line → Prop} {s t u : State}

theorem OnlyLines.refl (P : L1Line → Prop) (s : State) : OnlyLines P s s := ⟨rfl, rfl, fun _ => rfl, fun _ _ => .inl⟩

theorem OnlyLines.trans (h : OnlyLines P s t) (h' : OnlyLines P t u) : OnlyLines P s u where
  rest := h'.rest.trans (by rw [h.rest])
  l2 := h'.l2.trans h.l2
  tlb k := (h'.tlb k).trans (h.tlb k)
  lines k z hz := (h'.lines k z hz).elim (h.lines k z) .inr

/-- Homes are memory's, which the caches do not touch. -/
theorem OnlyLines.atHome (h : OnlyLines P s t) : AtHome t = AtHome s := by
  rw [h.rest]
  rfl

theorem OnlyLines.picked (P : L1Line → Prop) (s : State) : OnlyLines P s s.picked := ⟨rfl, rfl, fun _ => rfl, fun _ _ => .inl⟩

theorem OnlyLines.mapCoreCache (c : Nat) {g : CoreCache → List L1Line}
    (hg : ∀ z ∈ g (s.coreCache c), z ∈ (s.coreCache c).lines ∨ P z) :
    OnlyLines P s (s.mapCoreCache c fun k => { k with lines := g k }) := by
  refine ⟨rfl, rfl, fun k => ?_, fun k z hz => ?_⟩
  · rw [State.coreCache_mapCoreCache]
    split
    · next hk => rw [hk]
    · rfl
  · rw [State.coreCache_mapCoreCache] at hz
    split at hz
    · next hk =>
      subst hk
      exact hg z hz
    · exact .inl hz

end

theorem mem_makePlace {α : Type} {cap pick : Nat} {l : List α} {x y : α} (h : y ∈ makePlace cap pick l x) : y ∈ l ∨ y = x := by
  unfold makePlace at h
  rcases List.mem_append.mp h with h | h
  · split at h
    · exact .inl h
    · exact .inl (List.mem_of_mem_eraseIdx h)
  · exact .inr (List.mem_singleton.mp h)

/-- A line enters a core's L1 as its home holds it, in the place of what the L1 held of it (R190). -/
theorem OnlyLines.fill (s : State) (c l : Nat) :
    OnlyLines (AtHome s) s (s.mapCoreCache c fun k => { k with
      lines := makePlace l1Places s.caches.picks (k.lines.filter (·.line != l))
        { line := l, bytes := s.readLocal (64 * l) 64, poison := s.poison.get false l } }).picked := by
  refine (OnlyLines.mapCoreCache c fun z hz => ?_).trans (OnlyLines.picked _ _)
  rcases mem_makePlace hz with hz | rfl
  · exact .inl ((List.mem_filter.mp hz).1)
  · exact .inr ⟨rfl, rfl⟩

/-- A core's load of a line leaves in its L1 lines that it held, or lines as their home holds them (R190). -/
theorem OnlyLines.loadLine (s : State) (c l : Nat) : OnlyLines (AtHome s) s (s.loadLine c l).2.2 := by
  unfold State.loadLine
  dsimp only
  split
  · exact OnlyLines.fill s c l
  · split
    · exact OnlyLines.refl _ s
    · split
      · exact OnlyLines.picked _ s
      · exact (OnlyLines.picked _ s).trans (OnlyLines.fill s.picked c l)

/-! ### Lines that leave (R389) -/

theorem State.mem_dropL1 {s : State} {c off n k : Nat} {z : L1Line} (h : z ∈ ((s.dropL1 c off n).coreCache k).lines) :
    z ∈ (s.coreCache k).lines ∧ (k = c → lineMeets z.line off n = false) := by
  unfold State.dropL1 at h
  rw [State.coreCache_mapCoreCache] at h
  split at h
  · next hk =>
    obtain ⟨hz, hmeets⟩ := List.mem_filter.mp h
    exact ⟨hk ▸ hz, fun _ => (Bool.not_eq_true' _).mp hmeets⟩
  · next hk => exact ⟨h, fun hc => absurd hc hk⟩

theorem OnlyLines.dropL1 (P : L1Line → Prop) (s : State) (c off n : Nat) : OnlyLines P s (s.dropL1 c off n) :=
  OnlyLines.mapCoreCache c fun _ hz => .inl ((List.mem_filter.mp hz).1)

/-- A flush brings no line. -/
theorem OnlyLines.flushRange (P : L1Line → Prop) (w : Who) (core stop : Nat) : ∀ (fuel va : Nat) (s : State),
    OnlyLines P s (s.flushRange w core va stop fuel)
  | 0, _, s => OnlyLines.refl P s
  | fuel + 1, va, s => by
    unfold State.flushRange
    split
    · exact OnlyLines.refl P s
    · split
      · exact OnlyLines.flushRange P w core stop fuel _ s
      · refine OnlyLines.trans ?_ (OnlyLines.flushRange P w core stop fuel _ _)
        split
        · exact OnlyLines.dropL1 P s core _ _
        · exact OnlyLines.refl P s

theorem State.flushRange_of_le {va stop : Nat} (h : stop ≤ va) (s : State) (w : Who) (core : Nat) : ∀ fuel,
    s.flushRange w core va stop fuel = s
  | 0 => rfl
  | _ + 1 => if_pos h

/-- A range that lies in one page leaves the L1 at once. -/
theorem State.flushRange_page {s : State} {w : Who} {core va n o : Nat} {p : PageInfo} (fuel : Nat) (hn : 0 < n)
    (hp : s.translate w .load va = .ok p) (ho : p.place = .mem o) (hstop : va + n ≤ p.stop) :
    s.flushRange w core va (va + n) (fuel + 1) = s.dropL1 core o n := by
  have hbytes : min p.stop (va + n) - va = n := by omega
  unfold State.flushRange
  rw [if_neg (by omega), hp]
  simp only [ho, hbytes]
  exact State.flushRange_of_le (by omega) _ _ _ _

end Sys2Proof.Machine

namespace Sys2Proof.Claims

open Sys2Proof.Machine

/-! ### Each instruction -/

section
variable {s : State} {e : Env}

/-- PREFI of one line: in the cluster's instruction cache where its fetch finds no fault. -/
def prefetched (e : Env) (va : Nat) (t : State) (i : Nat) : State :=
  match t.fetchLine e.who (BitVec.ofNat 64 (va + 128 * i)) with
  | .ok l => t.cacheLine e.cluster e.ctx l
  | .error _ => t

theorem prefetched_onlyIcache (e : Env) (va i : Nat) (t : State) : OnlyIcache e.cluster t (prefetched e va t i) := by
  unfold prefetched
  split
  · exact OnlyIcache.cacheLine t _ _ _
  · exact OnlyIcache.refl _ t

theorem prefi_goesOn {a : Opd} {n : Nat} {x : Src} {ls : List Word} (h : Issuing s e 0x0D) (h1 : 1 ≤ n) (h16 : n ≤ 16)
    (hx : e.src a 2 e.lits = .ok (x, ls)) (hv : x.isVec = false) {va : Nat} (hva : e.read 2 (4 * e.low) x = (va, false)) :
    ∃ t, OnlyIcache e.cluster s t ∧ exec (.prefi a n) s = .next (t.setWave e.ref (e.w.wentOn e 0x0D (e.used ls))) := by
  have honly : OnlyIcache e.cluster s ((upto n).foldl (prefetched e va) s) :=
    List.foldlRecOn (upto n) _ (OnlyIcache.refl _ s) fun t ht i _ => ht.trans (prefetched_onlyIcache e va i t)
  refine ⟨_, honly, h.goOn_from (f := _) ?_ ((State.wave?_of_stores honly.rest e.ref).trans h.wave)⟩
  have hn : ¬(n = 0 ∨ 16 < n) := by omega
  simp only [hn, if_false, Env.scalarOf_ok hx hv, Env.readLow_ok hva, bind, Except.bind]
  rfl

theorem ifence_goesOn (h : Issuing s e 0x0E) :
    exec .ifence s = .next ((s.mapCluster e.cluster fun k => { k with icache := k.icache.filter fun x => x.ctx != e.ctx }).setWave e.ref
      ((e.w.setPath e.p { e.path with buf := none }).wentOn e 0x0E 0)) := by
  have hw := (State.wave?_of_stores (s := s) (t := s.mapCluster e.cluster fun k =>
    { k with icache := k.icache.filter fun x => x.ctx != e.ctx }) rfl e.ref).trans h.wave
  refine (h.goOn_from (f := _) rfl (State.wave?_setWave _ _ _ _ hw)).trans ?_
  rw [State.setWave_setWave]

/-- PREF of one lane with hint 0: the line of an RC or UO page of the package's memory is in the core's L1. -/
def broughtIn (e : Env) (x y : Src) (t : State) (L : Nat) : State :=
  match t.translate e.who .load (effective (e.read 2 L x).1 (e.read 1 L y).1) with
  | .ok { place := .mem o, kind := k, .. } => if k = 1 then t else (t.loadLine e.core (o / 64)).2.2
  | _ => t

theorem broughtIn_onlyLines (e : Env) (x y : Src) (t : State) (L : Nat) : OnlyLines (AtHome t) t (broughtIn e x y t L) := by
  unfold broughtIn
  split
  · split
    · exact OnlyLines.refl _ t
    · exact OnlyLines.loadLine t _ _
  · exact OnlyLines.refl _ t

theorem pref_goesOn {hint : Bool} {a b : Opd} {x y : Src} {l1 l2 : List Word} (h : Issuing s e 0xA1)
    (hx : e.src a 2 e.lits = .ok (x, l1)) (hy : e.src b 1 l1 = .ok (y, l2)) (hclean : Clean e e.lanes [(x, 2), (y, 1)]) :
    ∃ t, OnlyLines (AtHome s) s t ∧ (hint = true → t = s)
      ∧ exec (.pref hint a b) s = .next (t.setWave e.ref (e.w.wentOn e 0xA1 (e.used l2))) := by
  have honly : OnlyLines (AtHome s) s (if hint then s else e.lanes.foldl (broughtIn e x y) s) := by
    split
    · exact OnlyLines.refl _ s
    · exact List.foldlRecOn e.lanes _ (OnlyLines.refl _ s) fun t ht L _ => ht.trans (ht.atHome ▸ broughtIn_onlyLines e x y t L)
  refine ⟨_, honly, fun hh => if_pos hh, h.goOn_from (f := _) ?_ ((State.wave?_of_stores honly.rest e.ref).trans h.wave)⟩
  simp only [Env.baseSrc, Env.offSrc, hx, hy, Env.checkPoison_ok hclean, bind, Except.bind]
  rfl

/-- Where no two operations have one id, the one found by its id is the one named. -/
theorem find?_id_of_nodup {o : PendingOp} : ∀ {l : List PendingOp}, (l.map (·.id)).Nodup → o ∈ l → l.find? (·.id == o.id) = some o
  | q :: t, hids, ho => by
    rw [List.map_cons, List.nodup_cons] at hids
    rcases List.mem_cons.mp ho with rfl | hot
    · exact List.find?_cons_of_pos (beq_self_eq_true _)
    · have hne : q.id ≠ o.id := fun heq => hids.1 (heq ▸ List.mem_map_of_mem hot)
      exact (List.find?_cons_of_neg (p := fun x : PendingOp => x.id == o.id) (mt beq_iff_eq.mp hne)).trans (find?_id_of_nodup hids.2 hot)

/-- A CFLUSH whose earlier stores to the range are performed at device scope has nothing left to wait for (R389). -/
theorem cflush_ready {meets : PendingOp → Bool} (ca : Caches) (k : Nat) (hids : (s.ops.map (·.id)).Nodup)
    (hdone : ∀ o ∈ s.earlier e, meets o = true → o.performed 4 = true) :
    ({ s with nextId := k, caches := ca } : State).opReady { e.op s with after := ((s.earlier e).filter meets).map (·.id) } = true := by
  refine (Bool.true_and _).trans (List.all_eq_true.mpr fun i hi => ?_)
  obtain ⟨o, ho, rfl⟩ := List.mem_map.mp hi
  obtain ⟨hearlier, hmeets⟩ := List.mem_filter.mp ho
  change ((s.op? o.id).map fun x => x.performed 4).getD true = true
  rw [State.op?, find?_id_of_nodup hids (List.mem_filter.mp hearlier).1]
  exact hdone o hearlier hmeets

/-- Whether an operation is a store to some of the `n` bytes from `va` on (R389). -/
def storesTo (va n : Nat) (o : PendingOp) : Bool := !o.isLoad && o.ranges.any fun r => decide (r.1 < va + n) && decide (va < r.1 + r.2)

theorem storesTo_iff {va n : Nat} {o : PendingOp} :
    storesTo va n o = true ↔ o.isLoad = false ∧ ∃ r ∈ o.ranges, r.1 < va + n ∧ va < r.1 + r.2 := by
  simp only [storesTo, Bool.and_eq_true, Bool.not_eq_true', List.any_eq_true, decide_eq_true_eq]

/-- The caches once the lines of CFLUSH's range have left the core's L1. -/
def flushedCaches (s : State) (e : Env) (va n : Nat) : Caches := (s.flushRange e.who e.core va (va + n) 18).caches

/-- No line of a range that lies in one page of the package's memory is left in the core's L1 (R389). -/
theorem flushedCaches_page {va n o : Nat} {p : PageInfo} {z : L1Line} (hn : 0 < n) (hp : s.translate e.who .load va = .ok p)
    (ho : p.place = .mem o) (hstop : va + n ≤ p.stop) (hz : z ∈ ((flushedCaches s e va n).cores.get {} e.core).lines) :
    ¬(64 * z.line < o + n ∧ o < 64 * z.line + 64) := by
  rw [flushedCaches, State.flushRange_page 17 hn hp ho hstop] at hz
  have hmeets := (State.mem_dropL1 hz).2 rfl
  rw [lineMeets, ← Bool.decide_and] at hmeets
  exact of_decide_eq_false hmeets

theorem cflush_goesOn {a b : Opd} {x y : Src} {l1 l2 : List Word} {va n : Nat} (h : Issuing s e 0xA0) (hfresh : Fresh e)
    (hx : e.src a 2 e.lits = .ok (x, l1)) (hy : e.src b 1 l1 = .ok (y, l2)) (hxv : x.isVec = false) (hyv : y.isVec = false)
    (hva : e.read 2 (4 * e.low) x = (va, false)) (hn : e.read 1 (4 * e.low) y = (n, false)) (hmax : n ≤ 1048576)
    (hflag : e.flagFor false = none) (hids : (s.ops.map (·.id)).Nodup)
    (hdone : ∀ o ∈ s.earlier e, storesTo va n o = true → o.performed 4 = true) :
    exec (.cflush a b) s = .next (({ s with nextId := s.nextId + 1, caches := flushedCaches s e va n } : State).setWave e.ref
      (e.w.wentOn e 0xA0 (e.used l2))) := by
  have hrest := (OnlyLines.flushRange (fun _ => False) e.who e.core (va + n) 18 va s).rest
  refine h.goOn_from (f := _) ?_ ((State.wave?_of_stores rfl e.ref).trans h.wave)
  rw [Env.held_fresh hfresh]
  simp only [Env.scalarOf_ok hx hxv, Env.scalarOf_ok hy hyv, Env.readLow_ok hva, Env.readLow_ok hn, hn, Nat.not_lt.mpr hmax, if_false,
    bind, Except.bind]
  rw [hrest]
  exact (if_neg (by simp [hflag])).trans (if_pos (cflush_ready _ _ hids hdone))

end

/-- Settles O21: prefetches and flushes change caches alone, the fences acquire where what they wait for is performed, and the
earlier stores to CFLUSH's range, once performed at device scope, leave it nothing to wait for. -/
theorem hintsAndFences : Obligations.HintsAndFences := by
  unfold Obligations.HintsAndFences
  intro s e sh
  refine ⟨fun h => h.goOn_same (f := _) rfl, fun h => h.goOn (f := _) rfl, fun a n x ls h h1 h16 hx hv hclean => ?_, fun h => ?_,
    fun hint a b x y l1 l2 h hx hy hclean => ?_, fun h => acquires_or_waits sh h rfl (by decide) rfl,
    fun h => acquires_or_waits sh h rfl (by decide) rfl,
    fun a b x y l1 l2 h hfresh hx hy hxv hyv hclean hmax => ?_⟩
  · obtain ⟨t, honly, hexec⟩ := prefi_goesOn h h1 h16 hx hv (Prod.ext rfl (hclean _ List.mem_cons_self _ List.mem_cons_self))
    exact ⟨t.clusters, t.caches, hexec.trans (by rw [← honly.rest]), honly.picks, honly.icache⟩
  · exact ⟨_, ifence_goesOn h, fun c => State.cluster_mapCluster s e.cluster c fun k =>
      { k with icache := k.icache.filter fun x => x.ctx != e.ctx }⟩
  · obtain ⟨t, honly, hsame, hexec⟩ := pref_goesOn (hint := hint) h hx hy hclean
    exact ⟨t.caches, hexec.trans (by rw [← honly.rest]), fun hh => congrArg State.caches (hsame hh), honly.l2, honly.tlb, honly.lines⟩
  · intro va n hflag hids hdone
    have honly := OnlyLines.flushRange (fun _ => False) e.who e.core (va + n) 18 va s
    have hready : ∀ o ∈ s.earlier e, storesTo va n o = true → o.performed 4 = true := fun o ho hstores =>
      hdone o ho (storesTo_iff.mp hstores).1 (storesTo_iff.mp hstores).2
    refine ⟨_, _, cflush_goesOn h hfresh hx hy hxv hyv (Prod.ext rfl (hclean _ List.mem_cons_self _ List.mem_cons_self))
      (Prod.ext rfl (hclean _ List.mem_cons_self _ (List.mem_cons_of_mem _ List.mem_cons_self))) hmax hflag hids hready,
      honly.l2, fun j z hz => (honly.lines j z hz).resolve_right id, fun p o hn hp ho hstop z hz => flushedCaches_page hn hp ho hstop hz⟩

end Sys2Proof.Claims
end

section
/-! SUPPORT. Accesses that lie in one piece of the package's own DRAM (R184–R190): what holding their pages changes, what they read, and
what they store. -/

namespace Sys2Proof.Machine

/-! ### Gangs changed and waves replaced -/

/-- Every gang after a change that keeps tasks and indices. -/
theorem State.gang?_mapGang_eq (s : State) (t' g' : Nat) {f : Gang → Gang} (hf : ∀ x, (f x).task = x.task ∧ (f x).index = x.index)
    (t g : Nat) : (s.mapGang t' g' f).gang? t g = (s.gang? t g).map fun x => if x.task == t' && x.index == g' then f x else x :=
  find?_map_key _ _ (fun x => by
    split
    · rw [(hf x).1, (hf x).2]
    · rfl) s.gangs

theorem State.gang?_mapGang_some {s : State} {t g : Nat} {x : Gang} (h : s.gang? t g = some x) {f : Gang → Gang}
    (hf : ∀ x, (f x).task = x.task ∧ (f x).index = x.index) : (s.mapGang t g f).gang? t g = some (f x) := by
  rw [State.gang?_mapGang _ _ _ _ hf, h, Option.map_some]

/-- A change of gangs that keeps their waves leaves every wave where it was. -/
theorem State.wave?_mapGang_of_keeps (s : State) (t' g' : Nat) {f : Gang → Gang}
    (hf : ∀ x, f x = { f x with task := x.task, index := x.index, waves := x.waves, caster := x.caster }) (r : WaveRef) :
    (s.mapGang t' g' f).wave? r = s.wave? r := by
  have hgang := s.gang?_mapGang_eq t' g' (f := f) fun x => by rw [hf x]; exact ⟨rfl, rfl⟩
  have hkeeps (x : Gang) : (if x.task == t' && x.index == g' then f x else x).waves = x.waves
      ∧ (if x.task == t' && x.index == g' then f x else x).caster = x.caster := by
    split
    · rw [hf x]; exact ⟨rfl, rfl⟩
    · exact ⟨rfl, rfl⟩
  cases r with
  | handler c => rfl
  | user t g i =>
    simp only [State.wave?, hgang]
    cases s.gang? t g with
    | none => rfl
    | some x => exact congrArg (·[i]?) (hkeeps x).1
  | caster t g =>
    simp only [State.wave?, hgang]
    cases s.gang? t g with
    | none => rfl
    | some x => exact congrArg some (hkeeps x).2

/-- A wave replaced leaves every gang but for its waves. -/
theorem State.gang?_setWave {s : State} {t g : Nat} {x : Gang} (h : s.gang? t g = some x) (r : WaveRef) (w : Wave) :
    ∃ y, (s.setWave r w).gang? t g = some y ∧ y = { x with waves := y.waves, caster := y.caster } := by
  have hmap (t' g' : Nat) (f : Gang → Gang) (hf : ∀ x, f x = { x with waves := (f x).waves, caster := (f x).caster }) :
      ∃ y, (s.mapGang t' g' f).gang? t g = some y ∧ y = { x with waves := y.waves, caster := y.caster } := by
    rw [State.gang?_mapGang_eq s t' g' (f := f) (fun x => by rw [hf x]; exact ⟨rfl, rfl⟩), h, Option.map_some]
    split
    · exact ⟨_, rfl, hf x⟩
    · exact ⟨x, rfl, rfl⟩
  cases r with
  | handler c => exact ⟨x, h, rfl⟩
  | user t' g' i => exact hmap t' g' _ fun _ => rfl
  | caster t' g' => exact hmap t' g' _ fun _ => rfl

/-! ### Pages held (R186, R188) -/

/-- `t` is `s` but for what TLBs and L1 data caches hold. -/
def OnlyCaches (s t : State) : Prop := t = { s with caches := t.caches }

theorem OnlyCaches.refl (s : State) : OnlyCaches s s := rfl

theorem OnlyCaches.trans {s t u : State} (h : OnlyCaches s t) (h' : OnlyCaches t u) : OnlyCaches s u :=
  Eq.trans h' (by rw [h])

theorem OnlyCaches.wave? {s t : State} (h : OnlyCaches s t) (r : WaveRef) : t.wave? r = s.wave? r := by
  rw [h]
  cases r <;> rfl

theorem OnlyCaches.enterL1 (s : State) (c : Nat) (e : TlbEntry) : OnlyCaches s (s.enterL1 c e) := rfl

/-- A miss takes its translation from the L2 TLB or from a walk, into the TLBs. -/
theorem OnlyCaches.holdPage (s : State) (w : Who) (va : Nat) : OnlyCaches s (s.holdPage w va) := by
  unfold State.holdPage
  dsimp only
  split
  · exact OnlyCaches.refl s
  · split
    · exact OnlyCaches.refl s
    · split
      case' h_1 c e _ _ => refine OnlyCaches.trans ?_ (OnlyCaches.enterL1 _ c e)
      all_goals
        split
        · exact OnlyCaches.refl s
        · split
          · exact OnlyCaches.refl s
          · cases w.cluster <;> exact rfl

theorem OnlyCaches.holds (s : State) (e : Env) (n : Nat) (l : List (Nat × Nat)) : OnlyCaches s (s.holds e n l) := by
  unfold State.holds State.holdPages
  exact List.foldlRecOn (l.map (·.2)) _ (OnlyCaches.refl s) fun t ht va _ =>
    (ht.trans (OnlyCaches.holdPage t e.who va)).trans (OnlyCaches.holdPage _ _ _)

/-! ### Lines of byte tables -/

theorem State.length_readLocal (s : State) (off n : Nat) : (s.readLocal off n).length = n := by
  rw [State.readLocal, List.length_map, upto, List.length_range]

theorem putBytes_append : ∀ (bs cs : Bytes) (t : Table Byte) (off : Nat),
    putBytes t off (bs ++ cs) = putBytes (putBytes t off bs) (off + bs.length) cs
  | [], _, _, _ => rfl
  | b :: bs, cs, t, off => by
    rw [List.cons_append, putBytes, putBytes_append bs cs, putBytes, List.length_cons, Nat.add_right_comm, Nat.add_assoc]

/-- A line written: itself at its own number, and every other as it was. -/
theorem getBytes_putBytes_line {l : Bytes} (hl : l.length = 64) (t : Table Byte) (r k : Nat) :
    getBytes (putBytes t (64 * r) l) (64 * k) 64 = if k = r then l else getBytes t (64 * k) 64 := by
  split
  · next hk =>
    subst hk
    exact hl ▸ getBytes_putBytes t (64 * k) l
  · next hk =>
    refine List.map_congr_left fun i hi => ?_
    have hi : i < 64 := List.mem_range.mp hi
    rw [get_putBytes, if_neg (by omega)]

/-- Lines written one after another from number `r0` on. -/
theorem getBytes_putBytes_lines (k : Nat) : ∀ (ls : List Bytes) (t : Table Byte) (r0 : Nat), (∀ l ∈ ls, l.length = 64) →
    getBytes (putBytes t (64 * r0) ls.flatten) (64 * k) 64
      = if r0 ≤ k ∧ k < r0 + ls.length then nth [] ls (k - r0) else getBytes t (64 * k) 64
  | [], t, r0, _ => (if_neg (by rw [List.length_nil]; omega)).symm
  | l :: ls, t, r0, hls => by
    have hl : l.length = 64 := hls l List.mem_cons_self
    rw [List.flatten_cons, putBytes_append, hl, (by omega : 64 * r0 + 64 = 64 * (r0 + 1)),
      getBytes_putBytes_lines k ls _ (r0 + 1) fun m hm => hls m (List.mem_cons_of_mem _ hm), getBytes_putBytes_line hl, List.length_cons]
    by_cases hk : k = r0
    · subst hk
      rw [if_neg (by omega), if_pos rfl, if_pos (by omega), Nat.sub_self, nth]
    · rw [if_neg hk]
      by_cases hin : r0 + 1 ≤ k ∧ k < r0 + 1 + ls.length
      · rw [if_pos hin, if_pos (by omega), (by omega : k - r0 = k - (r0 + 1) + 1), nth]
      · rw [if_neg hin, if_neg (by omega)]

/-! ### Operations that wait for nothing -/

/-- Accesses whose bytes are all read or written here leave their operation nothing to wait for (R282). -/
theorem Env.accessOp_ready {as : List Acc} {remote : Nats} (hcxl : cxlOf as = []) (hremote : remote = []) (e : Env) (s : State) (n : Nat)
    (isLoad : Bool) (f : Option Fill) :
    ({ e.accessOp s n as with remote := remote, isLoad := isLoad, fill := f } : PendingOp).ready = true := by
  simp only [PendingOp.ready, Env.accessOp, Env.op, hcxl, hremote]
  rfl

/-- An operation that is no signal and no flush is done when it is ready. -/
theorem State.opReady_of_ready {o : PendingOp} (hready : o.ready = true) (hsignal : o.signal = none) (hafter : o.after = []) (s : State) :
    s.opReady o = true := by
  rw [State.opReady, hsignal, hready, hafter]
  rfl

/-- A class-B operation with no flag that waits for nothing goes on (R282). -/
theorem State.sent_ready {s : State} {e : Env} {o : PendingOp} (hflag : e.flagFor false = none) (hready : s.opReady o = true) (lits : Nat) :
    s.sent e o lits = goOn s lits := by
  rw [State.sent, hflag, if_neg (by simp), if_pos hready]

/-! ### What a store leaves -/

/-- `t` is `s` but for memory and its poison, what it held before an open slot's pass wrote it (R108), the ingots that watch what was
stored (R185), TLBs and L1 data caches, and the ids given. -/
structure StoresInto (s t : State) : Prop where
  rest : t = { s with mem := t.mem, poison := t.poison, trail := t.trail, contexts := t.contexts, caches := t.caches, nextId := t.nextId }
  ctx : ∀ c, (t.ctx? c).map (fun x => { x with ingots := [] }) = (s.ctx? c).map (fun x => { x with ingots := [] })

section
variable {s t u : State}

theorem StoresInto.refl (s : State) : StoresInto s s := ⟨rfl, fun _ => rfl⟩

theorem StoresInto.trans (h : StoresInto s t) (h' : StoresInto t u) : StoresInto s u where
  rest := h'.rest.trans (by rw [h.rest])
  ctx c := (h'.ctx c).trans (h.ctx c)

/-- A change of caches is one that a store makes. -/
theorem StoresInto.of_caches (h : OnlyCaches s t) : StoresInto s t := by
  rw [h]
  exact ⟨rfl, fun _ => rfl⟩

theorem StoresInto.wave? (h : StoresInto s t) (r : WaveRef) : t.wave? r = s.wave? r := by
  rw [h.rest]
  cases r <;> rfl

/-- What a store leaves with its wave gone on is what the statements allow it to leave. -/
theorem StoresInto.onlyStores (h : StoresInto s t) (r : WaveRef) (w : Wave) :
    Claims.OnlyStores { s.setWave r w with poison := (t.setWave r w).poison } (t.setWave r w) := by
  refine ⟨?_, fun c => ?_⟩
  · rw [h.rest]
    cases r <;> rfl
  · have hctx := h.ctx c
    rw [h.rest] at hctx ⊢
    cases r <;> exact hctx

end

/-- A watch changes ingots alone (R185). -/
theorem State.ctx?_mapIngot (s : State) (k i : Nat) (f : Ingot → Ingot) (c : Nat) :
    ((s.mapIngot k i f).ctx? c).map (fun x => { x with ingots := [] }) = (s.ctx? c).map (fun x => { x with ingots := [] }) := by
  unfold State.mapIngot State.mapCtx State.setCtx State.ctx?
  rw [Table.get_set]
  split
  · next hc =>
    subst hc
    rw [Option.map_map]
    rfl
  · rfl

theorem StoresInto.hitWatch (s : State) (off : Nat) : StoresInto s (s.hitWatch off) := by
  refine List.foldlRecOn ((s.die (dieOf off)).watches.get [] (off / 4096)) _ (StoresInto.refl s) fun t ht ci _ => ht.trans ⟨rfl, ?_⟩
  exact State.ctx?_mapIngot t ci.1 ci.2 _

theorem StoresInto.writeLocal (s : State) (off : Nat) (bs : Bytes) (whole : Bool) : StoresInto s (s.writeLocal off bs whole) := by
  have hwatched : StoresInto s (if bs = [] then s else (granules off bs.length).foldl (fun s g => s.hitWatch (4096 * g)) s) := by
    split
    · exact StoresInto.refl s
    · exact List.foldlRecOn (granules off bs.length) _ (StoresInto.refl s) fun t ht g _ => ht.trans (StoresInto.hitWatch t _)
  exact hwatched.trans ⟨rfl, fun _ => rfl⟩

/-- A write's bytes in the L1 are no memory. -/
theorem OnlyCaches.noteWrite (s : State) (w : Who) (cached : Bool) (p : Place) (bs : Bytes) : OnlyCaches s (s.noteWrite w cached p bs) := by
  unfold State.noteWrite
  split
  · split <;> exact rfl
  · exact OnlyCaches.refl s

/-- Bytes stored in one piece of the package's own memory: no request leaves, and they stand where they are stored. -/
theorem State.putSpan_piece {sp : Span} {off : Nat} {bs : Bytes} (hparts : sp.parts = [(.mem off, bs.length)]) (s : State) (w : Who)
    (whole : Bool) (id lane : Nat) (bypass : Bool) :
    (s.putSpan w whole sp bs id lane bypass).2 = [] ∧ StoresInto s (s.putSpan w whole sp bs id lane bypass).1
      ∧ ∀ q, (s.putSpan w whole sp bs id lane bypass).1.byte q
          = if off ≤ q ∧ q < off + bs.length then nth 0 bs (q - off) else s.byte q := by
  have hput : s.putSpan w whole sp bs id lane bypass
      = ((s.writeLocal off bs whole).noteWrite w (!(sp.so || bypass)) (.mem off) bs, []) := by
    unfold State.putSpan State.writeSpan
    rw [hparts]
    simp only [State.writeParts, State.sendParts, State.writePart, List.take_length]
  rw [hput]
  refine ⟨rfl, (StoresInto.writeLocal s off bs whole).trans (.of_caches (OnlyCaches.noteWrite _ _ _ _ _)), fun q => ?_⟩
  rw [← State.writeLocal_byte s off bs whole q, OnlyCaches.noteWrite (s.writeLocal off bs whole)]
  rfl

end Sys2Proof.Machine

namespace Sys2Proof.Claims

open Sys2Proof.Machine

/-! ### One piece of the package's own DRAM -/

/-- The access that `OwnBytes` speaks of, by the span that it has. -/
structure OwnSpan (s : State) (e : Env) (acc : Access) (va n off : Nat) (formed : Bool) (sp : Span) : Prop where
  span : s.span e.who acc va n = .ok sp
  parts : sp.parts = [(.mem off, n)]
  bonded : off < 2 ^ 40
  isFormed : formed = true → sp.formed = true
  ordered : sp.so = true → ∀ o ∈ s.earlier e, o.so = true → o.ended = true ∨ o.remote = [] ∧ o.cxl = [] ∧ o.held = []
  clear : acc = .store → s.sideEffect e.who e.task (s.insidePass e) sp = false

section
variable {s : State} {e : Env} {acc : Access} {va n off : Nat} {formed : Bool} {sp : Span}

theorem ownBytes_iff : OwnBytes s e acc va n off formed ↔ ∃ sp, OwnSpan s e acc va n off formed sp :=
  ⟨fun ⟨sp, hspan, hparts, hoff, hformed, hso, hclear⟩ => ⟨sp, hspan, hparts, hoff, hformed, hso, hclear⟩,
    fun ⟨sp, h⟩ => ⟨sp, h.span, h.parts, h.bonded, h.isFormed, h.ordered, h.clear⟩⟩

theorem OwnSpan.remotes (h : OwnSpan s e acc va n off formed sp) : sp.remotes = [] := by
  rw [Span.remotes, h.parts]
  rfl

theorem OwnSpan.cxlParts (h : OwnSpan s e acc va n off formed sp) (lane : Nat) : sp.cxlParts lane = [] := by
  rw [Span.cxlParts, h.parts]
  exact List.filterMap_cons_none (if_neg (Nat.not_le.mpr h.bonded))

/-- Accesses to the package's own DRAM wait for no destination, and where an earlier access to an SO page is performed they wait for
nothing (R35, R215). -/
theorem accessHeld_of_own {as : List Acc} (h : ∀ a ∈ as, ∃ off, OwnSpan s e acc a.va n off formed a.sp) : s.accessHeld e as = false := by
  refine List.any_eq_false.mpr fun a ha => ?_
  obtain ⟨off, hown⟩ := h a ha
  rw [hown.remotes, List.any_nil, Bool.false_or, Bool.and_eq_true, List.any_eq_true, not_and]
  rintro hso ⟨o, ho, hwaits⟩
  simp only [Bool.and_eq_true, Bool.not_eq_true', Bool.or_eq_true, bne_iff_ne] at hwaits
  obtain ⟨⟨hoso, hended⟩, houtstanding⟩ := hwaits
  rcases hown.ordered hso o ho hoso with hdone | ⟨hremote, hcxl, hheld⟩
  · exact absurd hdone (by simp [hended])
  · simp [hremote, hcxl, hheld] at houtstanding

theorem cxlOf_own {as : List Acc} (h : ∀ a ∈ as, ∃ off, OwnSpan s e acc a.va n off formed a.sp) : cxlOf as = [] :=
  List.flatMap_eq_nil_iff.mpr fun a ha => (h a ha).elim fun _ hown => hown.cxlParts a.lane

end

/-- One more position's store over those before it. -/
theorem storedByte_succ (s : State) (n : Nat) (place : Nat → Nat) (bs : Nat → Bytes) (q : Nat) :
    storedByte s (List.range (n + 1)) place bs q
      = if place n ≤ q ∧ q < place n + (bs n).length then nth 0 (bs n) (q - place n) else storedByte s (List.range n) place bs q := by
  unfold storedByte
  rw [List.range_succ, List.reverse_append, List.reverse_singleton, List.singleton_append, List.find?_cons, ← Bool.decide_and]
  by_cases h : place n ≤ q ∧ q < place n + (bs n).length
  · rw [if_pos h, decide_eq_true h]
  · rw [if_neg h, decide_eq_false h]

end Sys2Proof.Claims
end

section
/-! SUPPORT. Tiles (R193–R195, R398, R399): the fields of the control register, the zero-block bitmap of rows written, and the rows
themselves. -/

namespace Sys2Proof.Machine

open Sys2Proof.Claims

/-! ### The control register (R193) -/

theorem bitsOf_eq (x hi lo : Nat) : bitsOf x hi lo = x / 2 ^ lo % 2 ^ (hi + 1 - lo) := by
  rw [bitsOf, Nat.shiftRight_eq_div_pow]

/-- The width class is the two top bits of a word. -/
theorem bitsOf_top {v : Nat} (hv : v < 2 ^ 32) : bitsOf v 31 30 = v / 2 ^ 30 := by
  rw [bitsOf_eq]
  omega

theorem Tile.rowCount_eq (x : Tile) : x.rowCount = ctlRows x := bitsOf_eq _ 22 16

theorem Tile.cols_eq (x : Tile) : x.cols = ctlCols x := (bitsOf_eq _ 6 0).trans (by rw [Nat.pow_zero, Nat.div_one]; rfl)

theorem Tile.wc_eq (x : Tile) : x.wc = ctlClass x := bitsOf_top x.ctl.isLt

theorem tileCtlLegal_iff {v : Nat} (hv : v < 2 ^ 32) : tileCtlLegal v = true ↔
    v / 2 ^ 23 % 128 = 0 ∧ v / 2 ^ 7 % 512 = 0 ∧ 1 ≤ v / 2 ^ 16 % 128 ∧ v / 2 ^ 16 % 128 ≤ 64 ∧ 1 ≤ v % 128
      ∧ v % 128 ≤ classCount (v / 2 ^ 30) := by
  have hzero : bitsOf v 29 23 = v / 2 ^ 23 % 128 := bitsOf_eq v 29 23
  have hgap : bitsOf v 15 7 = v / 2 ^ 7 % 512 := bitsOf_eq v 15 7
  have hrows : bitsOf v 22 16 = v / 2 ^ 16 % 128 := bitsOf_eq v 22 16
  have hcols : bitsOf v 6 0 = v % 128 := (bitsOf_eq v 6 0).trans (congrArg (· % 128) (Nat.div_one v))
  simp only [tileCtlLegal, bitsOf_top hv, hzero, hgap, hrows, hcols, Bool.and_eq_true, decide_eq_true_eq, and_assoc]

/-! ### The zero-block bitmap (R194) -/

/-- A window of a list, one index after another. -/
theorem all_take_drop {α : Type} (p : α → Bool) (l : List α) (a k : Nat) :
    ((l.drop a).take k).all p = (List.range k).all fun j => (l[a + j]?).all p := by
  rw [Bool.eq_iff_iff, List.all_eq_true, List.all_eq_true]
  constructor
  · intro h j hj
    cases hl : l[a + j]? with
    | none => rfl
    | some v =>
      refine h v (List.mem_iff_getElem?.mpr ⟨j, ?_⟩)
      rw [List.getElem?_take_of_lt (List.mem_range.mp hj), List.getElem?_drop, hl]
  · intro h v hv
    obtain ⟨j, hj⟩ := List.mem_iff_getElem?.mp hv
    have hjk : j < k := Nat.lt_of_lt_of_le (List.getElem?_eq_some_iff.mp hj).1 (List.length_take_le k _)
    rw [List.getElem?_take_of_lt hjk, List.getElem?_drop] at hj
    have hall := h j (List.mem_range.mpr hjk)
    rw [hj] at hall
    exact hall

theorem all_congr_left {α : Type} {l : List α} {p q : α → Bool} (h : ∀ a ∈ l, p a = q a) : l.all p = l.all q := by
  rw [Bool.eq_iff_iff, List.all_eq_true, List.all_eq_true]
  exact forall₂_congr fun a ha => by rw [h a ha]

/-- A value that a consumer reads as zero, or does not read at all. -/
theorem all_isZero_vals (u : Tile) (r c : Nat) : ((u.vals r)[c]?).all FVal.isZero = zeroElem u r c := by
  unfold Tile.vals zeroElem
  rw [Tile.rowCount_eq, Tile.cols_eq]
  by_cases hr : r < ctlRows u
  · rw [if_pos hr, decide_eq_false (Nat.not_le.mpr hr)]
    by_cases hc : c < ctlCols u
    · rw [List.getElem?_take_of_lt hc, decide_eq_false (Nat.not_le.mpr hc)]
      cases (lineVals (u.row r))[c]? <;> rfl
    · rw [List.getElem?_take_eq_none (Nat.le_of_not_lt hc), decide_eq_true (Nat.le_of_not_lt hc)]
      rfl
  · rw [if_neg hr, decide_eq_true (Nat.le_of_not_lt hr)]
    rfl

/-- Block (r, c) of a tile is zero when each of its 64 elements reads as zero. -/
def zeroBlock (u : Tile) (r c : Nat) : Bool := (List.range 8).all fun i => (List.range 8).all fun j => zeroElem u (8 * r + i) (8 * c + j)

/-- The model's test of a block is that of its elements. -/
theorem all_rows_zero (u : Tile) {r : Nat} (hr : r < 8) (c : Nat) :
    (((((upto 64).map fun r => (u.vals r).map (·.isZero)).drop (8 * r)).take 8).all fun l => ((l.drop (8 * c)).take 8).all id)
      = zeroBlock u r c := by
  have hrow (k : Nat) (hk : k < 64) : ((upto 64).map fun r => (u.vals r).map (·.isZero))[k]? = some ((u.vals k).map (·.isZero)) := by
    rw [List.getElem?_map, upto, List.getElem?_range hk, Option.map_some]
  rw [all_take_drop, zeroBlock]
  refine all_congr_left fun i hi => ?_
  have hi : i < 8 := List.mem_range.mp hi
  rw [hrow _ (by omega), Option.all_some, all_take_drop]
  refine all_congr_left fun j _ => ?_
  rw [List.getElem?_map, ← all_isZero_vals]
  cases (u.vals (8 * r + i))[8 * c + j]? <;> rfl

/-- Bit 12·r + c of a list of block numbers. -/
theorem mem_blocks {z : Nat → Nat → Bool} {n r c : Nat} (hn : n ≤ 12) (hr : r < 8) (hc : c < 12) :
    12 * r + c ∈ ((upto 8).flatMap fun r => ((upto n).filter (z r)).map fun c => 12 * r + c) ↔ c < n ∧ z r c = true := by
  simp only [upto, List.mem_flatMap, List.mem_map, List.mem_filter, List.mem_range]
  constructor
  · rintro ⟨r', hr', c', ⟨hc', hz⟩, heq⟩
    obtain rfl : r' = r := by omega
    obtain rfl : c' = c := by omega
    exact ⟨hc', hz⟩
  · exact fun ⟨hcn, hz⟩ => ⟨r, hr, c, ⟨hcn, hz⟩, rfl⟩

theorem blocks_le (wc : Nat) : classCount wc / 8 ≤ 12 := by
  have h : classCount wc ≤ 96 := Nat.div_le_self 96 (2 ^ wc)
  omega

theorem Tile.getLsbD_zeroBlocks (u : Tile) {r c : Nat} (hr : r < 8) (hc : c < 12) :
    u.zeroBlocks.getLsbD (12 * r + c)
      = (decide (ctlClass u ≠ 3) && decide (c < classCount (ctlClass u) / 8) && zeroBlock u r c) := by
  unfold Tile.zeroBlocks
  rw [Tile.wc_eq]
  by_cases h3 : ctlClass u = 3
  · rw [if_pos h3, decide_eq_false (not_not_intro h3), Bool.false_and, Bool.false_and]
    exact BitVec.getLsbD_zero
  · rw [if_neg h3, decide_eq_true h3, Bool.true_and, BitVec.getLsbD_ofNat, decide_eq_true (by omega : 12 * r + c < 96), Bool.true_and,
      testBit_maskOf, ← all_rows_zero u hr, ← Bool.decide_eq_true (b := List.all _ _), ← Bool.decide_and]
    exact decide_eq_decide.mpr (mem_blocks (blocks_le _) hr hc)

/-! ### Rows written (R397, R399) -/

@[simp] theorem Tile.putRows_ctl (x : Tile) (r0 : Nat) (ls : List Bytes) : (x.putRows r0 ls).ctl = x.ctl := rfl

/-- Rows written from number `r0` on leave the bitmap that R194 gives the tile. -/
theorem bitmapOf_putRows (x : Tile) (r0 : Nat) (ls : List Bytes) : BitmapOf (x.putRows r0 ls) := fun _ _ hr hc =>
  Tile.getLsbD_zeroBlocks { x with rows := putBytes x.rows (64 * r0) ls.flatten } hr hc

theorem Tile.row_putRows {ls : List Bytes} (hls : ∀ l ∈ ls, l.length = 64) (x : Tile) (r0 k : Nat) :
    (x.putRows r0 ls).row k = if r0 ≤ k ∧ k < r0 + ls.length then nth [] ls (k - r0) else x.row k :=
  getBytes_putBytes_lines k ls x.rows r0 hls

theorem Tile.row_putRows_single {l : Bytes} (hl : l.length = 64) (x : Tile) (r k : Nat) :
    (x.putRows r [l]).row k = if k = r then l else x.row k := by
  have hrow : (x.putRows r [l]).row k = getBytes (putBytes x.rows (64 * r) l) (64 * k) 64 := by
    rw [Tile.row, Tile.putRows, List.flatten_singleton]
  rw [hrow, getBytes_putBytes_line hl]
  rfl

/-! ### Lines of 64 bytes -/

theorem length_leBytes : ∀ n x : Nat, (leBytes n x).length = n
  | 0, _ => rfl
  | n + 1, x => congrArg (· + 1) (length_leBytes n (x / 256))

theorem length_mkLine (c sc : Nat) (codes side : Nats) : (mkLine c sc codes side).length = 64 := by
  simp only [mkLine, List.length_append, List.length_cons, List.length_nil, length_leBytes, List.length_map, upto, List.length_range]

theorem Tile.length_row (x : Tile) (r : Nat) : (x.row r).length = 64 := by
  rw [Tile.row, getBytes, List.length_map, upto, List.length_range]

theorem Tile.length_padRow (x : Tile) (r : Nat) : (x.padRow r).length = 64 := by
  unfold Tile.padRow padLine
  split
  · dsimp only
    split
    · exact Tile.length_row x r
    · exact length_mkLine _ _ _ _
  · exact List.length_replicate

theorem Env.length_image (e : Env) (r : Nat) (h : Bool) : (e.image r h).length = 64 := by
  simp only [Env.image, List.length_flatMap, length_leBytes, List.map_const', upto, List.length_range, List.sum_replicate_nat]

/-- A line that may enter a tile passes the tile's checks (R158, R159, R194). -/
theorem Tile.checkRow_of_admits {x : Tile} {line : Bytes} (h : Admits x line) : x.checkRow line = none := by
  rw [Tile.checkRow, h.1, Tile.wc_eq]
  exact if_neg fun hbad => h.2.elim hbad.1 hbad.2

end Sys2Proof.Machine
end

section
/-! SUPPORT. TCFG, TZERO, TWR and TRD (R395, R396, R399): a tile of the issuing gang written, and a row of it read. -/

namespace Sys2Proof.Machine

open Sys2Proof.Claims

section
variable {s : State} {e : Env} {op t : Nat} {g : Gang} {x : Tile}

theorem State.tile_ok (h : MyTile s e t g x) : s.tile e t = .ok x := by
  rw [State.tile, State.myGang, h.gang, Option.bind_some, h.tile]

/-- An instruction that writes a tile and goes on in line. -/
theorem Issuing.setTile {lits : Nat} {y : Tile} (h : Issuing s e op) {f : Env → Except Flt Out}
    (hf : f e = Machine.goOn (s.setTile e t y) lits) :
    issue op s f = .next ((s.setTile e t y).setWave e.ref (e.w.wentOn e op lits)) :=
  h.goOn_from hf ((s.wave?_mapGang_of_keeps e.task e.gang (fun _ => rfl) e.ref).trans h.wave)

theorem Env.vecReg_ok {v : Nat} (hv : v < 16 * e.blocks) : e.vecReg (.v v) 1 = .ok v := if_pos hv

end

/-- The active lanes of one half of a wave, by their place in it (R358). -/
theorem lanes_half (m : Word) (hi : Bool) : (lanesOf m).filter (fun L => decide (L / 16 = hi.toNat))
    = ((upto 16).filter fun i => (lanesOf m).contains ((if hi then 16 else 0) + i)).map fun i => (if hi then 16 else 0) + i := by
  have hhalf : (List.range 32).filter (fun L => decide (L / 16 = hi.toNat)) = (List.range 16).map fun i => (if hi then 16 else 0) + i := by
    cases hi <;> decide
  have hlanes (i : Nat) : (lanesOf m).contains i = bitOf m.toNat i := by
    rw [Bool.eq_iff_iff, List.contains_iff_mem, mem_lanesOf, bitOf_toNat]
  calc (lanesOf m).filter (fun L => decide (L / 16 = hi.toNat))
      = ((List.range 32).filter fun L => decide (L / 16 = hi.toNat)).filter fun i => bitOf m.toNat i := by
        rw [lanesOf, bitsBelow, upto, List.filter_filter, List.filter_filter]
        exact List.filter_congr fun _ _ => Bool.and_comm _ _
    _ = ((List.range 16).filter ((fun i => bitOf m.toNat i) ∘ fun i => (if hi then 16 else 0) + i)).map fun i =>
          (if hi then 16 else 0) + i := by
        rw [hhalf, List.filter_map]
    _ = _ := by
        refine congrArg _ (List.filter_congr fun i _ => (hlanes _).symm)

end Sys2Proof.Machine

namespace Sys2Proof.Claims

open Sys2Proof.Machine

section
variable {s : State} {e : Env} {t : Nat} {g : Gang} {x : Tile}

theorem tcfg_of_legal {a : Opd} {ls : List Word} {v : Nat} (hm : MyTile s e t g x) (h : Issuing s e 0xB0) (hoff : e.off = false)
    (ha : ScalarIn e a 1 e.lits ls v) (hv : v < 2 ^ 32) (hlegal : tileCtlLegal v = true) :
    LeavesState (.tcfg t a) s e 0xB0 (e.used ls)
      (s.setTile e t { x with ctl := BitVec.ofNat 32 v, rows := if v / 2 ^ 30 = ctlClass x then x.rows else [] }) := by
  obtain ⟨y, hy, hclass, hread⟩ := ha
  refine h.setTile (f := _) ?_
  simp only [Env.scalarOf_ok hy hclass, State.tile_ok hm, Env.readLow_ok hread, hoff, hlegal, bitsOf_top hv, Tile.wc_eq, bind, Except.bind,
    Bool.not_true, Bool.false_eq_true, if_false]

theorem tcfg_of_illegal {a : Opd} {ls : List Word} {v : Nat} (hm : MyTile s e t g x) (h : Issuing s e 0xB0) (hoff : e.off = false)
    (ha : ScalarIn e a 1 e.lits ls v) (hlegal : tileCtlLegal v = false) :
    exec (.tcfg t a) s = .next (s.takeFault e.ref e.p { code := 0x02 }) := by
  obtain ⟨y, hy, hclass, hread⟩ := ha
  refine h.fault (f := _) ?_
  simp only [Env.scalarOf_ok hy hclass, State.tile_ok hm, Env.readLow_ok hread, hoff, hlegal, bind, Except.bind, Bool.not_false,
    Bool.false_eq_true, if_true, if_false]
  rfl

theorem tzero_goesOn (hm : MyTile s e t g x) (h : Issuing s e 0xB5) :
    LeavesState (.tzero t) s e 0xB5 0 (s.setTile e t { x with rows := [] }) := by
  refine h.setTile (f := _) ?_
  rw [State.tile_ok hm]
  rfl

theorem twr_goesOn {v r : Nat} {hi : Bool} (hm : MyTile s e t g x) (h : Issuing s e 0xB3) (hv : v < 16 * e.blocks) (hlanes : e.lanes ≠ [])
    (hpoison : e.imagePoison v hi = .ok ()) (hadmits : Admits x (e.image v hi)) :
    LeavesState (.twr t (.v v) hi r) s e 0xB3 0 (s.setTile e t (x.putRows r [e.image v hi])) := by
  refine h.setTile (f := _) ?_
  simp only [Env.vecReg_ok hv, State.tile_ok hm, hlanes, hpoison, Tile.checkRow_of_admits hadmits, bind, Except.bind, if_false]

theorem trd_completes {v r : Nat} {hi : Bool} (hm : MyTile s e t g x) (h : Issuing s e 0xB4) (hv : v < 16 * e.blocks) :
    CompletesAt (.trd (.v v) t hi r) s e 0xB4 0 (.vec v) 1 (e.lanes.filter fun L => decide (L / 16 = hi.toNat))
      (fun L => (fieldAt (x.padRow r) (4 * (L % 16)) 4, false)) 0 := by
  refine values_complete (F := _) h rfl (fun L hL => (List.mem_filter.mp hL).1) ?_
  simp only [Env.vecReg_ok hv, State.tile_ok hm, bind, Except.bind]
  refine congrArg (fun ws => goOn (s.write e ws) 0) ?_
  rw [Env.lanes, lanes_half, List.flatMap_map, List.map_eq_flatMap, List.flatMap_def, List.flatMap_def]
  refine congrArg List.flatten (List.map_congr_left fun i hi16 => ?_)
  have hi16 : i < 16 := List.mem_range.mp (List.mem_filter.mp hi16).1
  have hplace : ((if hi then 16 else 0) + i) % 16 = i := by split <;> omega
  rw [hplace]
  rfl

end

end Sys2Proof.Claims
end

section
/-! SUPPORT. TLD (R397): the rows read, and the tile and its mould as they land. -/

namespace Sys2Proof.Machine

open Sys2Proof.Claims

/-! ### The rows of TLD and TST -/

/-- The access of row `r`. -/
def rowAcc (va : Nat → Nat) (sp : Nat → Span) (r : Nat) : Acc := { lane := 0xFF, va := va r, sp := sp r }

/-- A list built from its end, each element in front of what follows it. -/
theorem foldr_ok {α β ε : Type} {f : α → Except ε (List β) → Except ε (List β)} {g : α → β} : ∀ {l : List α},
    (∀ a ∈ l, ∀ bs, f a (.ok bs) = .ok (g a :: bs)) → l.foldr f (.ok []) = .ok (l.map g)
  | [], _ => rfl
  | a :: t, h => by
    rw [List.foldr_cons, foldr_ok fun b hb => h b (List.mem_cons_of_mem _ hb), h a List.mem_cons_self, List.map_cons]

/-- A numbered run of accesses, taken up from its end. -/
theorem foldl_numbered_succ {α β : Type} (f : Nat → α) (step : β → α × Nat → β) (b : β) (n : Nat) :
    ((upto (n + 1)).map f).zipIdx.foldl step b = step (((upto n).map f).zipIdx.foldl step b) (f n, n) := by
  rw [upto, List.range_succ, List.map_append, List.zipIdx_append, List.foldl_append, List.length_map, List.length_range, Nat.zero_add]
  rfl

section
variable {s : State} {e : Env} {acc : Access} {base st n : Nat} {off : Nat → Nat} {sp : Nat → Span}

/-- Rows in the package's own DRAM, on FORMED pages, pass the checks of R397. -/
theorem tileRows_own (hbase : base % 64 = 0) (hst : st % 64 = 0)
    (h : ∀ r, r < n → OwnSpan s e acc (rowAddr base st r) 64 (off r) true (sp r)) :
    s.tileRows e acc base st n = .ok ((upto n).map (rowAcc (rowAddr base st) sp)) := by
  unfold State.tileRows
  rw [if_neg (by omega)]
  refine foldr_ok fun r hr bs => ?_
  have hown := h r (List.mem_range.mp hr)
  simp only [hown.span, hown.isFormed rfl, Bool.not_true, Bool.false_and, Bool.false_eq_true, if_false]
  rfl

/-- What holds of the access of every row. -/
theorem own_of_mem_rows {va : Nat → Nat} (h : ∀ r, r < n → OwnSpan s e acc (va r) 64 (off r) true (sp r)) :
    ∀ a ∈ (upto n).map (rowAcc va sp), ∃ off, OwnSpan s e acc a.va 64 off true a.sp := by
  intro a ha
  obtain ⟨r, hr, rfl⟩ := List.mem_map.mp ha
  exact ⟨off r, h r (List.mem_range.mp hr)⟩

end

/-! ### Rows read -/

/-- A read of own memory that bypasses the L1 has the home's bytes (R190). -/
theorem State.fetchPart_home (s : State) (w : Who) (off n : Nat) :
    (s.fetchPart w false (.mem off) n).1 = s.readLocal off n
      ∧ OnlyCaches s (s.fetchPart w false (.mem off) n).2.2 := by
  unfold State.fetchPart
  cases w.core <;> exact ⟨rfl, rfl⟩

/-- A fill of one piece of own memory that bypasses the L1. -/
theorem Gather.access_home (g : Gather) (e : Env) (id unit : Nat) (a : Acc) (off n : Nat) :
    (g.access e id unit false a [(.mem off, n)] 0).remote = g.remote
      ∧ (g.access e id unit false a [(.mem off, n)] 0).data = putBytes g.data (64 * unit) (g.s.readLocal off n)
      ∧ OnlyCaches g.s (g.access e id unit false a [(.mem off, n)] 0).s := by
  obtain ⟨hbytes, hs⟩ := g.s.fetchPart_home e.who off n
  simp only [Gather.access, Bool.false_and, Nat.add_zero, hbytes]
  exact ⟨trivial, trivial, hs⟩

/-- What the rows of a TLD have read: each its own bytes, with no request sent. -/
structure GatheredRows (s : State) (off : Nat → Nat) (n : Nat) (g : Gather) : Prop where
  remote : g.remote = []
  rest : g.s = { s with nextId := s.nextId + 1, caches := g.s.caches }
  rows : ∀ r, r < n → getBytes g.data (64 * r) 64 = s.readLocal (off r) 64

theorem gatherRows_own (s : State) (e : Env) (va off : Nat → Nat) (sp : Nat → Span) : ∀ n,
    (∀ r, r < n → (sp r).parts = [(.mem (off r), 64)]) → GatheredRows s off n (s.gatherRows e ((upto n).map (rowAcc va sp)))
  | 0, _ => ⟨rfl, rfl, fun _ hr => absurd hr (Nat.not_lt_zero _)⟩
  | n + 1, h => by
    have ih := gatherRows_own s e va off sp n fun r hr => h r (Nat.lt_succ_of_lt hr)
    unfold State.gatherRows at ih ⊢
    rw [foldl_numbered_succ]
    generalize ((upto n).map (rowAcc va sp)).zipIdx.foldl _ _ = g at ih ⊢
    have hparts : (rowAcc va sp n).sp.parts = [(.mem (off n), 64)] := h n (Nat.lt_succ_self n)
    obtain ⟨hremote, hdata, hs⟩ := g.access_home e s.nextId n (rowAcc va sp n) (off n) 64
    have hlocal : g.s.readLocal (off n) 64 = s.readLocal (off n) 64 := by rw [ih.rest]; rfl
    dsimp only
    rw [hparts]
    refine ⟨hremote.trans ih.remote, Eq.trans hs (by rw [ih.rest]), fun r hr => ?_⟩
    rw [hdata, hlocal, getBytes_putBytes_line (s.length_readLocal _ _)]
    split
    · next hrn => rw [hrn]
    · next hrn => exact ih.rows r (by omega)

theorem lines_rowsOf (as : List Acc) (data : Table Byte) :
    (rowsOf as data).map (·.2) = (List.range as.length).map fun r => getBytes data (64 * r) 64 := by
  rw [rowsOf, List.map_map, List.range_eq_range', ← List.zipIdx_map_snd 0 as, List.map_map]
  rfl

/-- The lines that the rows of a TLD hold. -/
def lineList (s : State) (off : Nat → Nat) (n : Nat) : List Bytes := (List.range n).map fun r => s.readLocal (off r) 64

theorem length_lineList (s : State) (off : Nat → Nat) (n : Nat) : (lineList s off n).length = n := by
  rw [lineList, List.length_map, List.length_range]

theorem length_of_mem_lineList (s : State) (off : Nat → Nat) (n : Nat) : ∀ l ∈ lineList s off n, l.length = 64 := fun l hl => by
  obtain ⟨r, -, rfl⟩ := List.mem_map.mp hl
  exact s.length_readLocal _ _

theorem Tile.row_putRows_lineList (x : Tile) (s : State) (off : Nat → Nat) (n r : Nat) :
    (x.putRows 0 (lineList s off n)).row r = if r < n then s.readLocal (off r) 64 else x.row r := by
  rw [Tile.row_putRows (length_of_mem_lineList s off n), length_lineList, Nat.zero_add, Nat.sub_zero, lineList, nth_map_range]
  by_cases hr : r < n
  · rw [if_pos ⟨Nat.zero_le r, hr⟩, if_pos hr, if_pos hr]
  · rw [if_neg fun h => hr h.2, if_neg hr]

theorem GatheredRows.lines {s : State} {off : Nat → Nat} {n : Nat} {g : Gather} (h : GatheredRows s off n g) (f : Nat → Acc) :
    (rowsOf ((upto n).map f) g.data).map (·.2) = lineList s off n := by
  rw [lines_rowsOf, List.length_map, upto, List.length_range]
  exact List.map_congr_left fun r hr => h.rows r (List.mem_range.mp hr)

/-- No row stops a TLD whose every line may enter the tile (R397). -/
theorem tileStop_of_admits {x : Tile} {rows : List (Acc × Bytes)} (h : ∀ l ∈ rows.map (·.2), Admits x l) : tileStop x rows = none :=
  List.findSome?_eq_none_iff.mpr fun row hrow => by
    rw [Tile.checkRow_of_admits (h row.2 (List.mem_map_of_mem hrow)), Option.map_none]

/-! ### The mould (R196, R198) -/

/-- `u` has the memory and the waves of `s`, and the gang `g` with its mould `t` FILLING and in the phase that it had. -/
structure Filling (s u : State) (e : Env) (t : Nat) (g : Gang) : Prop where
  mem : u.mem = s.mem
  wave : ∀ r, u.wave? r = s.wave? r
  gang : ∃ h : Gang, u.gang? e.task e.gang = some h ∧ h.tiles = g.tiles
    ∧ (h.moulds.get {} t).state = .filling ∧ (h.moulds.get {} t).phase = (g.moulds.get {} t).phase

theorem Filling.of_held {s s' u : State} {e : Env} {t : Nat} {g : Gang} (hheld : OnlyCaches s s') (h : Filling s' u e t g) :
    Filling s u e t g :=
  ⟨h.mem.trans (by rw [hheld]), fun r => (h.wave r).trans (hheld.wave? r), h.gang⟩

theorem State.mould_own {s : State} {e : Env} {t : Nat} {g : Gang} (ht : t < 32) (hg : s.gang? e.task e.gang = some g) :
    s.mould e t = { g.moulds.get {} t with owned := true, owner := g.thread } := by
  rw [State.mould, if_neg (by omega), State.myGang, hg]

/-- The first step of a TLD whose mould is FREE or FILLING. -/
theorem filling_of {s : State} {e : Env} {t : Nat} {g : Gang} {m : Mould} (ht : t < 32) (hg : s.gang? e.task e.gang = some g)
    (hm : m = { g.moulds.get {} t with owned := true, owner := g.thread })
    (hstate : (g.moulds.get {} t).state = .free ∨ (g.moulds.get {} t).state = .filling) :
    Filling s (if m.state = .free then s.setMould e t (m.enter .filling) else s) e t g := by
  subst hm
  dsimp only
  split
  · rw [State.setMould, State.setMouldOf, if_neg (by omega)]
    refine ⟨rfl, fun r => s.wave?_mapGang_of_keeps e.task e.gang (fun _ => rfl) r, _,
      State.gang?_mapGang_some hg (by intro y; exact ⟨rfl, rfl⟩), rfl, ?_⟩
    rw [Table.get_set_same]
    exact ⟨rfl, rfl⟩
  · next hfree => exact ⟨rfl, fun _ => rfl, g, hg, rfl, hstate.resolve_left hfree, rfl⟩

/-! ### The landing (R397) -/

/-- A gang in which the rows of a TLD land in tile `t`. -/
def Gang.land (t : Nat) (ls : List Bytes) (x : Gang) : Gang :=
  { x with tiles := setNth x.tiles t ((nth {} x.tiles t).putRows 0 ls)
           moulds := if (x.moulds.get {} t).state = .filling then x.moulds.set {} t ((x.moulds.get {} t).enter .full) else x.moulds }

theorem State.landTile_eq {o : PendingOp} {k g t : Nat} {ls : List Bytes} (ho : o.tile = some (k, g, t, ls)) (s : State) :
    s.landTile o = s.mapGang k g (Gang.land t ls) := by
  unfold State.landTile
  rw [ho]
  rfl

/-- Rows read without a flag land as their issue goes on. -/
theorem State.tldRows_lands {s : State} {e : Env} {x : Tile} {rows : List (Acc × Bytes)} (hflag : e.flagFor false = none)
    (hstop : tileStop x rows = none) (t : Nat) (homes : Nats) (lits : Nat) :
    s.tldRows e t x homes rows lits
      = goOn (({ s with nextId := s.nextId + 1 } : State).mapGang e.task e.gang (Gang.land t (rows.map (·.2)))) lits := by
  unfold State.tldRows
  rw [hstop, hflag]
  dsimp only
  rw [if_neg (by simp), State.sent_ready hflag rfl, State.landTile_eq rfl]

/-- The tile and the mould that have landed. -/
theorem Gang.land_spec {x : Gang} {t : Nat} {y : Tile} (ls : List Bytes) (hy : x.tiles[t]? = some y)
    (hm : (x.moulds.get {} t).state = .filling) :
    (x.land t ls).tiles[t]? = some (y.putRows 0 ls) ∧ ((x.land t ls).moulds.get {} t).state = .full
      ∧ ((x.land t ls).moulds.get {} t).phase = !(x.moulds.get {} t).phase := by
  obtain ⟨hlt, hget⟩ := List.getElem?_eq_some_iff.mp hy
  refine ⟨?_, ?_⟩
  · rw [Gang.land, nth_getElem _ _ _ hlt, hget]
    exact getElem?_setNth _ _ _ hlt
  · rw [Gang.land, if_pos hm, Table.get_set_same]
    refine ⟨rfl, ?_⟩
    rw [Mould.enter, hm]
    rfl

end Sys2Proof.Machine
end

section
/-! SUPPORT. The issues of TLD and TST whose rows lie in the package's own DRAM (R397, R398), and the statement on tiles. -/

namespace Sys2Proof.Machine

open Sys2Proof.Claims

/-! ### TLD (R397) -/

/-- `v` has the memory and the waves of `s`, and the gang `g` with the lines `ls` in its tile `t`, which was `x`, and that tile's mould
FULL in its next phase. -/
structure Landed (s v : State) (e : Env) (t : Nat) (g : Gang) (x : Tile) (ls : List Bytes) : Prop where
  mem : v.mem = s.mem
  wave : ∀ r, v.wave? r = s.wave? r
  gang : ∃ h : Gang, v.gang? e.task e.gang = some h ∧ h.tiles[t]? = some (x.putRows 0 ls)
    ∧ (h.moulds.get {} t).state = .full ∧ (h.moulds.get {} t).phase = !(g.moulds.get {} t).phase

/-- The lines land in the tile of a gang whose mould is FILLING. -/
theorem Filling.lands {s u : State} {e : Env} {t : Nat} {g : Gang} {x : Tile} (h : Filling s u e t g) (hx : g.tiles[t]? = some x)
    (c : Caches) (n : Nat) (ls : List Bytes) :
    Landed s (({ u with caches := c, nextId := n } : State).mapGang e.task e.gang (Gang.land t ls)) e t g x ls := by
  obtain ⟨y, hgang, htiles, hfilling, hphase⟩ := h.gang
  obtain ⟨htile, hfull, hturned⟩ := Gang.land_spec ls (htiles ▸ hx) hfilling
  refine ⟨h.mem, fun r => ?_, _, State.gang?_mapGang_some hgang (by intro z; exact ⟨rfl, rfl⟩), htile, hfull, hphase ▸ hturned⟩
  rw [State.wave?_mapGang_of_keeps _ e.task e.gang (fun _ => rfl) r, ← h.wave r]
  cases r <;> rfl

section
variable {s : State} {e : Env} {t : Nat} {g : Gang} {x : Tile} {a b : Opd} {l1 l2 : List Word} {base st : Nat} {off : Nat → Nat}
  {sp : Nat → Span}

/-- The translations of the rows are held as the issue begins (R188). -/
theorem rowsHeld_eq (s : State) (e : Env) (x : Tile) (base st : Nat) :
    s.holds e 64 ((upto x.rowCount).map fun r => (0xFF, rowAddr base st r)) = rowsHeld s e x base st := by
  rw [Tile.rowCount_eq]
  rfl

theorem rowsHeld_eq_of_map (s : State) (e : Env) (x : Tile) (base st : Nat) :
    s.holds e 64 (((upto x.rowCount).map fun r => rowAddr base st r).map fun va => (0xFF, va)) = rowsHeld s e x base st := by
  rw [List.map_map]
  exact rowsHeld_eq s e x base st

theorem onlyCaches_rowsHeld (s : State) (e : Env) (x : Tile) (base st : Nat) : OnlyCaches s (rowsHeld s e x base st) :=
  OnlyCaches.holds s e 64 _

/-- The rows of a TLD, read as it issues, may all enter the tile. -/
theorem tileStop_gathered {u : State} {va : Nat → Nat} {n : Nat} {gr : Gather} (hread : GatheredRows u off n gr)
    (hmem : u.mem = s.mem) (hadmits : ∀ r, r < n → Admits x (s.readLocal (off r) 64)) :
    tileStop x (rowsOf ((upto n).map (rowAcc va sp)) gr.data) = none := by
  refine tileStop_of_admits fun l hl => ?_
  rw [hread.lines] at hl
  obtain ⟨r, hr, rfl⟩ := List.mem_map.mp hl
  have hline : u.readLocal (off r) 64 = s.readLocal (off r) 64 := by simp only [State.readLocal, State.byte, hmem]
  rw [hline]
  exact hadmits r (List.mem_range.mp hr)

/-- The first issue of a TLD whose rows are read as it issues: they land in the tile, and the path goes on. -/
theorem tld_lands (hm : MyTile s e t g x) (h : Issuing s e 0xB1) (hfresh : Fresh e) (ht : t < 32) (hflag : e.flagFor false = none)
    (ha : ScalarIn e a 2 e.lits l1 base) (hb : ScalarIn e b 1 l1 l2 st) (hbase : base % 64 = 0) (hst : st % 64 = 0)
    (hstate : (g.moulds.get {} t).state = .free ∨ (g.moulds.get {} t).state = .filling)
    (hown : ∀ r, r < ctlRows x → OwnSpan (rowsHeld s e x base st) e .load (rowAddr base st r) 64 (off r) true (sp r))
    (hadmits : ∀ r, r < ctlRows x → Admits x (s.readLocal (off r) 64)) :
    ∃ v, Landed s v e t g x (lineList s off (ctlRows x))
      ∧ exec (.tld t a b) s = .next (v.setWave e.ref (e.w.wentOn e 0xB1 (e.used l2))) := by
  obtain ⟨y, hy, hyclass, hyread⟩ := ha
  obtain ⟨z, hz, hzclass, hzread⟩ := hb
  have hheld := onlyCaches_rowsHeld s e x base st
  have hgang : (rowsHeld s e x base st).gang? e.task e.gang = some g := by rw [hheld]; exact hm.gang
  have hmould := State.mould_own ht hm.gang
  have hfilling := (filling_of ht hgang hmould hstate).of_held hheld
  generalize hu : (if (s.mould e t).state = .free then (rowsHeld s e x base st).setMould e t ((s.mould e t).enter .filling)
    else rowsHeld s e x base st) = u at hfilling
  have hread := gatherRows_own u e (rowAddr base st) off sp (ctlRows x) fun r hr => (hown r hr).parts
  have hlines : lineList u off (ctlRows x) = lineList s off (ctlRows x) := by
    simp only [lineList, State.readLocal, State.byte, hfilling.mem]
  have hstop := tileStop_gathered (va := rowAddr base st) (sp := sp) hread hfilling.mem hadmits
  have hpasses : ¬((s.mould e t).state ≠ .free ∧ (s.mould e t).state ≠ .filling) := by
    rw [hmould]
    exact fun hbad => hstate.elim hbad.1 hbad.2
  have hland := hfilling.lands hm.tile
    (u.gatherRows e ((upto (ctlRows x)).map (rowAcc (rowAddr base st) sp))).s.caches (u.nextId + 2)
    (lineList s off (ctlRows x))
  refine ⟨_, hland, h.goOn_from (f := _) ?_ ((hland.wave e.ref).trans h.wave)⟩
  simp only [Env.scalarOf_ok hy hyclass, Env.scalarOf_ok hz hzclass, State.tile_ok hm, Env.readLow_ok hyread, Env.readLow_ok hzread,
    bind, Except.bind]
  split
  · next id hid => exact absurd hid (hfresh id)
  · rw [if_neg hpasses, rowsHeld_eq_of_map, hu, Tile.rowCount_eq, tileRows_own hbase hst hown]
    dsimp only
    rw [accessHeld_of_own (own_of_mem_rows hown)]
    refine (if_neg Bool.false_ne_true).trans ((if_pos (Env.accessOp_ready (cxlOf_own (own_of_mem_rows hown)) hread.remote _ _ _ _ _)).trans ?_)
    rw [State.tldRows_lands hflag hstop, hread.lines, hlines]
    exact congrArg (fun w : State => goOn (w.mapGang e.task e.gang (Gang.land t (lineList s off (ctlRows x)))) (e.used l2))
      (by rw [hread.rest])

end

/-! ### TST (R398) -/

/-- One row written, through the padding view and past the L1. -/
def putRow (e : Env) (x : Tile) (id : Nat) (k : State × Nats) (xr : Acc × Nat) : State × Nats :=
  let r := k.1.putSpan e.who true xr.1.sp (x.padRow xr.2) id 0xFF true
  (r.1, k.2 ++ r.2)

theorem State.rowsToStore_uncut {s : State} (h : ¬s.cut = true) (as : List Acc) : s.rowsToStore as = (s, as) := if_neg h

/-- What the rows of a TST have stored, with no request sent. -/
structure StoredRows (s : State) (x : Tile) (off : Nat → Nat) (n : Nat) (k : State × Nats) : Prop where
  ids : k.2 = []
  stores : StoresInto s k.1
  bytes : ∀ q, k.1.byte q = storedByte s (List.range n) off (fun r => x.padRow r) q

theorem storedRows_own (s : State) (e : Env) (x : Tile) (id : Nat) (va off : Nat → Nat) (sp : Nat → Span) : ∀ n,
    (∀ r, r < n → (sp r).parts = [(.mem (off r), 64)]) →
      StoredRows s x off n (((upto n).map (rowAcc va sp)).zipIdx.foldl (putRow e x id) (s, []))
  | 0, _ => ⟨rfl, StoresInto.refl s, fun _ => rfl⟩
  | n + 1, h => by
    have ih := storedRows_own s e x id va off sp n fun r hr => h r (Nat.lt_succ_of_lt hr)
    rw [foldl_numbered_succ]
    generalize ((upto n).map (rowAcc va sp)).zipIdx.foldl _ _ = k at ih ⊢
    have hparts : (rowAcc va sp n).sp.parts = [(.mem (off n), (x.padRow n).length)] := by
      rw [Tile.length_padRow]
      exact h n (Nat.lt_succ_self n)
    obtain ⟨hids, hstores, hbytes⟩ := State.putSpan_piece hparts k.1 e.who true id 0xFF true
    refine ⟨?_, ih.stores.trans hstores, fun q => ?_⟩
    · rw [putRow, ih.ids, hids]
      rfl
    · rw [storedByte_succ, ← ih.bytes q]
      exact hbytes q

section
variable {s : State} {e : Env} {t : Nat} {g : Gang} {x : Tile} {a b : Opd} {l1 l2 : List Word} {base st : Nat} {off : Nat → Nat}
  {sp : Nat → Span}

/-- The first issue of a TST that no quench cuts: its rows are stored, and the path goes on. -/
theorem tst_stores (hm : MyTile s e t g x) (h : Issuing s e 0xB2) (hfresh : Fresh e) (hflag : e.flagFor false = none) (hcut : s.cut = false)
    (hfree : s.writeHeld e = false) (ha : ScalarIn e a 2 e.lits l1 base) (hb : ScalarIn e b 1 l1 l2 st) (hbase : base % 64 = 0)
    (hst : st % 64 = 0)
    (hown : ∀ r, r < ctlRows x → OwnSpan (rowsHeld s e x base st) e .store (rowAddr base st r) 64 (off r) true (sp r)) :
    ∃ v, StoresInto s v ∧ (∀ q, v.byte q = storedByte s (List.range (ctlRows x)) off (fun r => x.padRow r) q)
      ∧ exec (.tst t a b) s = .next (v.setWave e.ref (e.w.wentOn e 0xB2 (e.used l2))) := by
  obtain ⟨y, hy, hyclass, hyread⟩ := ha
  obtain ⟨z, hz, hzclass, hzread⟩ := hb
  have hheld := onlyCaches_rowsHeld s e x base st
  generalize hs' : rowsHeld s e x base st = s' at hheld hown
  have hown' := own_of_mem_rows hown
  have hclear : ((upto (ctlRows x)).map (rowAcc (rowAddr base st) sp)).find?
      (fun a => !e.handler && s'.sideEffect e.who e.task (s'.insidePass e) a.sp) = none := by
    refine List.find?_eq_none.mpr fun a ha => ?_
    obtain ⟨off, hrow⟩ := hown' a ha
    rw [hrow.clear rfl, Bool.and_false]
    exact Bool.false_ne_true
  have hwrites : s'.writeHeld e = false := by rw [hheld]; exact hfree
  have hwhole : ¬s'.cut = true := by rw [hheld, hcut]; exact Bool.false_ne_true
  have hcount : StoresInto s { s' with nextId := s'.nextId + 1 } := (StoresInto.of_caches hheld).trans ⟨rfl, fun _ => rfl⟩
  have hrows := storedRows_own { s' with nextId := s'.nextId + 1 } e x s'.nextId (rowAddr base st) off sp (ctlRows x) fun r hr =>
    (hown r hr).parts
  have hstores := hcount.trans hrows.stores
  refine ⟨_, hstores, fun q => (hrows.bytes q).trans ?_, h.goOn_from (f := _) ?_ ((hstores.wave? e.ref).trans h.wave)⟩
  · unfold storedByte
    rw [hheld]
    rfl
  rw [Env.held_fresh hfresh]
  simp only [Env.scalarOf_ok hy hyclass, Env.scalarOf_ok hz hzclass, State.tile_ok hm, Env.readLow_ok hyread, Env.readLow_ok hzread,
    bind, Except.bind]
  rw [rowsHeld_eq, hs', Tile.rowCount_eq, tileRows_own hbase hst hown]
  dsimp only
  rw [hclear, accessHeld_of_own hown', hwrites, State.rowsToStore_uncut hwhole]
  refine (if_neg Bool.false_ne_true).trans ((if_neg hwhole).trans ?_)
  exact State.sent_ready hflag (State.opReady_of_ready (Env.accessOp_ready (cxlOf_own hown') hrows.ids _ _ _ _ _) rfl rfl _) _

end

end Sys2Proof.Machine

namespace Sys2Proof.Claims

open Sys2Proof.Machine

/-- Rows each in one piece of the package's own DRAM have a span each. -/
theorem exists_ownSpans {s : State} {e : Env} {acc : Access} {va off : Nat → Nat} {n : Nat}
    (h : ∀ r, r < n → OwnBytes s e acc (va r) 64 (off r) true) :
    ∃ sp : Nat → Span, ∀ r, r < n → OwnSpan s e acc (va r) 64 (off r) true (sp r) := by
  refine Classical.skolem (p := fun r sp => r < n → OwnSpan s e acc (va r) 64 (off r) true sp).mp fun r => ?_
  by_cases hr : r < n
  · obtain ⟨sp, hsp⟩ := ownBytes_iff.mp (h r hr)
    exact ⟨sp, fun _ => hsp⟩
  · exact ⟨{ va := 0, parts := [] }, fun hr' => absurd hr' hr⟩

/-- Settles O29: each tile instruction leaves the tile, the register or the memory that its rule names; a TLD's rows are read as it
issues and land at once, and a TST's are stored one over the other in their order. -/
theorem tileResults : Obligations.TileResults := by
  unfold Obligations.TileResults
  intro s e t g x hm tiles
  refine ⟨fun a ls v h hoff ha hv => ?_, fun h => tzero_goesOn hm h,
    fun a b l1 l2 base st off h hfresh ht hflag ha hb hbase hst hstate hrows => ?_,
    fun a b l1 l2 base st off h hfresh hflag hcut hfree ha hb hbase hst hrows => ?_,
    fun v r hi h hv hr hlanes hpoison hadmits => ?_, fun v r hi h hv => trd_completes hm h hv⟩
  · exact ⟨fun hlegal => tcfg_of_legal hm h hoff ha hv ((tileCtlLegal_iff hv).mpr hlegal),
      fun hlegal => tcfg_of_illegal hm h hoff ha (Bool.eq_false_iff.mpr fun hv' => hlegal ((tileCtlLegal_iff hv).mp hv'))⟩
  · obtain ⟨sp, hown⟩ := exists_ownSpans fun r hr => (hrows r hr).1
    obtain ⟨v, ⟨hmem, hwave, y, hgang, htile, hfull, hphase⟩, hexec⟩ := tld_lands hm h hfresh ht hflag ha hb hbase hst hstate hown
      fun r hr => (hrows r hr).2
    obtain ⟨z, hgang', hz⟩ := State.gang?_setWave hgang e.ref (e.w.wentOn e 0xB1 (e.used l2))
    have htiles : z.tiles = y.tiles := (congrArg Gang.tiles hz :)
    have hmoulds : z.moulds = y.moulds := (congrArg Gang.moulds hz :)
    exact ⟨_, z, x.putRows 0 (lineList s off (ctlRows x)), hexec, ⟨hgang', htiles ▸ htile⟩, (State.setWave_mem _ _ _).trans hmem,
      State.wave?_setWave v e.ref e.w _ ((hwave e.ref).trans h.wave), Tile.putRows_ctl x 0 _, bitmapOf_putRows x 0 _,
      fun r _ => Tile.row_putRows_lineList x s off _ r, hmoulds ▸ hfull, hmoulds ▸ hphase⟩
  · obtain ⟨sp, hown⟩ := exists_ownSpans hrows
    obtain ⟨v, hstores, hbytes, hexec⟩ := tst_stores hm h hfresh hflag hcut hfree ha hb hbase hst hown
    refine ⟨_, hexec, State.wave?_setWave v e.ref e.w _ ((hstores.wave? e.ref).trans h.wave), hstores.onlyStores e.ref _, fun q => ?_⟩
    rw [← hbytes q, State.byte, State.setWave_mem, State.byte]
  · exact ⟨x.putRows r [e.image v hi], twr_goesOn hm h hv hlanes hpoison hadmits, Tile.putRows_ctl x r _, bitmapOf_putRows x r _, fun k _ =>
      Tile.row_putRows_single (Env.length_image e v hi) x r k⟩

end Sys2Proof.Claims
end

section
/-! SUPPORT. GADD (R421): the three writes that enter an edge, when its successor list's address is read, and where the statement on
graphs parts from the machine. -/

namespace Sys2Proof.Machine

open Sys2Proof.Claims

/-! ### What a completed issue leaves of memory -/

@[simp] theorem State.write_mem (s : State) (e : Env) (ws : List RegWrite) : (s.write e ws).mem = s.mem := by
  unfold State.write
  split
  · exact State.setWave_mem _ _ _
  · rfl

@[simp] theorem State.finish_mem (s : State) (e : Env) (op : Nat) (x : Eff) : (s.finish e op x).mem = s.mem := by
  cases hw : s.wave? e.ref with
  | none => rw [State.finish, hw]
  | some w => rw [State.finish_eq op x hw, State.setWave_mem]

/-! ### The edge (R421) -/

theorem State.graphNode_of_nodeAt {s : State} {ctx va q i : Nat} {g : Graph} (h : NodeAt s ctx va q i g) :
    s.graphNode ctx va = some (q, g, i) := by
  simp only [State.graphNode, h.found, h.graph, h.running, Option.isSome_none, Bool.false_eq_true, if_false]

/-- S's count of predecessors as the runner writes it for one more. -/
def State.predWritten (s : State) (q ctx : Nat) (g : Graph) (j : Nat) : State :=
  s.runnerWrite q ctx (g.addr j) (leBytes 2 (s.nodeField g j 0 2 + 1))

/-- The writes of an edge from node `i` to node `j`, with `list` for the address of `i`'s successor list. -/
def State.edgeWritten (s : State) (q ctx : Nat) (g : Graph) (i j list : Nat) : State :=
  ((s.predWritten q ctx g j).runnerWrite q ctx (list + 4 * s.nodeField g i 4 4) (leBytes 4 j)).runnerWrite q ctx (g.addr i + 4)
    (leBytes 4 (s.nodeField g i 4 4 + 1))

/-- An edge that is entered: the address of P's successor list is read once S's count stands written. -/
theorem State.addEdge_enters {s : State} {ctx p n q i j : Nat} {g : Graph} (hp : NodeAt s ctx p q i g) (hn : NodeAt s ctx n q j g)
    (hwaiting : s.nodeStatus g j = 0) (hdone : s.nodeStatus g i ≠ 1) (hquenched : s.nodeStatus g i ≠ 2)
    (hsucc : s.nodeField g i 4 4 < 2 ^ 20) (hpred : s.nodeField g j 0 2 < 65535) :
    s.addEdge ctx p n = (s.edgeWritten q ctx g i j ((s.predWritten q ctx g j).nodeField g i 8 8), 0) := by
  have hopen : ¬(s.nodeStatus g i = stDone ∨ s.nodeStatus g i = stQuenched) := not_or.mpr ⟨hdone, hquenched⟩
  have hroom : ¬(2 ^ 20 ≤ s.nodeField g i 4 4 ∨ 65535 ≤ s.nodeField g j 0 2) := by omega
  simp only [State.addEdge, State.graphNode_of_nodeAt hp, State.graphNode_of_nodeAt hn]
  rw [if_neg (fun h => h rfl), if_neg (fun h => h hwaiting), if_neg hopen, if_neg hroom]
  rfl

/-- GADD leaves the memory that the edge leaves. -/
theorem gadd_mem {s : State} {e : Env} {dst a : Opd} {r p n : Nat} {d : Dst} {ls : List Word} (h : Issuing s e 0xCE)
    (hpass : s.insidePass e = false) (hd : e.stDst dst 1 true = .ok d) (ha : a = .lit ∨ ∃ r, a = .s r)
    (hp : ScalarIn e a 2 e.lits ls p) (hn : ScalarIn e (.s r) 2 ls ls n) :
    ∃ u, exec (.gadd dst a (.s r)) s = .next u ∧ u.mem = (s.addEdge e.ctx p n).1.mem := by
  obtain ⟨x, hx, -, hxread⟩ := hp
  obtain ⟨y, hy, -, hyread⟩ := hn
  have hpair : e.pairSrc a true e.lits = .ok (x, ls) := by
    rcases ha with rfl | ⟨k, rfl⟩ <;> exact hx
  have hpair' : e.pairSrc (.s r) false ls = .ok (y, ls) := hy
  have hstop : s.passStop e = .ok () := by
    unfold State.passStop
    split
    · exact if_neg fun hin => Bool.false_ne_true (hpass ▸ hin.1)
    · rfl
  refine ⟨_, h.go (f := _) (x := ⟨(s.addEdge e.ctx p n).1.write e (e.allWrites d 1 (s.addEdge e.ctx p n).2), e.used ls, .seq, false, true⟩) ?_,
    by rw [State.finish_mem, State.write_mem]⟩
  simp only [hd, hpair, hpair', Env.readLow_ok hxread, Env.readLow_ok hyread, hstop, bind, Except.bind]
  rfl

end Sys2Proof.Machine

namespace Sys2Proof.Claims

open Sys2Proof.Machine

/-! ### A node whose count of predecessors is a table entry -/

/-- A graph of two nodes at 0x2FE0, of which the second stands at 0x3000. -/
def overTable : Graph :=
  { packet := { kind := 2, ctx := 0, tag := 0, notify := none, ordered := false, body := [] }, ctx := 0, nodes := 0x2FE0, count := 2 }

/-- GADD ZERO, s8, s10 of an edge from the first node of `overTable` to the second, in a context whose tables map the first two GiB to
themselves: the second node's count of predecessors is the low half of the entry at 0x3000 that maps the first GiB, where both records
stand, and the first node's successor list is at 0x40000000, in the second GiB. -/
def edgeOverTable : State :=
  let s := (State.reset.placeWord 0xCEF0C8CA).resumeWave (.user 1 0 0) fun w => (w.setS 8 0 { bits := 0x2FE0 }).setS 10 0 { bits := 0x3000 }
  let words := [(0x1000, 0x2001), (0x2000, 0x3001), (0x3000, 0x33), (0x3008, 0x40000033), (0x2FE8, 0x40000000)]
  (({ s with cur := some (.user 1 0 0, 0), mem := words.foldl (fun m (x : Nat × Nat) => putBytes m x.1 (leBytes 8 x.2)) [] }).mapCtx 0
    fun c => { c with root := 0x1000 }).setQueue 2 { graph := some overTable }

/-- What the GADD finds there. -/
def edgeEnv : Env := (edgeOverTable.env? (.user 1 0 0) 0).get (by decide +kernel)

theorem edgeOverTable_issues : Issuing edgeOverTable edgeEnv 0xCE where
  hand := by decide +kernel
  env := by decide +kernel
  may := by decide +kernel

theorem edgeOverTable_source : ScalarIn edgeEnv (.s 8) 2 edgeEnv.lits edgeEnv.lits 0x2FE0
    ∧ ScalarIn edgeEnv (.s 10) 2 edgeEnv.lits edgeEnv.lits 0x3000 :=
  ⟨⟨.sca 8, rfl, rfl, by decide +kernel⟩, ⟨.sca 10, rfl, rfl, by decide +kernel⟩⟩

theorem edgeOverTable_pred : NodeAt edgeOverTable edgeEnv.ctx 0x2FE0 2 0 overTable where
  graph := by decide +kernel
  running := rfl
  found := by decide +kernel

theorem edgeOverTable_succ : NodeAt edgeOverTable edgeEnv.ctx 0x3000 2 1 overTable where
  graph := by decide +kernel
  running := rfl
  found := by decide +kernel

theorem edgeOverTable_status : edgeOverTable.nodeStatus overTable 0 = 0 ∧ edgeOverTable.nodeStatus overTable 1 = 0 := by decide +kernel

theorem edgeOverTable_room : edgeOverTable.nodeField overTable 0 4 4 < 2 ^ 20 ∧ edgeOverTable.nodeField overTable 1 0 2 < 65535 := by
  decide +kernel

/-- The list's address as the statement reads it: the edge's entry is written there. -/
theorem edgeOverTable_claimed :
    (edgeOverTable.edgeWritten 2 edgeEnv.ctx overTable 0 1 (edgeOverTable.nodeField overTable 0 8 8)).byte 0x40000000 = 1 := by
  decide +kernel

/-- The count written is 0x34, which maps nothing: the first node's record can no longer be read, and no entry is written. -/
theorem edgeOverTable_entered :
    (edgeOverTable.edgeWritten 2 edgeEnv.ctx overTable 0 1
      ((edgeOverTable.predWritten 2 edgeEnv.ctx overTable 1).nodeField overTable 0 8 8)).byte 0x40000000 = 0 := by
  decide +kernel

/-- Refutes O37: its clause on an edge that GADD enters takes the address of P's successor list from P's record as it stood before the
instruction, where the machine reads it after it has written S's count of predecessors. The statement is over every state, and they
part where that write changes the translation of P's record, S's count being an entry of the page tables. -/
theorem not_launchAndGraphResults : ¬ Obligations.LaunchAndGraphResults := by
  unfold Obligations.LaunchAndGraphResults
  rintro ⟨-, hedges⟩
  obtain ⟨hpsource, hnsource⟩ := edgeOverTable_source
  obtain ⟨hstatusP, hstatusS⟩ := edgeOverTable_status
  have hpass : edgeOverTable.insidePass edgeEnv = false := by decide +kernel
  have hd : edgeEnv.stDst .zero 1 true = .ok .none := rfl
  have hdone : edgeOverTable.nodeStatus overTable 0 ≠ 1 := by rw [hstatusP]; decide
  have hquenched : edgeOverTable.nodeStatus overTable 0 ≠ 2 := by rw [hstatusP]; decide
  obtain ⟨-, hgadd⟩ := hedges edgeOverTable edgeEnv hpass
  obtain ⟨-, hnodes⟩ := hgadd .zero (.s 8) 10 .none _ _ _ edgeOverTable_issues hd (.inr ⟨8, rfl⟩) hpsource hnsource
  obtain ⟨-, -, -, hopen⟩ := hnodes 2 2 0 1 overTable overTable edgeOverTable_pred edgeOverTable_succ
  obtain ⟨henters, -⟩ := hopen rfl hstatusS hdone hquenched
  obtain ⟨w, hclaimed, -⟩ := henters edgeOverTable_room
  obtain ⟨u, hexec, hmem⟩ := gadd_mem edgeOverTable_issues hpass hd (.inr ⟨8, rfl⟩) hpsource hnsource
  rw [State.addEdge_enters edgeOverTable_pred edgeOverTable_succ hstatusS hdone hquenched edgeOverTable_room.1 edgeOverTable_room.2] at hmem
  have hstate := Host.Outcome.next.inj (hexec.symm.trans hclaimed)
  rw [hstate, State.setWave_mem] at hmem
  have hbyte := congrArg (Table.get 0 · 0x40000000) hmem
  exact absurd (edgeOverTable_claimed.symm.trans (hbyte.trans edgeOverTable_entered)) (by decide)

end Sys2Proof.Claims
end
